-- ==== Sys2Proof/Word.lean ====
section
/-! DEFINITION. The words of the machine and their plainest arithmetic: doublewords, 32-bit words, bytes,
and the sign extension the spec calls Sext (R8, R81). -/

namespace Sys2Proof

/-- A doubleword: a general register, a token's payload unit (R11, R45). -/
abbrev Dw := BitVec 64

/-- A 32-bit word: a scalar instruction, a lane word, a parameter word (R56, R272). -/
abbrev Word := BitVec 32

/-- A byte of memory. -/
abbrev Byte := BitVec 8

/-- A register field of a scalar instruction, g0 to g31 (R272, R273). -/
abbrev Reg := BitVec 5

/-- A port field, i0 to i7 or o0 to o7 (R262). -/
abbrev Port := BitVec 3

/-- A scope field: 0 tile, 1 die, 2 package, 3 system (R149, R262). -/
abbrev Scope := BitVec 2

/-- An order field: 0 relaxed, 1 acquire, 2 release, 3 both (R156, R262). -/
abbrev Order := BitVec 2

end Sys2Proof
end

