-- ==== Sys2Proof/Syntax.lean ====
section
/-! DEFINITION. The operations and events of the part: one constructor of `Instr` for each row of
spec/opcode_table.json. A scalar instruction (rows with an encoding) carries its encoded fields, under the names
of R272 and R273; every other row is an operation or event of a unit of the package and carries the numbers that
name that unit (R5, spec file 95): `r` a placed region's key (65,536 times the slice plus the region number),
`a` an actor's index in its image, `tile` is x + 64y, `die` 0 to 7, `k` the place of a pending item in the list
of its unit. Data that comes from outside the package (a host's bytes, a written register value, a measured
verdict) is an operand of its event. -/

namespace Sys2Proof

/-- The state of a trusted device interface (R247). -/
inductive TdiState where
  | unlocked | locked | run | error
  deriving DecidableEq, Repr

/-- The writable registers that have no behaviour of their own, by the tables of R44, R172, R212, R248, R249 and R253.
A write to one of them stores its value (R9); the numbers name slice, queue, die, head, session, link or window. -/
inductive MgmtReg where
  /-- QBASE of a launch queue (R172). -/
  | qbase (slice q : Nat)
  /-- QCPL of a launch queue (R172). -/
  | qcpl (slice q : Nat)
  /-- SVBASE (R253). -/
  | svbase (slice : Nat)
  /-- SVSTRIDE (R253). -/
  | svstride (slice : Nat)
  /-- FQBASE (R253). -/
  | fqbase (slice : Nat)
  /-- FQCFG; the lost-record count is read only (R253). -/
  | fqcfg (slice : Nat)
  /-- FQHEAD (R253). -/
  | fqhead (slice : Nat)
  /-- FWIN; values outside 1 to 10,000 are ignored (R253). -/
  | fwin (slice : Nat)
  /-- ASIDTB of the package page (R248). -/
  | asidtb
  /-- SLCFG of a sister link (R249). -/
  | slcfg (link : Nat)
  /-- TRSEL of a die (R44). -/
  | trsel (die : Nat)
  /-- TRVEC of the selected tile (R44). -/
  | trvec (die : Nat)
  /-- TRBYP of the selected tile (R44). -/
  | trbyp (die : Nat)
  /-- TRADDR of a die (R44). -/
  | traddr (die : Nat)
  /-- HWSEL of a die (R253). -/
  | hwsel (die : Nat)
  /-- HWCFG of the selected window (R253). -/
  | hwcfg (die : Nat)
  /-- DGEOM of a display head (R212). -/
  | dgeom (die head : Nat)
  /-- DT0 of a display head (R212). -/
  | dt0 (die head : Nat)
  /-- DPER of a display head (R212). -/
  | dper (die head : Nat)
  /-- DWB of a display head (R212). -/
  | dwb (die head : Nat)
  /-- ESRATE of an encoder session (R253). -/
  | esrate (die session : Nat)
  /-- ERING of an encoder session (R253). -/
  | ering (die session : Nat)
  /-- ERSIZE of an encoder session (R253). -/
  | ersize (die session : Nat)
  deriving DecidableEq, Repr

/-- One constructor per row of spec/opcode_table.json, in the table's order. -/
inductive Instr where
  /-- ADD (R312): Writes the sum of ga and gb to gd, 64-bit or 32-bit form. -/
  | add (d a b : Reg) (w : Bool)
  /-- SUB (R312): Writes ga minus gb to gd. -/
  | sub (d a b : Reg) (w : Bool)
  /-- AND (R312): Writes the bitwise AND of ga and gb to gd. -/
  | and (d a b : Reg) (w : Bool)
  /-- OR (R312): Writes the bitwise OR of ga and gb to gd. -/
  | or (d a b : Reg) (w : Bool)
  /-- XOR (R312): Writes the bitwise XOR of ga and gb to gd. -/
  | xor (d a b : Reg) (w : Bool)
  /-- ANDN (R312): Writes ga AND NOT gb to gd. -/
  | andn (d a b : Reg) (w : Bool)
  /-- SHL (R312): Shifts ga left by gb modulo the width and writes gd. -/
  | shl (d a b : Reg) (w : Bool)
  /-- SHR (R312): Shifts ga right with zero fill by gb modulo the width. -/
  | shr (d a b : Reg) (w : Bool)
  /-- SAR (R312): Shifts ga right with sign fill by gb modulo the width. -/
  | sar (d a b : Reg) (w : Bool)
  /-- ROTR (R312): Rotates ga right by gb modulo the width. -/
  | rotr (d a b : Reg) (w : Bool)
  /-- MIN (R312): Writes the signed minimum of ga and gb. -/
  | min (d a b : Reg) (w : Bool)
  /-- MAX (R312): Writes the signed maximum of ga and gb. -/
  | max (d a b : Reg) (w : Bool)
  /-- MINU (R312): Writes the unsigned minimum of ga and gb. -/
  | minu (d a b : Reg) (w : Bool)
  /-- MAXU (R312): Writes the unsigned maximum of ga and gb. -/
  | maxu (d a b : Reg) (w : Bool)
  /-- SLT (R312): Writes 1 if ga is less than gb signed, else 0. -/
  | slt (d a b : Reg) (w : Bool)
  /-- SLTU (R312): Writes 1 if ga is less than gb unsigned, else 0. -/
  | sltu (d a b : Reg) (w : Bool)
  /-- SEQ (R312): Writes 1 if ga equals gb, else 0. -/
  | seq (d a b : Reg) (w : Bool)
  /-- CLZ (R312): Writes the count of leading zero bits of ga. -/
  | clz (d a : Reg) (w : Bool)
  /-- CTZ (R312): Writes the count of trailing zero bits of ga. -/
  | ctz (d a : Reg) (w : Bool)
  /-- POPC (R312): Writes the number of set bits of ga. -/
  | popc (d a : Reg) (w : Bool)
  /-- MUL (R391): Writes the low bits of the product of ga and gb. -/
  | mul (d a b : Reg) (w : Bool)
  /-- MULH (R391): Writes the high half of the signed product. -/
  | mulh (d a b : Reg) (w : Bool)
  /-- MULHU (R391): Writes the high half of the unsigned product. -/
  | mulhu (d a b : Reg) (w : Bool)
  /-- DIV (R345): Writes the signed quotient rounded toward zero, all ones on a zero divisor. -/
  | div (d a b : Reg) (w : Bool)
  /-- DIVU (R345): Writes the unsigned quotient, all ones on a zero divisor. -/
  | divu (d a b : Reg) (w : Bool)
  /-- REM (R345): Writes the signed remainder, the dividend on a zero divisor. -/
  | rem (d a b : Reg) (w : Bool)
  /-- REMU (R345): Writes the unsigned remainder, the dividend on a zero divisor. -/
  | remu (d a b : Reg) (w : Bool)
  /-- FADD (R353): Adds two floats of the given format and mode under FCTL, setting FFLAGS. -/
  | fadd (d a b : Reg) (f : BitVec 3) (m : BitVec 2)
  /-- FSUB (R353): Subtracts two floats under FCTL, setting FFLAGS. -/
  | fsub (d a b : Reg) (f : BitVec 3) (m : BitVec 2)
  /-- FMUL (R353): Multiplies two floats under FCTL, setting FFLAGS. -/
  | fmul (d a b : Reg) (f : BitVec 3) (m : BitVec 2)
  /-- FMIN (R354): Writes the lesser float operand after input flushing. -/
  | fmin (d a b : Reg) (f : BitVec 3)
  /-- FMAX (R354): Writes the greater float operand after input flushing. -/
  | fmax (d a b : Reg) (f : BitVec 3)
  /-- FCMP_EQ (R354): Writes 1 when the two floats are equal. -/
  | fcmpEq (d a b : Reg) (f : BitVec 3)
  /-- FCMP_LT (R354): Writes 1 when ga is less than gb as floats. -/
  | fcmpLt (d a b : Reg) (f : BitVec 3)
  /-- FCMP_LE (R354): Writes 1 when ga is less than or equal to gb as floats. -/
  | fcmpLe (d a b : Reg) (f : BitVec 3)
  /-- FCMP_UO (R354): Writes 1 when either float operand is a NaN. -/
  | fcmpUo (d a b : Reg) (f : BitVec 3)
  /-- FCVT (R355): Converts ga from the source format to the destination format in b. -/
  | fcvt (d a b : Reg) (f : BitVec 3) (m : BitVec 2)
  /-- FRCP (R356): Writes the correctly rounded reciprocal of ga. -/
  | frcp (d a : Reg) (f : BitVec 3) (m : BitVec 2)
  /-- FRSQ (R356): Writes the correctly rounded reciprocal square root of ga. -/
  | frsq (d a : Reg) (f : BitVec 3) (m : BitVec 2)
  /-- FEXP2 (R356): Writes 2 raised to ga. -/
  | fexp2 (d a : Reg) (f : BitVec 3) (m : BitVec 2)
  /-- FLOG2 (R356): Writes the base-2 logarithm of ga. -/
  | flog2 (d a : Reg) (f : BitVec 3) (m : BitVec 2)
  /-- FSGN_CP (R357): Writes ga's magnitude with gb's sign. -/
  | fsgnCp (d a b : Reg) (f : BitVec 3)
  /-- FSGN_NEG (R357): Writes ga's magnitude with the inverse of gb's sign. -/
  | fsgnNeg (d a b : Reg) (f : BitVec 3)
  /-- FSGN_XOR (R357): Writes ga's magnitude with the XOR of both signs. -/
  | fsgnXor (d a b : Reg) (f : BitVec 3)
  /-- FMA (R358): Writes ga times gb plus gc with one rounding. -/
  | fma (d a b c : Reg) (f m : BitVec 2)
  /-- SEL (R405): Writes ga if gc is non-zero, else gb. -/
  | sel (d a b c : Reg)
  /-- INS (R350): Replaces a bit field of ga with the low bits of gb. -/
  | ins (d a b c : Reg)
  /-- EXTS (R350): Extracts a bit field of ga sign-extended. -/
  | exts (d a c : Reg)
  /-- EXTU (R350): Extracts a bit field of ga zero-extended. -/
  | extu (d a c : Reg)
  /-- ADDI (R314): Adds a sign-extended immediate to ga. -/
  | addi (d a : Reg) (i : BitVec 16)
  /-- ANDI (R314): ANDs ga with a zero-extended immediate. -/
  | andi (d a : Reg) (i : BitVec 16)
  /-- ORI (R314): ORs ga with a zero-extended immediate. -/
  | ori (d a : Reg) (i : BitVec 16)
  /-- XORI (R314): XORs ga with a zero-extended immediate. -/
  | xori (d a : Reg) (i : BitVec 16)
  /-- SLTI (R314): Writes 1 if ga is less than the signed immediate. -/
  | slti (d a : Reg) (i : BitVec 16)
  /-- SHLI (R400): Shifts ga left by an immediate amount. -/
  | shli (d a : Reg) (w : Bool) (s : BitVec 6)
  /-- SHRI (R400): Shifts ga right with zero fill by an immediate amount. -/
  | shri (d a : Reg) (w : Bool) (s : BitVec 6)
  /-- SARI (R400): Shifts ga right with sign fill by an immediate amount. -/
  | sari (d a : Reg) (w : Bool) (s : BitVec 6)
  /-- ROTRI (R400): Rotates ga right by an immediate amount. -/
  | rotri (d a : Reg) (w : Bool) (s : BitVec 6)
  /-- LDHI (R372): Writes the sign-extended immediate shifted left by 16. -/
  | ldhi (d : Reg) (i : BitVec 16)
  /-- ADDPC (R315): Writes pc plus four times the signed immediate. -/
  | addpc (d : Reg) (i : BitVec 16)
  /-- BR (R322): Branches by a word offset when the condition on ga and gb holds. -/
  | br (c : BitVec 3) (a b : Reg) (o : BitVec 13)
  /-- LOOP (R376): Decrements ga and branches while it is non-zero. -/
  | loop (a : Reg) (o : BitVec 13)
  /-- JMP (R326): Jumps by a 26-bit word offset. -/
  | jmp (o : BitVec 26)
  /-- CALL (R326): Writes the return address to g31 and jumps by a word offset. -/
  | call (o : BitVec 26)
  /-- RET (R327): Jumps to the address in ga. -/
  | ret (a : Reg)
  /-- JTAB (R366): Jumps through a scratchpad jump table indexed by gb. -/
  | jtab (a b : Reg)
  /-- CALLR (R327): Writes the return address to gd and jumps to ga. -/
  | callr (d a : Reg)
  /-- END (R348): Retires the firing, consuming remaining trigger tokens and releasing reservations. -/
  | endTask
  /-- ENDR (R348): Retires the firing leaving remaining trigger tokens at their heads. -/
  | endrTask
  /-- LDL (R373): Loads 1 to 8 bytes from the local window of scratchpad. -/
  | ldl (g b : Reg) (z : BitVec 2) (x : Bool) (o : BitVec 13)
  /-- STL (R373): Stores 1 to 8 bytes into the local window of scratchpad. -/
  | stl (g b : Reg) (z : BitVec 2) (o : BitVec 13)
  /-- LDG (R371): Sends a global read request whose data returns on a response port. -/
  | ldg (b : Reg) (p : Port) (f : BitVec 5) (s : BitVec 2) (o : Bool)
  /-- STG (R408): Posts a global write using one unit of store quota. -/
  | stg (g b : Reg) (f : BitVec 5) (s o : BitVec 2)
  /-- ATOM (R318): Sends a bank operation to the home bank and receives the old value. -/
  | atom (g b : Reg) (p : Port) (f : BitVec 5) (s o : BitVec 2)
  /-- CAS (R328): Sends a compare-and-swap to the home bank and receives the old value. -/
  | cas (g b : Reg) (p : Port) (s o : BitVec 2)
  /-- FUT_GET (R360): Sends a future get to the home bank. -/
  | futGet (b : Reg) (p : Port) (s o : BitVec 2)
  /-- FUT_PUT (R360): Sends a future put of gv to the home bank. -/
  | futPut (g b : Reg) (p : Port) (s o : BitVec 2)
  /-- FUT_CLEAR (R360): Sends a future clear to the home bank. -/
  | futClear (b : Reg) (p : Port) (s o : BitVec 2)
  /-- PRF (R334): Prefetches a line into its home L2 and the read cache, with no response. -/
  | prf (b : Reg) (s : BitVec 2) (o : Bool)
  /-- CWB (R334): Writes back a dirty line and responds at system scope. -/
  | cwb (b : Reg) (p : Port) (s : BitVec 2)
  /-- CINV (R334): Removes a line from the issuing tile's read cache. -/
  | cinv (b : Reg)
  /-- ORD (R155): Places an acquire, release or both fence at a scope on the actor's accesses. -/
  | ord (s o : BitVec 2)
  /-- RECV (R395): Reads and dequeues the head token of an input, or reads the call token. -/
  | recv (g : Reg) (p : Port) (n : BitVec 3) (c s : Bool) (f : BitVec 3)
  /-- PEEK (R395): Reads the head token of an input, or the call token, without dequeuing. -/
  | peek (g : Reg) (p : Port) (n : BitVec 3) (c s : Bool) (f : BitVec 3)
  /-- SEND (R406): Sends a data or control token on an output using one reservation. -/
  | send (g : Reg) (p : Port) (n : BitVec 3) (c : Bool)
  /-- SENDN (R406): Sends a null token on an output. -/
  | sendn (p : Port)
  /-- SENDE (R406): Sends an EOS carrying the stream count and resets the count. -/
  | sende (p : Port) (e : Bool)
  /-- SENDERR (R406): Sends an error token built from two registers. -/
  | senderr (g : Reg) (p : Port)
  /-- FWD (R361): Moves the head token of an input to an output unread. -/
  | fwd (i p : Port)
  /-- RSV (R402): Reserves further output slots for the firing or reports refusal. -/
  | rsv (g : Reg) (p : Port) (n : BitVec 3)
  /-- CHQ (R333): Writes a snapshot of an input, an output or the credits and quota. -/
  | chq (g : Reg) (p : Port) (f : BitVec 2)
  /-- HDR (R364): Sends a burst-header token whose payload is gs. -/
  | hdr (g : Reg) (p : Port)
  /-- WEMIT (R411): Appends a record to a child node's queue using a reserved emission slot. -/
  | wemit (g : Reg) (e n : BitVec 3)
  /-- WRSV (R411): Reserves further emission slots in a child's queue or reports refusal. -/
  | wrsv (g : Reg) (e : BitVec 3) (n : BitVec 8)
  /-- ISSUE (R365): Sends a patched stream command from the local command pool on an output. -/
  | issue (o : BitVec 3) (e : BitVec 11) (m : BitVec 4) (p : BitVec 5)
  /-- BARSET (R321): Arms a barrier slot with a byte count and wake target. -/
  | barset (a b : Reg) (s : BitVec 6)
  /-- BARADD (R321): Adds a byte count to a barrier slot, re-arming an idle one. -/
  | baradd (a : Reg) (s : BitVec 6)
  /-- ABLOAD (R307): Starts loading a reckoning image into an abacus actor's shadow plane. -/
  | abload (a b : Reg) (p : Port)
  /-- ABSWAP (R307): Requests an exchange of an abacus actor's planes at the next burst boundary. -/
  | abswap (b : Reg) (p : Port)
  /-- ABDROP (R307): Empties an abacus actor's shadow plane. -/
  | abdrop (b : Reg) (p : Port)
  /-- ABQRY (R307): Reports an abacus actor's plane states and sticky counts, optionally clearing flags. -/
  | abqry (a b : Reg) (p : Port)
  /-- CFGLOAD (R329): Loads and places a graph image on a region and responds with status. -/
  | cfgload (a b : Reg) (p : Port)
  /-- CFGLOAD_RESTORE (R234): Restores a region from a save area in state 2 at an origin. -/
  | cfgloadRestore (a b : Reg) (p : Port)
  /-- PLACE (R396): Queries, pins, unpins or evicts a placed graph. -/
  | place (a b : Reg) (p : Port)
  /-- MARK (R386): Begins a solstice cut of a region and responds with status. -/
  | mark (a : Reg) (p : Port)
  /-- PWREQ (R398): Requests credits from the region power bucket into the firing's grant. -/
  | pwreq (d a : Reg)
  /-- PWREL (R398): Returns the firing's unused power grant to the bucket. -/
  | pwrel
  /-- PRIO (R397): Sets the class of the actor's future firings, capped by the launch. -/
  | prio (c : BitVec 2)
  /-- CSRR (R344): Reads a control and status register into gd. -/
  | csrr (g : Reg) (c : BitVec 12)
  /-- CSRW (R344): Writes ga to a control and status register. -/
  | csrw (a : Reg) (c : BitVec 12)
  /-- CSRX (R344): Exchanges ga with a control and status register indivisibly. -/
  | csrx (g a : Reg) (c : BitVec 12)
  /-- KRD (R344): Reads a persistent k register of the running actor. -/
  | krd (g : Reg) (k : BitVec 4)
  /-- KWR (R344): Writes a persistent k register of the running actor. -/
  | kwr (a : Reg) (k : BitVec 4)
  /-- TIME (R169): Writes EQT and EQE from one instant to gd and gd+1. -/
  | time (g : Reg)
  /-- TRAP (R325): Takes trap 0x09 with its 12-bit code. -/
  | trap (c : BitVec 12)
  /-- ERET (R349): Returns from a trap handler to the saved mode, class and pc. -/
  | eret
  /-- BRK (R325): Takes breakpoint trap 0x08. -/
  | brk
  /-- HALT (R363): Ends the launch cleanly in graph mode, or fatally in a handler. -/
  | halt
  /-- MXSAVE (R222): Saves the interrupted actor's matrix state to its save area and sets TSTAT[4]. -/
  | mxsave
  /-- MXREST (R222): Reloads saved matrix state, resumes batches and clears TSTAT[4]. -/
  | mxrest
  /-- NOP (R393): Changes no state. -/
  | nop
  /-- CPY (R338): A copy engine copies a tensor with optional transposition, conversion and follow-on. -/
  | cpy (die eng : Nat)
  /-- GATH (R362): A copy engine gathers indexed rows of a table into a destination. -/
  | gath (die eng : Nat)
  /-- SCAT (R404): A copy engine scatters source rows into indexed rows of a table. -/
  | scat (die eng : Nat)
  /-- BRED (R323): The bank engine applies a bank operation element by element to targets. -/
  | bred (die : Nat)
  /-- MMA (R388): A matrix actor accumulates a product of two streamed operands into an accumulator. -/
  | mma (r a : Nat)
  /-- MMAC (R390): A matrix actor multiplies a down-converted accumulator by a streamed operand. -/
  | mmac (r a : Nat)
  /-- ACCRD (R310): A matrix actor reads an accumulator out as scaled bursts. -/
  | accrd (r a : Nat)
  /-- LSTR (R384): A lane segment runs memory operands through itself and writes the results. -/
  | lstr (r a : Nat)
  /-- ABRUN (R309): An abacus actor runs a block of vectors from memory through its reckoning. -/
  | abrun (r a : Nat)
  /-- RSEND (R401): The link engine sends local bytes to a sister package's device memory. -/
  | rsend (die : Nat)
  /-- FOLLOW_ON_DELIVERY (R341): A held follow-on command enters a matrix actor's follow-on queue when an entry frees. -/
  | followOnDelivery (k : Nat)
  /-- RSEND_REMOTE_DELIVERY (R401): Bytes of an RSEND are performed at the peer's home bank and counted at the barrier. -/
  | rsendRemoteDelivery (k : Nat)
  /-- COMPLETION_TOKEN (R140): After a command's last byte is performed, the engine sends a handler call to its completion target. -/
  | completionToken (k : Nat)
  /-- BARRIER_SUBTRACT (R159): A performed byte of a command is subtracted from its barrier slot. -/
  | barrierSubtract (k : Nat)
  /-- LADD (R368): A lane adds A and B per element. -/
  | ladd (tile lane : Nat)
  /-- LSUB (R368): A lane subtracts B from A per element. -/
  | lsub (tile lane : Nat)
  /-- LMUL (R368): A lane multiplies A and B per element. -/
  | lmul (tile lane : Nat)
  /-- LFMA (R368): A lane computes A times B plus C with one rounding. -/
  | lfma (tile lane : Nat)
  /-- LMIN (R368): A lane takes the lesser of A and B. -/
  | lmin (tile lane : Nat)
  /-- LMAX (R368): A lane takes the greater of A and B. -/
  | lmax (tile lane : Nat)
  /-- LCVT (R370): A lane converts elements to the parameter's format with an adjustment. -/
  | lcvt (tile lane : Nat)
  /-- LEXP2 (R375): A lane computes 2 raised to A. -/
  | lexp2 (tile lane : Nat)
  /-- LRCP (R375): A lane computes the reciprocal of A. -/
  | lrcp (tile lane : Nat)
  /-- LRSQ (R375): A lane computes the reciprocal square root of A. -/
  | lrsq (tile lane : Nat)
  /-- LLOG (R375): A lane computes the base-2 logarithm of A. -/
  | llog (tile lane : Nat)
  /-- LSEL (R382): A lane selects A or B per element by C. -/
  | lsel (tile lane : Nat)
  /-- LSEL_SWITCH (R382): A lane switch sends each token's data to one output and a null to the other. -/
  | lselSwitch (tile lane : Nat)
  /-- LCMP (R369): A lane compares A with B under the parameter's relation. -/
  | lcmp (tile lane : Nat)
  /-- LSHF (R383): A lane shifts or scales A by B. -/
  | lshf (tile lane : Nat)
  /-- LPASS (R377): A lane passes A through under its policy. -/
  | lpass (tile lane : Nat)
  /-- LDLY (R374): A lane emits the group that entered D groups earlier from its delay buffer. -/
  | ldly (tile lane : Nat)
  /-- LROW (R380): A lane accumulates running maximum and sum statistics per row. -/
  | lrow (tile lane : Nat)
  /-- LSCALE (R381): A lane multiplies A by B and the latched burst scale. -/
  | lscale (tile lane : Nat)
  /-- LACC (R367): A lane accumulates groups and emits every n groups. -/
  | lacc (tile lane : Nat)
  /-- LRED (R379): A lane reduces elements across n groups and emits the result. -/
  | lred (tile lane : Nat)
  /-- LPERM (R378): A lane reverses, rotates or broadcasts elements of a group. -/
  | lperm (tile lane : Nat)
  /-- EDGE (R347): A rasteriser lane computes the sample coverage mask of a window token. -/
  | edge (tile lane : Nat)
  /-- COVER (R336): A lane interpolates depth for covered samples and emits sample or fragment tokens. -/
  | cover (tile lane : Nat)
  /-- RESOLVER_TILE_BEGIN (R201): The resolver fills its store with the empty word on a tile-begin. -/
  | resolverTileBegin (tile lane : Nat)
  /-- RESOLVER_SAMPLE (R201): The resolver applies the DMIN rule to a sample's word, or reports code 0x45. -/
  | resolverSample (tile lane : Nat)
  /-- RESOLVER_TILE_DONE (R201): After earlier samples are applied, the resolver emits the tile-done token. -/
  | resolverTileDone (tile lane : Nat)
  /-- APLANE (R317): A lane evaluates an attribute plane and its screen derivatives. -/
  | aplane (tile lane : Nat)
  /-- RBOX (R399): A lane tests a ray against the two child boxes of a node. -/
  | rbox (tile lane : Nat)
  /-- RTRI (R403): A lane tests a ray against a triangle by the watertight rule. -/
  | rtri (tile lane : Nat)
  /-- ROUTER_HOP (R64): A flit passes one router hop toward its destination on its channel's VC. -/
  | routerHop (r ch k : Nat)
  /-- FILTER_BURST_EMIT (R85): A width-changing or transposing hop emits a held burst once its last data token arrives. -/
  | filterBurstEmit (r ch : Nat)
  /-- TOKEN_RECEIVE (R14): A token arrives at an input port and its sequence number is checked. -/
  | tokenReceive (r ch : Nat)
  /-- HELD_ERROR_SEND (R52): A held error token is sent once its error channel or fault feed has a slot. -/
  | heldErrorSend (r a : Nat)
  /-- ENGINE_ELEMENT_STEP (R24): An engine actor takes one token from each named input when every output has a slot. -/
  | engineElementStep (r a : Nat)
  /-- ENGINE_CONFIG_APPLY (R27): An engine applies an engine-configuration token at its position in the stream. -/
  | engineConfigApply (r a : Nat)
  /-- NULL_PROPAGATE (R29): An actor consumes a position with a null and emits nulls on its outputs. -/
  | nullPropagate (r a : Nat)
  /-- EOS_JOIN (R32): An actor with EOS on every named input emits one EOS on each output. -/
  | eosJoin (r a : Nat)
  /-- SHAPE_ERROR (R32): An element-wise node meeting EOS on one input and data on another emits code 0x03 and an erroneous EOS. -/
  | shapeError (r a : Nat)
  /-- ORDERED_MERGE_POSITION (R30): An ordered merge takes one token per input and emits the data or a null. -/
  | orderedMergePosition (r a : Nat)
  /-- ARRIVAL_MERGE_TOKEN (R31): An arrival merge passes an arriving token and discards nulls. -/
  | arrivalMergeToken (r a port : Nat)
  /-- COUNTER_INDEX_EMIT (R34): A counter chain emits its next index token after the interval and a free slot. -/
  | counterIndexEmit (r a : Nat)
  /-- COUNTER_EOS_EMIT (R34): A counter chain emits its EOS after the last index and reports done. -/
  | counterEosEmit (r a : Nat)
  /-- CONTROLLER_ENABLE_RECEIVE (R35): A controller or actor takes an enable token from the control network. -/
  | controllerEnableReceive (r k : Nat)
  /-- CONTROLLER_DONE_RECEIVE (R36): A controller takes a child's done token and enables the next work. -/
  | controllerDoneReceive (r k : Nat)
  /-- LAUNCH_TOKEN_ARRIVAL (R38): A launch token reaches the ingress port and starts a launch. -/
  | launchTokenArrival (r : Nat)
  /-- LAUNCH_END (R38): When the root is done and every sink has its EOS the region emits launch-done. -/
  | launchEnd (r : Nat)
  /-- FIRING_SELECT (R185): The tile selector picks one candidate firing when a shadow slot is free. -/
  | firingSelect (tile : Nat)
  /-- RESIDENCY_PROBE (R184): The prefetcher's L2 tag probe sets a candidate's residency bit. -/
  | residencyProbe (r a : Nat) (present : Bool)
  /-- TASK_START (R187): When the trigger copy ends and the core is free, the task's first instruction issues. -/
  | taskStart (tile : Nat)
  /-- HANDLER_CALL_ARRIVAL (R426): A handler call, completion or wake token joins the receiving actor's call queue. -/
  | handlerCallArrival (r k : Nat)
  /-- TASK_LENGTH_EXCEEDED (R22): A task reaching its 4,097th instruction takes trap 0x06. -/
  | taskLengthExceeded
  /-- HANDLER_LIMIT_EXCEEDED (R218): The 65,537th handler instruction is not issued and the launch ends with record 0x59. -/
  | handlerLimitExceeded
  /-- PAGE_WALK (R127): A walker translates a paged access through the four-level table. -/
  | pageWalk (tile k : Nat)
  /-- SPILL_RETRY (R133): Each retry interval the port retries a spilled entry. -/
  | spillRetry (tile k : Nat)
  /-- FAULT_WINDOW_EXPIRY (R133): A spilled entry unresolved within the fault window is replaced by code 0x15. -/
  | faultWindowExpiry (tile k : Nat)
  /-- REQUEST_RESPONSE (R120): A response or its error token becomes visible at its response port in issue order. -/
  | requestResponse (tile k : Nat) (deliver : Bool)
  /-- STORE_ACCEPT (R119): A store accepted at the memory port returns its unit of quota. -/
  | storeAccept (tile k : Nat)
  /-- BANK_OPERATION_PERFORM (R137): A bank ALU performs an operation indivisibly at the line's home. -/
  | bankOperationPerform (tile k : Nat)
  /-- FUTURE_GET_PERFORM (R138): A get at the home bank answers, defers or refuses. -/
  | futureGetPerform (tile k : Nat)
  /-- FUTURE_PUT_PERFORM (R138): A put at the home bank fills an empty future and answers deferred gets. -/
  | futurePutPerform (tile k : Nat)
  /-- FUTURE_CLEAR_PERFORM (R138): A clear at the home bank empties a full future. -/
  | futureClearPerform (tile k : Nat)
  /-- WRITE_PERFORM (R121): A write becomes performed at a scope, at the latest within the bound of R151. -/
  | writePerform (tile k : Nat)
  /-- INVALIDATION_ACK (R142): A tile acknowledges an invalidation, completing the write's package performance. -/
  | invalidationAck (line tile : Nat)
  /-- EVICTION_NOTICE (R142): A tile's eviction notice reaches the home and may stand as an acknowledgement. -/
  | evictionNotice (line tile : Nat)
  /-- HOST_READ (R166): The host reads device memory through the I/O die at the line's home. -/
  | hostRead (fn pa n : Nat)
  /-- HOST_WRITE (R132): The host writes device memory, admitted by function and slice. -/
  | hostWrite (fn pa : Nat) (data : List Byte)
  /-- PEER_ACCESS (R249): An access from a sister package is checked against the link window. -/
  | peerAccess (link pa n : Nat) (write : Bool) (data : List Byte)
  /-- UNCORRECTABLE_LINE_ERROR (R146): An uncorrectable L2 or device memory error poisons the line. -/
  | uncorrectableLineError (pa : Nat)
  /-- SCRATCHPAD_UNCORRECTABLE (R145): An uncorrectable tile SRAM error ends the tile's launches with record 0x55. -/
  | scratchpadUncorrectable (tile detail : Nat)
  /-- METADATA_ERROR (R147): A failed metadata fetch loses a partial write and poisons the line. -/
  | metadataError (tile k : Nat)
  /-- CORRECTED_ERROR (R238): A corrected error is stamped and may mark its unit lasting. -/
  | correctedError (die kind unit page : Nat)
  /-- DIE_RESET (R237): A die reset stops every launch with an actor on the die with record 0x56. What the die holds dirty is in
  State, so lines that the event names besides change nothing. -/
  | dieReset (die : Nat) (dirty : List Nat)
  /-- QDB_WRITE (R172): A doorbell write replaces a launch queue's tail. -/
  | qdbWrite (slice q : Nat) (v : Word)
  /-- QCFG_WRITE (R172): Setting enable checks the queue configuration and empties the queue. -/
  | qcfgWrite (slice q : Nat) (v : Dw)
  /-- FRONT_END_SELECT (R176): The front end takes the best head launch record and starts it. -/
  | frontEndSelect (slice : Nat)
  /-- LAUNCH_PORT_REQUEST (R407): A five-doubleword request at the launch port becomes a fabric launch or code 0x27. -/
  | launchPortRequest (r ch : Nat)
  /-- PLACEMENT_SEARCH (R178): The placement controller seeks a fitting rectangle, evicting or waiting. -/
  | placementSearch (slice k : Nat)
  /-- QUANTUM_PREEMPT (R179): A launch past its quantum is cut by MARK for a waiting higher launch. -/
  | quantumPreempt (slice : Nat)
  /-- ELASTIC_SAMPLE (R181): Every microsecond the controller samples each replica's input occupancy. -/
  | elasticSample (r stage : Nat)
  /-- ELASTIC_WINDOW_END (R181): At a window's end the controller grows or shrinks the stage. -/
  | elasticWindowEnd (r stage : Nat)
  /-- REPLICA_RETIRE (R182): A retiring replica is removed once its channels are empty. -/
  | replicaRetire (r stage : Nat)
  /-- ORDERED_MEMBERSHIP_CHANGE (R182): Distributor and collector change membership once position p has been collected. -/
  | orderedMembershipChange (r stage : Nat)
  /-- DISTRIBUTOR_ROUTE (R182): The distributor routes a stage-input token to a replica or the collector. -/
  | distributorRoute (r stage : Nat)
  /-- DISTRIBUTOR_EOS_RELEASE (R182): A waiting EOS leaves the collector once the stage holds no token. -/
  | distributorEosRelease (r stage : Nat)
  /-- RAY_ADMISSION (R208): The distributor admits a new ray while fewer than A rays are inside. -/
  | rayAdmission (r stage : Nat)
  /-- WORK_RECORD_DELIVERY (R192): The work-graph unit delivers a queued record to a node, deepest first. -/
  | workRecordDelivery (r : Nat)
  /-- POWER_REFILL (R193): Every microsecond each bucket gains r credits up to its depth. -/
  | powerRefill (r : Nat)
  /-- INGRESS_CREDIT_WAIT (R193): A token waiting at an ingress for credit enters once the bucket suffices. -/
  | ingressCreditWait (r : Nat)
  /-- HEAVY_COMMAND_HOLD (R194): A heavy matrix or abacus command starts once its uncovered charge is available. -/
  | heavyCommandHold (r a : Nat)
  /-- MATRIX_GROUP_ADD (R88): A matrix actor adds one group's exact sum to all 4,096 accumulator outputs. -/
  | matrixGroupAdd (r a : Nat)
  /-- MEMORY_ACTOR_LOAD (R427): A load memory actor emits an element for its sequence, index or pass. -/
  | memoryActorLoad (r a : Nat)
  /-- MEMORY_ACTOR_STORE (R427): A store memory actor stores a data token at its next or indexed address. -/
  | memoryActorStore (r a : Nat)
  /-- MEMORY_ACTOR_EOS_FORWARD (R32): A memory actor forwards its EOS once every store and spill of the stream is settled. -/
  | memoryActorEosForward (r a : Nat)
  /-- ABACUS_INPUT_BURST (R97): An abacus actor takes an input burst, null, EOS or refuses a wrong shape. -/
  | abacusInputBurst (r a : Nat)
  /-- ABACUS_VECTOR_OUTPUT (R98): After the pipeline latency an abacus actor sends one output burst per vector. -/
  | abacusVectorOutput (r a : Nat)
  /-- ABACUS_LOAD_COMPLETE (R111): An abacus load completes or is refused and the response is sent. -/
  | abacusLoadComplete (r a : Nat)
  /-- ABACUS_SWAP_EFFECT (R112): A pending swap takes effect at the next burst boundary of i0. -/
  | abacusSwapEffect (r a : Nat)
  /-- ABACUS_CONFIG_TOKEN (R113): An engine-configuration token on i0 loads and swaps in a new reckoning. -/
  | abacusConfigToken (r a : Nat)
  /-- BLENDER_TOKEN (R204): A blender buffers, applies or rejects a fragment or primitive end by tag. -/
  | blenderToken (r a : Nat)
  /-- DISPLAY_FRAME_START (R213): When EQT reaches the frame start the head scans the latest present surface. -/
  | displayFrameStart (die head : Nat)
  /-- PRESENT_TOKEN (R213): A present token arrives at a display head's input port. -/
  | presentToken (r ch : Nat)
  /-- DCTL_WRITE (R212): Enabling a head checks format and reserved bits. -/
  | dctlWrite (die head : Nat) (v : Dw)
  /-- ESCTL_WRITE (R214): Enabling an encoder session checks load and settings. -/
  | esctlWrite (die session : Nat) (v : Dw)
  /-- ENCODER_FRAME_DONE (R214): An encoder session finishes a frame and sends its frame token. -/
  | encoderFrameDone (die session : Nat) (frame : List Byte)
  /-- CUTREQ_WRITE (R253): A CUTREQ write begins a cut of the named region. -/
  | cutreqWrite (slice : Nat) (v : Word)
  /-- SOLSTICE_ARRIVAL (R229): A solstice at an input moves an actor to FINISH or closes that input. -/
  | solsticeArrival (r a port : Nat)
  /-- ACTOR_SAVE (R229): With nothing in progress an actor writes its save entry and forwards solstices. -/
  | actorSave (r a : Nat)
  /-- RECORD_TOKEN (R229): In RECORD an arriving token or response is written to the actor's entry. -/
  | recordToken (r a port : Nat)
  /-- SNAPSHOT_COMPLETE (R230): When all actors are cut and commands and stores settled the header gets state 2. -/
  | snapshotComplete (r : Nat)
  /-- CHECKPOINT_COPY (R235): The management processor copies device memory to the safe tier on 96 engines. -/
  | checkpointCopy (base : Nat)
  /-- CHECKPOINT_COPY_DONE (R235): The last package-mode copy completion ends the checkpoint copy. -/
  | checkpointCopyDone
  /-- CHECKPOINT_RESTORE_COPY (R236): The management processor copies the safe tier back to device memory. -/
  | checkpointRestoreCopy (base : Nat)
  /-- CONNECTION_ENTRY_WRITE (R242): A connection-table write requests or clears a circuit, or is refused into CTSTAT. -/
  | connectionEntryWrite (e : Nat) (v : Dw)
  /-- CIRCUIT_CALIBRATED (R242): An accepted circuit sets rdy after calibration. -/
  | circuitCalibrated (e : Nat)
  /-- BULK_CIRCUIT_DRAIN (R243): A cleared bulk circuit clears v once its transfers are delivered. -/
  | bulkCircuitDrain (e : Nat)
  /-- CTSTAT_WRITE (R242): Writing 1 to CTSTAT[31] clears the sticky refusal bit. -/
  | ctstatWrite (v : Word)
  /-- FLIT_REPLAY (R245): A flit failing its cyclic check is replayed at the link. -/
  | flitReplay (edge : Nat)
  /-- DIE_EDGE_DOWN (R245): Sixteen failed replays mark an edge down and end launches crossing it. -/
  | dieEdgeDown (edge : Nat)
  /-- SISTER_LINK_DOWN (R249): A sister link going down fails outbound accesses and link channels. -/
  | sisterLinkDown (link : Nat)
  /-- LINK_CHANNEL_TOKEN (R251): A token of a link channel reaches the receiving link port and is delivered. -/
  | linkChannelToken (link chan : Nat) (tok : List Dw) (sb : BitVec 16)
  /-- IDE_INTEGRITY_FAILURE (R247): An IDE integrity failure moves the TDI to ERROR and stops the slice. -/
  | ideIntegrityFailure (slice : Nat)
  /-- TDI_STATE_CHANGE (R247): A TDISP transition locks or unlocks the slice's configuration. -/
  | tdiStateChange (slice : Nat) (st : TdiState)
  /-- TROOT_WRITE (R250): A TROOT write makes EQE unbounded until the dies lock again. -/
  | trootWrite (v : Word)
  /-- EQUINOX_SYNC_MESSAGE (R250): Every 64 µs timestamped messages correct EQT and EQE. -/
  | equinoxSyncMessage (die : Nat) (fwd : Bool) (step : Nat) (eqe : Dw)
  /-- EQUINOX_LOCK (R167): A die locks to its reference, possibly stepping EQT once. -/
  | equinoxLock (die : Nat) (eqt eqe : Dw)
  /-- FRZ_WRITE (R258): A write of 1 to FRZ stops every clock while debug is unlocked. -/
  | frzWrite (v : Word)
  /-- FREEZE_INPUT (R258): Assertion of FRZ_N stops every clock while debug is unlocked. -/
  | freezeInput
  /-- SLDESC_WRITE (R252): A slice descriptor write is refused or accepted. -/
  | sldescWrite (slice : Nat) (v : BitVec 128)
  /-- TINV0_WRITE (R253): A TINV0 write while done is clear is ignored and sets the refused bit. -/
  | tinv0Write (slice : Nat) (v : Dw)
  /-- TINV1_WRITE (R253): Writing TINV1 starts a translation invalidation and clears done. -/
  | tinv1Write (slice : Nat) (v : Dw)
  /-- TINV_DONE (R253): Done sets once every cache has dropped the translations and their accesses are performed. -/
  | tinvDone (slice : Nat)
  /-- HWCNT_READ (R143): A read of a hotness window returns both counters and clears them. -/
  | hwcntRead (die : Nat)
  /-- TRRES_WRITE (R44): A handler-range write is ignored if it would overlap a resident window. -/
  | trresWrite (die : Nat) (v : Dw)
  /-- TRDATA_READ (R44): A TRDATA read returns scratchpad bytes in the handler range and advances TRADDR. -/
  | trdataRead (die : Nat)
  /-- TRDATA_WRITE (R44): A TRDATA write fills scratchpad in the handler range and advances TRADDR. -/
  | trdataWrite (die : Nat) (v : Dw)
  /-- REGISTER_WRITE (R9): A write to a register with no behaviour of its own stores its value. -/
  | registerWrite (reg : MgmtReg) (v : BitVec 128)
  /-- POWER_GOOD (R260): Power good begins bring-up. -/
  | powerGood
  /-- BOOT_STAGE (R254): The management processor measures and verifies a boot stage before running it. -/
  | bootStage (stage : Nat) (image : List Byte) (verified : Bool)
  /-- RECOVERY_IMAGE (R254): A signed recovery image is accepted through Data Object Exchange. -/
  | recoveryImage (image : List Byte) (verified : Bool)
  /-- PERST_RELEASE (R260): Release of PERST# starts host link enumeration with retry status until ready. -/
  | perstRelease
  /-- DEBUG_UNLOCK (R258): A signed response to a device challenge unlocks debug through a reset. -/
  | debugUnlock (verified : Bool)
  /-- SPDM_GET_VERSION (R256): Answers the SPDM GET_VERSION request. -/
  | spdmGetVersion (fn : Nat) (request : List Byte)
  /-- SPDM_GET_CAPABILITIES (R256): Answers the SPDM GET_CAPABILITIES request. -/
  | spdmGetCapabilities (fn : Nat) (request : List Byte)
  /-- SPDM_NEGOTIATE_ALGORITHMS (R256): Answers the SPDM NEGOTIATE_ALGORITHMS request. -/
  | spdmNegotiateAlgorithms (fn : Nat) (request : List Byte)
  /-- SPDM_GET_DIGESTS (R256): Answers the SPDM GET_DIGESTS request. -/
  | spdmGetDigests (fn : Nat) (request : List Byte)
  /-- SPDM_GET_CERTIFICATE (R256): Answers the SPDM GET_CERTIFICATE request. -/
  | spdmGetCertificate (fn : Nat) (request : List Byte)
  /-- SPDM_CHALLENGE (R256): Answers the SPDM CHALLENGE request. -/
  | spdmChallenge (fn : Nat) (request : List Byte)
  /-- SPDM_GET_MEASUREMENTS (R256): Returns measurement blocks for the requesting function. -/
  | spdmGetMeasurements (fn : Nat) (request : List Byte)
  /-- SPDM_KEY_EXCHANGE (R256): Answers the SPDM KEY_EXCHANGE request. -/
  | spdmKeyExchange (fn : Nat) (request : List Byte)
  /-- SPDM_FINISH (R256): Answers the SPDM FINISH request. -/
  | spdmFinish (fn : Nat) (request : List Byte)
  /-- THERMAL_THROTTLE (R259): A junction at 95 °C lowers the die's dclk. -/
  | thermalThrottle (die mhz : Nat)
  /-- THERMAL_SHUTDOWN (R259): A junction at 110 °C shuts the whole package down. -/
  | thermalShutdown
  /-- CFGLOAD_LOAD_COMPLETE (R331): An image load or restore begun by CFGLOAD or on the cold path completes, the region is placed, and the CFGLOAD response or the launch token is sent. -/
  | cfgloadLoadComplete (k : Nat)
  /-- SISTER_LINK_UP (R249): A sister link comes up and its read-only link-up bit sets, so accesses and link channels over it may proceed again. -/
  | sisterLinkUp (link : Nat)
  /-- DIE_STATE_CLEARED (R253): The management processor finishes clearing a former slice's die, about 49 ms after it began, so that the die may be accepted into another slice. -/
  | dieStateCleared (die : Nat)
  deriving DecidableEq, Repr

end Sys2Proof
end

