-- ==== Sys2Proof/WellFormed.lean ====
section
/-! DEFINITION. Which instructions are well formed: what R273 to R285 and the mnemonics' entries demand of the encoded
fields beyond their widths, and for an operation or event of a unit, that the unit exists (R2, R172, R212, R240, R249,
R252). -/

namespace Sys2Proof

/-- RECV and PEEK (R395): first + n at most 8, the registers end at g31, and the call form names port 0. -/
def recvOk (g : Reg) (p : Port) (n : BitVec 3) (c s : Bool) (f : BitVec 3) : Bool :=
  decide (f.toNat + n.toNat + 1 ≤ 8) && decide (g.toNat + n.toNat + (if s then 1 else 0) ≤ 31) &&
    (!c || decide (p = 0))

/-- The highest set bit of an ISSUE mask (R365). -/
def issueHigh (m : BitVec 4) : Nat :=
  if m.getLsbD 3 then 3 else if m.getLsbD 2 then 2 else if m.getLsbD 1 then 1 else 0

/-- ISSUE (R365): an empty mask has patch 0, and the highest patch register is at most g31. -/
def issueOk (m : BitVec 4) (p : BitVec 5) : Bool :=
  if m = 0 then decide (p = 0) else decide (p.toNat + issueHigh m ≤ 31)

/-- The instruction is one an encoding or an event of the part can stand for. -/
def Instr.wf : Instr → Bool
  | .add _ _ _ _ => true
  | .sub _ _ _ _ => true
  | .and _ _ _ _ => true
  | .or _ _ _ _ => true
  | .xor _ _ _ _ => true
  | .andn _ _ _ _ => true
  | .shl _ _ _ _ => true
  | .shr _ _ _ _ => true
  | .sar _ _ _ _ => true
  | .rotr _ _ _ _ => true
  | .min _ _ _ _ => true
  | .max _ _ _ _ => true
  | .minu _ _ _ _ => true
  | .maxu _ _ _ _ => true
  | .slt _ _ _ _ => true
  | .sltu _ _ _ _ => true
  | .seq _ _ _ _ => true
  | .clz _ _ _ => true
  | .ctz _ _ _ => true
  | .popc _ _ _ => true
  | .mul _ _ _ _ => true
  | .mulh _ _ _ _ => true
  | .mulhu _ _ _ _ => true
  | .div _ _ _ _ => true
  | .divu _ _ _ _ => true
  | .rem _ _ _ _ => true
  | .remu _ _ _ _ => true
  | .fadd _ _ _ f _ => decide (f.toNat < 4)
  | .fsub _ _ _ f _ => decide (f.toNat < 4)
  | .fmul _ _ _ f _ => decide (f.toNat < 4)
  | .fmin _ _ _ f => decide (f.toNat < 4)
  | .fmax _ _ _ f => decide (f.toNat < 4)
  | .fcmpEq _ _ _ f => decide (f.toNat < 4)
  | .fcmpLt _ _ _ f => decide (f.toNat < 4)
  | .fcmpLe _ _ _ f => decide (f.toNat < 4)
  | .fcmpUo _ _ _ f => decide (f.toNat < 4)
  | .fcvt _ _ b f _ => (decide (f.toNat < 6) && decide (b.toNat < 6) && !(decide (4 ≤ f.toNat) && decide (4 ≤ b.toNat)))
  | .frcp _ _ f _ => decide (f.toNat < 4)
  | .frsq _ _ f _ => decide (f.toNat < 4)
  | .fexp2 _ _ f _ => decide (f.toNat < 4)
  | .flog2 _ _ f _ => decide (f.toNat < 4)
  | .fsgnCp _ _ _ f => decide (f.toNat < 4)
  | .fsgnNeg _ _ _ f => decide (f.toNat < 4)
  | .fsgnXor _ _ _ f => decide (f.toNat < 4)
  | .fma _ _ _ _ _ _ => true
  | .sel _ _ _ _ => true
  | .ins _ _ _ _ => true
  | .exts _ _ _ => true
  | .extu _ _ _ => true
  | .addi _ _ _ => true
  | .andi _ _ _ => true
  | .ori _ _ _ => true
  | .xori _ _ _ => true
  | .slti _ _ _ => true
  | .shli _ _ _ _ => true
  | .shri _ _ _ _ => true
  | .sari _ _ _ _ => true
  | .rotri _ _ _ _ => true
  | .ldhi _ _ => true
  | .addpc _ _ => true
  | .br c _ _ _ => decide (c ≠ 7)
  | .loop a _ => decide (a ≠ 0)
  | .jmp _ => true
  | .call _ => true
  | .ret _ => true
  | .jtab _ _ => true
  | .callr _ _ => true
  | .endTask => true
  | .endrTask => true
  | .ldl _ _ z x _ => !(x && decide (z = 3))
  | .stl _ _ _ _ => true
  | .ldg _ _ f _ _ => decide (f.toNat ≤ 10)
  | .stg g _ f _ _ => (decide (f.toNat ≤ 10) && (decide (8 ≤ f.toNat) || decide (g.toNat + f.toNat ≤ 31)))
  | .atom _ _ _ f _ _ => decide (f.toNat ≤ 10)
  | .cas g _ _ _ _ => decide (g.toNat ≤ 30)
  | .futGet _ _ _ _ => true
  | .futPut _ _ _ _ _ => true
  | .futClear _ _ _ _ => true
  | .prf _ _ _ => true
  | .cwb _ _ _ => true
  | .cinv _ => true
  | .ord _ o => decide (o ≠ 0)
  | .recv g p n c s f => recvOk g p n c s f
  | .peek g p n c s f => recvOk g p n c s f
  | .send g _ n _ => decide (g.toNat + n.toNat ≤ 31)
  | .sendn _ => true
  | .sende _ _ => true
  | .senderr g _ => decide (g.toNat ≤ 30)
  | .fwd _ _ => true
  | .rsv _ _ _ => true
  | .chq _ p f => decide (f ≠ 3) && (decide (f ≠ 2) || decide (p = 0))
  | .hdr _ _ => true
  | .wemit g _ n => decide (g.toNat + n.toNat ≤ 31)
  | .wrsv _ _ _ => true
  | .issue _ _ m p => issueOk m p
  | .barset _ _ _ => true
  | .baradd _ _ => true
  | .abload _ _ _ => true
  | .abswap _ _ => true
  | .abdrop _ _ => true
  | .abqry _ _ _ => true
  | .cfgload _ _ _ => true
  | .cfgloadRestore _ _ _ => true
  | .place _ _ _ => true
  | .mark _ _ => true
  | .pwreq _ _ => true
  | .pwrel => true
  | .prio _ => true
  | .csrr _ _ => true
  | .csrw _ _ => true
  | .csrx _ _ _ => true
  | .krd _ _ => true
  | .kwr _ _ => true
  | .time g => (decide (1 ≤ g.toNat) && decide (g.toNat ≤ 30))
  | .trap _ => true
  | .eret => true
  | .brk => true
  | .halt => true
  | .mxsave => true
  | .mxrest => true
  | .nop => true
  | .cpy die eng => decide (die < 8) && decide (eng < 12)
  | .gath die eng => decide (die < 8) && decide (eng < 12)
  | .scat die eng => decide (die < 8) && decide (eng < 12)
  | .bred die => decide (die < 8)
  | .mma _ _ => true
  | .mmac _ _ => true
  | .accrd _ _ => true
  | .lstr _ _ => true
  | .abrun _ _ => true
  | .rsend die => decide (die < 8)
  | .followOnDelivery _ => true
  | .rsendRemoteDelivery _ => true
  | .completionToken _ => true
  | .barrierSubtract _ => true
  | .ladd tile lane => decide (tile < 1024) && decide (lane < 16)
  | .lsub tile lane => decide (tile < 1024) && decide (lane < 16)
  | .lmul tile lane => decide (tile < 1024) && decide (lane < 16)
  | .lfma tile lane => decide (tile < 1024) && decide (lane < 16)
  | .lmin tile lane => decide (tile < 1024) && decide (lane < 16)
  | .lmax tile lane => decide (tile < 1024) && decide (lane < 16)
  | .lcvt tile lane => decide (tile < 1024) && decide (lane < 16)
  | .lexp2 tile lane => decide (tile < 1024) && decide (lane < 16)
  | .lrcp tile lane => decide (tile < 1024) && decide (lane < 16)
  | .lrsq tile lane => decide (tile < 1024) && decide (lane < 16)
  | .llog tile lane => decide (tile < 1024) && decide (lane < 16)
  | .lsel tile lane => decide (tile < 1024) && decide (lane < 16)
  | .lselSwitch tile lane => decide (tile < 1024) && decide (lane < 16)
  | .lcmp tile lane => decide (tile < 1024) && decide (lane < 16)
  | .lshf tile lane => decide (tile < 1024) && decide (lane < 16)
  | .lpass tile lane => decide (tile < 1024) && decide (lane < 16)
  | .ldly tile lane => decide (tile < 1024) && decide (lane < 16)
  | .lrow tile lane => decide (tile < 1024) && decide (lane < 16)
  | .lscale tile lane => decide (tile < 1024) && decide (lane < 16)
  | .lacc tile lane => decide (tile < 1024) && decide (lane < 16)
  | .lred tile lane => decide (tile < 1024) && decide (lane < 16)
  | .lperm tile lane => decide (tile < 1024) && decide (lane < 16)
  | .edge tile lane => decide (tile < 1024) && decide (lane < 16)
  | .cover tile lane => decide (tile < 1024) && decide (lane < 16)
  | .resolverTileBegin tile lane => decide (tile < 1024) && decide (lane < 16)
  | .resolverSample tile lane => decide (tile < 1024) && decide (lane < 16)
  | .resolverTileDone tile lane => decide (tile < 1024) && decide (lane < 16)
  | .aplane tile lane => decide (tile < 1024) && decide (lane < 16)
  | .rbox tile lane => decide (tile < 1024) && decide (lane < 16)
  | .rtri tile lane => decide (tile < 1024) && decide (lane < 16)
  | .routerHop _ _ _ => true
  | .filterBurstEmit _ _ => true
  | .tokenReceive _ _ => true
  | .heldErrorSend _ _ => true
  | .engineElementStep _ _ => true
  | .engineConfigApply _ _ => true
  | .nullPropagate _ _ => true
  | .eosJoin _ _ => true
  | .shapeError _ _ => true
  | .orderedMergePosition _ _ => true
  | .arrivalMergeToken _ _ port => decide (port < 8)
  | .counterIndexEmit _ _ => true
  | .counterEosEmit _ _ => true
  | .controllerEnableReceive _ _ => true
  | .controllerDoneReceive _ _ => true
  | .launchTokenArrival _ => true
  | .launchEnd _ => true
  | .firingSelect tile => decide (tile < 1024)
  | .residencyProbe _ _ _ => true
  | .taskStart tile => decide (tile < 1024)
  | .handlerCallArrival _ _ => true
  | .taskLengthExceeded => true
  | .handlerLimitExceeded => true
  | .pageWalk tile _ => decide (tile < 1024)
  | .spillRetry tile _ => decide (tile < 1024)
  | .faultWindowExpiry tile _ => decide (tile < 1024)
  | .requestResponse tile _ _ => decide (tile < 1024)
  | .storeAccept tile _ => decide (tile < 1024)
  | .bankOperationPerform tile _ => decide (tile < 1024)
  | .futureGetPerform tile _ => decide (tile < 1024)
  | .futurePutPerform tile _ => decide (tile < 1024)
  | .futureClearPerform tile _ => decide (tile < 1024)
  | .writePerform tile _ => decide (tile < 1024)
  | .invalidationAck _ tile => decide (tile < 1024)
  | .evictionNotice _ tile => decide (tile < 1024)
  | .hostRead _ _ _ => true
  | .hostWrite _ _ _ => true
  | .peerAccess link _ _ _ _ => decide (link < 8)
  | .uncorrectableLineError _ => true
  | .scratchpadUncorrectable tile _ => decide (tile < 1024)
  | .metadataError tile _ => decide (tile < 1026)
  | .correctedError die _ _ _ => decide (die < 8)
  | .dieReset die _ => decide (die < 8)
  | .qdbWrite slice q _ => decide (slice < 8) && decide (q < 64)
  | .qcfgWrite slice q _ => decide (slice < 8) && decide (q < 64)
  | .frontEndSelect slice => decide (slice < 8)
  | .launchPortRequest _ _ => true
  | .placementSearch slice _ => decide (slice < 8)
  | .quantumPreempt slice => decide (slice < 8)
  | .elasticSample _ _ => true
  | .elasticWindowEnd _ _ => true
  | .replicaRetire _ _ => true
  | .orderedMembershipChange _ _ => true
  | .distributorRoute _ _ => true
  | .distributorEosRelease _ _ => true
  | .rayAdmission _ _ => true
  | .workRecordDelivery _ => true
  | .powerRefill _ => true
  | .ingressCreditWait _ => true
  | .heavyCommandHold _ _ => true
  | .matrixGroupAdd _ _ => true
  | .memoryActorLoad _ _ => true
  | .memoryActorStore _ _ => true
  | .memoryActorEosForward _ _ => true
  | .abacusInputBurst _ _ => true
  | .abacusVectorOutput _ _ => true
  | .abacusLoadComplete _ _ => true
  | .abacusSwapEffect _ _ => true
  | .abacusConfigToken _ _ => true
  | .blenderToken _ _ => true
  | .displayFrameStart die head => decide (die < 8) && decide (head < 2)
  | .presentToken _ _ => true
  | .dctlWrite die head _ => decide (die < 8) && decide (head < 2)
  | .esctlWrite die session _ => decide (die < 8) && decide (session < 4)
  | .encoderFrameDone die session _ => decide (die < 8) && decide (session < 4)
  | .cutreqWrite slice _ => decide (slice < 8)
  | .solsticeArrival _ _ _ => true
  | .actorSave _ _ => true
  | .recordToken _ _ _ => true
  | .snapshotComplete _ => true
  | .checkpointCopy _ => true
  | .checkpointCopyDone => true
  | .checkpointRestoreCopy _ => true
  | .connectionEntryWrite e _ => decide (e < 256)
  | .circuitCalibrated e => decide (e < 256)
  | .bulkCircuitDrain e => decide (e < 256)
  | .ctstatWrite _ => true
  | .flitReplay ed => decide (ed < 10)
  | .dieEdgeDown ed => decide (ed < 10)
  | .sisterLinkDown link => decide (link < 8)
  | .linkChannelToken link _ _ _ => decide (link < 8)
  | .ideIntegrityFailure slice => decide (slice < 8)
  | .tdiStateChange slice _ => decide (slice < 8)
  | .trootWrite _ => true
  | .equinoxSyncMessage die _ _ _ => decide (die < 8)
  | .equinoxLock die _ _ => decide (die < 8)
  | .frzWrite _ => true
  | .freezeInput => true
  | .sldescWrite slice _ => decide (slice < 8)
  | .tinv0Write slice _ => decide (slice < 8)
  | .tinv1Write slice _ => decide (slice < 8)
  | .tinvDone slice => decide (slice < 8)
  | .hwcntRead die => decide (die < 8)
  | .trresWrite die _ => decide (die < 8)
  | .trdataRead die => decide (die < 8)
  | .trdataWrite die _ => decide (die < 8)
  | .registerWrite _ _ => true
  | .powerGood => true
  | .bootStage stage _ _ => decide (stage < 5)
  | .recoveryImage _ _ => true
  | .perstRelease => true
  | .debugUnlock _ => true
  | .spdmGetVersion _ _ => true
  | .spdmGetCapabilities _ _ => true
  | .spdmNegotiateAlgorithms _ _ => true
  | .spdmGetDigests _ _ => true
  | .spdmGetCertificate _ _ => true
  | .spdmChallenge _ _ => true
  | .spdmGetMeasurements _ _ => true
  | .spdmKeyExchange _ _ => true
  | .spdmFinish _ _ => true
  | .thermalThrottle die _ => decide (die < 8)
  | .thermalShutdown => true
  | .cfgloadLoadComplete _ => true
  | .sisterLinkUp link => decide (link < 8)
  | .dieStateCleared die => decide (die < 8)

end Sys2Proof
end

