-- ==== Sys2Proof/Decode.lean ====
section
/-! DEFINITION. Decoding and encoding. Every scalar instruction is one 32-bit word in one of the formats of R272; the
decoder reads the fields once, refuses every reserved encoding by name (R9, R275 to R286), and so every word it refuses
takes trap 0x01 (R286). After it stand the encoder, and the decoders of stream commands (R287, R288) and lane words
(R292, R293). -/

namespace Sys2Proof

/-- Why a word is no instruction. Each refusal becomes trap 0x01 with TVAL equal to the word (R217, R286). -/
inductive DecodeErr where
  /-- A major opcode the map leaves unassigned (R275). -/
  | unassignedMajor
  /-- A function code, flag or size code the tables do not name. -/
  | reservedFunction
  /-- A field that the form does not use is not zero (R9, R273). -/
  | mustBeZero
  /-- A format code reserved for the operation (R277). -/
  | badFormat
  /-- A run of registers that passes g31 (R273). -/
  | registerRun
  /-- A field value the mnemonic's entry refuses. -/
  | badField
  deriving DecidableEq, Repr

/-- Bits [lo + n - 1 : lo] of a word. -/
def fld (w : Word) (lo n : Nat) : BitVec n := w.extractLsb' lo n

/-! ### Formats (R272) -/

def fmtR (maj : BitVec 6) (d a b : Reg) (fn : BitVec 11) : Word := maj ++ d ++ a ++ b ++ fn
def fmtQ (maj : BitVec 6) (d a b c : Reg) (fn : BitVec 6) : Word := maj ++ d ++ a ++ b ++ c ++ fn
def fmtI (maj : BitVec 6) (d a : Reg) (imm : BitVec 16) : Word := maj ++ d ++ a ++ imm
def fmtB (maj : BitVec 6) (cond : BitVec 3) (a b : Reg) (off : BitVec 13) : Word := maj ++ cond ++ a ++ b ++ off
def fmtJ (maj : BitVec 6) (off : BitVec 26) : Word := maj ++ off
def fmtML (maj : BitVec 6) (g base : Reg) (sz : BitVec 2) (sx : BitVec 1) (off : BitVec 13) : Word :=
  maj ++ g ++ base ++ sz ++ sx ++ off
def fmtMG (maj : BitVec 6) (g base : Reg) (port : Port) (fn : BitVec 5) (sc : Scope) (ord : Order) (z : BitVec 4) : Word :=
  maj ++ g ++ base ++ port ++ fn ++ sc ++ ord ++ z
def fmtT (maj : BitVec 6) (g : Reg) (port cnt : BitVec 3) (fl : BitVec 15) : Word := maj ++ g ++ port ++ cnt ++ fl
def fmtS (maj : BitVec 6) (g a : Reg) (csr : BitVec 12) (fn : BitVec 4) : Word := maj ++ g ++ a ++ csr ++ fn
def fmtC (maj : BitVec 6) (oport : Port) (entry : BitVec 11) (mask : BitVec 4) (patch : BitVec 5) (z : BitVec 3) : Word :=
  maj ++ oport ++ entry ++ mask ++ patch ++ z

/-- A decoding that is refused with `e` unless `c` holds. -/
def need (c : Bool) (e : DecodeErr) (k : Except DecodeErr Instr) : Except DecodeErr Instr := if c then k else .error e

/-- Majors 0x00 and 0x01, the integer groups (R276). -/
def decodeInt (w : Word) : Except DecodeErr Instr :=
  let d := fld w 21 5; let a := fld w 16 5; let b := fld w 11 5; let s := w.getLsbD 6
  let unary (i : Instr) : Except DecodeErr Instr := need (decide (b = 0)) .mustBeZero (.ok i)
  need (decide (fld w 7 4 = 0)) .mustBeZero <|
  if fld w 26 6 = 0 then
    match (fld w 0 6).toNat with
    | 0x00 => .ok (.add d a b s) | 0x01 => .ok (.sub d a b s) | 0x02 => .ok (.and d a b s)
    | 0x03 => .ok (.or d a b s) | 0x04 => .ok (.xor d a b s) | 0x05 => .ok (.andn d a b s)
    | 0x08 => .ok (.shl d a b s) | 0x09 => .ok (.shr d a b s) | 0x0A => .ok (.sar d a b s)
    | 0x0B => .ok (.rotr d a b s)
    | 0x10 => .ok (.min d a b s) | 0x11 => .ok (.max d a b s) | 0x12 => .ok (.minu d a b s)
    | 0x13 => .ok (.maxu d a b s) | 0x14 => .ok (.slt d a b s) | 0x15 => .ok (.sltu d a b s)
    | 0x16 => .ok (.seq d a b s)
    | 0x18 => unary (.clz d a s) | 0x19 => unary (.ctz d a s) | 0x1A => unary (.popc d a s)
    | _ => .error .reservedFunction
  else
    match (fld w 0 6).toNat with
    | 0x00 => .ok (.mul d a b s) | 0x01 => .ok (.mulh d a b s) | 0x02 => .ok (.mulhu d a b s)
    | 0x04 => .ok (.div d a b s) | 0x05 => .ok (.divu d a b s) | 0x06 => .ok (.rem d a b s)
    | 0x07 => .ok (.remu d a b s)
    | _ => .error .reservedFunction

/-- Major 0x02, floating point (R277). -/
def decodeFloat (w : Word) : Except DecodeErr Instr :=
  let d := fld w 21 5; let a := fld w 16 5; let b := fld w 11 5; let f := fld w 8 3; let m := fld w 6 2
  let binary (i : Instr) : Except DecodeErr Instr := need (decide (f.toNat < 4)) .badFormat (.ok i)
  let noMode (i : Instr) : Except DecodeErr Instr := need (decide (m = 0)) .mustBeZero (binary i)
  let unary (i : Instr) : Except DecodeErr Instr := need (decide (b = 0)) .mustBeZero (binary i)
  match (fld w 0 6).toNat with
  | 0x00 => binary (.fadd d a b f m) | 0x01 => binary (.fsub d a b f m) | 0x02 => binary (.fmul d a b f m)
  | 0x04 => noMode (.fmin d a b f) | 0x05 => noMode (.fmax d a b f)
  | 0x08 => noMode (.fcmpEq d a b f) | 0x09 => noMode (.fcmpLt d a b f)
  | 0x0A => noMode (.fcmpLe d a b f) | 0x0B => noMode (.fcmpUo d a b f)
  | 0x10 => need (decide (f.toNat < 6) && decide (b.toNat < 6) && !(decide (4 ≤ f.toNat) && decide (4 ≤ b.toNat)))
      .badFormat (.ok (.fcvt d a b f m))
  | 0x14 => unary (.frcp d a f m) | 0x15 => unary (.frsq d a f m)
  | 0x16 => unary (.fexp2 d a f m) | 0x17 => unary (.flog2 d a f m)
  | 0x18 => noMode (.fsgnCp d a b f) | 0x19 => noMode (.fsgnNeg d a b f) | 0x1A => noMode (.fsgnXor d a b f)
  | _ => .error .reservedFunction

/-- Major 0x03, the three-source group (R278). -/
def decodeThree (w : Word) : Except DecodeErr Instr :=
  let d := fld w 21 5; let a := fld w 16 5; let b := fld w 11 5; let c := fld w 6 5
  if fld w 4 2 = 0 then .ok (.fma d a b c (fld w 2 2) (fld w 0 2)) else
  match (fld w 0 6).toNat with
  | 0x10 => .ok (.sel d a b c)
  | 0x11 => .ok (.ins d a b c)
  | 0x12 => need (decide (b = 0)) .mustBeZero (.ok (.exts d a c))
  | 0x13 => need (decide (b = 0)) .mustBeZero (.ok (.extu d a c))
  | _ => .error .reservedFunction

/-- The immediate majors 0x04 to 0x0B (R279). -/
def decodeImm (w : Word) : Except DecodeErr Instr :=
  let d := fld w 21 5; let a := fld w 16 5; let i := fld w 0 16
  match (fld w 26 6).toNat with
  | 0x04 => .ok (.addi d a i) | 0x05 => .ok (.andi d a i) | 0x06 => .ok (.ori d a i) | 0x07 => .ok (.xori d a i)
  | 0x09 => .ok (.slti d a i)
  | 0x0A => need (decide (a = 0)) .mustBeZero (.ok (.ldhi d i))
  | 0x0B => need (decide (a = 0)) .mustBeZero (.ok (.addpc d i))
  | _ =>
    need (decide (fld w 7 7 = 0)) .mustBeZero <|
    match (fld w 14 2).toNat with
    | 0 => .ok (.shli d a (w.getLsbD 6) (fld w 0 6))
    | 1 => .ok (.shri d a (w.getLsbD 6) (fld w 0 6))
    | 2 => .ok (.sari d a (w.getLsbD 6) (fld w 0 6))
    | _ => .ok (.rotri d a (w.getLsbD 6) (fld w 0 6))

/-- The control majors 0x10 to 0x15 (R280, R348). -/
def decodeControl (w : Word) : Except DecodeErr Instr :=
  let d := fld w 21 5; let a := fld w 16 5; let b := fld w 11 5
  match (fld w 26 6).toNat with
  | 0x10 => need (decide (fld w 23 3 ≠ 7)) .badField (.ok (.br (fld w 23 3) (fld w 18 5) (fld w 13 5) (fld w 0 13)))
  | 0x11 => need (decide (fld w 23 3 = 0) && decide (fld w 13 5 = 0)) .mustBeZero <|
      need (decide (fld w 18 5 ≠ 0)) .badField (.ok (.loop (fld w 18 5) (fld w 0 13)))
  | 0x12 => .ok (.jmp (fld w 0 26))
  | 0x13 => .ok (.call (fld w 0 26))
  | 0x14 =>
    match (fld w 0 11).toNat with
    | 0 => need (decide (d = 0) && decide (b = 0)) .mustBeZero (.ok (.ret a))
    | 1 => need (decide (d = 0)) .mustBeZero (.ok (.jtab a b))
    | 2 => need (decide (b = 0)) .mustBeZero (.ok (.callr d a))
    | _ => .error .reservedFunction
  | _ =>
    need (decide (d = 0) && decide (a = 0) && decide (b = 0)) .mustBeZero <|
    match (fld w 0 11).toNat with
    | 0 => .ok .endTask
    | 1 => .ok .endrTask
    | _ => .error .reservedFunction

/-- LDL and STL, majors 0x18 and 0x19 (R281). -/
def decodeLocal (w : Word) : Except DecodeErr Instr :=
  let g := fld w 21 5; let b := fld w 16 5; let z := fld w 14 2; let x := w.getLsbD 13; let o := fld w 0 13
  if fld w 26 6 = 0x18 then need (!(x && decide (z = 3))) .badField (.ok (.ldl g b z x o))
  else need (!x) .mustBeZero (.ok (.stl g b z o))

/-- The global-memory majors 0x1A to 0x1F and ORD (R155, R282). -/
def decodeGlobal (w : Word) : Except DecodeErr Instr :=
  let g := fld w 21 5; let b := fld w 16 5; let p := fld w 13 3; let f := fld w 8 5
  let s := fld w 6 2; let o := fld w 4 2
  need (decide (fld w 0 4 = 0)) .mustBeZero <|
  match (fld w 26 6).toNat with
  | 0x1A => need (decide (g = 0)) .mustBeZero <| need (decide (f.toNat ≤ 10)) .reservedFunction <|
      need (!w.getLsbD 5) .badField (.ok (.ldg b p f s (w.getLsbD 4)))
  | 0x1B => need (decide (p = 0)) .mustBeZero <| need (decide (f.toNat ≤ 10)) .reservedFunction <|
      need (decide (8 ≤ f.toNat) || decide (g.toNat + f.toNat ≤ 31)) .registerRun (.ok (.stg g b f s o))
  | 0x1C => need (decide (f.toNat ≤ 10)) .reservedFunction (.ok (.atom g b p f s o))
  | 0x1D => need (decide (f = 0)) .mustBeZero <| need (decide (g.toNat ≤ 30)) .registerRun (.ok (.cas g b p s o))
  | 0x1E =>
    match f.toNat with
    | 0 => need (decide (g = 0)) .mustBeZero (.ok (.futGet b p s o))
    | 1 => .ok (.futPut g b p s o)
    | 2 => need (decide (g = 0)) .mustBeZero (.ok (.futClear b p s o))
    | _ => .error .reservedFunction
  | 0x1F =>
    need (decide (g = 0)) .mustBeZero <|
    match f.toNat with
    | 0 => need (decide (p = 0)) .mustBeZero <| need (!w.getLsbD 5) .badField (.ok (.prf b s (w.getLsbD 4)))
    | 1 => need (decide (o = 0)) .badField (.ok (.cwb b p s))
    | 2 => need (decide (p = 0) && decide (s = 0) && decide (o = 0)) .mustBeZero (.ok (.cinv b))
    | _ => .error .reservedFunction
  | _ => need (decide (g = 0) && decide (b = 0) && decide (p = 0) && decide (f = 0)) .mustBeZero <|
      need (decide (o ≠ 0)) .badField (.ok (.ord s o))

/-- The token majors 0x24 to 0x2C (R283, R395, R406, R410). -/
def decodeToken (w : Word) : Except DecodeErr Instr :=
  let g := fld w 21 5; let p := fld w 18 3; let n := fld w 15 3
  let f := fld w 0 3; let s := w.getLsbD 3; let c := w.getLsbD 4
  match (fld w 26 6).toNat with
  | 0x24 => need (decide (fld w 5 10 = 0)) .mustBeZero <| need (recvOk g p n c s f) .badField (.ok (.recv g p n c s f))
  | 0x25 => need (decide (fld w 5 10 = 0)) .mustBeZero <| need (recvOk g p n c s f) .badField (.ok (.peek g p n c s f))
  | 0x26 => need (decide (fld w 1 14 = 0)) .mustBeZero <|
      need (decide (g.toNat + n.toNat ≤ 31)) .registerRun (.ok (.send g p n (w.getLsbD 0)))
  | 0x27 =>
    need (decide (fld w 3 12 = 0)) .mustBeZero <|
    match (fld w 0 2).toNat with
    | 0 => need (decide (g = 0) && decide (n = 0) && !w.getLsbD 2) .mustBeZero (.ok (.sendn p))
    | 1 => need (decide (g = 0) && decide (n = 0)) .mustBeZero (.ok (.sende p (w.getLsbD 2)))
    | 2 => need (decide (n = 1) && !w.getLsbD 2) .badField <|
        need (decide (g.toNat ≤ 30)) .registerRun (.ok (.senderr g p))
    | _ => .error .reservedFunction
  | 0x28 => need (decide (fld w 24 2 = 0) && decide (fld w 0 18 = 0)) .mustBeZero (.ok (.fwd (fld w 21 3) p))
  | 0x29 => need (decide (fld w 0 15 = 0)) .mustBeZero (.ok (.rsv g p n))
  | 0x2A =>
    need (decide (n = 0)) .mustBeZero <|
    match (fld w 0 2).toNat with
    | 0 => need (decide (fld w 4 11 = 0)) .mustBeZero <|
        need (decide (fld w 2 2 ≠ 3)) .reservedFunction <|
        need (decide (fld w 2 2 ≠ 2) || decide (p = 0)) .mustBeZero (.ok (.chq g p (fld w 2 2)))
    | 1 => need (decide (fld w 2 13 = 0)) .mustBeZero (.ok (.hdr g p))
    | _ => .error .reservedFunction
  | 0x2B => need (decide (fld w 0 15 = 0)) .mustBeZero <|
      need (decide (g.toNat + n.toNat ≤ 31)) .registerRun (.ok (.wemit g p n))
  | _ => need (decide (n = 0) && decide (fld w 8 7 = 0)) .mustBeZero (.ok (.wrsv g p (fld w 0 8)))

/-- The engine and fabric majors 0x30 to 0x36 (R109, R284). -/
def decodeEngine (w : Word) : Except DecodeErr Instr :=
  let d := fld w 21 5; let a := fld w 16 5; let b := fld w 11 5; let fn := (fld w 0 4).toNat; let p := fld w 4 3
  let hi := decide (fld w 7 4 = 0) && decide (d = 0)
  match (fld w 26 6).toNat with
  | 0x30 => need (decide (fld w 0 3 = 0)) .mustBeZero <|
      need (issueOk (fld w 8 4) (fld w 3 5)) .badField
        (.ok (.issue (fld w 23 3) (fld w 12 11) (fld w 8 4) (fld w 3 5)))
  | 0x31 =>
    need (!w.getLsbD 10 && decide (d = 0)) .mustBeZero <|
    match fn with
    | 0 => .ok (.barset a b (fld w 4 6))
    | 1 => need (decide (b = 0)) .mustBeZero (.ok (.baradd a (fld w 4 6)))
    | _ => .error .reservedFunction
  | 0x32 =>
    need hi .mustBeZero <|
    match fn with
    | 0 => .ok (.abload a b p)
    | 1 => need (decide (a = 0)) .mustBeZero (.ok (.abswap b p))
    | 2 => need (decide (a = 0)) .mustBeZero (.ok (.abdrop b p))
    | 3 => .ok (.abqry a b p)
    | _ => .error .reservedFunction
  | 0x33 =>
    need hi .mustBeZero <|
    match fn with
    | 0 => .ok (.cfgload a b p)
    | 1 => .ok (.cfgloadRestore a b p)
    | _ => .error .reservedFunction
  | 0x34 =>
    need hi .mustBeZero <|
    match fn with
    | 0 => .ok (.place a b p)
    | 1 => need (decide (b = 0)) .mustBeZero (.ok (.mark a p))
    | _ => .error .reservedFunction
  | 0x35 =>
    need (decide (fld w 4 7 = 0) && decide (b = 0)) .mustBeZero <|
    match fn with
    | 0 => .ok (.pwreq d a)
    | 1 => need (decide (d = 0) && decide (a = 0)) .mustBeZero (.ok .pwrel)
    | _ => .error .reservedFunction
  | _ => need (decide (d = 0) && decide (a = 0) && decide (fld w 2 14 = 0)) .mustBeZero (.ok (.prio (fld w 0 2)))

/-- The system majors 0x38 to 0x3B (R169, R285). -/
def decodeSystem (w : Word) : Except DecodeErr Instr :=
  let g := fld w 21 5; let a := fld w 16 5; let c := fld w 4 12; let fn := (fld w 0 4).toNat
  match (fld w 26 6).toNat with
  | 0x38 =>
    match fn with
    | 0 => need (decide (a = 0)) .mustBeZero (.ok (.csrr g c))
    | 1 => need (decide (g = 0)) .mustBeZero (.ok (.csrw a c))
    | 2 => .ok (.csrx g a c)
    | 3 => need (decide (a = 0) && decide (fld w 8 8 = 0)) .mustBeZero (.ok (.krd g (fld w 4 4)))
    | 4 => need (decide (g = 0) && decide (fld w 8 8 = 0)) .mustBeZero (.ok (.kwr a (fld w 4 4)))
    | _ => .error .reservedFunction
  | 0x39 => need (decide (fn = 0)) .reservedFunction <| need (decide (a = 0) && decide (c = 0)) .mustBeZero <|
      need (decide (1 ≤ g.toNat) && decide (g.toNat ≤ 30)) .badField (.ok (.time g))
  | 0x3A =>
    need (decide (g = 0) && decide (a = 0)) .mustBeZero <|
    match fn with
    | 0 => .ok (.trap c)
    | 1 => need (decide (c = 0)) .mustBeZero (.ok .eret)
    | 2 => need (decide (c = 0)) .mustBeZero (.ok .brk)
    | 3 => need (decide (c = 0)) .mustBeZero (.ok .halt)
    | _ => .error .reservedFunction
  | _ =>
    need (decide (g = 0) && decide (a = 0) && decide (c = 0)) .mustBeZero <|
    match fn with
    | 0 => .ok .mxsave
    | 1 => .ok .mxrest
    | _ => .error .reservedFunction

/-- Decoding of a scalar instruction word (R275). -/
def decode (w : Word) : Except DecodeErr Instr :=
  match (fld w 26 6).toNat with
  | 0x00 | 0x01 => decodeInt w
  | 0x02 => decodeFloat w
  | 0x03 => decodeThree w
  | 0x04 | 0x05 | 0x06 | 0x07 | 0x08 | 0x09 | 0x0A | 0x0B => decodeImm w
  | 0x10 | 0x11 | 0x12 | 0x13 | 0x14 | 0x15 => decodeControl w
  | 0x18 | 0x19 => decodeLocal w
  | 0x1A | 0x1B | 0x1C | 0x1D | 0x1E | 0x1F | 0x20 => decodeGlobal w
  | 0x24 | 0x25 | 0x26 | 0x27 | 0x28 | 0x29 | 0x2A | 0x2B | 0x2C => decodeToken w
  | 0x30 | 0x31 | 0x32 | 0x33 | 0x34 | 0x35 | 0x36 => decodeEngine w
  | 0x38 | 0x39 | 0x3A | 0x3B => decodeSystem w
  | 0x3F => need (decide (w = 0xFC000000)) .mustBeZero (.ok .nop)
  | _ => .error .unassignedMajor

/-- Little-endian bytes as a word (R6). -/
def wordOfBytes (b0 b1 b2 b3 : Byte) : Word := b3 ++ b2 ++ b1 ++ b0

/-- Decoding from bytes: the instruction of the first four bytes and the bytes after it, or the reason there is none. -/
def decodeBytes : List Byte → Except DecodeErr (Instr × List Byte)
  | b0 :: b1 :: b2 :: b3 :: rest =>
    match decode (wordOfBytes b0 b1 b2 b3) with
    | .ok i => .ok (i, rest)
    | .error e => .error e
  | _ => .error .badField

/-! ### The encoder -/

/-- A flag as one bit. -/
def bit (b : Bool) : BitVec 1 := BitVec.ofBool b

/-- The encoding of a scalar instruction from the tables of R272 to R285; none for an operation or event of a unit. -/
def encode : Instr → Option Word
  | .add d a b w => some (fmtR 0x00 d a b (0#4 ++ bit w ++ 0x0#6))
  | .sub d a b w => some (fmtR 0x00 d a b (0#4 ++ bit w ++ 0x1#6))
  | .and d a b w => some (fmtR 0x00 d a b (0#4 ++ bit w ++ 0x2#6))
  | .or d a b w => some (fmtR 0x00 d a b (0#4 ++ bit w ++ 0x3#6))
  | .xor d a b w => some (fmtR 0x00 d a b (0#4 ++ bit w ++ 0x4#6))
  | .andn d a b w => some (fmtR 0x00 d a b (0#4 ++ bit w ++ 0x5#6))
  | .shl d a b w => some (fmtR 0x00 d a b (0#4 ++ bit w ++ 0x8#6))
  | .shr d a b w => some (fmtR 0x00 d a b (0#4 ++ bit w ++ 0x9#6))
  | .sar d a b w => some (fmtR 0x00 d a b (0#4 ++ bit w ++ 0xa#6))
  | .rotr d a b w => some (fmtR 0x00 d a b (0#4 ++ bit w ++ 0xb#6))
  | .min d a b w => some (fmtR 0x00 d a b (0#4 ++ bit w ++ 0x10#6))
  | .max d a b w => some (fmtR 0x00 d a b (0#4 ++ bit w ++ 0x11#6))
  | .minu d a b w => some (fmtR 0x00 d a b (0#4 ++ bit w ++ 0x12#6))
  | .maxu d a b w => some (fmtR 0x00 d a b (0#4 ++ bit w ++ 0x13#6))
  | .slt d a b w => some (fmtR 0x00 d a b (0#4 ++ bit w ++ 0x14#6))
  | .sltu d a b w => some (fmtR 0x00 d a b (0#4 ++ bit w ++ 0x15#6))
  | .seq d a b w => some (fmtR 0x00 d a b (0#4 ++ bit w ++ 0x16#6))
  | .clz d a w => some (fmtR 0x00 d a 0 (0#4 ++ bit w ++ 0x18#6))
  | .ctz d a w => some (fmtR 0x00 d a 0 (0#4 ++ bit w ++ 0x19#6))
  | .popc d a w => some (fmtR 0x00 d a 0 (0#4 ++ bit w ++ 0x1a#6))
  | .mul d a b w => some (fmtR 0x01 d a b (0#4 ++ bit w ++ 0x0#6))
  | .mulh d a b w => some (fmtR 0x01 d a b (0#4 ++ bit w ++ 0x1#6))
  | .mulhu d a b w => some (fmtR 0x01 d a b (0#4 ++ bit w ++ 0x2#6))
  | .div d a b w => some (fmtR 0x01 d a b (0#4 ++ bit w ++ 0x4#6))
  | .divu d a b w => some (fmtR 0x01 d a b (0#4 ++ bit w ++ 0x5#6))
  | .rem d a b w => some (fmtR 0x01 d a b (0#4 ++ bit w ++ 0x6#6))
  | .remu d a b w => some (fmtR 0x01 d a b (0#4 ++ bit w ++ 0x7#6))
  | .fadd d a b f m => some (fmtR 0x02 d a b (f ++ m ++ 0x0#6))
  | .fsub d a b f m => some (fmtR 0x02 d a b (f ++ m ++ 0x1#6))
  | .fmul d a b f m => some (fmtR 0x02 d a b (f ++ m ++ 0x2#6))
  | .fmin d a b f => some (fmtR 0x02 d a b (f ++ 0#2 ++ 0x4#6))
  | .fmax d a b f => some (fmtR 0x02 d a b (f ++ 0#2 ++ 0x5#6))
  | .fcmpEq d a b f => some (fmtR 0x02 d a b (f ++ 0#2 ++ 0x8#6))
  | .fcmpLt d a b f => some (fmtR 0x02 d a b (f ++ 0#2 ++ 0x9#6))
  | .fcmpLe d a b f => some (fmtR 0x02 d a b (f ++ 0#2 ++ 0xa#6))
  | .fcmpUo d a b f => some (fmtR 0x02 d a b (f ++ 0#2 ++ 0xb#6))
  | .fcvt d a b f m => some (fmtR 0x02 d a b (f ++ m ++ 0x10#6))
  | .frcp d a f m => some (fmtR 0x02 d a 0 (f ++ m ++ 0x14#6))
  | .frsq d a f m => some (fmtR 0x02 d a 0 (f ++ m ++ 0x15#6))
  | .fexp2 d a f m => some (fmtR 0x02 d a 0 (f ++ m ++ 0x16#6))
  | .flog2 d a f m => some (fmtR 0x02 d a 0 (f ++ m ++ 0x17#6))
  | .fsgnCp d a b f => some (fmtR 0x02 d a b (f ++ 0#2 ++ 0x18#6))
  | .fsgnNeg d a b f => some (fmtR 0x02 d a b (f ++ 0#2 ++ 0x19#6))
  | .fsgnXor d a b f => some (fmtR 0x02 d a b (f ++ 0#2 ++ 0x1a#6))
  | .fma d a b c f m => some (fmtQ 0x03 d a b c (0#2 ++ f ++ m))
  | .sel d a b c => some (fmtQ 0x03 d a b c 0x10)
  | .ins d a b c => some (fmtQ 0x03 d a b c 0x11)
  | .exts d a c => some (fmtQ 0x03 d a 0 c 0x12)
  | .extu d a c => some (fmtQ 0x03 d a 0 c 0x13)
  | .addi d a i => some (fmtI 0x4 d a i)
  | .andi d a i => some (fmtI 0x5 d a i)
  | .ori d a i => some (fmtI 0x6 d a i)
  | .xori d a i => some (fmtI 0x7 d a i)
  | .slti d a i => some (fmtI 0x9 d a i)
  | .shli d a w s => some (fmtI 0x08 d a (0#2 ++ 0#7 ++ bit w ++ s))
  | .shri d a w s => some (fmtI 0x08 d a (1#2 ++ 0#7 ++ bit w ++ s))
  | .sari d a w s => some (fmtI 0x08 d a (2#2 ++ 0#7 ++ bit w ++ s))
  | .rotri d a w s => some (fmtI 0x08 d a (3#2 ++ 0#7 ++ bit w ++ s))
  | .ldhi d i => some (fmtI 0x0A d 0 i)
  | .addpc d i => some (fmtI 0x0B d 0 i)
  | .br c a b o => some (fmtB 0x10 c a b o)
  | .loop a o => some (fmtB 0x11 0 a 0 o)
  | .jmp o => some (fmtJ 0x12 o)
  | .call o => some (fmtJ 0x13 o)
  | .ret a => some (fmtR 0x14 0 a 0 0)
  | .jtab a b => some (fmtR 0x14 0 a b 1)
  | .callr d a => some (fmtR 0x14 d a 0 2)
  | .endTask => some (fmtR 0x15 0 0 0 0)
  | .endrTask => some (fmtR 0x15 0 0 0 1)
  | .ldl g b z x o => some (fmtML 0x18 g b z (bit x) o)
  | .stl g b z o => some (fmtML 0x19 g b z 0 o)
  | .ldg b p f s o => some (fmtMG 0x1A 0 b p f s (0#1 ++ bit o) 0)
  | .stg g b f s o => some (fmtMG 0x1B g b 0 f s o 0)
  | .atom g b p f s o => some (fmtMG 0x1C g b p f s o 0)
  | .cas g b p s o => some (fmtMG 0x1D g b p 0 s o 0)
  | .futGet b p s o => some (fmtMG 0x1E 0 b p 0 s o 0)
  | .futPut g b p s o => some (fmtMG 0x1E g b p 1 s o 0)
  | .futClear b p s o => some (fmtMG 0x1E 0 b p 2 s o 0)
  | .prf b s o => some (fmtMG 0x1F 0 b 0 0 s (0#1 ++ bit o) 0)
  | .cwb b p s => some (fmtMG 0x1F 0 b p 1 s 0 0)
  | .cinv b => some (fmtMG 0x1F 0 b 0 2 0 0 0)
  | .ord s o => some (fmtMG 0x20 0 0 0 0 s o 0)
  | .recv g p n c s f => some (fmtT 0x24 g p n (0#10 ++ bit c ++ bit s ++ f))
  | .peek g p n c s f => some (fmtT 0x25 g p n (0#10 ++ bit c ++ bit s ++ f))
  | .send g p n c => some (fmtT 0x26 g p n (0#14 ++ bit c))
  | .sendn p => some (fmtT 0x27 0 p 0 0)
  | .sende p e => some (fmtT 0x27 0 p 0 (0#12 ++ bit e ++ 1#2))
  | .senderr g p => some (fmtT 0x27 g p 1 2)
  | .fwd i p => some (fmtT 0x28 (0#2 ++ i) p 0 0)
  | .rsv g p n => some (fmtT 0x29 g p n 0)
  | .chq g p f => some (fmtT 0x2A g p 0 (0#11 ++ f ++ 0#2))
  | .hdr g p => some (fmtT 0x2A g p 0 1)
  | .wemit g e n => some (fmtT 0x2B g e n 0)
  | .wrsv g e n => some (fmtT 0x2C g e 0 (0#7 ++ n))
  | .issue o e m p => some (fmtC 0x30 o e m p 0)
  | .barset a b s => some (fmtR 0x31 0 a b (0#1 ++ s ++ 0#4))
  | .baradd a s => some (fmtR 0x31 0 a 0 (0#1 ++ s ++ 1#4))
  | .abload a b p => some (fmtR 0x32 0 a b (0#4 ++ p ++ 0#4))
  | .abswap b p => some (fmtR 0x32 0 0 b (0#4 ++ p ++ 1#4))
  | .abdrop b p => some (fmtR 0x32 0 0 b (0#4 ++ p ++ 2#4))
  | .abqry a b p => some (fmtR 0x32 0 a b (0#4 ++ p ++ 3#4))
  | .cfgload a b p => some (fmtR 0x33 0 a b (0#4 ++ p ++ 0#4))
  | .cfgloadRestore a b p => some (fmtR 0x33 0 a b (0#4 ++ p ++ 1#4))
  | .place a b p => some (fmtR 0x34 0 a b (0#4 ++ p ++ 0#4))
  | .mark a p => some (fmtR 0x34 0 a 0 (0#4 ++ p ++ 1#4))
  | .pwreq d a => some (fmtR 0x35 d a 0 0)
  | .pwrel => some (fmtR 0x35 0 0 0 1)
  | .prio c => some (fmtI 0x36 0 0 (0#14 ++ c))
  | .csrr g c => some (fmtS 0x38 g 0 c 0)
  | .csrw a c => some (fmtS 0x38 0 a c 1)
  | .csrx g a c => some (fmtS 0x38 g a c 2)
  | .krd g k => some (fmtS 0x38 g 0 (0#8 ++ k) 3)
  | .kwr a k => some (fmtS 0x38 0 a (0#8 ++ k) 4)
  | .time g => some (fmtS 0x39 g 0 0 0)
  | .trap c => some (fmtS 0x3A 0 0 c 0)
  | .eret => some (fmtS 0x3A 0 0 0 1)
  | .brk => some (fmtS 0x3A 0 0 0 2)
  | .halt => some (fmtS 0x3A 0 0 0 3)
  | .mxsave => some (fmtS 0x3B 0 0 0 0)
  | .mxrest => some (fmtS 0x3B 0 0 0 1)
  | .nop => some 0xFC000000#32
  | .cpy _ _ => none
  | .gath _ _ => none
  | .scat _ _ => none
  | .bred _ => none
  | .mma _ _ => none
  | .mmac _ _ => none
  | .accrd _ _ => none
  | .lstr _ _ => none
  | .abrun _ _ => none
  | .rsend _ => none
  | .followOnDelivery _ => none
  | .rsendRemoteDelivery _ => none
  | .completionToken _ => none
  | .barrierSubtract _ => none
  | .ladd _ _ => none
  | .lsub _ _ => none
  | .lmul _ _ => none
  | .lfma _ _ => none
  | .lmin _ _ => none
  | .lmax _ _ => none
  | .lcvt _ _ => none
  | .lexp2 _ _ => none
  | .lrcp _ _ => none
  | .lrsq _ _ => none
  | .llog _ _ => none
  | .lsel _ _ => none
  | .lselSwitch _ _ => none
  | .lcmp _ _ => none
  | .lshf _ _ => none
  | .lpass _ _ => none
  | .ldly _ _ => none
  | .lrow _ _ => none
  | .lscale _ _ => none
  | .lacc _ _ => none
  | .lred _ _ => none
  | .lperm _ _ => none
  | .edge _ _ => none
  | .cover _ _ => none
  | .resolverTileBegin _ _ => none
  | .resolverSample _ _ => none
  | .resolverTileDone _ _ => none
  | .aplane _ _ => none
  | .rbox _ _ => none
  | .rtri _ _ => none
  | .routerHop _ _ _ => none
  | .filterBurstEmit _ _ => none
  | .tokenReceive _ _ => none
  | .heldErrorSend _ _ => none
  | .engineElementStep _ _ => none
  | .engineConfigApply _ _ => none
  | .nullPropagate _ _ => none
  | .eosJoin _ _ => none
  | .shapeError _ _ => none
  | .orderedMergePosition _ _ => none
  | .arrivalMergeToken _ _ _ => none
  | .counterIndexEmit _ _ => none
  | .counterEosEmit _ _ => none
  | .controllerEnableReceive _ _ => none
  | .controllerDoneReceive _ _ => none
  | .launchTokenArrival _ => none
  | .launchEnd _ => none
  | .firingSelect _ => none
  | .residencyProbe _ _ _ => none
  | .taskStart _ => none
  | .handlerCallArrival _ _ => none
  | .taskLengthExceeded => none
  | .handlerLimitExceeded => none
  | .pageWalk _ _ => none
  | .spillRetry _ _ => none
  | .faultWindowExpiry _ _ => none
  | .requestResponse _ _ _ => none
  | .storeAccept _ _ => none
  | .bankOperationPerform _ _ => none
  | .futureGetPerform _ _ => none
  | .futurePutPerform _ _ => none
  | .futureClearPerform _ _ => none
  | .writePerform _ _ => none
  | .invalidationAck _ _ => none
  | .evictionNotice _ _ => none
  | .hostRead _ _ _ => none
  | .hostWrite _ _ _ => none
  | .peerAccess _ _ _ _ _ => none
  | .uncorrectableLineError _ => none
  | .scratchpadUncorrectable _ _ => none
  | .metadataError _ _ => none
  | .correctedError _ _ _ _ => none
  | .dieReset _ _ => none
  | .qdbWrite _ _ _ => none
  | .qcfgWrite _ _ _ => none
  | .frontEndSelect _ => none
  | .launchPortRequest _ _ => none
  | .placementSearch _ _ => none
  | .quantumPreempt _ => none
  | .elasticSample _ _ => none
  | .elasticWindowEnd _ _ => none
  | .replicaRetire _ _ => none
  | .orderedMembershipChange _ _ => none
  | .distributorRoute _ _ => none
  | .distributorEosRelease _ _ => none
  | .rayAdmission _ _ => none
  | .workRecordDelivery _ => none
  | .powerRefill _ => none
  | .ingressCreditWait _ => none
  | .heavyCommandHold _ _ => none
  | .matrixGroupAdd _ _ => none
  | .memoryActorLoad _ _ => none
  | .memoryActorStore _ _ => none
  | .memoryActorEosForward _ _ => none
  | .abacusInputBurst _ _ => none
  | .abacusVectorOutput _ _ => none
  | .abacusLoadComplete _ _ => none
  | .abacusSwapEffect _ _ => none
  | .abacusConfigToken _ _ => none
  | .blenderToken _ _ => none
  | .displayFrameStart _ _ => none
  | .presentToken _ _ => none
  | .dctlWrite _ _ _ => none
  | .esctlWrite _ _ _ => none
  | .encoderFrameDone _ _ _ => none
  | .cutreqWrite _ _ => none
  | .solsticeArrival _ _ _ => none
  | .actorSave _ _ => none
  | .recordToken _ _ _ => none
  | .snapshotComplete _ => none
  | .checkpointCopy _ => none
  | .checkpointCopyDone => none
  | .checkpointRestoreCopy _ => none
  | .connectionEntryWrite _ _ => none
  | .circuitCalibrated _ => none
  | .bulkCircuitDrain _ => none
  | .ctstatWrite _ => none
  | .flitReplay _ => none
  | .dieEdgeDown _ => none
  | .sisterLinkDown _ => none
  | .linkChannelToken _ _ _ _ => none
  | .ideIntegrityFailure _ => none
  | .tdiStateChange _ _ => none
  | .trootWrite _ => none
  | .equinoxSyncMessage _ _ _ _ => none
  | .equinoxLock _ _ _ => none
  | .frzWrite _ => none
  | .freezeInput => none
  | .sldescWrite _ _ => none
  | .tinv0Write _ _ => none
  | .tinv1Write _ _ => none
  | .tinvDone _ => none
  | .hwcntRead _ => none
  | .trresWrite _ _ => none
  | .trdataRead _ => none
  | .trdataWrite _ _ => none
  | .registerWrite _ _ => none
  | .powerGood => none
  | .bootStage _ _ _ => none
  | .recoveryImage _ _ => none
  | .perstRelease => none
  | .debugUnlock _ => none
  | .spdmGetVersion _ _ => none
  | .spdmGetCapabilities _ _ => none
  | .spdmNegotiateAlgorithms _ _ => none
  | .spdmGetDigests _ _ => none
  | .spdmGetCertificate _ _ => none
  | .spdmChallenge _ _ => none
  | .spdmGetMeasurements _ _ => none
  | .spdmKeyExchange _ _ => none
  | .spdmFinish _ _ => none
  | .thermalThrottle _ _ => none
  | .thermalShutdown => none
  | .cfgloadLoadComplete _ => none
  | .sisterLinkUp _ => none
  | .dieStateCleared _ => none

/-! ### Stream commands (R287, R288) -/

/-- A stream command's decoded fields, under the names of R288 and R269. -/
inductive Command where
  | cpy (tr fo : Bool) (src dst : BitVec 18) (ext : Option (BitVec 18))
  | gath (table dst ext : BitVec 18)
  | scat (src table ext : BitVec 18)
  | bred (bop : BitVec 4) (val tgt : BitVec 18) (ext : Option (BitVec 18))
  | mma (acc : BitVec 2) (clr : Bool) (rnd : BitVec 2) (afmt bfmt : BitVec 5) (acm bcm : Bool) (kc : BitVec 16)
      (pol : BitVec 4) (ain bin : Port)
  | mmac (acc : BitVec 2) (clr : Bool) (rnd : BitVec 2) (src : BitVec 2) (dfmt : BitVec 5) (ascale : BitVec 8) (bcm : Bool)
      (bfmt : BitVec 5) (pol : BitVec 4) (bin : Port)
  | accrd (acc : BitVec 2) (clr : Bool) (rnd : BitVec 2) (ofmt : BitVec 5) (sadj : BitVec 8) (blen : BitVec 8)
      (pol : BitVec 4) (oport : Port)
  | lstr (seg : BitVec 2) (x dst : BitVec 18) (y : Option (BitVec 18))
  | abrun (inp out : BitVec 18) (iscale : BitVec 8)
  | rsend (link : BitVec 3) (src dst : BitVec 18) (ext : Option (BitVec 18))
  deriving DecidableEq, Repr

/-- The common fields of w0 (R287). -/
structure CmdHead where
  slot : Option (BitVec 6)
  sc : Scope
  ct : Bool
  deriving DecidableEq, Repr

/-- Bits [lo + n - 1 : lo] of a command, of which w0 is [31:0]. -/
def cfld (w : BitVec 128) (lo n : Nat) : BitVec n := w.extractLsb' lo n

/-- The optional local address in w3 (R9): bit 31 marks it present, and an absent one must be zero.
[DESIGN CHOICE: notes/assumptions/101.md] -/
def optAddr (w : BitVec 128) : Option (Option (BitVec 18)) :=
  if cfld w 114 13 ≠ 0 then none
  else if w.getLsbD 127 then some (some (cfld w 96 18))
  else if cfld w 96 18 = 0 then some none else none

/-- A local address of a descriptor or extension block is a multiple of 8 (R288). -/
def addrOk (a : BitVec 18) : Bool := decide (a.toNat % 8 = 0)

/-- Decoding of a stream command (R287, R288, R291): none for a reserved op, a reserved bit set or a field outside its
range. What its descriptors and extension block hold is checked where they are read. -/
def decodeCommand (w : BitVec 128) : Option (CmdHead × Command) :=
  let bn := w.getLsbD 23
  let hd : CmdHead := ⟨if bn then some (cfld w 17 6) else none, cfld w 15 2, w.getLsbD 14⟩
  let ct := w.getLsbD 14
  let a1 := cfld w 32 18
  let a2 := cfld w 64 18
  let a3 := cfld w 96 18
  let addrs := decide (cfld w 50 14 = 0) && decide (cfld w 82 14 = 0) && addrOk a1 && addrOk a2
  if !bn && decide (cfld w 17 6 ≠ 0) then none else
  match (cfld w 24 8).toNat with
  | 0x01 =>
    match optAddr w with
    | none => none
    | some x =>
      if decide (cfld w 0 12 = 0) && addrs && (match x with | some e => addrOk e | none => !(ct || w.getLsbD 12))
      then some (hd, .cpy (w.getLsbD 13) (w.getLsbD 12) a1 a2 x) else none
  | 0x02 => if decide (cfld w 0 14 = 0) && addrs && w.getLsbD 127 && decide (cfld w 114 13 = 0) && addrOk a3
      then some (hd, .gath a1 a2 a3) else none
  | 0x03 => if decide (cfld w 0 14 = 0) && addrs && w.getLsbD 127 && decide (cfld w 114 13 = 0) && addrOk a3
      then some (hd, .scat a1 a2 a3) else none
  | 0x04 =>
    match optAddr w with
    | none => none
    | some x =>
      if decide (cfld w 0 10 = 0) && addrs && (match x with | some e => addrOk e | none => !ct)
      then some (hd, .bred (cfld w 10 4) a1 a2 x) else none
  | 0x05 => if decide (cfld w 0 9 = 0) && !bn && !ct && decide (cfld w 70 26 = 0) && decide (cfld w 96 32 = 0)
      then some (hd, .mma (cfld w 12 2) (w.getLsbD 11) (cfld w 9 2) (cfld w 32 5) (cfld w 37 5) (w.getLsbD 42)
        (w.getLsbD 43) (cfld w 44 16) (cfld w 60 4) (cfld w 64 3) (cfld w 67 3)) else none
  | 0x06 => if decide (cfld w 0 9 = 0) && !bn && !ct && decide (cfld w 57 7 = 0) && decide (cfld w 67 29 = 0)
        && decide (cfld w 96 32 = 0) && decide (cfld w 12 2 ≠ cfld w 32 2)
      then some (hd, .mmac (cfld w 12 2) (w.getLsbD 11) (cfld w 9 2) (cfld w 32 2) (cfld w 34 5) (cfld w 39 8)
        (w.getLsbD 47) (cfld w 48 5) (cfld w 53 4) (cfld w 64 3)) else none
  | 0x07 => if decide (cfld w 0 9 = 0) && !bn && !ct && decide (cfld w 57 7 = 0) && decide (cfld w 67 29 = 0)
        && decide (cfld w 96 32 = 0)
      then some (hd, .accrd (cfld w 12 2) (w.getLsbD 11) (cfld w 9 2) (cfld w 32 5) (cfld w 37 8) (cfld w 45 8)
        (cfld w 53 4) (cfld w 64 3)) else none
  | 0x08 =>
    match optAddr w with
    | none => none
    | some y =>
      if decide (cfld w 0 12 = 0) && addrs && !ct && (match y with | some e => addrOk e | none => true)
      then some (hd, .lstr (cfld w 12 2) a1 a2 y) else none
  | 0x09 => if decide (cfld w 0 14 = 0) && addrs && !ct && decide (cfld w 104 24 = 0)
      then some (hd, .abrun a1 a2 (cfld w 96 8)) else none
  | 0x0A =>
    match optAddr w with
    | none => none
    | some x =>
      if decide (cfld w 0 11 = 0) && addrs && decide (cfld w 15 2 = 3) && (match x with | some e => addrOk e | none => !ct)
      then some (hd, .rsend (cfld w 11 3) a1 a2 x) else none
  | _ => none

/-- w0 of a command (R287): opcode, head and per-command bits. -/
def cmdW0 (op : BitVec 8) (h : CmdHead) (per : BitVec 14) : Word :=
  op ++ bit h.slot.isSome ++ (h.slot.getD 0) ++ h.sc ++ bit h.ct ++ per

/-- w3 of a command that names an optional local address. -/
def optW3 : Option (BitVec 18) → Word
  | none => 0
  | some a => 1#1 ++ 0#13 ++ a

/-- A word that holds one local address. -/
def addrW (a : BitVec 18) : Word := 0#14 ++ a

/-- The encoding of a stream command (R288). -/
def encodeCommand (h : CmdHead) : Command → BitVec 128
  | .cpy tr fo s d x => optW3 x ++ addrW d ++ addrW s ++ cmdW0 0x01 h (bit tr ++ bit fo ++ 0#12)
  | .gath t d x => optW3 (some x) ++ addrW d ++ addrW t ++ cmdW0 0x02 h 0
  | .scat s t x => optW3 (some x) ++ addrW t ++ addrW s ++ cmdW0 0x03 h 0
  | .bred op v t x => optW3 x ++ addrW t ++ addrW v ++ cmdW0 0x04 h (op ++ 0#10)
  | .mma d c r af bf ac bc k pol ai bi =>
    0#32 ++ ((0#26 ++ bi ++ ai : Word)) ++ ((pol ++ k ++ bit bc ++ bit ac ++ bf ++ af : Word)) ++
      cmdW0 0x05 h (d ++ bit c ++ r ++ 0#9)
  | .mmac d c r s f e bc bf pol bi =>
    0#32 ++ ((0#29 ++ bi : Word)) ++ ((0#7 ++ pol ++ bf ++ bit bc ++ e ++ f ++ s : Word)) ++
      cmdW0 0x06 h (d ++ bit c ++ r ++ 0#9)
  | .accrd d c r f sj b pol o =>
    0#32 ++ ((0#29 ++ o : Word)) ++ ((0#7 ++ pol ++ b ++ sj ++ f : Word)) ++ cmdW0 0x07 h (d ++ bit c ++ r ++ 0#9)
  | .lstr g x d y => optW3 y ++ addrW d ++ addrW x ++ cmdW0 0x08 h (g ++ 0#12)
  | .abrun i o e => ((0#24 ++ e : Word)) ++ addrW o ++ addrW i ++ cmdW0 0x09 h 0
  | .rsend l s d x => optW3 x ++ addrW d ++ addrW s ++ cmdW0 0x0A h (l ++ 0#11)

/-! ### Lane words (R292, R293) -/

/-- A lane word's fields. -/
structure LaneWord where
  op : Nat := 0
  sa : BitVec 3 := 0
  sb : BitVec 3 := 0
  sc : BitVec 3 := 0
  out : BitVec 3 := 0
  pol : BitVec 4 := 0
  p : BitVec 10 := 0
  deriving DecidableEq, Repr

/-- Operands used by a lane opcode (0 none, 1 A, 2 A and B, 3 all), and whether it is marked P; none if unassigned. -/
def laneOp : Nat → Option (Nat × Bool)
  | 0x00 => some (0, false)
  | 0x01 | 0x02 | 0x03 | 0x05 | 0x06 | 0x0D | 0x12 | 0x1C | 0x1D => some (2, false)
  | 0x04 | 0x0B => some (3, false)
  | 0x07 | 0x10 | 0x11 | 0x13 | 0x14 | 0x15 | 0x18 | 0x1A => some (1, true)
  | 0x08 | 0x09 | 0x0A | 0x0E | 0x0F => some (1, false)
  | 0x0C | 0x19 => some (2, true)
  | _ => none

/-- Decoding of a lane word: an unassigned opcode, a select the opcode does not use, select 4 in a word marked P or beside
select 3, for which p would have two meanings, or a non-zero field of an idle lane is refused (R292, R293). -/
def decodeLane (w : Word) : Option LaneWord :=
  let l : LaneWord := ⟨(fld w 26 6).toNat, fld w 23 3, fld w 20 3, fld w 17 3, fld w 14 3, fld w 10 4, fld w 0 10⟩
  match laneOp l.op with
  | none => none
  | some (n, p) =>
    if (decide (1 ≤ n) || decide (l.sa = 0)) && (decide (2 ≤ n) || decide (l.sb = 0)) && (decide (3 ≤ n) || decide (l.sc = 0))
      && !((l.sa == 4 || l.sb == 4 || l.sc == 4) && (p || l.sa == 3 || l.sb == 3 || l.sc == 3)) && (decide (1 ≤ n) || decide (fld w 0 26 = 0))
    then some l else none

/-- The encoding of a lane word (R292). -/
def encodeLane (l : LaneWord) : Word := BitVec.ofNat 6 l.op ++ l.sa ++ l.sb ++ l.sc ++ l.out ++ l.pol ++ l.p

/-! ### The table's numbering -/

/-- The instruction the decoder reads from the bits `w`, numbered as spec/opcode_table.json numbers them: a scalar
instruction is one 32-bit word, laid out little-endian (R6, R272). -/
def decodeTableWord (_nbits w : Nat) : Option Instr :=
  let b (k : Nat) : Byte := BitVec.ofNat 8 (w / 2 ^ (8 * k))
  match decodeBytes [b 0, b 1, b 2, b 3] with
  | .ok (i, _) => some i
  | .error _ => none

end Sys2Proof
end

