-- ==== Sys2Proof/Config.lean ====
section
/-! DEFINITION. What an implementation fixes and the values the spec leaves open. Every `opaque` constant has no
body that a proof can see: a statement that holds for the model holds for every value of it. -/

namespace Sys2Proof.Config

/-- Free values, read at the state's `fresh` counter: a value the spec leaves open at a step (notes/assumptions/2.md).
[DESIGN CHOICE: notes/assumptions/2.md] -/
opaque freeWord : Nat → Dw

/-- What fixes the retry interval of R133 within its bounds. [DESIGN CHOICE: notes/assumptions/18.md] -/
opaque retryWord : Dw

/-- Free choices, read at the state's `fresh` counter: which of two outcomes the spec allows (R54, R342, R404).
[DESIGN CHOICE: notes/assumptions/2.md] -/
opaque freeChoice : Nat → Bool

/-- Which of the two values bracketing the exact result FEXP2 and FLOG2 return in FP32 and FP64: the greater one when
true. The same for the same function, format, mode and operand (R356, R375). [DESIGN CHOICE: notes/assumptions/49.md] -/
opaque bracketUp : (log : Bool) → (fmt mode operand : Nat) → Bool

/-- The hash SHA3-256 that measured boot and attestation name without defining it (R254 to R256).
[DESIGN CHOICE: notes/assumptions/69.md] -/
opaque sha3 : List Byte → BitVec 256

/-- The bytes of an SPDM 1.3 response, whose message layouts the spec does not give (R256): by request code, function
number, request bytes, the certificates of the identity and alias keys, and the measurement blocks returned.
[DESIGN CHOICE: notes/assumptions/69.md] -/
opaque spdmReply : (code fn : Nat) → List Byte → (certs : List (List Byte)) → List (BitVec 256) → List Byte

/-- What the signed configuration record fixes in place of fuses (R257), in SI units: the module form, bytes of GDDR7 fitted, the DVFS
limits in MHz, the board power limit in W, the thermal limits in °C, the lanes of the host link, the default slice descriptors and the
SLCFG values. -/
structure BootRecord where
  module_ : Bool := false
  fitted : Nat := 0
  dvfsLow : Nat := 0
  dvfsHigh : Nat := 0
  power : Nat := 0
  throttle : Nat := 0
  shutdown : Nat := 0
  lanes : Nat := 0
  slices : List (BitVec 128) := []
  links : List (BitVec 128) := []
  deriving DecidableEq, Repr

/-- The configuration record that an image of boot stage 3 holds, none where its bytes make none: the spec gives no layout
(R257). [DESIGN CHOICE: notes/assumptions/99.md] -/
opaque bootRecord : List Byte → Option BootRecord

/-- The bytes that a slice's measurement is extended with: its descriptor, its connection-table entries, its SLCFGs and its TDI state,
which the spec names and does not lay out (R254). [DESIGN CHOICE: notes/assumptions/69.md] -/
opaque sliceBytes : (desc : BitVec 128) → (entries : List Dw) → (links : List (BitVec 128)) → (tdi : Nat) → List Byte

/-- The identity key of the part, from its physically unclonable function and the ROM's measurement, and Brixsin's certificate for it
(R255). [DESIGN CHOICE: notes/assumptions/69.md] -/
opaque identityKey : List Byte
opaque identityCert : List Byte

/-- The alias key that the device derives from stage 1's measurement, and the identity key's certificate for a key (R255).
[DESIGN CHOICE: notes/assumptions/69.md] -/
opaque aliasKey : BitVec 256 → List Byte
opaque certify : (signer key : List Byte) → List Byte

/-- How the operand tokens of a bank actor, one from each named input, name the operation of R137, its address, its value and the
expected value of CAS: the spec gives their effect but no layout (R137, R300; notes/assumptions/23.md).
[DESIGN CHOICE: notes/assumptions/23.md] -/
opaque bankOperands : (tokens : List (List Dw)) → BitVec 4 × Dw × Dw × Dw

/-- The limits of a mesh actor (R196): the vertex and primitive limits and the output port that the doublewords of an actor's record
declare, none where the actor is no mesh actor. The spec gives them to the record but no field of it.
[DESIGN CHOICE: notes/assumptions/98.md] -/
opaque meshLimits : (record : List Dw) → Option (BitVec 8 × BitVec 9 × BitVec 3)

/-- What a data token sent on a mesh output port is (R196): the vertex indexes of a primitive, or none for a vertex. The spec gives
no layout. [DESIGN CHOICE: notes/assumptions/98.md] -/
opaque meshIndexes : (payload : List Dw) → Option (List Nat)

end Sys2Proof.Config
end

