-- ==== Sys2Proof/Machine/Sparse.lean ====
section
/-! DEFINITION. Sparse maps: the one canonical form in which the state holds memory, register files and every other
numbered collection. A map is a list of (key, value) pairs with strictly rising keys and no entry equal to the value
`d` that an unlisted key reads as, so equal maps are equal lists. -/

namespace Sys2Proof.Machine

/-- A sparse map from numbers to values; what an unlisted key reads as is given at each use. -/
abbrev Sparse (α : Type) := List (Nat × α)

/-- The value at key `k`; an unlisted key reads as `d`. -/
def sget {α : Type} (d : α) : Sparse α → Nat → α
  | [], _ => d
  | (j, v) :: m, k => if k = j then v else if k < j then d else sget d m k

/-- The map with key `k` holding `v`: an entry equal to `d` is removed, so the canonical form is kept. -/
def sset {α : Type} [DecidableEq α] (d : α) : Sparse α → Nat → α → Sparse α
  | [], k, v => if v = d then [] else [(k, v)]
  | (j, u) :: m, k, v =>
    if k = j then (if v = d then m else (k, v) :: m)
    else if k < j then (if v = d then (j, u) :: m else (k, v) :: (j, u) :: m)
    else (j, u) :: sset d m k v

/-- Every key of `m` is above `b`, keys rise strictly, and no entry equals `d`. -/
def swfFrom {α : Type} [DecidableEq α] (d : α) (b : Option Nat) : Sparse α → Bool
  | [] => true
  | (j, v) :: m => (match b with | none => true | some i => decide (i < j)) && decide (v ≠ d) && swfFrom d (some j) m

/-- The canonical form of a sparse map. -/
def swf {α : Type} [DecidableEq α] (d : α) (m : Sparse α) : Bool := swfFrom d none m

/-- The first listed entry that satisfies `p`, with its key. -/
def sfind {α : Type} (p : Nat → α → Bool) : Sparse α → Option (Nat × α)
  | [] => none
  | (j, v) :: m => if p j v then some (j, v) else sfind p m

/-- The map with every listed value changed by `f`. -/
def smap {α : Type} [DecidableEq α] (d : α) (f : Nat → α → α) : Sparse α → Sparse α
  | [] => []
  | (j, v) :: m => let u := f j v; if u = d then smap d f m else (j, u) :: smap d f m

/-- The list `l` with the item at place `k` replaced, unchanged where there is none. -/
def lset {α : Type} : List α → Nat → α → List α
  | [], _, _ => []
  | _ :: l, 0, v => v :: l
  | a :: l, k + 1, v => a :: lset l k v

/-- The list `l` without the item at place `k`. -/
def ldrop {α : Type} : List α → Nat → List α
  | [], _ => []
  | _ :: l, 0 => l
  | a :: l, k + 1 => a :: ldrop l k

/-- The place and value of the first item that satisfies `p`. -/
def lfind {α : Type} (p : α → Bool) : List α → Nat → Option (Nat × α)
  | [], _ => none
  | a :: l, n => if p a then some (n, a) else lfind p l (n + 1)

end Sys2Proof.Machine
end

