-- ==== Sys2Proof/Machine/Fp.lean ====
section
/-! DEFINITION. Number formats and arithmetic (R70 to R82): every format to the bit, exact values, and the one set of
rounding, special-value and conversion rules that every unit applies. Values are exact; a result is rounded once. -/

namespace Sys2Proof.Machine

/-- The element formats of R68, and INT64 of FCVT (R277). -/
inductive Fmt where
  | fp32 | fp64 | bf16 | fp16 | e4m3 | e5m2 | e3m2 | e2m3 | e2m1 | int8 | int4 | int16 | int32 | int64
  deriving DecidableEq, Repr

/-- The format of an element format code (R68); none for a reserved code. -/
def Fmt.ofCode : Nat → Option Fmt
  | 0 => some .fp32 | 1 => some .fp64 | 2 => some .bf16 | 3 => some .fp16 | 4 => some .e4m3 | 5 => some .e5m2
  | 6 => some .e3m2 | 7 => some .e2m3 | 8 => some .e2m1 | 9 => some .int8 | 10 => some .int4 | 11 => some .int16
  | 12 => some .int32 | _ => none

/-- The format of a scalar format code (R277). -/
def Fmt.ofScalar : Nat → Fmt
  | 0 => .fp32 | 1 => .fp64 | 2 => .bf16 | 3 => .fp16 | 4 => .int64 | _ => .int32

/-- Width in bits (R68). -/
def Fmt.width : Fmt → Nat
  | .fp32 => 32 | .fp64 => 64 | .bf16 => 16 | .fp16 => 16 | .e4m3 => 8 | .e5m2 => 8 | .e3m2 => 6 | .e2m3 => 6
  | .e2m1 => 4 | .int8 => 8 | .int4 => 4 | .int16 => 16 | .int32 => 32 | .int64 => 64

/-- Exponent width, mantissa width and bias of a floating-point format (R70); none for an integer format. -/
def Fmt.float : Fmt → Option (Nat × Nat × Nat)
  | .fp32 => some (8, 23, 127) | .fp64 => some (11, 52, 1023) | .bf16 => some (8, 7, 127) | .fp16 => some (5, 10, 15)
  | .e4m3 => some (4, 3, 7) | .e5m2 => some (5, 2, 15) | .e3m2 => some (3, 2, 3) | .e2m3 => some (2, 3, 1)
  | .e2m1 => some (2, 1, 1) | _ => none

/-- The format is an integer format (R72). -/
def Fmt.isInt (f : Fmt) : Bool := f.float.isNone

/-- The format has infinities and NaNs in its all-ones exponent (R70). -/
def Fmt.ieee : Fmt → Bool
  | .fp32 | .fp64 | .bf16 | .fp16 | .e5m2 => true
  | _ => false

/-- The format has NaNs (R71). -/
def Fmt.hasNaN (f : Fmt) : Bool := f.ieee || decide (f = .e4m3)

/-- Emax of *Emax by format* (R310). -/
def Fmt.emax : Fmt → Int
  | .e4m3 => 8 | .e5m2 => 15 | .e3m2 => 4 | .e2m3 => 2 | .e2m1 => 2 | .int8 => 6 | .int4 => 2 | .int16 => 14
  | .int32 => 30 | _ => 0

/-- An exact value (R81): a NaN with sign, quietness and payload left-aligned in 51 bits; a signed infinity; or a signed
magnitude n / d. -/
inductive Val where
  | nan (s quiet : Bool) (payload : Nat)
  | inf (s : Bool)
  | fin (s : Bool) (n d : Nat)
  deriving DecidableEq, Repr

/-- The canonical NaN's value (R71). -/
def Val.canon : Val := .nan false true 0

/-- +0. -/
def Val.zero : Val := .fin false 0 1

/-- n × 2^t as a magnitude. -/
def scale2 (s : Bool) (n : Nat) (t : Int) : Val :=
  if 0 ≤ t then .fin s (n * 2 ^ t.toNat) 1 else .fin s n (2 ^ (-t).toNat)

/-- The value of an integer. -/
def Val.ofInt (i : Int) : Val := .fin (decide (i < 0)) i.natAbs 1

def Val.isNaN : Val → Bool
  | .nan .. => true
  | _ => false

def Val.isInf : Val → Bool
  | .inf _ => true
  | _ => false

/-- A signalling NaN (R71). -/
def Val.signalling : Val → Bool
  | .nan _ q _ => !q
  | _ => false

def Val.isZero : Val → Bool
  | .fin _ n _ => decide (n = 0)
  | _ => false

def Val.sign : Val → Bool
  | .nan s _ _ => s
  | .inf s => s
  | .fin s _ _ => s

/-- The value with its sign inverted. -/
def Val.neg : Val → Val
  | .nan s q p => .nan (!s) q p
  | .inf s => .inf (!s)
  | .fin s n d => .fin (!s) n d

/-- The two's-complement reading of the low `w` bits of `x` (Sext, R81). -/
def sextNat (x w : Nat) : Int := if x % 2 ^ w < 2 ^ (w - 1) then (x % 2 ^ w : Nat) else (x % 2 ^ w : Nat) - (2 ^ w : Nat)

/-- The low `w` bits of an integer. -/
def lowBits (i : Int) (w : Nat) : Nat := (i % (2 ^ w : Nat)).toNat

/-- The value of an encoding (R70 to R72). -/
def Fmt.value (f : Fmt) (x : Nat) : Val :=
  match f.float with
  | none => .ofInt (sextNat x f.width)
  | some (we, wm, b) =>
    let m := x % 2 ^ wm
    let e := x / 2 ^ wm % 2 ^ we
    let s := decide (x / 2 ^ (we + wm) % 2 = 1)
    if e = 0 then scale2 s m (1 - (b : Int) - wm)
    else if f.ieee && decide (e = 2 ^ we - 1) then
      if m = 0 then .inf s
      else .nan s (decide (2 ^ (wm - 1) ≤ m)) (m % 2 ^ (wm - 1) * 2 ^ (52 - wm))
    else if decide (f = .e4m3) && decide (e = 15) && decide (m = 7) then .nan s true 0
    else scale2 s (2 ^ wm + m) ((e : Int) - b - wm)

/-- The encoding is a subnormal: non-zero with exponent field 0 (IsSub, R81). -/
def Fmt.isSub (f : Fmt) (x : Nat) : Bool :=
  match f.float with
  | none => false
  | some (we, wm, _) => decide (x / 2 ^ wm % 2 ^ we = 0) && decide (x % 2 ^ wm ≠ 0)

/-- The special-value policy bits (R78), in the order of FCTL: 3 fsi, 2 fsr, 1 nan, 0 sat. -/
def polFsi (p : BitVec 4) : Bool := p.getLsbD 3
def polFsr (p : BitVec 4) : Bool := p.getLsbD 2
def polNan (p : BitVec 4) : Bool := p.getLsbD 1
def polSat (p : BitVec 4) : Bool := p.getLsbD 0

/-- The value of an operand after FlushIn (R81). -/
def Fmt.operand (f : Fmt) (pol : BitVec 4) (x : Nat) : Val :=
  if polFsi pol && f.isSub x then .fin (decide (x / 2 ^ (f.width - 1) % 2 = 1)) 0 1 else f.value x

/-! ### Exact magnitudes and rounding (R76, R81) -/

/-- A positive real as rounding sees it: a quotient, the square root of a quotient, or an irrational between
m / 2^k and (m + 1) / 2^k. -/
inductive Mag where
  | rat (n d : Nat)
  | root (n d : Nat)
  | near (m k : Nat)
  deriving DecidableEq, Repr

/-- The greatest r with r × r at most x, found bit by bit from bit `b`. -/
def sqrtFrom (x : Nat) : Nat → Nat → Nat
  | 0, r => r
  | b + 1, r => let r' := r + 2 ^ b; sqrtFrom x b (if r' * r' ≤ x then r' else r)

/-- The integer square root. -/
def isqrt (x : Nat) : Nat := sqrtFrom x (Nat.log2 x / 2 + 1) 0

/-- n / (d × 2^t), floored, and how the remainder lies: 0 none, 1 below half, 2 half, 3 above half. -/
def divAt (n d : Nat) (t : Int) : Nat × Nat :=
  let n' := if 0 ≤ t then n else n * 2 ^ (-t).toNat
  let d' := if 0 ≤ t then d * 2 ^ t.toNat else d
  let q := n' / d'
  let r := n' % d'
  (q, if r = 0 then 0 else if 2 * r < d' then 1 else if 2 * r = d' then 2 else 3)

/-- The magnitude in units of 2^t, floored, and how the remainder lies, as for `divAt`. -/
def Mag.at (m : Mag) (t : Int) : Nat × Nat :=
  match m with
  | .rat n d => divAt n d t
  | .root n d =>
    let (q, c) := divAt n d (2 * t)
    let r := isqrt q
    -- half: compare n/d with ((2r + 1) 2^t / 2)^2, that is 4 n/(d 4^t) with (2r + 1)^2
    let (q4, c4) := divAt (4 * n) d (2 * t)
    let h := (2 * r + 1) * (2 * r + 1)
    (r, if decide (r * r = q) && decide (c = 0) then 0
        else if q4 < h then 1 else if decide (q4 = h) && decide (c4 = 0) then 2 else 3)
  | .near x k =>
    let s := t + k
    if 0 ≤ s then
      let u := 2 ^ s.toNat
      (x / u, if 2 * (x % u) < u then 1 else 3)
    else (x * 2 ^ (-s).toNat, 1)

/-- floor(log2 (n / d)). -/
def log2Rat (n d : Nat) : Int :=
  let k : Int := (Nat.log2 n : Int) - Nat.log2 d
  if (divAt n d k).1 = 0 then k - 1 else k

/-- The exponent of a magnitude. -/
def Mag.exp (m : Mag) : Int :=
  match m with
  | .rat n d => log2Rat n d
  | .root n d => (log2Rat n d) / 2
  | .near x k => (Nat.log2 x : Int) - k

/-- Rounding away from the floor (Round, R81): `s` the sign, `odd` the floor's parity, `c` the remainder. -/
def roundUp (mode : Nat) (s odd : Bool) (c : Nat) : Bool :=
  match mode with
  | 0 => decide (c = 3) || (decide (c = 2) && odd)
  | 1 => false
  | 2 => !s && decide (c ≠ 0)
  | _ => s && decide (c ≠ 0)

/-- Flags of a scalar operation (R80), in the order of FFLAGS. -/
structure Flags where
  invalid : Bool := false
  divZero : Bool := false
  overflow : Bool := false
  underflow : Bool := false
  inexact : Bool := false
  deriving DecidableEq, Repr

/-- The flags as FFLAGS bits (R49). -/
def Flags.bits (f : Flags) : BitVec 5 :=
  BitVec.ofBool f.invalid ++ BitVec.ofBool f.divZero ++ BitVec.ofBool f.overflow ++ BitVec.ofBool f.underflow ++
    BitVec.ofBool f.inexact

/-- A sign bit above `k` bits. -/
def signBit (s : Bool) (k : Nat) : Nat := if s then 2 ^ k else 0

/-- The canonical NaN's encoding (R71), or none where the format has no NaN. -/
def Fmt.canonNaN (f : Fmt) : Option Nat :=
  match f.float with
  | none => none
  | some (we, wm, _) =>
    if f = .e4m3 then some 0x7F
    else if f.ieee then some ((2 ^ we - 1) * 2 ^ wm + 2 ^ (wm - 1)) else none

/-- NaNOf (R81). -/
def nanOf (v : Val) (f : Fmt) (pol : BitVec 4) : Option Nat :=
  match f.canonNaN with
  | none => none
  | some c =>
    match v with
    | .nan s _ p =>
      if !polNan pol || decide (v = .canon) then some c
      else
        match f.float with
        | none => none
        | some (we, wm, _) =>
          if f = .e4m3 then some (signBit s 7 + 0x7F) else some (signBit s (we + wm) + c + p / 2 ^ (52 - wm))
    | _ => some c

/-- The mantissa and quantum exponent of the largest finite value (R70). -/
def Fmt.maxF (f : Fmt) : Nat × Int :=
  match f.float with
  | none => (2 ^ (f.width - 1) - 1, 0)
  | some (we, wm, b) =>
    if f = .e4m3 then (14, 5)
    else if f.ieee then (2 ^ (wm + 1) - 1, (2 ^ we : Nat) - 2 - (b : Int) - wm)
    else (2 ^ (wm + 1) - 1, (2 ^ we : Nat) - 1 - (b : Int) - wm)

/-- The encoding of the largest finite value of a sign. -/
def Fmt.maxBits (f : Fmt) (s : Bool) : Nat :=
  match f.float with
  | none => if s then 2 ^ (f.width - 1) else 2 ^ (f.width - 1) - 1
  | some (we, wm, _) =>
    signBit s (we + wm) +
      (if f = .e4m3 then 0x7E else if f.ieee then (2 ^ we - 1) * 2 ^ wm - 1 else 2 ^ (we + wm) - 1)

/-- Infinity's encoding. -/
def Fmt.infBits (f : Fmt) (s : Bool) : Nat :=
  match f.float with
  | none => 0
  | some (we, wm, _) => signBit s (we + wm) + (2 ^ we - 1) * 2 ^ wm

/-- ToFormat of a non-zero finite value (R81): encoding (none for INVALID) and flags. -/
def toFinite (s : Bool) (g : Mag) (f : Fmt) (pol : BitVec 4) (mode : Nat) : Option Nat × Flags :=
  match f.float with
  | none =>
    let (q, c) := g.at 0
    let m := q + (if roundUp mode s (decide (q % 2 = 1)) c then 1 else 0)
    let lim := 2 ^ (f.width - 1)
    if s then
      if lim < m then (some lim, { overflow := true, inexact := true })
      else (some ((2 ^ f.width - m) % 2 ^ f.width), { inexact := decide (c ≠ 0) })
    else if lim ≤ m then (some (lim - 1), { overflow := true, inexact := true })
    else (some m, { inexact := decide (c ≠ 0) })
  | some (we, wm, b) =>
    let emin : Int := 1 - b
    let t : Int := max g.exp emin - wm
    let (q, c) := g.at t
    let m := q + (if roundUp mode s (decide (q % 2 = 1)) c then 1 else 0)
    let (mx, tx) := f.maxF
    -- m × 2^t > mx × 2^tx, with t ≤ tx or m at most one binade below
    let ovf := if t ≤ tx then decide (mx * 2 ^ (tx - t).toNat < m) else decide (mx < m * 2 ^ (t - tx).toNat)
    if ovf then
      let toInf := decide (mode = 0) || (decide (mode = 2) && !s) || (decide (mode = 3) && s)
      let fl : Flags := { overflow := true, inexact := true }
      if polSat pol || !toInf then (some (f.maxBits s), fl)
      else if f.ieee then (some (f.infBits s), fl)
      else (nanOf .canon f pol, fl)
    else
      let sub := decide (m < 2 ^ wm)
      if polFsr pol && decide (m ≠ 0) && sub then
        (some (signBit s (we + wm)), { underflow := true, inexact := true })
      else
        let (m', t') := if m = 2 ^ (wm + 1) then (2 ^ wm, t + 1) else (m, t)
        let e := if sub then 0 else (t' + wm + b).toNat
        (some (signBit s (we + wm) + e * 2 ^ wm + m' % 2 ^ wm),
          { underflow := sub && decide (c ≠ 0), inexact := decide (c ≠ 0) })

/-- ToFormat (R81), with the flags that R80 and R355 give its result. -/
def toFormatF (v : Val) (f : Fmt) (pol : BitVec 4) (mode : Nat) : Option Nat × Flags :=
  match v with
  | .nan .. => if f.isInt then (some 0, { invalid := true }) else (nanOf v f pol, {})
  | .inf s =>
    if f.isInt then (some (f.maxBits s), { overflow := true, inexact := true })
    else if f.ieee then (some (f.infBits s), {})
    else if polSat pol then (some (f.maxBits s), { overflow := true, inexact := true })
    else (nanOf .canon f pol, { overflow := true, inexact := true })
  | .fin s n d =>
    if n = 0 then
      (some (match f.float with | none => 0 | some (we, wm, _) => signBit s (we + wm)), {})
    else toFinite s (.rat n d) f pol mode

/-- ToFormat (R81): none is INVALID. -/
def toFormat (v : Val) (f : Fmt) (pol : BitVec 4) (mode : Nat) : Option Nat := (toFormatF v f pol mode).1

/-! ### Exact operations -/

/-- The exact sum of finite values, with the sign R77 gives an exact zero. -/
def addFin (sx : Bool) (nx dx : Nat) (sy : Bool) (ny dy : Nat) (mode : Nat) : Val :=
  let a := nx * dy
  let b := ny * dx
  if sx = sy then .fin sx (a + b) (dx * dy)
  else if a = b then .fin (decide (mode = 3)) 0 1
  else if b < a then .fin sx (a - b) (dx * dy)
  else .fin sy (b - a) (dx * dy)

/-- The first NaN among operands (R79), canonical if there is none. -/
def firstNaN (l : List Val) : Val := (l.find? Val.isNaN).getD .canon

/-- x + y: the value and whether the operation is invalid (R77, R79). -/
def Val.add (x y : Val) (mode : Nat) : Val × Bool :=
  match x, y with
  | .fin sx nx dx, .fin sy ny dy => (addFin sx nx dx sy ny dy mode, false)
  | .inf s, .inf s' => if s = s' then (.inf s, false) else (.canon, true)
  | .inf s, .fin .. => (.inf s, false)
  | .fin .., .inf s => (.inf s, false)
  | x, y => (firstNaN [x, y], false)

/-- x × y: the value and whether the operation is invalid (R79). -/
def Val.mul (x y : Val) : Val × Bool :=
  match x, y with
  | .fin sx nx dx, .fin sy ny dy => (.fin (sx != sy) (nx * ny) (dx * dy), false)
  | .inf s, .inf s' => (.inf (s != s'), false)
  | .inf s, .fin s' n _ => if n = 0 then (.canon, true) else (.inf (s != s'), false)
  | .fin s n _, .inf s' => if n = 0 then (.canon, true) else (.inf (s != s'), false)
  | x, y => (firstNaN [x, y], false)

/-- x × y + z, the product exact: the value and whether the operation is invalid (R77, R358). -/
def Val.fma (x y z : Val) (mode : Nat) : Val × Bool :=
  if x.isNaN || y.isNaN then
    match x, y with
    | .inf _, .fin _ n _ => if n = 0 then (.canon, true) else (firstNaN [x, y, z], false)
    | _, _ => (firstNaN [x, y, z], false)
  else
    match x.mul y with
    | (p, true) => (p, true)
    | (p, false) => if z.isNaN then (z, false) else p.add z mode

/-- x < y on values that are no NaN; zeros are equal. -/
def Val.lt : Val → Val → Bool
  | .inf s, .inf s' => s && !s'
  | .inf s, .fin .. => s
  | .fin .., .inf s => !s
  | .fin sx nx dx, .fin sy ny dy =>
    let a := nx * dy
    let b := ny * dx
    if sx then (if sy then decide (b < a) else decide (a ≠ 0) || decide (b ≠ 0))
    else (if sy then false else decide (a < b))
  | _, _ => false

/-- x = y on values that are no NaN; zeros are equal. -/
def Val.eqv (x y : Val) : Bool := !x.isNaN && !y.isNaN && !x.lt y && !y.lt x

/-- |x| × 2^k for a finite value; the value itself otherwise. -/
def Val.shift (v : Val) (k : Int) : Val :=
  match v with
  | .fin s n d => if 0 ≤ k then .fin s (n * 2 ^ k.toNat) d else .fin s n (d * 2 ^ (-k).toNat)
  | v => v

/-- The value rounded toward zero to an integer, for a finite value. -/
def Val.trunc : Val → Int
  | .fin s n d => if s then -((n / d : Nat) : Int) else ((n / d : Nat) : Int)
  | _ => 0

/-! ### Powers and logarithms of two (R356) -/

/-- The working precision in bits of powers and logarithms. -/
def prec : Nat := 320

/-- 2^f for the fraction f whose bits below the point are the low `k` bits of `x`, in units of 2^-prec, floored at each
product: `r` is the root of 2 for the next bit. -/
def exp2Bits (x : Nat) : Nat → Nat → Nat → Nat
  | 0, _, acc => acc
  | k + 1, r, acc =>
    let r' := isqrt (r * 2 ^ prec)
    exp2Bits x k r' (if x / 2 ^ k % 2 = 1 then acc * r' / 2 ^ prec else acc)

/-- 2^v for a finite v that is no integer, of either sign: its magnitude. -/
def exp2Mag (s : Bool) (n d : Nat) : Mag :=
  let bits : Nat := 160
  -- v = i + x / 2^bits, floored
  let t : Nat := n * 2 ^ bits / d
  let exact := decide (n * 2 ^ bits % d = 0)
  let whole : Int := if s then -(t : Int) - (if exact then 0 else 1) else (t : Int)
  let i : Int := Int.fdiv whole ((2 ^ bits : Nat) : Int)
  let x := (whole % ((2 ^ bits : Nat) : Int)).toNat
  let m := exp2Bits x bits (2 * 2 ^ prec) (2 ^ prec)
  -- m / 2^prec × 2^i; far exponents are clamped, beyond every format's range
  let i' := max (-3000) (min i 3000)
  if 0 ≤ i' then .near (m * 2 ^ i'.toNat) prec else .near m (prec + (-i').toNat)

/-- Bits below the point of log2 of y / 2^prec in [1, 2), by repeated squaring. -/
def log2Bits : Nat → Nat → Nat → Nat
  | 0, _, acc => acc
  | k + 1, y, acc =>
    let y2 := y * y / 2 ^ prec
    if 2 * 2 ^ prec ≤ y2 then log2Bits k (y2 / 2) (2 * acc + 1) else log2Bits k y2 (2 * acc)

/-- log2 of a positive value that is no power of two: sign and magnitude. -/
def log2Mag (n d : Nat) : Bool × Mag :=
  let e := log2Rat n d
  let y := if 0 ≤ e then n * 2 ^ prec / (d * 2 ^ e.toNat) else n * 2 ^ prec * 2 ^ (-e).toNat / d
  let k := 180
  let f := log2Bits k y 0
  let whole : Int := e * ((2 ^ k : Nat) : Int) + (f : Nat)
  if 0 ≤ whole then (false, .near whole.toNat k) else (true, .near (-whole - 1).toNat k)

/-- n / d is a power of two: its exponent. -/
def pow2Of (n d : Nat) : Option Int :=
  let e := log2Rat n d
  if (if 0 ≤ e then decide (n = d * 2 ^ e.toNat) else decide (n * 2 ^ (-e).toNat = d)) then some e else none

/-- The rounded result of FEXP2 or FLOG2 in a format (R356): rounded in the mode in BF16, FP16 and the FP8 formats; one of
the two bracketing values, left to the implementation, in FP32 and FP64. [DESIGN CHOICE: notes/assumptions/49.md] -/
def transcend (isLog s : Bool) (g : Mag) (f : Fmt) (pol : BitVec 4) (mode operand : Nat) : Option Nat × Flags :=
  if f = .fp32 then
    toFinite s g f pol (if Config.bracketUp isLog 0 mode operand != s then 2 else 3)
  else if f = .fp64 then
    toFinite s g f pol (if Config.bracketUp isLog 1 mode operand != s then 2 else 3)
  else toFinite s g f pol mode

/-- FRCP (R356). -/
def recip (v : Val) (f : Fmt) (pol : BitVec 4) (mode : Nat) : Option Nat × Flags :=
  match v with
  | .nan .. => (nanOf v f pol, { invalid := v.signalling })
  | .inf s => toFormatF (.fin s 0 1) f pol mode
  | .fin s n d =>
    if n = 0 then let r := toFormatF (.inf s) f pol mode; (r.1, { r.2 with divZero := true })
    else toFinite s (.rat d n) f pol mode

/-- FRSQ (R356). -/
def recipSqrt (v : Val) (f : Fmt) (pol : BitVec 4) (mode : Nat) : Option Nat × Flags :=
  match v with
  | .nan .. => (nanOf v f pol, { invalid := v.signalling })
  | .inf false => toFormatF .zero f pol mode
  | .inf true => (f.canonNaN, { invalid := true })
  | .fin s n d =>
    if n = 0 then toFormatF (.inf s) f pol mode
    else if s then (f.canonNaN, { invalid := true })
    else toFinite false (.root d n) f pol mode

/-- FEXP2 (R356). -/
def exp2 (v : Val) (f : Fmt) (pol : BitVec 4) (mode operand : Nat) : Option Nat × Flags :=
  match v with
  | .nan .. => (nanOf v f pol, { invalid := v.signalling })
  | .inf false => toFormatF (.inf false) f pol mode
  | .inf true => toFormatF .zero f pol mode
  | .fin s n d =>
    if n % d = 0 then
      let i : Int := if s then -((n / d : Nat) : Int) else ((n / d : Nat) : Int)
      toFormatF (scale2 false 1 (max (-3000) (min i 3000))) f pol mode
    else transcend false false (exp2Mag s n d) f pol mode operand

/-- FLOG2 (R356). -/
def log2 (v : Val) (f : Fmt) (pol : BitVec 4) (mode operand : Nat) : Option Nat × Flags :=
  match v with
  | .nan .. => (nanOf v f pol, { invalid := v.signalling })
  | .inf false => toFormatF (.inf false) f pol mode
  | .inf true => (f.canonNaN, { invalid := true })
  | .fin s n d =>
    if n = 0 then let r := toFormatF (.inf true) f pol mode; (r.1, { r.2 with divZero := true })
    else if s then (f.canonNaN, { invalid := true })
    else
      match pow2Of n d with
      | some e => toFormatF (.ofInt e) f pol mode
      | none => let (sg, g) := log2Mag n d; transcend true sg g f pol mode operand

/-- The lesser or the greater of two encodings (R354), with a signalling operand's flag. -/
def minMax (greater : Bool) (f : Fmt) (pol : BitVec 4) (x y : Nat) : Nat × Flags :=
  let u := f.operand pol x
  let v := f.operand pol y
  let zero (s : Bool) : Nat := signBit s (f.width - 1)
  let out (w : Val) (b : Nat) : Nat := if w.isZero && !f.isInt then zero w.sign else b
  let sig := u.signalling || v.signalling
  let fl : Flags := { invalid := sig }
  if (u.isNaN && v.isNaN) || sig then ((nanOf (firstNaN [u, v]) f pol).getD 0, fl)
  else if u.isNaN then (out v y, fl)
  else if v.isNaN then (out u x, fl)
  else
    let less := u.lt v || (u.isZero && v.isZero && u.sign && !v.sign)
    (if less != greater then out u x else out v y, fl)

/-- The relations of FCMP (R354): 0 eq, 1 lt, 2 le, 3 uo; the result and the invalid flag. -/
def compare (rel : Nat) (u v : Val) : Bool × Bool :=
  let un := u.isNaN || v.isNaN
  let sig := u.signalling || v.signalling
  match rel with
  | 0 => (u.eqv v, sig)
  | 1 => (!un && u.lt v, un)
  | 2 => (!un && !v.lt u, un)
  | _ => (un, sig)

end Sys2Proof.Machine
end

