-- ==== Sys2Proof/Machine/State.lean ====
section
/-! DEFINITION. The state of one Quahild package as plain data, the reasons a step can stop, and the state right after
reset. Collections numbered by the spec are `Sparse` maps; INVENTORY.md lists every piece with its rule. -/

namespace Sys2Proof.Machine

/-- Why the machine stops with a fault. [DESIGN CHOICE: notes/assumptions/85.md] -/
inductive Fault where
  /-- Raised by every step once FRZ or FRZ_N has stopped the clocks: only a reset leaves the frozen state (R258). Safe:
  nothing issues. -/
  | frozen
  /-- Raised by every step after a junction reached 110 °C and the whole package shut down (R259). Safe. -/
  | shutDown
  deriving DecidableEq, Repr

/-- Why a step has no meaning. -/
inductive Refusal where
  /-- Raised by exec alone, for an instruction the model gives no meaning yet. Safe: nothing is claimed of it. -/
  | notModelled (mnemonic : String)
  deriving DecidableEq, Repr

/-! ### Tokens and channels -/

/-- An access, named by its tile and identifier, and the scope at which something waits for it (R153 to R157). -/
structure Dep where
  tile : Nat := 0
  id : Nat := 0
  sc : Nat := 0
  deriving DecidableEq, Repr

/-- A token (R11): kind, sequence number and payload doublewords. -/
structure Token where
  kind : BitVec 4 := 0
  seq : BitVec 12 := 0
  payload : List Dw := []
  /-- The accesses that its receipt orders before those of its receiver, not all of them performed yet (R153, R154). -/
  deps : List Dep := []
  /-- The firing that sent it, for the grant of a command (R194); 0 for none. -/
  by_ : Nat := 0
  /-- A handler sent it, with the interrupted actor's matrix state saved (R222). -/
  hand : Bool := false
  deriving DecidableEq, Repr

/-- A channel's sender (R297). -/
inductive ChanFrom where
  | actor (a port : Nat)
  | err (a : Nat)
  | link (k c : Nat)
  | enc (j s : Nat)
  deriving DecidableEq, Repr

/-- A channel's receiver (R297). -/
inductive ChanTo where
  | actor (a port : Nat)
  | copy (die n : Nat)
  | bank (die : Nat)
  | linkEngine (die : Nat)
  | launch
  | link (k c : Nat)
  | head (die h : Nat)
  deriving DecidableEq, Repr

/-- A token on the wire: the hop of the channel's path it has reached (R64). -/
structure Flit where
  pos : Nat := 0
  tok : Token := {}
  /-- Accesses that the send releases, each with the scope at which it is performed first (R153, R155). -/
  after : List Dep := []
  /-- The class of the firing that sent it (R190). -/
  cls : BitVec 2 := 1
  /-- Launches ended since it was sent (R14). -/
  old : Nat := 0
  deriving DecidableEq, Repr

/-- A channel of a placed region (R17, R64, R65, R297): its routing entries are `path`, one router a hop, with the virtual channel
on each hop. -/
structure Chan where
  src : ChanFrom := .err 0
  dst : ChanTo := .launch
  slots : Nat := 1
  st : Nat := 0x3F
  rt : Nat := 0x3F
  blk : Nat := 0
  bulk : Bool := false
  init : Nat := 0
  fhop : Nat := 0
  filt : Option Dw := none
  path : List Nat := []
  vcs : List Nat := []
  scope : Scope := 0
  wire : List Flit := []
  /-- Tokens that have arrived at a receiver that is no actor. -/
  q : List Token := []
  /-- Slots reserved by the sender (R18, R21). -/
  reserved : Nat := 0
  /-- The burst a converting or transposing hop holds, in order (R84 to R86). -/
  held : List Flit := []
  /-- Element position of a zero-removing hop, and the tokens it has emitted of the stream (R87). -/
  zpos : Nat := 0
  zcount : Nat := 0
  /-- The number the part after a zero-removing hop stamps next (R87). -/
  zseq : BitVec 12 := 0
  /-- The open burst leaves a converting hop as an invalid block (R75, R84). -/
  zbad : Bool := false
  /-- Launches ended since the one whose tokens the hop, or the receiver, still numbers: a token of a later one starts afresh (R14). -/
  zold : Nat := 0
  older : Nat := 0
  /-- The circuit entries that a bulk channel is bound to, in path order (R244). -/
  circuits : List Nat := []
  deriving DecidableEq, Repr

/-- A recorded token of an actor's save entry: its head's flag bits and the token (R233). -/
structure Recorded where
  port : Nat := 0
  response : Bool := false
  control : Bool := false
  followOn : Bool := false
  tok : Token := {}
  /-- Issuer of a follow-on command; the head has no place for it. -/
  issuer : Nat := 0
  deriving DecidableEq, Repr

/-- An input port (R14, R16, R48, R52, R118, R229). -/
structure InPort where
  exp : BitVec 12 := 0
  q : List Token := []
  /-- Depth of a response port, none for another port. -/
  resp : Option Nat := none
  /-- Response credits taken. -/
  credits : Nat := 0
  /-- Latched burst header, data tokens the open burst still lacks, and tokens seen since its header. -/
  hdr : Option Dw := none
  left : Nat := 0
  seen : Nat := 0
  /-- Discarding to the restart point of R16. -/
  skip : Bool := false
  /-- Discarding under R32 case 2. -/
  drop : Bool := false
  /-- Tokens consumed from this stream (R32 detail). -/
  taken : Nat := 0
  /-- The solstice of this input has arrived, and the expectation its save entry holds (R229, R233). -/
  closed : Bool := false
  saved : BitVec 12 := 0
  commut : Bool := false
  /-- A sink input, and its EOS received (R38, R294). -/
  sink : Bool := false
  sinkDone : Bool := false
  /-- An EOS has been consumed on this input, or sent on this output, since the actor last reported done (R36). -/
  eosSeen : Bool := false
  /-- A channel, the ingress, the fault feed or responses feed this input (R40). -/
  fed : Bool := false
  deriving DecidableEq, Repr

/-- An output port: next sequence number and stream count (R48, R406). -/
structure OutPort where
  seq : BitVec 12 := 0
  count : Word := 0
  eosSent : Bool := false
  deriving DecidableEq, Repr

/-- A firing rule (R21). -/
structure Rule where
  inMask : BitVec 8 := 0
  outMask : BitVec 8 := 0
  entry : BitVec 4 := 0
  deriving DecidableEq, Repr

/-! ### Actors -/

/-- One counter of a counter chain (R34): signed 32-bit start, stop and step, and the initiation interval. -/
structure CounterSpec where
  start : Word := 0
  stop : Word := 0
  step : Word := 1
  ii : Nat := 1
  deriving DecidableEq, Repr

/-- A counter chain (R34, R428): the counters, the enable in force, and the index tokens emitted under it. -/
structure Counter where
  spec : List CounterSpec := []
  enabled : Bool := false
  first : Nat := 0
  /-- Iterations enabled; 0 means the whole remaining space (R35). -/
  span : Nat := 0
  emitted : Nat := 0
  eosSent : Bool := false
  deriving DecidableEq, Repr

/-- A held element of a memory actor: later elements waiting behind a spilled one (R134). -/
structure HeldElem where
  pos : Nat := 0
  tok : Token := {}
  /-- The address it was loaded from, for the hotness windows (R143). -/
  va : Dw := 0
  deriving DecidableEq, Repr

/-- A memory actor's generator (R300, R427). -/
structure MemGen where
  indexed : Bool := false
  store : Bool := false
  sc : Scope := 2
  size : Nat := 0
  self : Bool := false
  bound : Nat := 0
  base : Dw := 0
  counts : List Nat := []
  strides : List Dw := []
  /-- Linear position in the sequence, dimension 0 fastest. -/
  pos : Nat := 0
  /-- A pass of an affine load is in progress (R427). -/
  pass : Bool := false
  /-- The enable in force of a load that runs its own sequence (R35). -/
  enabled : Bool := false
  first : Nat := 0
  span : Nat := 1
  /-- Position of the next element in its stream. -/
  strm : Nat := 0
  /-- An EOS waits to be forwarded, with its error mark (R32, R134). -/
  eos : Option Bool := none
  held : List HeldElem := []
  deriving DecidableEq, Repr

/-- One operand element that a matrix actor has taken: its encoding, its block's scale, and whether its block ends with it
(R88). -/
structure Operand where
  x : Word := 0
  scale : Byte := 127
  last : Bool := false
  deriving DecidableEq, Repr

/-- A stream command at a command input, with the actor that issued it. -/
structure Follow where
  /-- Channel tokens of the command input that stand before it (R341). -/
  ahead : Nat := 0
  issuer : Nat := 0
  by_ : Nat := 0
  w : BitVec 128 := 0
  deriving DecidableEq, Repr

/-- A matrix command in progress, an open batch (R389, R428). -/
structure Batch where
  cmd : BitVec 128 := 0
  issuer : Nat := 0
  /-- The next k to add; of an ACCRD, the next position to send (R311). -/
  nextK : Nat := 0
  hdrA : Option Dw := none
  hdrB : Option Dw := none
  /-- Operand elements taken, in stream order. -/
  stageA : List Operand := []
  stageB : List Operand := []
  /-- Elements that each input has supplied. -/
  takenA : Nat := 0
  takenB : Nat := 0
  /-- Elements that each input had supplied when the header of its open burst was taken: where that burst begins (R388). -/
  fromA : Nat := 0
  fromB : Nat := 0
  /-- The command was ended with code 0x21 and discards operand tokens, on each input until its end (R389). -/
  failed : Bool := false
  endA : Bool := false
  endB : Bool := false
  /-- Saved by MXSAVE and not yet resumed (R222). -/
  held : Bool := false
  deriving DecidableEq, Repr

/-- One source of a bead (R105). -/
inductive BeadSrc where
  | zero
  | input (i : Nat)
  | bead (b : Nat)
  | track (t : Nat)
  deriving DecidableEq, Repr

/-- A configured bead (R94, R105). -/
structure Bead where
  a : BeadSrc := .zero
  ash : Nat := 0
  aneg : Bool := false
  b : BeadSrc := .zero
  bsh : Nat := 0
  bneg : Bool := false
  width : Nat := 8
  flt : Bool := false
  deriving DecidableEq, Repr

/-- One frame record of a reckoning (R102, R104): tile offset, rods in use with their stages and bead counts, inbound
tracks as (frame, bead), and the beads by index. -/
structure FrameRec where
  dx : Int := 0
  dy : Int := 0
  rods : List (Nat × Nat × Nat) := []
  tracks : List (Nat × Nat) := []
  beads : List (Nat × Bead) := []
  deriving DecidableEq, Repr

/-- A reckoning (R102 to R106); an output is none for a constant zero, else a frame and a bead. -/
structure Reckoning where
  nin : Nat := 1
  nout : Nat := 1
  ifmt : Nat := 9
  ofmt : Nat := 9
  rs : Nat := 0
  iw : Nat := 8
  oshift : Int := 0
  depth : Nat := 0
  len : Nat := 0
  frames : List FrameRec := []
  outs : List (Option (Nat × Nat)) := []
  deriving DecidableEq, Repr

/-- One configuration plane of an abacus actor (R101, R108): its image address, the reckoning, the beads whose sticky flag is set,
as (frame, bead) pairs, and the rods and tracks of frames that it uses, as (tile, index) pairs (R95). -/
structure Plane where
  va : Dw := 0
  reck : Reckoning := {}
  sticky : List (Nat × Nat) := []
  rods : List (Nat × Nat) := []
  tracks : List (Nat × Nat) := []
  deriving DecidableEq, Repr

/-- The state of a shadow plane (R108, R110). -/
inductive ShadowState where
  | empty | loading | loaded | swapPending
  deriving DecidableEq, Repr

/-- The requester that a load or a swap owes its response (R109, R115): tile access identifiers. -/
structure Owed where
  actor : Nat := 0
  port : Nat := 0
  id : Nat := 0
  deriving DecidableEq, Repr

/-- An abacus actor's own state (R93, R108, R115). -/
structure Abacus where
  active : Option Plane := none
  shadow : Option Plane := none
  shState : ShadowState := .empty
  owedLoad : Option Owed := none
  owedSwap : Option Owed := none
  /-- Payloads of the data tokens of the open burst taken so far. -/
  part : List (List Dw) := []
  /-- Answers not yet sent, oldest first (R98). -/
  outq : List Token := []
  /-- Payloads of engine-configuration tokens taken inside the open burst and not yet done, oldest first (R27, R113). -/
  config : List (List Dw) := []
  /-- The load under way is the first one's (R113). -/
  cfgLoad : Bool := false
  /-- EQT at which the load under way first met a page fault (R111, R133). -/
  fault : Option Dw := none
  deriving DecidableEq, Repr

/-- A lane segment's own state (R27, R56, R300, R351): its lanes, the parameters it gives, the tokens waiting for slots with
their output ports, the header of a burst whose width the segment changes, and configurations that wait for the burst boundary. -/
structure LaneSeg where
  first : Nat := 0
  last : Nat := 0
  /-- First index and number of the parameter words that its record gives (R300). -/
  p0 : Nat := 0
  np : Nat := 0
  pend : List (Nat × Token) := []
  hdr : Option Dw := none
  /-- Outputs whose open burst is an invalid block (R75). -/
  marked : List Nat := []
  cfg : List (List Dw) := []
  deriving DecidableEq, Repr

/-- What an actor is, with the state of its own kind (R20, R48). [DESIGN CHOICE: notes/assumptions/75.md] -/
inductive Body where
  | task
  | lane (s : LaneSeg)
  | matrix (open_ : List Batch)
  | abacus (b : Abacus)
  | memory (g : MemGen)
  | bank
  | counter (c : Counter)
  | merge (arrival : Bool) (mask : BitVec 8) (eos : BitVec 8) (err : Bool)
  /-- The distributor or collector of an elastic stage: its rules and handlers never fire (R417). -/
  | lent
  deriving DecidableEq, Repr

/-- States of a solstice cut (R229). -/
inductive CutState where
  | run | finish | save | forward | record | cut
  deriving DecidableEq, Repr

/-- A candidate's selection data (R184). -/
structure Cand where
  age : Nat := 0
  hit : Bool := false
  bypass : Nat := 0
  deriving DecidableEq, Repr

/-- The accesses that an actor's fences hold later accesses behind (R155, R156): `all` holds every later access, `rel` later
writes, sends and stream commands. -/
structure Fence where
  all : List Dep := []
  rel : List Dep := []
  /-- The scope at which the actor's next write is a release write (R155), and the CAS and FUT puts issued since that are that write
  if they write (R328, R360). -/
  next : Option Nat := none
  maybe : List Nat := []
  deriving DecidableEq, Repr

/-- A mesh actor's limits and its output port (R196). -/
structure Mesh where
  vmax : Nat := 1
  pmax : Nat := 1
  port : Nat := 0
  deriving DecidableEq, Repr

/-- An actor slot's state (R48) with its record's fields (R296). -/
structure Actor where
  tile : Nat := 0
  slot : Nat := 0
  dx : Int := 0
  dy : Int := 0
  /-- CLASS[3:2], the class of future firings. -/
  cls : BitVec 2 := 1
  nullVis : Bool := false
  eosVis : Bool := false
  probe : Option Nat := none
  errPort : Option Nat := none
  rules : List Rule := []
  htab : Sparse Dw := []
  k : Sparse Dw := []
  /-- Code and local windows in bytes, limits exclusive (R43). -/
  codeB : Nat := 0
  codeL : Nat := 0
  locB : Nat := 0
  locL : Nat := 0
  inp : Sparse InPort := []
  out : Sparse OutPort := []
  fctl : BitVec 4 := 0
  fflags : BitVec 5 := 0
  acc : BitVec 4 := 0
  quota : Nat := 8
  quotaUsed : Nat := 0
  live : List (Nat × Nat) := []
  targets : List Nat := []
  mesh : Option Mesh := none
  /-- Error tokens its error port holds (R52). -/
  held : List Token := []
  /-- Payloads of its diversions that it holds while the fault feed is full (R25, R425). -/
  diverted : List (List Dw) := []
  /-- The call queue (R426). -/
  calls : List Token := []
  /-- Where its calls wait, the longest waiting first: at an input's head, or none for the call queue (R426). -/
  waits : List (Option Nat) := []
  /-- Follow-on commands at a matrix actor's command input (R341). -/
  follow : List Follow := []
  body : Body := .task
  cand : Option Cand := none
  fence : Fence := {}
  /-- Accesses ordered before the actor by tokens it received, as (tile, access): what its sends release too (R153). -/
  carry : List (Nat × Nat) := []
  /-- Writes not yet at their home that its reads have returned, as (tile, access) (R157). -/
  seen : List (Nat × Nat) := []
  cut : CutState := .run
  recd : List Recorded := []
  /-- A source has been given its solstice (R227). -/
  srcCut : Bool := false
  /-- The solstice of its enable link has arrived (R229). -/
  enClosed : Bool := false
  deriving DecidableEq, Repr

/-- A firing, running or in a shadow slot (R21, R51, R187, R426). -/
structure Firing where
  /-- Model's own: names the firing (R194). -/
  id : Nat := 0
  region : Nat := 0
  actor : Nat := 0
  /-- The governing rule, or none for a call. -/
  rule : Option Nat := none
  entry : Nat := 0
  call : Option Token := none
  /-- Trigger tokens: port, token, and dequeued by RECV or FWD. -/
  trig : List (Nat × Token × Bool) := []
  /-- Reservations held on each output (R21, R52) and each work-graph edge (R192). -/
  rsv : Sparse Nat := []
  wrsv : Sparse Nat := []
  grant : Nat := 0
  cls : BitVec 2 := 1
  count : Nat := 0
  hcount : Nat := 0
  /-- A trap 0x06 has been taken in this firing (R219). -/
  over6 : Bool := false
  /-- Vertices and primitives that its mesh output port has passed (R196). -/
  verts : Nat := 0
  prims : Nat := 0
  deriving DecidableEq, Repr

/-! ### A tile -/

/-- The actor core (R41, R45, R46, R49). [DESIGN CHOICE: notes/assumptions/5.md] -/
structure Core where
  sys : Bool := false
  pc : Word := 0
  /-- g1 to g31; g0 is hard-wired. -/
  g : Sparse Dw := []
  /-- The system bank, under register numbers 24 to 31. -/
  sb : Sparse Dw := []
  bypass : BitVec 4 := 8
  tstat : BitVec 6 := 0
  tcause : BitVec 8 := 0
  tepc : Word := 0
  tval : Dw := 0
  tvec : Word := 0
  lastAsid : Option Nat := none
  firing : Option Firing := none
  deriving DecidableEq, Repr

/-- What a request asks of memory (R118, R282, R109, R284). -/
inductive ReqKind where
  | read (bytes : Nat) (widen : Bool)
  | write (bytes : Nat)
  | atomic (op : Nat)
  | cas
  | futGet
  | futPut
  | futClear
  | prefetch
  | writeBack
  /-- A response that another unit supplies: an abacus actor, CFGLOAD, PLACE or MARK. -/
  | engine
  deriving DecidableEq, Repr

/-- How far an access has come (R121). `answered` holds the response token's payload or an error token. -/
inductive ReqState where
  | issued
  | accepted
  | deferred
  | atDie
  | answered (tok : Token)
  deriving DecidableEq, Repr

/-- An access at a tile's memory port (R118 to R121): who issued it, what it asks, where, and how far it has come. -/
structure Access where
  id : Nat := 0
  region : Nat := 0
  actor : Nat := 0
  asid : Nat := 0
  kind : ReqKind := .prefetch
  va : Dw := 0
  data : List Byte := []
  /-- Physical addresses of its bytes, fixed when it is accepted (R119, R125). -/
  pas : List Nat := []
  exp : Dw := 0
  sc : Scope := 2
  ord : Order := 0
  port : Nat := 0
  st : ReqState := .issued
  /-- Accesses that fences hold it behind (R155). -/
  after : List Dep := []
  /-- Accesses ordered before it, as (tile, access): those to its bytes come first (R152). -/
  behind : List (Nat × Nat) := []
  /-- A release write's scope, and the accesses ordered before it (R154 to R156). -/
  rel : Option Nat := none
  relDeps : List (Nat × Nat) := []
  /-- The CAS and FUT puts before it of which none must write for it to be that release write. -/
  relIf : List Nat := []
  /-- A write's place in the order of the writes its tile has accepted, then of those its die has taken (R121, R151). -/
  stamp : Nat := 0
  /-- The bytes a read has fixed, by offset, and the accesses that their values bring with them (R122, R154). -/
  got : List (Nat × Byte) := []
  deps : List Dep := []
  /-- In the spill queue since this EQT, and last retried at this one (R133). -/
  spilled : Option Dw := none
  tried : Dw := 0
  /-- An element of a memory actor, at this position of its stream (R133), or a bank actor's (R137). -/
  elem : Option Nat := none
  deriving DecidableEq, Repr

/-- A posted write: its bytes, or the fault record that it appends to a slice's fault queue, whose place is that of FQTAIL when it is
performed (R133, R142). -/
structure Posted where
  pas : List Nat := []
  data : List Byte := []
  fq : Option Nat := none
  deriving DecidableEq, Repr

/-- One 256-bit element group, or one whole token, on its way through a lane row (R56, R351). Elements are encodings. -/
structure Group where
  x : List Word := []
  y : List Word := []
  prev : List Word := []
  prev2 : List Word := []
  tokX : List Dw := []
  tokY : List Dw := []
  scale : Byte := 127
  /-- Positions of X, of Y, of `prev` and of `prev2` that derive from an invalid block, or in an LSTR from a poisoned unit (R75, R342). -/
  badX : BitVec 32 := 0
  badY : BitVec 32 := 0
  bad : BitVec 32 := 0
  bad2 : BitVec 32 := 0
  /-- First and last group of its data token, and last of its burst. -/
  first : Bool := true
  last : Bool := true
  burstLast : Bool := false
  /-- Element positions, and those that carry data, not pad. -/
  len : Nat := 0
  valid : Nat := 0
  /-- No elements go on from here: an accumulating lane kept them (R367, R379). -/
  void : Bool := false
  /-- The end-of-stream flush of a lane that holds a partial result (R367, R379, R380). -/
  flush : Bool := false
  deriving DecidableEq, Repr

/-- A lane's state (R60, R428), with EDGE and COVER's (R201, R336). -/
structure LaneSt where
  q : List Group := []
  own : List Word := []
  /-- Its positions that derive from an invalid block or a poisoned unit (R75, R342). -/
  ownBad : BitVec 32 := 0
  /-- Results routed to the outputs for the token, and in a width-changing segment for the burst, under way: each with whether it derives
  from an invalid block or a poisoned unit. -/
  out : List (Word × Bool) := []
  burst : List (Word × Bool) := []
  acc : List Word := []
  part : Word := 0
  /-- Positions of the accumulation under way, and of the groups in a delay buffer, oldest first, that derive so. -/
  bad : BitVec 32 := 0
  delayed : List (BitVec 32) := []
  cnt : Nat := 0
  idx : Nat := 0
  m : Word := 0xFF800000
  s : Word := 0
  /-- The screen tile opened by the last tile-begin (R201). -/
  openTile : Option (Nat × Nat) := none
  /-- The tag whose fragments COVER is emitting, and how many (R336). -/
  tag : Option (Nat × Nat) := none
  /-- Sample tokens COVER has produced and the resolver has not applied (R201). -/
  samples : List (List Dw) := []
  /-- A blender's next tag, buffered fragments (tag, token) and primitive ends (tag, count) (R204). -/
  next : BitVec 16 := 0
  frags : List (Nat × List Dw) := []
  ends : List (Nat × Nat) := []
  deriving DecidableEq, Repr

/-- A range entry (R124). -/
structure RangeEntry where
  base : Nat := 0
  last : Nat := 0
  pbase : Nat := 0
  asid : Nat := 0
  paged : Bool := false
  r : Bool := false
  w : Bool := false
  at_ : Bool := false
  fut : Bool := false
  nc : Bool := false
  deriving DecidableEq, Repr

/-- A hotness window (R143, R253): its HWCFG word and the two counters. -/
structure HotWin where
  cfg : Dw := 0
  delivered : Word := 0
  starved : Word := 0
  deriving DecidableEq, Repr

/-- A tile (R44, R51 to R66, R124, R184). -/
structure Tile where
  core : Core := {}
  spad : List Host.Cell := []
  /-- The handler range in 64-byte units: TRRES[12:0] and [28:16]. -/
  hrBase : BitVec 13 := 0
  hrLimit : BitVec 13 := 0
  ranges : List RangeEntry := []
  /-- Resident actors by slot: region key and actor index. -/
  slots : Sparse (Option (Nat × Nat)) := []
  shadow : List Firing := []
  age : Nat := 0
  rot : Nat := 0
  lanes : Sparse Word := []
  params : Sparse Word := []
  lane : Sparse LaneSt := []
  /-- Accumulator words: key 4,096 a + 64 r + c. -/
  acc : Sparse Word := []
  port : List Access := []
  hot : Sparse HotWin := []
  unplaceable : Bool := false
  deriving DecidableEq, Repr

/-! ### Regions, launches and slices -/

/-- A node of the controller tree (R35). -/
inductive Node where
  | ctrl (c : Nat)
  | actor (a : Nat)
  deriving DecidableEq, Repr

/-- A message of the control network (R26, R35, R140, R160, R426). -/
inductive NetMsg where
  | enable (dest : Node) (first span : Nat)
  | done (ctrl child iter : Nat)
  | call (a : Nat) (tok : Token)
  /-- A solstice on a controller link (R227 to R229): 0 the enable link into a node, 1 + k the done link from child k. -/
  | sol (dest : Node) (link : Nat)
  deriving DecidableEq, Repr

/-- A controller (R35, R299). -/
structure Ctrl where
  sch : Nat := 2
  win : Nat := 1
  parent : Option Nat := none
  kids : List Node := []
  spec : List CounterSpec := []
  enabled : Bool := false
  first : Nat := 0
  span : Nat := 0
  doneSent : Bool := false
  /-- Per child: iterations enabled and iterations reported done. -/
  kidEn : Sparse Nat := []
  kidDone : Sparse Nat := []
  cut : CutState := .run
  recd : List Recorded := []
  closed : Sparse Bool := []
  deriving DecidableEq, Repr

/-- A barrier slot (R158, R160). -/
structure Barrier where
  armed : Bool := false
  pending : Dw := 0
  written : Dw := 0
  target : Nat := 0
  entry : BitVec 4 := 0
  cls : BitVec 2 := 0
  phase : BitVec 16 := 0
  err : Bool := false
  overcount : Bool := false
  abandoned : Bool := false
  code : Byte := 0
  deriving DecidableEq, Repr

/-- Where a launch came from (R174, R407): a queue and record index, or a launch port with its completion target: a region, actor and
handler entry, and the launch of that region that named it, by doubleword 0 of its token. -/
inductive LaunchSrc where
  | queue (q idx : Nat)
  | fabric (idx : Nat) (target : Option (Nat × Nat × Nat × Dw))
  deriving DecidableEq, Repr

/-- A launch (R38, R173, R407). -/
structure Launch where
  src : LaunchSrc := .queue 0 0
  asid : Nat := 0
  prio : Nat := 0
  ccap : BitVec 2 := 3
  strict : Bool := true
  sysc : Bool := false
  pin : Bool := false
  irq : Bool := false
  quantum : Nat := 0
  tag : BitVec 16 := 0
  image : Dw := 0
  arg : Dw := 0
  imm : Dw := 0
  any : Bool := true
  ox : Nat := 0
  oy : Nat := 0
  /-- Its place among the launches of its slice: by doorbell, then in queue order (R176). -/
  order : Nat := 0
  wbase : Dw := 0
  wsize : Nat := 0
  /-- EQT at which the front end took the record (R174). -/
  taken : Dw := 0
  /-- EQT at which the current run started (R179). -/
  started : Dw := 0
  fatal : Bool := false
  deriving DecidableEq, Repr

/-- An elastic stage (R180 to R183, R302, R416, R417). -/
structure Stage where
  dist : Nat := 0
  tmpl : Nat := 0
  coll : Nat := 0
  m : Nat := 1
  lim : Nat := 1
  hi : Nat := 1
  lo : Nat := 0
  window : Nat := 1
  part : Bool := false
  growth : List (Nat × Nat) := []
  ordered : Bool := false
  /-- Replicas present: actor index and owned partition. -/
  replicas : List (Nat × Nat) := []
  /-- Samples of the window so far, and each replica's own: their number and sum (R181). -/
  samples : Nat := 0
  counts : Sparse Nat := []
  sums : Sparse Nat := []
  /-- EQT of the last sample, and of the window's start (R181). -/
  sampled : Dw := 0
  wstart : Dw := 0
  lowWins : Nat := 0
  retiring : Option Nat := none
  /-- An ordered stage's change of membership waits for this position (R182). -/
  change : Option (Nat × Option Nat) := none
  position : Nat := 0
  /-- Replica that an open burst goes to (R182). -/
  burstTo : Option Nat := none
  /-- The EOS that waits at the distributor, with its error mark. -/
  eos : Option Bool := none
  /-- Rays inside the stage and the admission limit (R208, R417). -/
  inside : Nat := 0
  limit : Nat := 1
  /-- Bytes that the load wrote into the template tile within the windows of a replica's actors (R416). -/
  bytes : List (Nat × List Byte) := []
  /-- The k registers with which the load gave a replica's actors (R180, R416). -/
  ks : List (Nat × Sparse Dw) := []
  /-- The lane words of a replica's actors as the image gives them, by lane (R416). -/
  words : List (Nat × Word) := []
  deriving DecidableEq, Repr

/-- A work-graph node (R191, R302) with its record queue, a ring of slots in the backing store.
[DESIGN CHOICE: notes/assumptions/81.md] -/
structure WNode where
  actor : Nat := 0
  size : Nat := 8
  qlen : Nat := 1
  depth : Nat := 0
  off : Nat := 0
  /-- The slot of its first record. -/
  head : Nat := 0
  /-- Records queued, as emitted, and slots reserved in it. -/
  recs : List Flit := []
  reserved : Nat := 0
  deriving DecidableEq, Repr

/-- A work-graph edge (R191, R302). -/
structure WEdge where
  parent : Nat := 0
  child : Nat := 0
  budget : Nat := 1
  num : Nat := 0
  deriving DecidableEq, Repr

/-- Who asked for a cut (R227, R386). -/
inductive CutBy where
  | mark (region actor port id : Nat)
  /-- The issuer's own region; while the cut waits behind an elastic change, with the actor, port and access of its answer (R386). -/
  | own (owes : Option (Nat × Nat × Nat))
  | frontEnd
  | host (slice : Nat)
  deriving DecidableEq, Repr

/-- A placed region (R37, R38, R49, R196, R226, R232, R295). [DESIGN CHOICE: notes/assumptions/56.md] -/
structure Region where
  slice : Nat := 0
  num : Nat := 0
  ox : Nat := 0
  oy : Nat := 0
  w : Nat := 1
  h : Nat := 1
  asid : Nat := 0
  image : Dw := 0
  ilen : Nat := 0
  ctxb : Dw := 0
  racec : Word := 0
  race : Bool := false
  pinned : Bool := false
  ingress : Option (Nat × Nat) := none
  depth : Nat := 1
  sink : Option (Nat × Nat) := none
  heavy : Nat := 8
  ilv : Nat := 1
  root : Nat := 0
  chans : Sparse (Option Chan) := []
  actors : Sparse (Option Actor) := []
  ctrls : Sparse (Option Ctrl) := []
  net : List NetMsg := []
  /-- Error tokens that a hop, filter or barrier slot holds until the fault feed has a slot (R425). -/
  feedHeld : List (List Dw) := []
  barriers : Sparse Barrier := []
  stages : Sparse (Option Stage) := []
  nodes : Sparse (Option WNode) := []
  edges : List WEdge := []
  /-- The range entries its declarations need, each with its tile (R124). -/
  ranges : List (Nat × RangeEntry) := []
  /-- Launches whose tokens stand on the ingress channel, oldest first. -/
  ingressQ : List Launch := []
  launch : Option Launch := none
  rootDone : Bool := false
  halted : Bool := false
  /-- A HALT came after a cut had begun (R363). -/
  haltInCut : Bool := false
  lastUsed : Nat := 0
  /-- Error records: the allocation counter as hardware last saw it, and whether a fatal record was written or lost. -/
  records : Nat := 0
  fatal : Bool := false
  lostRecord : Bool := false
  /-- The region's power bucket (R193, R194) and PWREQ refusals. -/
  credit : Nat := 65535
  /-- The bucket of its ingress port (R193). -/
  ingCredit : Nat := 65535
  bdepth : Nat := 65535
  rate : Nat := 11719
  /-- EQT up to which the buckets have been refilled (R193). -/
  refilled : Dw := 0
  refusals : BitVec 16 := 0
  /-- A cut in progress, or one that waits for an elastic change (R181, R227). -/
  cutBy : Option CutBy := none
  cutWait : Option CutBy := none
  cuts : Word := 0
  /-- Vertices and primitives that mesh output ports have dropped and primitives they have culled, saturating (R196). -/
  vdrop : Word := 0
  pdrop : Word := 0
  pcull : Word := 0
  need : Nat := 0
  /-- Actors of its image, and each save entry's offset and length: the actors' first, then the controllers' (R232). -/
  nact : Nat := 0
  dir : List (Nat × Nat) := []
  deriving DecidableEq, Repr

/-- A launch the front end holds and cannot yet start, or one that a cut has stopped (R176, R179). -/
structure Waiting where
  launch : Launch := {}
  /-- A stopped launch resumes from this save area under its held region number. -/
  saved : Option (Dw × Nat) := none
  stamp : Nat := 0
  deriving DecidableEq, Repr

/-- A placement or restore in progress (R176, R234, R329, R331). -/
structure Load where
  restore : Bool := false
  va : Dw := 0
  slice : Nat := 0
  asid : Nat := 0
  strict : Bool := true
  any : Bool := true
  ox : Nat := 0
  oy : Nat := 0
  /-- The CFGLOAD that asked: region, actor, port and access. -/
  by_ : Option (Nat × Nat × Nat × Nat) := none
  /-- The cold-path launch that waits for it. -/
  launch : Option Launch := none
  held : Option Nat := none
  /-- EQT at which a reload of a reckoning first met a page fault (R111, R115). -/
  fault : Option Dw := none
  /-- The placement controller is done searching, and the origin it found; a search has failed and the launch waits (R178). -/
  found : Bool := false
  spot : Option (Nat × Nat) := none
  tried : Bool := false
  deriving DecidableEq, Repr

/-- A launch queue's registers (R172). -/
structure Queue where
  base : Dw := 0
  cfg : Dw := 0
  db : Word := 0
  head : Word := 0
  cpl : Dw := 0
  stat : BitVec 16 := 0
  /-- Doorbells whose records it still holds: the tail each wrote, and the order in which the front end processed it (R176). -/
  bells : List (Word × Nat) := []
  deriving DecidableEq, Repr

/-- A slice's front-end page and trusted-interface state (R247, R252, R253). -/
structure Slice where
  desc : BitVec 128 := 0
  queues : Sparse Queue := []
  fabric : Word := 0
  svbase : Dw := 0
  svstride : Dw := 0
  tinv0 : Dw := 0
  tinvPages : Word := 0
  tinvRefused : Bool := false
  tinvDone : Bool := true
  fqbase : Dw := 0
  fqcfg : Word := 0
  fqlost : Word := 0
  fqtail : Word := 0
  fqhead : Word := 0
  fwin : Word := 50
  cutreq : Word := 0
  cutstat : Word := 0
  waiting : List Waiting := []
  tdi : TdiState := .unlocked
  stamp : Nat := 0
  deriving DecidableEq, Repr

/-! ### Engines -/

/-- A command engine of a die (R190, R287), or the lane or abacus actor whose LSTR or ABRUN is in progress. -/
inductive Engine where
  | copy (die n : Nat)
  | bank (die : Nat)
  | link (die : Nat)
  | unit (r a : Nat)
  deriving DecidableEq, Repr

/-- A stream command an engine has accepted, and how far it has come (R190, R304, R338). `actor` is the issuer. -/
structure Cmd where
  eng : Engine := .bank 0
  cls : BitVec 2 := 1
  region : Nat := 0
  actor : Nat := 0
  chan : Nat := 0
  tile : Nat := 0
  /-- The firing that issued it (R194). -/
  by_ : Nat := 0
  w : BitVec 128 := 0
  /-- The token was no data token of two doublewords (R304). -/
  bad : Bool := false
  started : Bool := false
  /-- The follow-on command and its actor, read when the CPY was accepted (R340). -/
  follow : Option (BitVec 128 × Nat) := none
  /-- The tile scale, once chosen (R339). -/
  scale : Option Nat := none
  /-- Units, elements or vectors done. -/
  pos : Nat := 0
  /-- Bytes left of the 4 KiB transfer unit under way (R190). -/
  left : Nat := 0
  /-- Bytes written, and bytes written or failed. -/
  written : Nat := 0
  counted : Nat := 0
  /-- First error code, whether a byte failed, and codes reported once for the command. -/
  code : Byte := 0
  err : Bool := false
  told : List Nat := []
  /-- Bytes it has written over, as they were: by physical address, or 2^60 + local address (R342, R404). -/
  before : Sparse (Option Byte) := []
  /-- The choice made for the row and aligned 8 bytes last written over (R404). -/
  choice : Option (Nat × Nat × Bool) := none
  /-- Bytes moved so far, written or not (R193). -/
  moved : Nat := 0
  /-- The accesses, as (tile, access), that a release or an edge orders before it (R155). -/
  behind : List (Nat × Nat) := []
  /-- EQT at which it first met a page fault (R133). -/
  fault : Option Dw := none
  deriving DecidableEq, Repr

/-- Bytes an engine has performed or failed, to be subtracted from a barrier slot (R159). -/
structure BarSub where
  region : Nat := 0
  slot : Nat := 0
  bytes : Nat := 0
  failed : Bool := false
  code : Byte := 0
  deriving DecidableEq, Repr

/-- A completion token a finished command owes (R140, R305). -/
structure Completion where
  region : Nat := 0
  actor : Nat := 0
  entry : Nat := 0
  bytes : Nat := 0
  status : Dw := 0
  /-- The die of the engine that sends it. -/
  die : Nat := 0
  deriving DecidableEq, Repr

/-- A follow-on command a copy engine holds (R340, R341): the matrix actor, and the issuer of the CPY. -/
structure FollowOn where
  region : Nat := 0
  actor : Nat := 0
  issuer : Nat := 0
  by_ : Nat := 0
  w : BitVec 128 := 0
  deriving DecidableEq, Repr

/-- Bytes of an RSEND handed off to the link (R401): each with its address in the peer's device memory. -/
structure Remote where
  region : Nat := 0
  actor : Nat := 0
  link : Nat := 0
  cells : List (Nat × Byte) := []
  barrier : Option Nat := none
  /-- The completion that follows the last byte, carried by the last part. -/
  comp : Option Completion := none
  w : BitVec 128 := 0
  deriving DecidableEq, Repr

/-- The directory's note of a line (R142): up to four tiles, or a bit for each sixteen. -/
inductive Dir where
  | ptrs (l : List Nat)
  | coarse (v : BitVec 64)
  deriving DecidableEq, Repr

/-- A release write that an 8-byte unit holds: the writer's tile, its scope, and the accesses ordered before it (R154). -/
structure RelUnit where
  tile : Nat := 0
  sc : Nat := 0
  deps : List (Nat × Nat) := []
  deriving DecidableEq, Repr

/-- A deferred get at a home bank (R138). -/
structure Deferred where
  pa : Nat := 0
  tile : Nat := 0
  id : Nat := 0
  deriving DecidableEq, Repr

/-- A cached translation of a die's walkers and memory ports (R129). -/
structure TlbEntry where
  asid : Nat := 0
  page : Nat := 0
  leaf : Dw := 0
  deriving DecidableEq, Repr

/-- A display head (R212, R213). -/
structure Head where
  dctl : Dw := 0
  dgeom : Dw := 0
  dt0 : Dw := 0
  dper : Word := 0
  dwb : Dw := 0
  frames : Word := 0
  replaced : BitVec 16 := 0
  fault : Bool := false
  pending : List Dw := []
  surface : Option Dw := none
  /-- Number of the next frame to start (R213). -/
  frame : Nat := 0
  /-- The region in whose cut the head stopped, until the restore (R215). -/
  cut : Option Nat := none
  deriving DecidableEq, Repr

/-- An encoder session (R214, R253). -/
structure Session where
  esctl : Dw := 0
  esrate : Dw := 0
  ering : Dw := 0
  ersize : Word := 0
  status : Byte := 0
  coded : BitVec 24 := 0
  /-- Ring offset of the next frame, and a key frame is due after a drop. -/
  off : Nat := 0
  key : Bool := false
  start : Dw := 0
  /-- A frame is being coded, black or from this surface. -/
  coding : Bool := false
  /-- Its rate-control state and reference-frame addresses, which the spec names and does not lay out (R215). -/
  rate : Dw := 0
  refs : Dw := 0
  /-- The region in whose cut the session stopped, until the restore (R215). -/
  cut : Option Nat := none
  deriving DecidableEq, Repr

/-- A unit with corrected errors and the EQT of its last two (R238); `kind` 0 row, 1 L2 bank, 2 tile SRAM bank.
[DESIGN CHOICE: notes/assumptions/93.md] -/
structure ErrUnit where
  kind : Nat := 0
  unit : Nat := 0
  newer : Dw := 0
  older : Option Dw := none
  deriving DecidableEq, Repr

/-- A compute die (R3, R44, R167, R212, R238, R253). [DESIGN CHOICE: notes/assumptions/5.md] -/
structure Die where
  eqt : Dw := 0
  eqe : Dw := 0xFFFFFFFFFFFFFFFF
  locked : Bool := false
  mhz : Nat := 940
  trsel : Word := 0
  traddr : Word := 0
  hwsel : Word := 0
  heads : Sparse Head := []
  sess : Sparse Session := []
  errs : List ErrUnit := []
  lasting : List (Nat × Nat) := []
  /-- Spare rows used, by bank (R239). -/
  spares : Sparse Nat := []
  ways : Sparse Nat := []
  tlb : List TlbEntry := []
  /-- The pages for which its walkers have appended fault records, as (ASID, page), and when (R133). -/
  faulted : List (Nat × Nat × Dw) := []
  trained : Bool := false
  /-- The slice that the die was last a member of, until its state is cleared (R253). -/
  former : Option Nat := none
  /-- EQT units run in holdover since the last synchronisation message (R167). -/
  holdover : Nat := 0
  /-- Correction of EQT still to be slewed in (R167). -/
  slew : Int := 0
  deriving DecidableEq, Repr

/-- A sister link and its link channels (R249, R251): received tokens waiting, by channel number.
[DESIGN CHOICE: notes/assumptions/64.md] -/
structure Link where
  cfg : BitVec 128 := 0
  recv : Sparse (List Token) := []
  /-- Tokens that sending halves have handed to the link, by channel number, and how many of them the peer has not returned credit
  for. -/
  sent : Sparse (List Token) := []
  owed : Sparse Nat := []
  /-- The number after that of the last token received, for each channel that has carried one. -/
  nexts : Sparse (Option (BitVec 12)) := []
  deriving DecidableEq, Repr

/-- The unit that takes the next turn: a tile's core issues one instruction, a unit performs one operation or event,
or time passes on every die in units of 1/64 ns. A host turn is a register access that arrives through a function of the host link:
0 physical function 0, n + 1 virtual function n (R246). A dvfs turn moves a die's clock (R3). Model's own (notes/assumptions/1.md).
[DESIGN CHOICE: notes/assumptions/1.md, notes/assumptions/82.md] -/
inductive Turn where
  | core (tile : Nat)
  | unit (i : Instr)
  | host (fn : Nat) (i : Instr)
  | elapse (n : Nat)
  | dvfs (die mhz : Nat)
  deriving DecidableEq, Repr

/-- What a cut region held that its save area has no place for: the region as it was, the states of its actors' lanes by actor
and lane, the spilled requests of its tasks, and the heads and sessions that its snapshot takes in, by die and number (R215).
[DESIGN CHOICE: notes/assumptions/70.md] -/
structure Kept where
  pa : Nat := 0
  g : Region := {}
  lanes : List (Nat × Nat × LaneSt) := []
  port : List Access := []
  /-- Of its replicas, the lane words in place and the bytes of their live ranges, by actor. -/
  words : List (Nat × Nat × Word) := []
  pads : List (Nat × Nat × List Byte) := []
  /-- The dies of its slice at the cut (R215). -/
  dies : List Nat := []
  heads : List (Nat × Nat × Head) := []
  sess : List (Nat × Nat × Session) := []
  deriving DecidableEq, Repr

/-- A copy in package mode (R235, R236): the safe tier's base, its direction, the parts not yet copied, and the bytes that the
management processor's completion counter still lacks. [DESIGN CHOICE: notes/assumptions/59.md] -/
structure PackageCopy where
  base : Nat := 0
  back : Bool := false
  parts : List Nat := []
  lacks : Nat := 0
  deriving DecidableEq, Repr

/-- The limits that the configuration record sets (R257): DVFS in MHz, board power in W, temperatures in °C, lanes of the host link.
[DESIGN CHOICE: notes/assumptions/4.md, notes/assumptions/99.md] -/
structure Limits where
  dvfsLow : Nat := 760
  dvfsHigh : Nat := 1020
  power : Nat := 1500
  throttle : Nat := 95
  shutdown : Nat := 110
  lanes : Nat := 16
  deriving DecidableEq, Repr

/-- The whole package. [DESIGN CHOICE: notes/assumptions/83.md] -/
structure State where
  /-- Model's own: the tile whose core issues when no turn is named, and the turns to come. -/
  focus : Nat := 0
  agenda : List Turn := []
  /-- Model's own: the next free value (Config.freeWord). -/
  fresh : Nat := 0
  /-- Model's own: names accesses. -/
  nextId : Nat := 0
  /-- Model's own: the data the last management or host read returned. -/
  reply : List Dw := []
  /-- Model's own: the function of the host link through which the register access in hand arrives; none where it is the one that owns
  the page, or the management processor (R241, R246). -/
  fn : Option Nat := none
  /-- Physical memory: device, host and sister memory by physical address (R130). -/
  mem : List Host.Cell := []
  /-- Bytes of device memory fitted from address 0 (R1, R130, R257). -/
  fitted : Nat := 0x4000000000
  /-- Full futures, by physical address / 8 (R138); poisoned lines, by physical address / 128 (R146). -/
  full : Sparse Bool := []
  poison : Sparse Bool := []
  /-- The directory, by line, and invalidations not yet acknowledged, as (line, tile) (R142). -/
  sharers : Sparse Dir := []
  invs : List (Nat × Nat) := []
  /-- Writes of the host, of peers and of the package's own hardware that wait for acknowledgements, oldest first, and updates of leaves
  that walkers have made and that wait likewise, each a leaf's address and whether d is set (R127, R142). -/
  posted : List Posted := []
  dues : List (Nat × Bool) := []
  /-- Lines whose metadata entry the next write of the host, a peer or the package's hardware cannot read (R147). -/
  badMeta : Sparse Bool := []
  /-- Release writes with accesses ordered before them that are not all at their homes, by physical address / 8 (R154). -/
  rels : Sparse (Option RelUnit) := []
  deferred : List Deferred := []
  tiles : Sparse Tile := []
  dies : Sparse Die := []
  regions : Sparse (Option Region) := []
  slices : Sparse Slice := []
  links : Sparse Link := []
  cmds : List Cmd := []
  subs : List BarSub := []
  comps : List Completion := []
  follows : List FollowOn := []
  remotes : List Remote := []
  loads : List Load := []
  /-- Launch completions the front end holds for a target in a cut (R407). -/
  heldDone : List (Nat × Nat × Token) := []
  /-- Model's own: what a cut region held that no entry of its save area has a place for, by the physical address of the
  area's header (notes/assumptions/70.md). -/
  kept : List Kept := []
  /-- MSI-X messages raised: slice and vector (R175, R133). -/
  msix : List (Nat × Nat) := []
  /-- Wire state of the die edges (R245): failed replays in a row, and edges down. -/
  replays : Sparse Nat := []
  edgesDown : Sparse Bool := []
  /-- The package page (R248). -/
  qm900 : Bool := false
  stage : BitVec 4 := 0
  failure : BitVec 8 := 0
  debug : Bool := false
  asidtb : Dw := 0
  troot : Word := 0
  /-- The I/O die's own clock and the reference time in force, in units of 1/64 ns (R167, R250). -/
  ioClock : Dw := 0
  ref : Dw := 0
  frz : Bool := false
  conn : Sparse Dw := []
  /-- Cleared bulk circuits whose transfers are not all delivered (R243). -/
  draining : Sparse Bool := []
  ctEntry : BitVec 8 := 0
  ctReason : BitVec 3 := 0
  ctSticky : Bool := false
  /-- Measurement registers and the alias key (R255), the record's limits (R257), power, link and thermal conditions (R258 to R260);
  `perst` once PERST# has been released. -/
  meas : Sparse (BitVec 256) := []
  aliasKey : List Byte := []
  limits : Limits := {}
  powered : Bool := false
  recovery : Bool := false
  perst : Bool := false
  enumerated : Bool := false
  stopped : Bool := false
  /-- A package-mode copy, whether the last one has been reported as over, and the lines for which its engines reported code 0x16
(R235, R236). -/
  ckpt : Option PackageCopy := none
  ckptDone : Bool := false
  ckptBad : List Nat := []
  deriving DecidableEq, Repr

/-! ### Reset -/

/-- A connection-table entry word (R241). -/
def connWord (da db grp plane : Nat) : Dw :=
  BitVec.ofNat 64 (2 ^ 63 + 2 ^ 62 + da * 2 ^ 59 + db * 2 ^ 56 + grp * 2 ^ 50 + plane * 2 ^ 49 + 7 * 2 ^ 45)

/-- The ten edges with the first group of their colour's block (R244). -/
def edgeBlocks : List (Nat × Nat × Nat) :=
  [(0, 1, 0), (2, 3, 0), (4, 5, 0), (6, 7, 0), (1, 2, 17), (5, 6, 17), (0, 4, 34), (1, 5, 34), (2, 6, 34), (3, 7, 34)]

/-- The default table (R244): for each edge one narrow circuit on the first group of its block and sixteen bulk
circuits on the next sixteen, 8 tracks each; entry numbers in edge order. -/
def defaultConn : Sparse Dw :=
  (List.range 10).flatMap fun e =>
    match edgeBlocks[e]? with
    | none => []
    | some (a, b, g) => (List.range 17).map fun j => (17 * e + j, connWord a b (g + j) (if j = 0 then 0 else 1))

/-- The default slice of the configuration record: slice 0 of all eight dies with every ASID (notes/assumptions/4.md).
[DESIGN CHOICE: notes/assumptions/4.md] -/
def defaultSlice : Slice := { desc := 0x400001FF }

/-- The machine right after reset. Values the spec gives no reset for are named in notes/assumptions/3.md to 5.md.
[DESIGN CHOICE: notes/assumptions/4.md, notes/assumptions/5.md] -/
def State.reset : State := { slices := [(0, defaultSlice)], conn := defaultConn }

end Sys2Proof.Machine
end

