-- ==== Sys2Proof/Machine/Access.lean ====
section
/-! DEFINITION. Named reads and writes of the parts of the state, the general registers, and byte order. Every other
file reaches the state through these. -/

namespace Sys2Proof.Machine

/-- A step's outcome. -/
abbrev Res := Host.Outcome State Fault Refusal

/-- An event: where its enabling condition holds the state changes, else it does not occur and nothing changes.
[DESIGN CHOICE: notes/assumptions/8.md] -/
def occur (s : State) (o : Option State) : Res := .next (o.getD s)

/-! ### Bits and bytes -/

/-- Bits [lo + n - 1 : lo] of a number. -/
def bitsAt (x lo n : Nat) : Nat := x / 2 ^ lo % 2 ^ n

/-- Bits [lo + n - 1 : lo] of a doubleword. -/
def dwAt (v : Dw) (lo n : Nat) : Nat := bitsAt v.toNat lo n

/-- Bit `i` of a doubleword. -/
def dwBit (v : Dw) (i : Nat) : Bool := v.getLsbD i

/-- The number made of (value, shift) fields. -/
def packNat (l : List (Nat × Nat)) : Nat := l.foldl (fun acc p => acc + p.1 * 2 ^ p.2) 0

/-- The doubleword made of (value, shift) fields. -/
def packDw (l : List (Nat × Nat)) : Dw := BitVec.ofNat 64 (packNat l)

/-- 1 or 0. -/
def b2n (b : Bool) : Nat := if b then 1 else 0

/-- The little-endian value of bytes (R5). -/
def leNat : List Byte → Nat
  | [] => 0
  | b :: l => b.toNat + 256 * leNat l

/-- The low `n` bytes of a number, little-endian (R5). -/
def leBytes : Nat → Nat → List Byte
  | 0, _ => []
  | n + 1, x => BitVec.ofNat 8 x :: leBytes n (x / 256)

/-- A doubleword's bytes. -/
def dwBytes (v : Dw) : List Byte := leBytes 8 v.toNat

/-- Bytes read as doublewords, eight at a time. -/
def bytesDws : Nat → List Byte → List Dw
  | 0, _ => []
  | n + 1, l => BitVec.ofNat 64 (leNat (l.take 8)) :: bytesDws n (l.drop 8)

/-- The bytes of doublewords. -/
def dwsBytes (l : List Dw) : List Byte := l.flatMap dwBytes

/-- The doubleword `i` of a payload, zero beyond it. -/
def Token.dw (t : Token) (i : Nat) : Dw := (t.payload[i]?).getD 0

/-- A token's sideband (R11). -/
def Token.sideband (t : Token) : Nat := t.kind.toNat * 4096 + t.seq.toNat

/-! ### Parts of the state -/

def State.tile (s : State) (t : Nat) : Tile := sget {} s.tiles t
def State.setTile (s : State) (t : Nat) (v : Tile) : State := { s with tiles := sset {} s.tiles t v }
def State.die (s : State) (d : Nat) : Die := sget {} s.dies d
def State.setDie (s : State) (d : Nat) (v : Die) : State := { s with dies := sset {} s.dies d v }
def State.slice (s : State) (n : Nat) : Slice := sget {} s.slices n
def State.setSlice (s : State) (n : Nat) (v : Slice) : State := { s with slices := sset {} s.slices n v }
def State.link (s : State) (k : Nat) : Link := sget {} s.links k
def State.setLink (s : State) (k : Nat) (v : Link) : State := { s with links := sset {} s.links k v }
def State.region (s : State) (r : Nat) : Option Region := sget none s.regions r
def State.setRegion (s : State) (r : Nat) (g : Region) : State := { s with regions := sset none s.regions r (some g) }
def State.dropRegion (s : State) (r : Nat) : State := { s with regions := sset none s.regions r none }
def Region.actor (g : Region) (a : Nat) : Option Actor := sget none g.actors a
def Region.setActor (g : Region) (a : Nat) (x : Actor) : Region := { g with actors := sset none g.actors a (some x) }
def Region.chan (g : Region) (c : Nat) : Option Chan := sget none g.chans c
def Region.setChan (g : Region) (c : Nat) (x : Chan) : Region := { g with chans := sset none g.chans c (some x) }
def Region.ctrl (g : Region) (c : Nat) : Option Ctrl := sget none g.ctrls c
def Region.setCtrl (g : Region) (c : Nat) (x : Ctrl) : Region := { g with ctrls := sset none g.ctrls c (some x) }
def Region.barrier (g : Region) (b : Nat) : Barrier := sget {} g.barriers b
def Region.setBarrier (g : Region) (b : Nat) (x : Barrier) : Region := { g with barriers := sset {} g.barriers b x }
def Region.stage (g : Region) (k : Nat) : Option Stage := sget none g.stages k
def Region.setStage (g : Region) (k : Nat) (x : Stage) : Region := { g with stages := sset none g.stages k (some x) }
def Region.node (g : Region) (k : Nat) : Option WNode := sget none g.nodes k
def Region.setNode (g : Region) (k : Nat) (x : WNode) : Region := { g with nodes := sset none g.nodes k (some x) }
def Actor.port (x : Actor) (p : Nat) : InPort := sget {} x.inp p
def Actor.setPort (x : Actor) (p : Nat) (v : InPort) : Actor := { x with inp := sset {} x.inp p v }
def Actor.outp (x : Actor) (p : Nat) : OutPort := sget {} x.out p
def Actor.setOut (x : Actor) (p : Nat) (v : OutPort) : Actor := { x with out := sset {} x.out p v }

/-- The state with a placed region changed. -/
def State.modRegion (s : State) (r : Nat) (f : Region → Region) : State :=
  match s.region r with
  | some g => s.setRegion r (f g)
  | none => s

/-- The state with a tile changed. -/
def State.modTile (s : State) (t : Nat) (f : Tile → Tile) : State := s.setTile t (f (s.tile t))

/-- The state with a die changed. -/
def State.modDie (s : State) (d : Nat) (f : Die → Die) : State := s.setDie d (f (s.die d))

/-- The state with a slice changed. -/
def State.modSlice (s : State) (n : Nat) (f : Slice → Slice) : State := s.setSlice n (f (s.slice n))

/-- The region with an actor changed. -/
def Region.modActor (g : Region) (a : Nat) (f : Actor → Actor) : Region :=
  match g.actor a with
  | some x => g.setActor a (f x)
  | none => g

/-- The state with an actor of a region changed. -/
def State.modActor (s : State) (r a : Nat) (f : Actor → Actor) : State := s.modRegion r fun g => g.modActor a f

/-- The region with a channel changed. -/
def Region.modChan (g : Region) (c : Nat) (f : Chan → Chan) : Region :=
  match g.chan c with
  | some x => g.setChan c (f x)
  | none => g

/-- The state with a channel of a region changed. -/
def State.modChan (s : State) (r c : Nat) (f : Chan → Chan) : State := s.modRegion r fun g => g.modChan c f

/-- An actor of a placed region. -/
def State.actor (s : State) (r a : Nat) : Option Actor := (s.region r).bind fun g => g.actor a

/-- The next free value (R3 to R5; notes/assumptions/2.md) and the state that has used it.
[DESIGN CHOICE: notes/assumptions/2.md] -/
def State.free (s : State) : Dw × State := (Sys2Proof.Config.freeWord s.fresh, { s with fresh := s.fresh + 1 })

/-! ### Places (R3, R37, R49) -/

/-- Tile x and y of the package from a tile number x + 64y. -/
def tileX (t : Nat) : Nat := t % 64
def tileY (t : Nat) : Nat := t / 64

/-- The tile number of place (x, y). [DESIGN CHOICE: notes/assumptions/9.md] -/
def tileAt (x y : Nat) : Nat := x + 64 * y

/-- The die of a tile. -/
def dieOf (t : Nat) : Nat := tileX t / 16 + 4 * (tileY t / 8)

/-- The tile of a die from x + 16y in die coordinates (R44). -/
def tileInDie (d k : Nat) : Nat := tileAt (d % 4 * 16 + k % 16) (d / 4 * 8 + k / 16 % 8)

/-- Slice descriptor fields (R252). -/
def Slice.dies (n : Slice) : Nat := bitsAt n.desc.toNat 0 8
def Slice.on (n : Slice) : Bool := n.desc.getLsbD 8
def Slice.abase (n : Slice) : Nat := bitsAt n.desc.toNat 16 8 * 256
def Slice.acnt (n : Slice) : Nat := bitsAt n.desc.toNat 24 8 * 256
def Slice.hasDie (n : Slice) (d : Nat) : Bool := n.dies.testBit d
def Slice.hasAsid (n : Slice) (a : Nat) : Bool := decide (n.abase ≤ a) && decide (a < n.abase + n.acnt)

/-- The enabled slice that owns a die. -/
def State.sliceOfDie (s : State) (d : Nat) : Option Nat :=
  (sfind (fun _ n => n.on && n.hasDie d) s.slices).map (·.1)

/-! ### Functions of the host link (R246, R247, R254) -/

/-- A slice's configuration is locked (R247). -/
def Slice.frozen (n : Slice) : Bool := decide (n.tdi = .locked) || decide (n.tdi = .run)

/-- The device presents a function: physical function 0, and outside the recovery state a virtual function for each enabled slice
(R246, R254). -/
def State.presents (s : State) (fn : Nat) : Bool := decide (fn = 0) || (!s.recovery && decide (fn ≤ 8) && (s.slice (fn - 1)).on)

/-- The register access in hand reaches a slice's front-end page (R246, R247, R254): through physical function 0 while the slice's
interface is not locked, or through the slice's own function; in the recovery state none does.
[DEDUCED: notes/assumptions/100.md] -/
def State.pageAdmits (s : State) (slice : Nat) : Bool :=
  !s.recovery && decide (slice < 8) &&
    match s.fn with
    | none => true
    | some fn => s.presents fn && (if fn = 0 then !(s.slice slice).frozen else decide (fn = slice + 1))

/-- The register access in hand reaches a die's registers, which stand in the front-end page of the slice that has the die (R212,
R253). -/
def State.dieAdmits (s : State) (die : Nat) : Bool := (List.range 8).any fun n => (s.slice n).hasDie die && s.pageAdmits n

/-- The register access in hand reaches the package management page: physical function 0 or the management processor (R241, R246). -/
def State.mgmtAdmits (s : State) : Bool := !s.recovery && (s.fn.isNone || decide (s.fn = some 0))

/-- The die of rank `j` among a slice's dies (R253). -/
def Slice.rankDie (n : Slice) (j : Nat) : Option Nat := ((List.range 8).filter n.hasDie)[j]?

/-- A region's key from its slice and number. [DESIGN CHOICE: notes/assumptions/9.md] -/
def regionKey (slice num : Nat) : Nat := slice * 65536 + num

/-! ### The core and its registers (R41, R45, R46) -/

/-- The core that executes: that of the tile in focus. -/
def State.core (s : State) : Core := (s.tile s.focus).core

/-- The state with that core changed. -/
def State.setCore (s : State) (c : Core) : State := s.setTile s.focus { s.tile s.focus with core := c }

/-- A general register as the mode names it: g0 reads zero; in system mode g24 to g31 are the system bank. -/
def Core.reg (c : Core) (r : Reg) : Dw :=
  if r = 0 then 0 else if c.sys && decide (24 ≤ r.toNat) then sget 0 c.sb r.toNat else sget 0 c.g r.toNat

/-- The core with a general register written: g0 ignores writes. -/
def Core.setReg (c : Core) (r : Reg) (v : Dw) : Core :=
  if r = 0 then c
  else if c.sys && decide (24 ≤ r.toNat) then { c with sb := sset 0 c.sb r.toNat v }
  else { c with g := sset 0 c.g r.toNat v }

/-- Registers from `r` upward written with the values of a list (R273). -/
def Core.setRegs (c : Core) (r : Nat) : List Dw → Core
  | [] => c
  | v :: l => (c.setReg (BitVec.ofNat 5 r) v).setRegs (r + 1) l

/-- Registers from `r` upward, `n` of them. -/
def Core.regs (c : Core) (r : Nat) : Nat → List Dw
  | 0 => []
  | n + 1 => c.reg (BitVec.ofNat 5 r) :: c.regs (r + 1) n

/-- The next instruction in sequence. -/
def Core.step4 (c : Core) : Core := { c with pc := c.pc + 4 }

def State.reg (s : State) (r : Reg) : Dw := s.core.reg r
def State.setReg (s : State) (r : Reg) (v : Dw) : State := s.setCore (s.core.setReg r v)

/-- The state with the pc at the next instruction. -/
def State.advance (s : State) : State := s.setCore s.core.step4

/-- The running firing. -/
def State.firing (s : State) : Option Firing := s.core.firing

/-- The state with the running firing changed. -/
def State.modFiring (s : State) (f : Firing → Firing) : State :=
  match s.core.firing with
  | some x => s.setCore { s.core with firing := some (f x) }
  | none => s

/-- The region key and actor index of the running firing. -/
def State.runner (s : State) : Nat × Nat :=
  match s.core.firing with
  | some f => (f.region, f.actor)
  | none => (0, 0)

/-- The running actor. -/
def State.runActor (s : State) : Option Actor := s.actor s.runner.1 s.runner.2

/-- The ASID of the running actor's region (R49). -/
def State.runAsid (s : State) : Nat := ((s.region s.runner.1).map (·.asid)).getD 0

/-- A result written to a register, and on to the next instruction. -/
def retire (s : State) (d : Reg) (v : Dw) : Res := .next (s.setCore (s.core.setReg d v).step4)

/-! ### Scratchpad (R43, R53) -/

/-- A byte of a scratchpad. One that nothing has written reads as zero. [DESIGN CHOICE: notes/assumptions/3.md] -/
def Tile.byte (t : Tile) (a : Nat) : Byte := sget 0 t.spad a
def Tile.setByte (t : Tile) (a : Nat) (b : Byte) : Tile := { t with spad := sset 0 t.spad a b }

/-- `n` bytes of scratchpad from a local address. -/
def Tile.bytes (t : Tile) (a : Nat) : Nat → List Byte
  | 0 => []
  | n + 1 => t.byte a :: t.bytes (a + 1) n

/-- Bytes written to scratchpad from a local address. -/
def Tile.setBytes (t : Tile) (a : Nat) : List Byte → Tile
  | [] => t
  | b :: l => (t.setByte a b).setBytes (a + 1) l

/-- The little-endian number in `n` bytes at a local address. -/
def Tile.load (t : Tile) (a n : Nat) : Nat := leNat (t.bytes a n)

/-- An address range within [lo, hi). -/
def within (a n lo hi : Nat) : Bool := decide (lo ≤ a) && decide (a + n ≤ hi)

/-- Whether `n` bytes at local address `a` may be accessed by LDL, STL and ISSUE (R43, R44): the running actor's local
window; in system mode the handler range or that window. -/
def State.localOk (s : State) (a n : Nat) : Bool :=
  let c := s.core
  let t := s.tile s.focus
  let inLocal := match s.runActor with
    | some x => within a n x.locB x.locL
    | none => false
  inLocal || (c.sys && within a n (t.hrBase.toNat * 64) (t.hrLimit.toNat * 64))

end Sys2Proof.Machine
end

