-- ==== Sys2Proof/Machine/Memory.lean ====
section
/-! DEFINITION. Memory and address translation (R122 to R133, R146): physical bytes, homes, range entries and grants, the
page walk, poison, what a read sees at a scope, the save area's accesses and the fault queue. -/

namespace Sys2Proof.Machine

/-! ### Physical memory (R130, R131) -/

/-- The canonical form of memory: addresses strictly rising and no byte equal to what an unlisted address reads as. -/
abbrev Memory.wf (m : List Host.Cell) : Prop := swf (0 : Byte) m = true

/-- A byte of physical memory. One that nothing has written reads as zero. [DESIGN CHOICE: notes/assumptions/3.md] -/
def State.rdByte (s : State) (pa : Nat) : Byte := sget 0 s.mem pa
/-- A byte written, in canonical form. [DESIGN CHOICE: notes/assumptions/3.md] -/
def State.wrByte (s : State) (pa : Nat) (b : Byte) : State := { s with mem := sset 0 s.mem pa b }

/-- `n` bytes from a physical address. -/
def State.rdBytes (s : State) (pa : Nat) : Nat → List Byte
  | 0 => []
  | n + 1 => s.rdByte pa :: s.rdBytes (pa + 1) n

/-- Bytes written from a physical address. -/
def State.wrBytes (s : State) (pa : Nat) : List Byte → State
  | [] => s
  | b :: l => (s.wrByte pa b).wrBytes (pa + 1) l

/-- Bytes written at a list of physical addresses. -/
def State.putBytes (s : State) : List Nat → List Byte → State
  | pa :: ps, b :: bs => (s.wrByte pa b).putBytes ps bs
  | _, _ => s

/-- The doubleword at a physical address. -/
def State.rd64 (s : State) (pa : Nat) : Dw := BitVec.ofNat 64 (leNat (s.rdBytes pa 8))
def State.wr64 (s : State) (pa : Nat) (v : Dw) : State := s.wrBytes pa (dwBytes v)

/-- The home die of a line: the exclusive OR of eight 3-bit groups of its address (R131). -/
def homeDie (pa : Nat) : Nat :=
  (List.range 8).foldl (fun acc i => Nat.xor acc (bitsAt pa (16 + 3 * i) 3)) 0

/-- The home bank of a line (R131). -/
def homeBank (pa : Nat) : Nat := Nat.xor (bitsAt pa 7 6) (bitsAt pa 13 6)

/-- The 128-byte line of an address. -/
def lineOf (pa : Nat) : Nat := pa / 128

def State.poisoned (s : State) (pa : Nat) : Bool := sget false s.poison (lineOf pa)
def State.setPoison (s : State) (line : Nat) (b : Bool) : State := { s with poison := sset false s.poison line b }

/-- A line poisoned: no read cache holds it (R146). -/
def State.poisonLine (s : State) (line : Nat) : State :=
  { s.setPoison line true with sharers := sset (.ptrs []) s.sharers line (.ptrs []) }

/-- The address lies in populated device memory. -/
def State.inDevice (s : State) (pa : Nat) : Bool := decide (pa < s.fitted) && decide (pa < 2 ^ 40)

/-- The fields of SLCFG (R249). -/
def Link.up (l : Link) : Bool := l.cfg.getLsbD 8
def Link.enabled (l : Link) : Bool := l.cfg.getLsbD 0
def Link.pkg (l : Link) : Bool := l.cfg.getLsbD 1
def Link.owner (l : Link) : Nat := bitsAt l.cfg.toNat 2 3
def Link.low (l : Link) : Nat := bitsAt l.cfg.toNat 12 52 * 4096
def Link.high (l : Link) : Nat := bitsAt l.cfg.toNat 76 52 * 4096 + 4095

/-- A link carries traffic: it is enabled and up (R249). -/
def Link.live (l : Link) : Bool := l.enabled && l.up

/-- The scope of a send between two tiles (R153). -/
def tileScope (t u : Nat) : Scope := if t = u then 0 else if dieOf t = dieOf u then 1 else 2

/-- The address exists and can be reached (R130): populated device memory, host memory, or a sister package on a link
that is enabled and up. -/
def State.paExists (s : State) (pa : Nat) : Bool :=
  if pa < 2 ^ 40 then s.inDevice pa
  else if pa < 2 ^ 48 then false
  else if pa < 2 ^ 51 then true
  else decide (pa < 2 ^ 52) && (s.link (bitsAt pa 48 3)).live

/-- The home bank accepts a request from a die (R132): the home lies in the enabled slice that owns the die.
[DEDUCED: notes/assumptions/78.md] -/
def State.homeOk (s : State) (die pa : Nat) : Bool :=
  match s.sliceOfDie die with
  | none => false
  | some n => (s.slice n).hasDie (homeDie pa)

/-! ### What an access needs, and where it may go (R123 to R125) -/

/-- The permissions an access needs; `any` is r or w (R334). -/
structure Need where
  r : Bool := false
  w : Bool := false
  at_ : Bool := false
  fut : Bool := false
  any : Bool := false
  /-- The access changes what it reaches without the permission to write (R138). -/
  dirty : Bool := false
  deriving DecidableEq, Repr

/-- A range entry grants what an access needs. -/
def RangeEntry.allows (e : RangeEntry) (n : Need) : Bool :=
  (!n.r || e.r) && (!n.w || e.w) && (!n.at_ || e.at_) && (!n.fut || e.fut) && (!n.any || e.r || e.w)

/-- A leaf entry grants what an access needs (R127, R128). -/
def leafAllows (v : Dw) (n : Need) : Bool :=
  (!n.r || dwBit v 62) && (!n.w || dwBit v 61) && (!n.at_ || dwBit v 60) && (!n.any || dwBit v 62 || dwBit v 61)

/-- An access writes, so the walker sets d (R127). -/
def Need.writes (n : Need) : Bool := n.w || n.at_ || n.dirty

/-- The range entry made of four doublewords, none where v is clear (R124); reserved bits of a grant are not looked at.
[DESIGN CHOICE: notes/assumptions/104.md] -/
def rangeOf (d0 d1 d2 d3 : Dw) : Option RangeEntry :=
  if dwBit d3 7 then
    some { base := dwAt d0 12 44 * 4096, last := dwAt d1 12 44 * 4096, pbase := dwAt d2 12 40 * 4096,
           asid := dwAt d3 34 14, paged := dwBit d3 6, r := dwBit d3 5, w := dwBit d3 4, at_ := dwBit d3 3,
           fut := dwBit d3 2, nc := dwBit d3 1 }
  else none

/-- The entry covers a byte of the 56-bit address space. -/
def RangeEntry.covers (e : RangeEntry) (va : Nat) : Bool := decide (e.base ≤ va) && decide (va < e.last + 4096)

/-- A virtual address in canonical form (R123). -/
def canonical (va : Nat) : Bool := decide (va < 2 ^ 55) || decide (2 ^ 64 - 2 ^ 55 ≤ va)

/-- The 56-bit form of a virtual address. -/
def va56 (va : Nat) : Nat := va % 2 ^ 56

/-- The first failure of an access's addresses, in increasing address order (R123): code and detail. -/
def canonFail (va n : Nat) : Option (Nat × Dw) :=
  if !canonical va then some (0x10, BitVec.ofNat 64 va)
  else if 2 ^ 64 < va + n then some (0x11, BitVec.ofNat 64 va)
  else if decide (va < 2 ^ 55) && decide (2 ^ 55 < va + n) then some (0x10, 0x80000000000000)
  else none

/-! ### The page walk (R127 to R129) -/

/-- How a walk ends: the leaf and its address, a page fault, or code 0x18. -/
inductive Walk where
  | leaf (v : Dw) (addr : Nat)
  | absent
  | bad
  deriving DecidableEq, Repr

/-- The walk from a table through the remaining indices; the last is the leaf's. -/
def State.walkTables (s : State) (die : Nat) : List Nat → Nat → Walk
  | [], _ => .bad
  | i :: is, t =>
    let a := t + 8 * i
    if !(s.paExists a && s.homeOk die a) then .bad
    else
      let e := s.rd64 a
      if !dwBit e 63 then .absent
      else
        match is with
        | [] => if dwAt e 52 6 = 0 ∧ dwAt e 0 16 = 0 then .leaf e a else .bad
        | j :: js =>
          if dwAt e 52 11 = 0 ∧ dwAt e 0 13 = 0 then s.walkTables die (j :: js) (dwAt e 13 39 * 8192) else .bad

/-- The walk of one address for a tile's die (R127, R248). -/
def State.walk (s : State) (die asid va : Nat) : Walk :=
  match s.sliceOfDie die with
  | none => .bad
  | some n =>
    let a := s.asidtb.toNat + 16 * asid
    if !(s.slice n).hasAsid asid || !s.paExists a then .bad
    else
      let e := s.rd64 a
      let e1 := s.rd64 (a + 8)
      if !dwBit e 63 then .absent
      else if dwAt e 52 11 = 0 ∧ dwAt e 0 13 = 0 ∧ dwAt e1 52 5 = 0 ∧ dwAt e1 0 5 = 0 then
        s.walkTables die [bitsAt va 46 10, bitsAt va 36 10, bitsAt va 26 10, bitsAt va 16 10] (dwAt e 13 39 * 8192)
      else .bad

/-- The leaf of an address: a translation the die has cached, else a walk (R129): until an invalidation drops it, a cached leaf is always
used, but one without d does not serve a write. [DESIGN CHOICE: notes/assumptions/105.md] -/
def State.leafOf (s : State) (die asid va : Nat) (writes : Bool) : Walk :=
  match (s.die die).tlb.find? fun e => decide (e.asid = asid) && decide (e.page = va56 va / 65536) with
  | some e => if writes && !dwBit e.leaf 58 then s.walk die asid (va56 va) else .leaf e.leaf 0
  | none => s.walk die asid (va56 va)

/-- How an access translates: the physical address of each byte with the leaves to mark accessed, a failure with code and
detail, or a page fault at an address. -/
inductive Xl where
  | ok (pas : List Nat) (marks : List Nat)
  | fail (code : Nat) (detail : Dw)
  | page (va : Nat)
  deriving DecidableEq, Repr

/-- Translation of `n` bytes from `va` through one range entry (R125, R127, R128). -/
def State.xlBytes (s : State) (die asid : Nat) (e : RangeEntry) (need : Need) (va0 : Nat) : Nat → Nat → Xl
  | 0, _ => .ok [] []
  | n + 1, va =>
    if e.paged then
      match s.leafOf die asid va need.writes with
      | .absent => .page va
      | .bad => .fail 0x18 (BitVec.ofNat 64 va0)
      | .leaf v a =>
        if !leafAllows v need then .fail 0x13 (BitVec.ofNat 64 va0)
        else
          match s.xlBytes die asid e need va0 n (va + 1) with
          | .ok ps ms => .ok ((dwAt v 16 36 * 65536 + va % 65536) :: ps) (if a = 0 || ms.contains a then ms else a :: ms)
          | x => x
    else
      match s.xlBytes die asid e need va0 n (va + 1) with
      | .ok ps ms => .ok ((e.pbase + (va56 va - e.base)) :: ps) ms
      | x => x

/-- Translation of a whole access against range entries (R123, R125, R135): the failures in the order of R135 up to the end of its walks.
`al` is the alignment an atomic or future needs. -/
def State.xlWalk (s : State) (die asid : Nat) (es : List RangeEntry) (need : Need) (al va n : Nat) : Xl :=
  match canonFail va n with
  | some (c, d) => .fail c d
  | none =>
    if va % al ≠ 0 then .fail 0x17 (BitVec.ofNat 64 va)
    else
      match es.find? fun e => decide (e.asid = asid) && e.covers (va56 va) with
      | none => .fail 0x12 (BitVec.ofNat 64 va)
      | some e =>
        if !(e.covers (va56 (va + (n - 1))) && decide (va56 va ≤ va56 (va + (n - 1)))) then
          .fail 0x12 (BitVec.ofNat 64 (va + (e.last + 4096 - va56 va)))
        else if !e.allows need then .fail 0x13 (BitVec.ofNat 64 va)
        else s.xlBytes die asid e need va n va

/-- Translation of a whole access, up to the home bank: a physical address that does not exist or whose home refuses the die fails with
code 0x18 (R130, R132, R135). -/
def State.xlate (s : State) (die asid : Nat) (es : List RangeEntry) (need : Need) (al va n : Nat) : Xl :=
  match s.xlWalk die asid es need al va n with
  | .ok ps ms => if ps.all fun p => s.paExists p && s.homeOk die p then .ok ps ms else .fail 0x18 (BitVec.ofNat 64 va)
  | x => x

/-- The leaves that grant an access, whatever it meets behind its walks. -/
def State.leaves (s : State) (die asid : Nat) (es : List RangeEntry) (need : Need) (al va n : Nat) : List Nat :=
  match s.xlWalk die asid es need al va n with
  | .ok _ ms => ms
  | _ => []

/-- The bits that a walk sets in a leaf: a, and d where the access writes (R127). -/
def leafBits (writes : Bool) : Dw := if writes then 0x0C00000000000000 else 0x0800000000000000

/-- Some line of the addresses is poisoned (R146). -/
def State.anyPoison (s : State) (pas : List Nat) : Bool := pas.any s.poisoned

/-! ### Kinds of access (R118, R135, R137, R138, R334) -/

/-- The kind of access as R135 numbers it. -/
def ReqKind.code : ReqKind → Nat
  | .read _ _ => 0 | .write _ => 1 | .atomic _ => 2 | .cas => 2 | .futGet => 3 | .futPut => 3 | .futClear => 3 | _ => 0

/-- The bytes of an access. -/
def ReqKind.bytes : ReqKind → Nat
  | .read n _ => n | .write n => n | .atomic op => if op = 9 then 4 else 8
  | .cas => 8 | .futGet => 8 | .futPut => 8 | .futClear => 8 | .writeBack => 128 | _ => 1

/-- The access writes. -/
def ReqKind.writes : ReqKind → Bool
  | .write _ | .atomic _ | .cas | .futPut | .futClear => true
  | _ => false

/-- The access reads (R155: what an acquire waits for). -/
def ReqKind.reads : ReqKind → Bool
  | .read .. | .atomic _ | .cas | .futGet | .futPut | .futClear => true
  | _ => false

/-- The permissions a kind of access needs (R124, R137, R334). -/
def ReqKind.need : ReqKind → Need
  | .read .. => { r := true }
  | .write _ => { w := true }
  | .atomic _ | .cas => { at_ := true }
  | .futGet => { fut := true }
  | .futPut | .futClear => { fut := true, dirty := true }
  | .writeBack => { any := true }
  | _ => {}

/-- The alignment a kind of access needs (R137, R138). -/
def ReqKind.align : ReqKind → Nat
  | .atomic op => if op = 9 then 4 else 8
  | .cas | .futGet | .futPut | .futClear => 8
  | _ => 1

/-- The access is a future (R138). -/
def ReqKind.isFut : ReqKind → Bool
  | .futGet | .futPut | .futClear => true
  | _ => false

/-- An access's translation at its tile's port (R125, R127); a future outside this package's device memory fails with code
0x18 (R360). -/
def State.accessXl (s : State) (tile : Nat) (a : Access) : Xl :=
  match s.xlate (dieOf tile) a.asid (s.tile tile).ranges a.kind.need a.kind.align a.va.toNat a.kind.bytes with
  | .ok ps ms => if a.kind.isFut && !ps.all s.inDevice then .fail 0x18 a.va else .ok ps ms
  | x => x

/-- The leaves that grant an access at its tile's port. -/
def State.accessLeaves (s : State) (tile : Nat) (a : Access) : List Nat :=
  s.leaves (dieOf tile) a.asid (s.tile tile).ranges a.kind.need a.kind.align a.va.toNat a.kind.bytes

/-- The physical addresses of an access, once translated or as it would translate now. -/
def State.pasOf (s : State) (tile : Nat) (a : Access) : List Nat :=
  if a.pas ≠ [] then a.pas else match s.accessXl tile a with
    | .ok ps _ => ps
    | _ => []

/-- Two accesses touch a common byte: by virtual address, or by physical address where both translate (R157). -/
def State.touches (s : State) (t : Nat) (a : Access) (u : Nat) (b : Access) : Bool :=
  (decide (a.asid = b.asid) && decide (a.va.toNat < b.va.toNat + b.kind.bytes) && decide (b.va.toNat < a.va.toNat + a.kind.bytes)) ||
    (let ps := s.pasOf t a; decide (ps ≠ []) && (s.pasOf u b).any ps.contains)

/-! ### What a read sees (R121, R151) -/

/-- A pending write's byte at an address, or the byte beneath it. -/
def Access.over (a : Access) (pa : Nat) (b : Byte) : Byte :=
  match lfind (fun p => decide (p = pa)) a.pas 0 with
  | some (i, _) => (a.data[i]?).getD b
  | none => b

/-- A write of the port that its die has taken. -/
def Access.onDie (a : Access) : Bool :=
  match a.kind with
  | .write _ => decide (a.st = .atDie)
  | _ => false

/-- A write of the port that its tile alone has accepted. -/
def Access.onTile (a : Access) : Bool :=
  match a.kind with
  | .write _ => decide (a.st = .accepted)
  | _ => false

/-- A write set among others by its stamp. -/
def insertWrite (w : Nat × Access) : List (Nat × Access) → List (Nat × Access)
  | [] => [w]
  | v :: l => if w.2.stamp < v.2.stamp then w :: v :: l else v :: insertWrite w l

/-- The writes in a die's outbound buffer, in the order in which it took them, each with its tile (R121). -/
def State.dieWrites (s : State) (die : Nat) : List (Nat × Access) :=
  s.tiles.foldl (fun l t =>
    if dieOf t.1 = die then (t.2.port.filter Access.onDie).foldl (fun l a => insertWrite (t.1, a) l) l else l) []

/-- The pending writes that a read at a scope by a tile sees, in coherence order (R121, R151). -/
def State.viewOf (s : State) (tile : Nat) (sc : Scope) : List (Nat × Access) :=
  if 2 ≤ sc.toNat then []
  else
    s.dieWrites (dieOf tile) ++
      (if sc = 0 then ((s.tile tile).port.filter Access.onTile).foldl (fun l a => insertWrite (tile, a) l) [] else [])

/-- The byte a die's L2 or outbound write buffer serves (R121, R151). -/
def State.dieByte (s : State) (die pa : Nat) : Byte := (s.dieWrites die).foldl (fun b w => w.2.over pa b) (s.rdByte pa)

/-- The byte a read at a scope by a tile returns (R121, R151): the home's at package and system scope.
[DESIGN CHOICE: notes/assumptions/10.md] -/
def State.seenByte (s : State) (tile : Nat) (sc : Scope) (pa : Nat) : Byte :=
  (s.viewOf tile sc).foldl (fun b w => w.2.over pa b) (s.rdByte pa)

/-- The bytes a read returns. -/
def State.seenBytes (s : State) (tile : Nat) (sc : Scope) (pas : List Nat) : List Byte := pas.map (s.seenByte tile sc)

/-- The pending write that supplies a byte to a read. -/
def sourceOf (l : List (Nat × Access)) (pa : Nat) : Option (Nat × Access) :=
  l.foldl (fun o w => if w.2.pas.contains pa then some w else o) none

/-- The pending writes that supply bytes to a read. -/
def State.sources (s : State) (tile : Nat) (sc : Scope) (pas : List Nat) : List (Nat × Access) :=
  (pas.filterMap (sourceOf (s.viewOf tile sc))).eraseDups

/-- A scope of a unit on one tile covers another tile (R149). -/
def scopeCovers (sc t u : Nat) : Bool :=
  decide (2 ≤ sc) || decide (t = u) || (decide (sc = 1) && decide (dieOf t = dieOf u))

/-- What the bytes a read returns order before the later accesses of who consumes them (R154): a release write whose scope
covers the reading tile, and the accesses ordered before it. -/
def State.sourceDeps (s : State) (tile : Nat) (sc : Scope) (pas : List Nat) : List Dep :=
  let pend := (s.sources tile sc pas).flatMap fun w => match w.2.rel with
    | some k => if scopeCovers k w.1 tile then
        { tile := w.1, id := w.2.id, sc := k } :: w.2.relDeps.map fun p => ({ tile := p.1, id := p.2 } : Dep) else []
    | none => []
  let home := ((pas.filter fun p => (sourceOf (s.viewOf tile sc) p).isNone).map (· / 8)).eraseDups
  (pend ++ home.flatMap fun u => match sget none s.rels u with
    | some v => if scopeCovers v.sc v.tile tile then v.deps.map fun p => ({ tile := p.1, id := p.2 } : Dep) else []
    | none => []).eraseDups

/-! ### Circuits between dies (R64, R161, R240 to R245) -/

/-- Fields of a connection-table entry. -/
def entV (v : Dw) : Bool := dwBit v 63
def entRdy (v : Dw) : Bool := dwBit v 62
def entA (v : Dw) : Nat := dwAt v 59 3
def entB (v : Dw) : Nat := dwAt v 56 3
def entGrp (v : Dw) : Nat := dwAt v 50 6
def entBulk (v : Dw) : Bool := dwBit v 49

/-- A die is an end of an entry's circuit. -/
def entAt (v : Dw) (d : Nat) : Bool := decide (entA v = d) || decide (entB v = d)

/-- An entry's circuit joins two dies. -/
def entJoins (v : Dw) (a b : Nat) : Bool := entAt v a && entAt v b && decide (a ≠ b)

def State.entry (s : State) (e : Nat) : Dw := sget 0 s.conn e
def State.setEntry (s : State) (e : Nat) (v : Dw) : State := { s with conn := sset 0 s.conn e v }

/-- The ready bulk circuits that join two dies. -/
def State.readyCircuits (s : State) (a b : Nat) : List Nat :=
  s.conn.filterMap fun p => if entV p.2 && entRdy p.2 && entBulk p.2 && entJoins p.2 a b then some p.1 else none

/-- The number of the edge between two dies, in the order of `edgeBlocks` (R3, R244). -/
def edgeNum (a b : Nat) : Option Nat :=
  (List.range 10).find? fun e => match edgeBlocks[e]? with
    | some (x, y, _) => (decide (x = a) && decide (y = b)) || (decide (x = b) && decide (y = a))
    | none => false

/-- The narrow plane of the edge between two dies carries traffic: a ready narrow circuit, the edge not down (R242, R245). -/
def State.narrowAt (s : State) (a b : Nat) : Bool :=
  (s.conn.any fun p => entV p.2 && entRdy p.2 && !entBulk p.2 && entJoins p.2 a b) &&
    match edgeNum a b with
    | some e => !sget false s.edgesDown e
    | none => false

/-- The numbers from `a` towards `b`, both ends included. -/
def runTo (a b : Nat) : List Nat := if a ≤ b then (List.range (b + 1 - a)).map (a + ·) else (List.range (a + 1 - b)).map (a - ·)

/-- The dies from one die to another, first along x, then along y (R64, R244). -/
def dieRoute (a b : Nat) : List Nat :=
  (runTo (a % 4) (b % 4)).map (4 * (a / 4) + ·) ++ if a / 4 = b / 4 then [] else [b]

/-- Every edge of a die's route to another satisfies a test. -/
def routeAll (a b : Nat) (p : Nat → Nat → Bool) : Bool :=
  ((dieRoute a b).zip ((dieRoute a b).drop 1)).all fun e => p e.1 e.2

/-- Narrow traffic can go between two dies (R242, R244). -/
def State.narrowWay (s : State) (a b : Nat) : Bool := routeAll a b s.narrowAt

/-- Bulk traffic can go between two dies (R242, R244): over a ready direct circuit; else over each edge of its route by a ready bulk
circuit or on the narrow plane. Which of several circuits an address chooses changes nothing that is seen. -/
def State.bulkWay (s : State) (a b : Nat) : Bool :=
  decide (a = b) || decide (s.readyCircuits a b ≠ []) ||
    routeAll a b fun x y => decide (s.readyCircuits x y ≠ []) || s.narrowAt x y

/-- The data of an access or transfer of a die can cross between it and the homes of the lines (R244, R245). -/
def State.linesReach (s : State) (die : Nat) (lines : List Nat) : Bool := lines.all fun n => s.bulkWay die (homeDie (128 * n))

/-! ### The directory (R142) -/

/-- The tiles that a note of the directory stands for. -/
def Dir.tiles : Dir → List Nat
  | .ptrs l => l
  | .coarse v => (List.range 1024).filter fun t => v.getLsbD (t / 16)

/-- A note with a further sharer: the fifth makes it a coarse vector. -/
def Dir.add (d : Dir) (t : Nat) : Dir :=
  let bit (v : BitVec 64) (u : Nat) : BitVec 64 := v ||| (1#64 <<< (u / 16))
  match d with
  | .ptrs l =>
    if l.contains t then d else if l.length < 4 then .ptrs (l ++ [t]) else .coarse ((l ++ [t]).foldl bit 0)
  | .coarse v => .coarse (bit v t)

/-- A note without a tile that has given up its copy; a coarse vector cannot tell. -/
def Dir.drop (d : Dir) (t : Nat) : Dir :=
  match d with
  | .ptrs l => .ptrs (l.filter fun u => decide (u ≠ t))
  | .coarse v => .coarse v

/-- The directory's note of a line. -/
def State.dir (s : State) (line : Nat) : Dir := sget (.ptrs []) s.sharers line
def State.setDir (s : State) (line : Nat) (d : Dir) : State := { s with sharers := sset (.ptrs []) s.sharers line d }

/-- The tiles that a write of a line must invalidate: every sharer but the tile whose own copy it updates (R55). -/
def State.toInvalidate (s : State) (keep : Option Nat) (line : Nat) : List Nat :=
  (s.dir line).tiles.filter fun t => decide (keep ≠ some t)

/-- Every invalidation that a write of these lines needs has been acknowledged (R142). -/
def State.linesFree (s : State) (keep : Option Nat) (lines : List Nat) : Bool :=
  lines.all fun n => decide (s.toInvalidate keep n = []) && !s.invs.any fun i => decide (i.1 = n)

/-- One invalidation sent to each tile that a line's note stands for (R142). -/
def State.sendInvs (s : State) (keep : Option Nat) : List Nat → State
  | [] => s
  | n :: l =>
    let kept := match keep with
      | some t => if (s.dir n).tiles.contains t then [t] else []
      | none => []
    let s1 := { s with invs := s.invs ++ (s.toInvalidate keep n).map fun t => (n, t) }
    (s1.setDir n (.ptrs kept)).sendInvs keep l

/-- The lines of a list of bytes. -/
def linesOf (pas : List Nat) : List Nat := (pas.map lineOf).eraseDups

/-- A write that waits for acknowledgements: it sends what invalidations are still to be sent, or waits. -/
def State.invalidate (s : State) (keep : Option Nat) (lines : List Nat) : Option State :=
  if lines.any fun n => decide (s.toInvalidate keep n ≠ []) then some (s.sendInvs keep lines) else none

/-- The directory notes a tile as a sharer of the lines it has read into its read cache (R142).
[DESIGN CHOICE: notes/assumptions/83.md] -/
def State.share (s : State) (tile : Nat) (pas : List Nat) : State :=
  (linesOf pas).foldl (fun s n => s.setDir n ((s.dir n).add tile)) s

/-- The read cache of a tile takes the lines of an access, unless its range is not to be held there (R124, R141, R371). -/
def State.fill (s : State) (tile asid : Nat) (va : Dw) (pas : List Nat) : State :=
  match (s.tile tile).ranges.find? fun e => decide (e.asid = asid) && e.covers (va56 va.toNat) with
  | some e => if e.nc then s else s.share tile pas
  | none => s

/-! ### Writes at the home (R142, R151, R154) -/

/-- A write's bytes reach the home bank. A release write with accesses ordered before it that are not at their homes yet is
noted in the units it writes. -/
def State.homeWrite (s : State) (pas : List Nat) (data : List Byte) (rel : Option RelUnit := none) : State :=
  let s := s.putBytes pas data
  { s with rels := ((pas.map (· / 8)).eraseDups).foldl (fun m u => sset none m u rel) s.rels }

/-- The updates of leaves that wait are made, each once no read cache holds its line and if the leaf is still present (R127, R142). -/
def State.settleDues (s : State) : List (Nat × Bool) → State
  | [] => s
  | (a, w) :: l =>
    if !dwBit (s.rd64 a) 63 then s.settleDues l
    else if s.linesFree none [lineOf a] then (s.wr64 a (s.rd64 a ||| leafBits w)).settleDues l
    else
      let s1 := (s.invalidate none [lineOf a]).getD s
      { s1 with dues := s1.dues ++ [(a, w)] }.settleDues l

/-- Marks of a walk: a set in each leaf, and d where the access writes, by an atomic update at the leaf's home that goes on by itself
(R127, R128). -/
def State.mark (s : State) (writes : Bool) : List Nat → State
  | [] => s
  | a :: l =>
    let s1 := if s.rd64 a &&& leafBits writes = leafBits writes ∨ (a, writes) ∈ s.dues then s else s.settleDues [(a, writes)]
    s1.mark writes l

/-- Entries of a fault queue; none where the log2 field lies outside 6 to 16. -/
def Slice.fqEntries (n : Slice) : Nat :=
  let k := bitsAt n.fqcfg.toNat 0 5
  if 6 ≤ k ∧ k ≤ 16 then 2 ^ k else 0

/-- Where a posted write goes: a fault record, where FQTAIL stands (R133). -/
def State.postedPas (s : State) (w : Posted) : List Nat :=
  match w.fq with
  | none => w.pas
  | some k =>
    let n := s.slice k
    (List.range 32).map fun i => n.fqbase.toNat + 32 * (n.fqtail.toNat % n.fqEntries) + i

/-- A fault record lost (R253). -/
def Slice.loseRecord (n : Slice) : Slice := { n with fqlost := if n.fqlost = 0xFFFFFFFF then n.fqlost else n.fqlost + 1 }

/-- A posted write performed; behind a fault record FQTAIL advances and the interrupt is raised (R133, R253). -/
def State.performPosted (s : State) (w : Posted) : State :=
  let s1 := s.homeWrite (s.postedPas w) w.data
  match w.fq with
  | none => s1
  | some k =>
    let n := s1.slice k
    let s2 := s1.setSlice k { n with fqtail := n.fqtail + 1 }
    { s2 with msix := s2.msix ++ [(k, bitsAt n.fqcfg.toNat 8 8)] }

/-- A posted write that is not performed, at a line that is poisoned or refuses it; a fault record is lost. -/
def State.dropPosted (s : State) (w : Posted) : State :=
  match w.fq with
  | none => s
  | some k => s.setSlice k (s.slice k).loseRecord

/-- The home refuses a fault record: its place does not exist, or lies outside the slice (R130, R132). -/
def State.refusesPosted (s : State) (w : Posted) : Bool :=
  match w.fq with
  | none => false
  | some k => !(s.postedPas w).all fun p => s.paExists p && (s.slice k).hasDie (homeDie p)

/-- The posted writes, in order, each whole in one event: performed once its lines are free, with invalidations sent until then (R142); a
poisoned line takes none (R146), and fault records keep their order. [DESIGN CHOICE: notes/assumptions/10.md] -/
def State.settlePosted (s : State) : List Posted → State
  | [] => s
  | w :: l =>
    let pas := s.postedPas w
    if w.fq.isSome ∧ s.posted.any (fun v => decide (v.fq = w.fq)) then { s with posted := s.posted ++ [w] }.settlePosted l
    else if s.anyPoison pas || s.refusesPosted w then (s.dropPosted w).settlePosted l
    else if s.linesFree none (linesOf pas) then (s.performPosted w).settlePosted l
    else
      let s1 := (s.invalidate none (linesOf pas)).getD s
      { s1 with posted := s1.posted ++ [w] }.settlePosted l

/-- Posted writes and updates of leaves taken up again. -/
def State.settle (s : State) : State :=
  let s1 : State := ({ s with posted := [] } : State).settlePosted s.posted
  ({ s1 with dues := [] } : State).settleDues s1.dues

/-- A write of the host or of a peer (R132, R142, R249). -/
def State.post (s : State) (pas : List Nat) (data : List Byte) : State :=
  ({ s with posted := s.posted ++ [({ pas := pas, data := data } : Posted)] } : State).settle

/-- A write of the package's own hardware waits for acknowledgements as any other (R142).
[DESIGN CHOICE: notes/assumptions/83.md] -/
def State.hwWrite (s : State) (pas : List Nat) (data : List Byte) : State := s.post pas data

/-- A byte as the package's hardware reads it back: with its own writes that wait to be performed. -/
def State.hwByte (s : State) (pa : Nat) : Byte :=
  s.posted.foldl (fun b w => match lfind (fun p => decide (p = pa)) w.pas 0 with
    | some (i, _) => (w.data[i]?).getD b
    | none => b) (s.rdByte pa)

/-! ### Grants and the save area (R124, R232) -/

/-- Entry `i` of an ASID's grant table, as a die of its slice reads it (R124, R127): none where the table has none, or where its place does
not exist or its home refuses the die (R130, R132). The entry of the ASID table is read by the walkers' way (R248). -/
def State.grantAt (s : State) (die asid i : Nat) : Option RangeEntry :=
  let a := s.asidtb.toNat + 16 * asid + 8
  let e := s.rd64 a
  let g := dwAt e 5 47 * 32 + 32 * i
  if !s.paExists a || !dwBit e 63 || decide (dwAt e 52 5 ≠ 0) || decide (dwAt e 0 5 ≠ 0) || decide (dwAt e 57 6 < i) ||
      !(s.paExists g && s.homeOk die g) then none
  else rangeOf (s.rd64 g) (s.rd64 (g + 8)) (s.rd64 (g + 16)) (s.rd64 (g + 24))

/-- The grant table of an ASID (R124, R127). -/
def State.grants (s : State) (die asid : Nat) : List RangeEntry :=
  (List.range 64).filterMap fun i => (s.grantAt die asid i).map fun r => { r with asid := asid }

/-- The pieces of `n` bytes from an address, cut at multiples of 4 KiB. -/
def pieces (va n : Nat) : List (Nat × Nat) :=
  (List.range ((va % 4096 + n + 4095) / 4096)).map fun i =>
    let lo := max va ((va / 4096 + i) * 4096)
    (lo, min (va + n) ((va / 4096 + i + 1) * 4096) - lo)

/-- A save-area access: each piece is translated under the ASID's grants with r and w, a page fault failing with code 0x15
(R232); its bytes, and the leaves that its walks mark. -/
def State.savePas (s : State) (die asid : Nat) : List (Nat × Nat) → Except (Nat × Dw) (List Nat × List Nat)
  | [] => .ok ([], [])
  | (va, n) :: l =>
    match s.xlate die asid (s.grants die asid) { r := true, w := true } 1 va n with
    | .ok ps ms =>
      if (linesOf ps).any (sget false s.badMeta) then .error (0x19, BitVec.ofNat 64 va)
      else if s.anyPoison ps then .error (0x16, BitVec.ofNat 64 va)
      else
        match s.savePas die asid l with
        | .ok q => .ok (ps ++ q.1, ms ++ q.2)
        | .error e => .error e
    | .fail c d => .error (c, d)
    | .page v => .error (0x15, BitVec.ofNat 64 v)

/-- The bytes of a save-area access (R123, R232). -/
def State.saveXl (s : State) (die asid va n : Nat) : Except (Nat × Dw) (List Nat × List Nat) :=
  match canonFail va n with
  | some e => .error e
  | none => s.savePas die asid (pieces va n)

/-- Bytes written to the save area. -/
def State.saveWrite (s : State) (die asid va : Nat) (l : List Byte) : Except (Nat × Dw) State :=
  if l = [] then .ok s
  else
    match s.saveXl die asid va l.length with
    | .ok q => .ok ((s.mark true q.2.eraseDups).hwWrite q.1 l)
    | .error e => .error e

/-- Bytes read from the save area. -/
def State.saveRead (s : State) (die asid va n : Nat) : Except (Nat × Dw) (List Byte) :=
  if n = 0 then .ok []
  else
    match s.saveXl die asid va n with
    | .ok q => .ok (q.1.map s.hwByte)
    | .error e => .error e

/-- The marks of the walks by which bytes of the save area were read (R127). -/
def State.saveSeen (s : State) (die asid va n : Nat) : State :=
  match s.saveXl die asid va n with
  | .ok q => s.mark false q.2.eraseDups
  | .error _ => s

/-! ### The fault queue (R133, R253) -/

/-- A fault-queue record appended, or counted as lost when the queue is full (R133, R253). -/
def State.faultRecord (s : State) (slice : Nat) (r : List Dw) : State :=
  let n := s.slice slice
  let used := (n.fqtail - n.fqhead).toNat + (s.posted.filter fun w => decide (w.fq = some slice)).length
  if n.fqEntries ≤ used then s.setSlice slice n.loseRecord
  else ({ s with posted := s.posted ++ [{ data := dwsBytes r, fq := some slice }] } : State).settle

end Sys2Proof.Machine
end

