-- ==== Sys2Proof/Machine/Tokens.lean ====
section
/-! DEFINITION. Tokens on channels: occupancy and free slots, sends and what they release, error tokens and the fault
feed, calls on the control network, responses, and which accesses an access waits for (R11 to R18, R21, R23, R52, R119,
R120, R153 to R157, R425, R426). -/

namespace Sys2Proof.Machine

/-! ### Channels -/

/-- The channel that a sender feeds. -/
def Region.chanOf (g : Region) (src : ChanFrom) : Option (Nat × Chan) :=
  match sfind (fun _ c => match c with | some c => decide (c.src = src) | none => false) g.chans with
  | some (k, some c) => some (k, c)
  | _ => none

/-- The channel that ends at an actor's input. -/
def Region.chanTo (g : Region) (a p : Nat) : Option (Nat × Chan) :=
  match sfind (fun _ c => match c with | some c => decide (c.dst = .actor a p) | none => false) g.chans with
  | some (k, some c) => some (k, c)
  | _ => none

/-- Tokens that take a declared slot: a solstice has a slot of its own (R228). -/
def countSlots (l : List Token) : Nat := (l.filter fun t => decide (t.kind ≠ 6)).length

/-- Tokens of a channel that have arrived and hold their slots. -/
def Region.arrived (g : Region) (c : Chan) : Nat :=
  match c.dst with
  | .actor a p => countSlots (((g.actor a).map fun x => (x.port p).q).getD [])
  | _ => countSlots c.q

/-- Free slots of a channel as its sender sees them (R18). A burst that a hop holds stands in the hop and takes none: with its header
it may be longer than any channel's 256 slots (R15, R17, R85). -/
def Region.freeSlots (g : Region) (c : Chan) : Nat :=
  c.slots - (countSlots (c.wire.map (·.tok)) + g.arrived c + c.reserved)

/-- Free slots at an output, 0 where no channel leaves it. [DEDUCED: notes/assumptions/7.md] -/
def Region.outFree (g : Region) (a p : Nat) : Nat :=
  match g.chanOf (.actor a p) with
  | some (_, c) => g.freeSlots c
  | none => 0

/-- An output can take a token: its channel has a free slot, or no channel leaves it and what is sent there goes nowhere
(notes/assumptions/7.md). -/
def Region.outReady (g : Region) (a p : Nat) : Bool :=
  match g.chanOf (.actor a p) with
  | some (_, c) => decide (0 < g.freeSlots c)
  | none => true

/-- Every output of a list can take a token. -/
def Region.outsFree (g : Region) (a : Nat) (l : List Nat) : Bool := l.all (g.outReady a)

/-- The outputs of a list that a channel leaves. -/
def Region.joinedOf (g : Region) (a : Nat) (l : List Nat) : List Nat := l.filter fun p => (g.chanOf (.actor a p)).isSome

/-- The index by which an error token names a channel, in 8 bits (R13): modulo 256. [DESIGN CHOICE: notes/assumptions/13.md] -/
def chanField (o : Option (Nat × Chan)) : Nat := match o with | some (k, _) => k % 256 | none => 0xFF

/-! ### Which accesses are performed (R121, R155, R157) -/

/-- An access has been performed at a scope. [DEDUCED: notes/assumptions/77.md] -/
def Access.performed (a : Access) (sc : Nat) : Bool :=
  match a.kind with
  | .write _ => (decide (sc = 0) && decide (a.st ≠ .issued)) || (decide (sc = 1) && decide (a.st = .atDie))
  | .prefetch | .writeBack | .engine => true
  | _ => match a.st with | .answered _ => true | _ => false

/-- The access of a tile's port with an identifier. -/
def State.access (s : State) (tile id : Nat) : Option Access := (s.tile tile).port.find? fun a => decide (a.id = id)

/-- An access named by tile and identifier has been performed at a scope, in all its units; one that has left its port has. -/
def State.performedAt (s : State) (tile id sc : Nat) : Bool :=
  (s.tile tile).port.all fun a => decide (a.id ≠ id) || a.performed sc

/-- What something waits for has been performed. -/
def State.depDone (s : State) (d : Dep) : Bool := s.performedAt d.tile d.id d.sc

/-- The scope at which an access of tile `t` must be performed for one of tile `u` at a scope to find it performed. -/
def reachScope (t u sc : Nat) : Nat := if dieOf t ≠ dieOf u then max 2 sc else if t ≠ u then max 1 sc else sc

/-- Those of a list of accesses that touch the bytes of an access have been performed where it will look for them (R152). -/
def State.ahead (s : State) (tile sc : Nat) (a : Access) (l : List (Nat × Nat)) : Bool :=
  l.all fun p => s.performedAt p.1 p.2 (reachScope p.1 tile sc) ||
    !((s.tile p.1).port.any fun b => decide (b.id = p.2) && s.touches p.1 b tile a)

/-- The accesses of a port that stand before the one at place `k`. -/
def Access.before (l : List Access) (k : Nat) : List Access := l.take k

/-- The access at place `k` may be performed at a scope: the fences before it, the accesses to its bytes that tokens have
ordered before it or its actor's reads have returned, and its actor's earlier accesses to its bytes allow it (R152, R155,
R157). A deferred get has its place in its future's order and holds nothing back (R138, R360).
[DEDUCED: notes/assumptions/77.md] -/
def State.ready (s : State) (tile k sc : Nat) (a : Access) : Bool :=
  a.after.all s.depDone && s.ahead tile sc a a.behind &&
    s.ahead tile sc a (((s.actor a.region a.actor).map (·.seen)).getD []) &&
    ((Access.before (s.tile tile).port k).all fun b =>
      !(decide (b.region = a.region) && decide (b.actor = a.actor) && decide (b.id ≠ a.id) && s.touches tile b tile a) ||
        b.performed sc || decide (b.st = .deferred))

/-- The accesses of an actor that are not yet performed at package scope (R153). -/
def State.pendingOf (s : State) (tile r a : Nat) : List (Nat × Nat) :=
  (((s.tile tile).port.filter fun x =>
    decide (x.region = r) && decide (x.actor = a) && !x.performed 2).map fun x => (tile, x.id)).eraseDups

/-- The accesses ordered before an actor by what it has received, not yet performed at package scope (R153). -/
def State.carried (s : State) (x : Actor) : List (Nat × Nat) := x.carry.filter fun p => !s.performedAt p.1 p.2 2

/-- What a send releases and at which scope: on a channel to an actor or out of the region every earlier access of the
sender and what it carries; on a channel to a command engine only what a fence names (R153, R155, R342).
[DEDUCED: notes/assumptions/11.md] -/
def State.releases (s : State) (r a : Nat) (x : Actor) (c : Chan) : List Dep :=
  let fence := x.fence.rel.filter fun d => !s.depDone d
  match c.dst with
  | .copy .. | .bank .. | .linkEngine .. => fence
  | _ => fence ++ (s.pendingOf x.tile r a ++ s.carried x).map fun p => { tile := p.1, id := p.2, sc := c.scope.toNat }

/-! ### Sends -/

/-- A token put on a channel. -/
def Chan.put (c : Chan) (t : Token) (after : List Dep) (cls : BitVec 2) : Chan :=
  { c with wire := c.wire ++ [{ tok := t, after := after, cls := cls }] }

/-- The class of an actor's running firing, or of its future firings where none runs (R190). -/
def State.issuerClass (s : State) (r a : Nat) (x : Actor) : BitVec 2 :=
  match (s.tile x.tile).core.firing with
  | some f => if f.region = r ∧ f.actor = a then f.cls else x.cls
  | none => x.cls

/-- The running firing of an actor, by name; 0 where none runs (R194). -/
def State.issuerFiring (s : State) (r a : Nat) (x : Actor) : Nat :=
  match (s.tile x.tile).core.firing with
  | some f => if f.region = r ∧ f.actor = a then f.id else 0
  | none => 0

/-- An actor's handler runs with its matrix state saved (R222). -/
def State.handling (s : State) (r a : Nat) (x : Actor) : Bool :=
  let c := (s.tile x.tile).core
  decide (s.issuerFiring r a x ≠ 0) && c.sys && c.tstat.getLsbD 4

/-- A token sent on an output's channel, stamped with the output's next number (R14); the stream count follows R406. `deps`
is what the value it carries orders before the accesses of who consumes it (R154). [DEDUCED: notes/assumptions/7.md] -/
def State.sendOn (s : State) (r a p : Nat) (kind : BitVec 4) (payload : List Dw) (deps : List Dep := []) : State :=
  match s.region r with
  | none => s
  | some g =>
    match g.actor a, g.chanOf (.actor a p) with
    | some x, some (ci, c) =>
      let o := x.outp p
      let count := if kind = 2 then 0 else if kind = 0 ∨ kind = 1 then o.count + 1 else o.count
      let tok : Token := { kind := kind, seq := o.seq, payload := payload, deps := deps, by_ := s.issuerFiring r a x, hand := s.handling r a x }
      s.setRegion r ((g.setChan ci (c.put tok (s.releases r a x c) (s.issuerClass r a x))).setActor a
        (x.setOut p { seq := o.seq + 1, count := count, eosSent := o.eosSent || decide (kind = 2) }))
    | _, _ => s

/-- One EOS on an output, with its error mark and the stream's count (R32, R406). -/
def State.sendEos (s : State) (r a p : Nat) (err : Bool) : State :=
  let n := ((s.actor r a).map fun x => (x.outp p).count).getD 0
  s.sendOn r a p 2 [packDw [(b2n err, 0), (n.toNat, 32)]]

/-- One token on each output of a list. -/
def State.sendAll (s : State) (r a : Nat) (kind : BitVec 4) (payload : List Dw) : List Nat → State
  | [] => s
  | p :: l => (s.sendOn r a p kind payload).sendAll r a kind payload l

/-- One EOS on each output of a list. -/
def State.eosAll (s : State) (r a : Nat) (err : Bool) : List Nat → State
  | [] => s
  | p :: l => (s.sendEos r a p err).eosAll r a err l

/-! ### Error tokens (R13, R52, R425) -/

/-- An error token's payload (R13). -/
def errPayload (asid chan tile slot info code : Nat) (detail : Dw) : List Dw :=
  [packDw [(asid % 16384, 46), (chan % 256, 38), (tileX tile, 32), (tileY tile, 28), (slot % 16, 24),
    (info % 65536, 8), (code % 256, 0)], detail]

/-- An error token on the region's fault feed: discarded without a fault sink; none when its 64 slots are full (R425). Its
sequence number is the sender's own, a free value. [DESIGN CHOICE: notes/assumptions/13.md] -/
def State.feed (s : State) (r : Nat) (payload : List Dw) : Option State :=
  match s.region r with
  | none => some s
  | some g =>
    match g.sink with
    | none => some s
    | some (sa, sp) =>
      match g.actor sa with
      | none => some s
      | some x =>
        let q := x.port sp
        if 64 ≤ q.q.length then none
        else
          let (v, s) := s.free
          let t : Token := { kind := 4, seq := v.setWidth 12, payload := payload }
          some (s.setRegion r (g.setActor sa (x.setPort sp { q with q := q.q ++ [t] })))

/-- An error token sent from an actor's error port, or none when no slot is free (R21, R52, R425). -/
def State.trySendError (s : State) (r a : Nat) (payload : List Dw) : Option State :=
  match s.region r with
  | none => some s
  | some g =>
    match g.actor a with
    | none => s.feed r payload
    | some x =>
      match x.errPort with
      | none => s.feed r payload
      | some p =>
        match (g.chanOf (.err a)).orElse fun _ => g.chanOf (.actor a p) with
        | none => s.feed r payload
        | some (ci, c) =>
          if g.freeSlots c = 0 then none
          else
            let o := x.outp p
            let tok : Token := { kind := 4, seq := o.seq, payload := payload }
            some (s.setRegion r ((g.setChan ci (c.put tok (s.releases r a x c) (s.issuerClass r a x))).setActor a
              (x.setOut p { o with seq := o.seq + 1 })))

/-- An error token to an actor's error port; held behind those already held, or while no slot is free (R52). -/
def State.sendError (s : State) (r a : Nat) (payload : List Dw) : State :=
  let hold := s.modActor r a fun x => { x with held := x.held ++ [{ kind := 4, payload := payload }] }
  match s.actor r a with
  | some x => if x.held = [] then (s.trySendError r a payload).getD hold else hold
  | none => (s.trySendError r a payload).getD s

/-- An error of an actor: token built from where it lies (R13). -/
def State.errorAt (s : State) (r a chan info code : Nat) (detail : Dw) : State :=
  match s.region r with
  | none => s
  | some g =>
    match g.actor a with
    | none => s
    | some x => s.sendError r a (errPayload g.asid chan x.tile x.slot info code detail)

/-- The actor holds no error token, neither one for its error port nor a diversion (R52, R425). -/
def Actor.holdsNone (x : Actor) : Bool := decide (x.held = []) && decide (x.diverted = [])

/-- A call or a rule of an actor that cannot run diverted to the fault sink with code 0x07 (R25); held behind those that it already
holds, or while the feed is full (R425). -/
def State.divert (s : State) (r a chan entry : Nat) (d : Dw) : State :=
  match s.region r, s.actor r a with
  | some g, some x =>
    let p := errPayload g.asid chan x.tile x.slot entry 0x07 d
    let hold := s.modActor r a fun x => { x with diverted := x.diverted ++ [p] }
    if x.diverted = [] then (s.feed r p).getD hold else hold
  | _, _ => s

/-- An error token bound for the region's fault sink from a router hop, a filter, a barrier slot or the control network (R425): named by
the tile and slot of the unit that detects it. A full feed makes its sender hold it, which the region's network does, in order. -/
def State.feedError (s : State) (r tile slot chan info code : Nat) (detail : Dw) : State :=
  match s.region r with
  | none => s
  | some g =>
    let p := errPayload g.asid chan tile slot info code detail
    let hold := s.modRegion r fun g => { g with feedHeld := g.feedHeld ++ [p] }
    if g.feedHeld = [] then (s.feed r p).getD hold else hold

/-! ### Calls and responses -/

/-- A control token of subtype 0x03 on the control network to an actor (R140, R160, R407, R426); its sequence number is a
free value. [DESIGN CHOICE: notes/assumptions/13.md] -/
def State.netCall (s : State) (r a entry : Nat) (d1 d2 : Dw) : State :=
  let (v, s) := s.free
  let t : Token := { kind := 5, seq := v.setWidth 12, payload := [packDw [(3, 0), (entry % 16, 8)], d1, d2] }
  s.modRegion r fun g => { g with net := g.net ++ [.call a t] }

/-- A response, or the error token in its place, at a response port (R118, R120); its sequence number is a free value.
[DESIGN CHOICE: notes/assumptions/13.md] -/
def State.respond (s : State) (r a p : Nat) (kind : BitVec 4) (payload : List Dw) (deps : List Dep := []) : State :=
  let (v, s) := s.free
  let t : Token := { kind := kind, seq := v.setWidth 12, payload := payload, deps := deps }
  s.modActor r a fun x =>
    let q := x.port p
    x.setPort p { q with q := q.q ++ [t] }

/-- The response to an access of another unit's: it joins its port in issue order (R120). One whose access is gone, after a
restore, goes to the port at once. -/
def State.answer (s : State) (r : Nat) (o : Owed) (payload : List Dw) : State :=
  match s.actor r o.actor with
  | none => s
  | some x =>
    if (s.access x.tile o.id).isSome then
      s.modTile x.tile fun t =>
        { t with port := t.port.map fun b =>
            if b.id = o.id ∧ b.kind = .engine then { b with st := .answered { payload := payload } } else b }
    else s.respond r o.actor o.port 0 payload

/-- The head of an input taken: a credit returns on a response port (R119); an EOS ends the stream, is noted for the done
report (R36) and at a sink (R38). -/
def InPort.pop (q : InPort) : InPort :=
  let eos := match q.q with
    | t :: _ => decide (t.kind = 2)
    | [] => false
  { q with
    q := q.q.drop 1, taken := if eos then 0 else q.taken + 1
    credits := if q.resp.isSome then q.credits - 1 else q.credits
    eosSeen := q.eosSeen || eos, sinkDone := q.sinkDone || (q.sink && eos) }

/-- An input with no token and no stream under way, its numbering at 0 (R14). -/
def InPort.restart (q : InPort) : InPort :=
  { q with
    q := [], hdr := none, left := 0, seen := 0, skip := false, drop := false, exp := 0, taken := 0, closed := false, saved := 0
    eosSeen := false }

/-- Free credits of an input; 0 for a port that is no response port (R119, R333). -/
def InPort.freeCredits (q : InPort) : Nat :=
  match q.resp with
  | some d => d - q.credits
  | none => 0

/-- What an actor receives with a token is ordered before its later accesses (R153, R154): all of them wait for it at its
scope, those to its bytes at theirs, and its sends release it on. -/
def Actor.acquire (x : Actor) (l : List Dep) : Actor :=
  if l = [] then x
  else
    { x with
      carry := x.carry ++ (l.map fun d => (d.tile, d.id)).filter fun p => !x.carry.contains p
      fence := { x.fence with all := x.fence.all ++ l.filter fun d => !x.fence.all.contains d } }

/-- What the head of an input brings with it. -/
def Actor.headDeps (x : Actor) (p : Nat) : List Dep := match (x.port p).q with
  | t :: _ => t.deps
  | [] => []

/-- The head of an actor's input taken (R153: the receive). -/
def Actor.popPort (x : Actor) (p : Nat) : Actor := (x.acquire (x.headDeps p)).setPort p (x.port p).pop

/-- The head of each input of a list taken. -/
def Actor.popPorts (x : Actor) : List Nat → Actor
  | [] => x
  | p :: l => (x.popPort p).popPorts l

/-- The head token of an input. -/
def Actor.head (x : Actor) (p : Nat) : Option Token := (x.port p).q.head?

/-- The numbers 0 to 7 whose bit a mask sets. -/
def maskList (m : BitVec 8) : List Nat := (List.range 8).filter fun i => m.getLsbD i

/-! ### Request info (R135) -/

/-- The info field of a memory error (R135). -/
def memInfo (kind port bytes : Nat) : Nat := kind + 16 * (port % 16) + 256 * (min (bytes - 1) 255)

end Sys2Proof.Machine
end

