-- ==== Sys2Proof/Machine/Ops.lean ====
section
/-! DEFINITION. Shared operations of launches and traps: the fault record and error records, the end of a launch and its
completion, taking an exception, and the return from one (R38, R44, R165, R175, R217 to R226, R274, R349). -/

namespace Sys2Proof.Machine

/-! ### The save area of a region (R223, R226, R232) -/

/-- The die through which a region's own accesses go: that of its origin tile. -/
def Region.die (g : Region) : Nat := dieOf (tileAt g.ox g.oy)

/-- The die of a node: an actor's own, and that of the origin tile for a controller, which has no place of its own (R35).
[DEDUCED: notes/assumptions/61.md] -/
def Region.nodeDie (g : Region) : Node → Nat
  | .ctrl _ => g.die
  | .actor a => match g.actor a with
    | some x => dieOf x.tile
    | none => g.die

/-- The die of an engine that is no tile's own. -/
def Engine.die : Engine → Option Nat
  | .copy d _ | .bank d | .link d => some d
  | .unit .. => none

/-- The control network carries a message between the region's origin tile and a node (R161, R242, R245).
[DEDUCED: notes/assumptions/61.md] -/
def State.netReaches (s : State) (g : Region) (n : Node) : Bool := s.narrowWay g.die (g.nodeDie n)

/-- The control network carries what a child of a controller sends up (R161, R242, R245). -/
def State.kidReaches (s : State) (g : Region) (c j : Nat) : Bool :=
  match (g.ctrl c).bind fun y => y.kids[j]? with
  | some n => s.netReaches g n
  | none => true

/-- Bytes written to a region's save area at an offset from CTXB. -/
def State.areaWrite (s : State) (g : Region) (off : Nat) (l : List Byte) : Except (Nat × Dw) State :=
  s.saveWrite g.die g.asid (g.ctxb.toNat + off) l

/-- Bytes read from a region's save area. -/
def State.areaRead (s : State) (g : Region) (off n : Nat) : Except (Nat × Dw) (List Byte) :=
  s.saveRead g.die g.asid (g.ctxb.toNat + off) n

/-- The allocation counter of the fault record (R223, R226), or the number hardware last saw where it cannot be read. -/
def State.recordCount (s : State) (g : Region) : Nat :=
  match s.areaRead g 0x120 8 with
  | .ok l => leNat l
  | .error _ => g.records

/-- Doubleword 0 of the fault record (R226). -/
def faultWord (g : Region) (n : Nat) : Dw :=
  packDw [(min n 0xFFFFFFFF, 0), (b2n g.race, 32), (b2n (64 < n), 33), (b2n g.fatal, 34)]

/-- The fault record brought up to date with the allocation counter (R223). -/
def State.syncFault (s : State) (r : Nat) : State :=
  match s.region r with
  | none => s
  | some g =>
    let n := s.recordCount g
    let s := match s.areaWrite g 0x100 (dwBytes (faultWord g n)) with
      | .ok s => s
      | .error _ => s
    s.setRegion r { g with records := n }

/-- A counter of the fault record advanced by one, modulo 2^32 (R36): its offset in the record and shift in the
doubleword. A fault on the save area loses the count. -/
def State.bumpFault (s : State) (r off shift : Nat) : State :=
  match s.region r with
  | none => s
  | some g =>
    match s.areaRead g (0x100 + off + shift / 8) 4 with
    | .error _ => s
    | .ok l =>
      match s.areaWrite g (0x100 + off + shift / 8) (leBytes 4 (leNat l + 1)) with
      | .ok s => s
      | .error _ => s

/-- A counter that saturates at 2^32 - 1. -/
def satInc (w : Word) : Word := if w = 0xFFFFFFFF then w else w + 1

/-- The region's mesh counters reported in its fault record (R196, R226). A fault on the save area loses the report. -/
def State.reportMesh (s : State) (r : Nat) : State :=
  match s.region r with
  | none => s
  | some g =>
    match s.areaWrite g 0x110 (leBytes 4 g.vdrop.toNat ++ leBytes 4 g.pdrop.toNat ++ leBytes 4 g.pcull.toNat) with
    | .ok s => s
    | .error _ => s

/-- A region whose counts of mesh output ports are those of its fault record (R196, R226). -/
def State.readMesh (s : State) (r : Nat) : State :=
  match s.region r with
  | none => s
  | some g =>
    match s.areaRead g 0x110 12 with
    | .ok l =>
      let word (i : Nat) : Word := BitVec.ofNat 32 (leNat ((l.drop (4 * i)).take 4))
      s.modRegion r fun g => { g with vdrop := word 0, pdrop := word 1, pcull := word 2 }
    | .error _ => s

/-! ### Error records (R224, R225) -/

/-- What an error record says beside its launch: code, cause, the tile and slot, and the trap registers and details. -/
structure ErrRec where
  code : Nat
  cause : Nat := 0
  tile : Nat := 0
  slot : Nat := 0
  tstat : BitVec 6 := 0
  tepc : Word := 0
  tval : Dw := 0
  d1 : Dw := 0
  d2 : Dw := 0

/-- A launch's record index, queue, tag and fabric bit as error records and launch tokens hold them (R174, R224). -/
def Launch.ident (l : Launch) : Nat × Nat × Bool :=
  match l.src with
  | .queue q i => (i, q, false)
  | .fabric i _ => (i, 0, true)

/-- The eight doublewords of a fatal error record (R224). -/
def ErrRec.words (e : ErrRec) (s : State) (g : Region) : List Dw :=
  let d := s.die (dieOf e.tile)
  let l := g.launch.getD {}
  let (i, q, fab) := l.ident
  [packDw [(1, 44), (e.slot % 16, 40), (tileY e.tile, 36), (tileX e.tile, 30), (g.asid % 16384, 16), (e.cause % 256, 8),
     (e.code, 0)],
   d.eqt, d.eqe, packDw [(e.tstat.toNat, 32), (e.tepc.toNat, 0)], e.tval, e.d1, e.d2,
   packDw [(i % 2 ^ 32, 32), (b2n fab, 22), (q % 64, 16), (l.tag.toNat, 0)]]

/-- A fatal error record written for a region (R223): the allocation counter advances, the record is kept when its number
is below 64, and a fault on a write loses it (R226). [DEDUCED: notes/assumptions/94.md] -/
def State.writeRecord (s : State) (r : Nat) (e : ErrRec) : State :=
  match s.region r with
  | none => s
  | some g =>
    let n := s.recordCount g
    let g' := { g with fatal := true, records := n + 1 }
    let lost := s.setRegion r { g' with lostRecord := true }
    match s.areaWrite g 0x120 (leBytes 8 (n + 1)) with
    | .error _ => lost
    | .ok s1 =>
      let s2 := if n < 64 then s1.areaWrite g (0x1000 + 64 * n) (dwsBytes (e.words s g)) else .ok s1
      match s2 with
      | .error _ => lost
      | .ok s2 =>
        match s2.areaWrite g 0x100 (dwBytes (faultWord g' (n + 1))) with
        | .error _ => lost
        | .ok s3 => s3.setRegion r g'

/-! ### The end of a launch (R38, R165, R175, R223, R407) -/

/-- A ring or table access under an ASID through its page table (R127, R172): its bytes, and the leaves that its walks mark.
[DEDUCED: notes/assumptions/53.md] -/
def State.pagedXl (s : State) (die asid va n : Nat) (need : Need) : Except (Nat × Dw) (List Nat × List Nat) :=
  match canonFail va n with
  | some e => .error e
  | none =>
    let e : RangeEntry := { last := 2 ^ 56 - 4096, asid := asid, paged := true, r := true, w := true, at_ := true }
    match s.xlBytes die asid e need va n va with
    | .ok ps ms =>
      if !(ps.all fun p => s.paExists p && s.homeOk die p) then .error (0x18, BitVec.ofNat 64 va)
      else if s.anyPoison ps then .error (0x16, BitVec.ofNat 64 va) else .ok (ps, ms)
    | .fail c d => .error (c, d)
    | .page v => .error (0x15, BitVec.ofNat 64 v)

/-- A slice's queue registers. -/
def Slice.queue (n : Slice) (q : Nat) : Queue := sget {} n.queues q
def Slice.setQueue (n : Slice) (q : Nat) (v : Queue) : Slice := { n with queues := sset {} n.queues q v }

/-- Fields of QCFG (R172). -/
def Queue.on (q : Queue) : Bool := dwBit q.cfg 0
def Queue.asid (q : Queue) : Nat := dwAt q.cfg 34 14
def Queue.prio (q : Queue) : Nat := dwAt q.cfg 26 8
def Queue.entries (q : Queue) : Nat := 2 ^ dwAt q.cfg 21 5

/-- The first die of a slice, through which its front end reaches memory. -/
def Slice.firstDie (n : Slice) : Nat := ((List.range 8).find? n.hasDie).getD 0

/-- A queue's completion record written at its entry, at system scope, and the interrupt (R175). A fault on the ring
clears enable and sets QSTAT[1] (R172). -/
def State.complete (s : State) (slice q idx : Nat) (irq : Bool) (tag : BitVec 16) (status : Nat) (rec_ : Dw) : State :=
  let n := s.slice slice
  let u := n.queue q
  let u := { u with stat := BitVec.ofNat 16 (u.stat.toNat % 256 + status * 256) }
  let d := s.die n.firstDie
  let words := [packDw [(idx % 2 ^ 32, 32), (status, 16), (tag.toNat, 0)], d.eqt, d.eqe, rec_]
  let va := u.cpl.toNat + 32 * (idx % u.entries)
  match s.pagedXl n.firstDie u.asid va 32 { w := true } with
  | .ok (ps, ms) =>
    let s := ((s.mark true ms).hwWrite ps (dwsBytes words)).modSlice slice fun n => n.setQueue q u
    if irq && dwBit u.cfg 1 then { s with msix := s.msix ++ [(slice, q)] } else s
  | .error _ => s.setSlice slice (n.setQueue q { u with cfg := u.cfg &&& ~~~1, stat := u.stat ||| 2 })

/-- Doubleword 0 of a launch's token (R174). -/
def Launch.word (l : Launch) : Dw :=
  let (i, q, fab) := l.ident
  packDw [(l.tag.toNat, 0), (q % 64, 16), (b2n fab, 22), (i % 2 ^ 32, 32)]

/-- A launch's completion reported to where it came from: the queue's ring, or a call to the completion target while its launch is still
running (R175, R407). A target whose region is being cut or waits to resume is held by the front end.
[DEDUCED: notes/assumptions/54.md] -/
def State.report (s : State) (slice : Nat) (l : Launch) (status : Nat) (rec_ : Dw) : State :=
  match l.src with
  | .queue q i => s.complete slice q i l.irq l.tag status rec_
  | .fabric _ none => s
  | .fabric _ (some (r, a, h, who)) =>
    match s.region r with
    | none =>
      if ((s.slice slice).waiting.any fun w => decide (w.launch.word = who) && decide ((w.saved.map fun x => regionKey slice x.2) = some r)) ||
          s.loads.any (fun o => decide (o.slice = slice) && decide ((o.launch.map Launch.word) = some who) &&
            decide ((o.held.map fun n => regionKey slice n) = some r)) then
        { s with heldDone := s.heldDone ++ [(r, a, { kind := 5, payload := [packDw [(3, 0), (h % 16, 8)],
          BitVec.ofNat 64 status, rec_] })] }
      else s
    | some g =>
      if (g.launch.map Launch.word) ≠ some who then s
      else if g.cutBy.isSome then
        { s with heldDone := s.heldDone ++ [(r, a, { kind := 5, payload := [packDw [(3, 0), (h % 16, 8)],
          BitVec.ofNat 64 status, rec_] })] }
      else s.netCall r a h (BitVec.ofNat 64 status) rec_

/-- The address of the first error record for a completion: zero with no record, or when one was lost (R175, R226). -/
def Region.recordAddr (g : Region) : Dw :=
  if g.records = 0 ∨ g.lostRecord then 0 else g.ctxb + 0x1000

/-- The completion status of a launch that has run (R223). -/
def Region.status (g : Region) : Nat := if g.fatal then 6 else if g.records ≠ 0 then 1 else 0

/-- An actor as a launch leaves it: its ports empty and its tokens gone. -/
def Actor.discard (x : Actor) : Actor :=
  { x with
    inp := smap {} (fun _ q =>
      { q.restart with credits := 0, sinkDone := false }) x.inp
    out := [], held := [], diverted := [], calls := [], waits := [], follow := [], cand := none, fence := {}, carry := [], seen := [], cut := .run, recd := [],
    srcCut := false, enClosed := false, quotaUsed := 0
    body := match x.body with
      | .matrix _ => .matrix []
      | .abacus b => .abacus
        { b with
          part := [], outq := [], owedLoad := none, owedSwap := none, config := [], cfgLoad := false
          shadow := if b.cfgLoad then none else b.shadow, shState := if b.cfgLoad then .empty else b.shState }
      | .lane l => .lane { first := l.first, last := l.last, p0 := l.p0, np := l.np }
      | .memory m => .memory { m with pos := 0, pass := false, enabled := false, strm := 0, eos := none, held := [] }
      | .counter c => .counter { c with enabled := false, first := 0, span := 0, emitted := 0, eosSent := false }
      | .merge m k _ _ => .merge m k 0 false
      | b => b }

/-- A channel with no token on it. -/
def Chan.discard (c : Chan) : Chan :=
  { c with
    wire := [], q := [], reserved := 0, held := [], zpos := 0, zcount := 0, zseq := 0, zbad := false, zold := 0, older := 0 }

/-- A region whose launch has been stopped: every token discarded, every unit idle. [DEDUCED: notes/assumptions/19.md] -/
def Region.discard (g : Region) : Region :=
  { g with
    chans := smap none (fun _ c => c.map Chan.discard) g.chans
    actors := smap none (fun _ x => x.map Actor.discard) g.actors
    ctrls := smap none (fun _ c => c.map fun c =>
      { c with
        enabled := false, first := 0, span := 0, doneSent := false
        kidEn := [], kidDone := [], cut := .run, recd := [], closed := [] }) g.ctrls
    net := [], feedHeld := [], barriers := [], rootDone := false, halted := false, cutBy := none, cutWait := none
    stages := smap none (fun _ t => t.map fun t => { t with inside := 0, eos := none, burstTo := none }) g.stages
    nodes := smap none (fun _ w => w.map fun w => { w with recs := [], reserved := 0, head := 0 }) g.nodes }

/-- Every firing of a region taken off the cores and out of the shadow slots, and its reads, atomics and gets out of the
ports; its posted writes stay to be performed (R139, R165, R363). -/
def State.dropWork (s : State) (r : Nat) : State :=
  { s with
    tiles := smap {} (fun _ t =>
      { t with
        core := match t.core.firing with
          | some f => if f.region = r then { t.core with firing := none, sys := false } else t.core
          | none => t.core
        shadow := t.shadow.filter fun f => decide (f.region ≠ r)
        port := t.port.filter fun a => decide (a.region ≠ r) || (match a.kind with | .write _ => true | _ => false) }) s.tiles
    deferred := s.deferred.filter fun d =>
      !((s.tile d.tile).port.any fun a => decide (a.id = d.id) && decide (a.region = r)) }

/-- The deferred gets of a region's launch discarded without response, their credits returned (R139). -/
def State.dropGets (s : State) (r : Nat) : State :=
  let gone (a : Access) : Bool := decide (a.region = r) && decide (a.st = .deferred)
  let mine := s.tiles.flatMap fun t => t.2.port.filter gone
  let s1 : State :=
    { s with
      deferred := s.deferred.filter fun d => !((s.tile d.tile).port.any fun a => decide (a.id = d.id) && gone a)
      tiles := smap {} (fun _ t => { t with port := t.port.filter fun a => !gone a }) s.tiles }
  mine.foldl (fun s a => s.modActor r a.actor fun x =>
    x.setPort a.port { x.port a.port with credits := (x.port a.port).credits - 1 }) s1

/-- A channel at the end of a launch: tokens still on it are of an earlier launch, each launch's numbering its own (R14). -/
def Chan.renumber (c : Chan) : Chan :=
  if c.wire = [] ∧ c.held = [] then { c with zpos := 0, zcount := 0, zseq := 0, zbad := false, zold := 0, older := 0 }
  else
    { c with
      wire := c.wire.map fun x => { x with old := x.old + 1 }, held := c.held.map fun x => { x with old := x.old + 1 }
      zold := c.zold + 1, older := c.older + 1 }

/-- Every channel's count starts at 0 in the next launch; the receiver of a channel that still holds tokens expects them first (R14).
[DEDUCED: notes/assumptions/19.md] -/
def Region.renumber (g : Region) : Region :=
  { g with
    chans := smap none (fun _ c => c.map Chan.renumber) g.chans
    actors := smap none (fun a x => x.map fun x =>
      { x with
        inp := smap {} (fun p q =>
          let q := { q with sinkDone := false, eosSeen := false }
          match g.chanTo a p with
          | some (_, c) =>
            if c.wire = [] ∧ c.held = [] then { q with exp := 0, taken := if q.q = [] then 0 else q.taken } else q
          | none => q) x.inp
        out := [] }) g.actors }

/-- Heads and sessions that a region's cut stopped, changed. -/
def State.modStopped (s : State) (r : Nat) (f : Head → Head) (e : Session → Session) : State :=
  { s with dies := smap {} (fun _ d =>
      { d with
        heads := smap {} (fun _ h => if h.cut = some r then f h else h) d.heads
        sess := smap {} (fun _ k => if k.cut = some r then e k else k) d.sess }) s.dies }

/-- A cut that does not end in a snapshot: its heads and sessions go on. -/
def State.resumeDisplay (s : State) (r : Nat) : State :=
  s.modStopped r (fun h => { h with cut := none }) fun e => { e with cut := none }

/-- MARK's response (R386). -/
def markReply (status num : Nat) : List Dw := [packDw [(status, 0), (1, 8), (num % 65536, 16)]]

/-- The requester of a cut is answered as it ends (R227, R230, R386): a MARK by its response, the host and an issuer's own
region by CUTSTAT. -/
def State.cutOver (s : State) (g : Region) (ok : Bool) : State :=
  match g.cutBy with
  | some (.mark r a p id) =>
    s.answer r { actor := a, port := p, id := id } (markReply (if ok then 0 else 2) g.num)
  | some (.own _) | some (.host _) =>
    s.modSlice g.slice fun n =>
      if n.cutstat.toNat / 65536 = g.num ∧ n.cutstat.toNat % 4 = 1 then
        { n with cutstat := BitVec.ofNat 32 (65536 * g.num + if ok then 2 else 3) }
      else n
  | _ => s

/-- A cut fails, or one that waits behind an elastic change (R230): state 4 in the region header and its requester answered. -/
def State.failCut (s : State) (r : Nat) : State :=
  match s.region r with
  | none => s
  | some g =>
    let by_ := g.cutBy.orElse fun _ => g.cutWait
    if by_.isNone then s
    else
      let s1 := match s.areaWrite g 4 [4] with
        | .ok s => s
        | .error _ => s
      ((s1.cutOver { g with cutBy := by_ } false).resumeDisplay r).modRegion r fun g => { g with cutBy := none, cutWait := none }

/-- The launch of a region ends (R38, R175, R223): the fault record is brought up to date and the completion reported. With
`stop` everything of the launch still under way is discarded (R220, R225, R237, R363), and a cut in progress fails.
[DEDUCED: notes/assumptions/19.md] -/
def State.endLaunch (s : State) (r : Nat) (stop : Bool) : State :=
  match s.region r with
  | none => s
  | some g =>
    match g.launch with
    | none => s
    | some l =>
      let s := s.syncFault r
      let s := if stop then ((s.failCut r).dropWork r).modRegion r Region.discard else s.dropGets r
      let g := (s.region r).getD g
      let s := s.setRegion r
        { g.renumber with
          launch := none, rootDone := false, halted := false, haltInCut := false
          fatal := false, lostRecord := false, records := 0 }
      s.report g.slice l g.status g.recordAddr

/-- A fatal error record, which ends the launch (R223). -/
def State.fatalIn (s : State) (r : Nat) (e : ErrRec) : State := (s.writeRecord r e).endLaunch r true

/-- A fatal error record of the running firing: the cause is TCAUSE in a handler, and the trap registers stand in a record that a trap
causes, a double trap or the second refusal of matrix state (R218, R220, R224). [DESIGN CHOICE: notes/assumptions/17.md] -/
def State.fatalHere (s : State) (code : Nat) (d1 d2 : Dw) : State :=
  let c := s.core
  let slot := (s.runActor.map (·.slot)).getD 0
  s.fatalIn s.runner.1
    (if c.sys && (decide (code = 0x51) || decide (code = 0x52)) then
       { code := code, cause := c.tcause.toNat, tile := s.focus, slot := slot
         tstat := c.tstat, tepc := c.tepc, tval := c.tval, d1 := d1, d2 := d2 }
     else { code := code, cause := if c.sys then c.tcause.toNat else 0, tile := s.focus, slot := slot, d1 := d1, d2 := d2 })

/-! ### Taking an exception and returning from one (R44, R217 to R220, R349) -/

/-- TSTAT made of its fields (R49): mode before, class before, in handler, matrix state saved, trap 0x07 taken. -/
def tstatOf (mode : Bool) (cls : BitVec 2) (inHandler saved seven : Bool) : BitVec 6 :=
  BitVec.ofBool seven ++ BitVec.ofBool saved ++ BitVec.ofBool inHandler ++ cls ++ BitVec.ofBool mode

/-- Fields of TSTAT. -/
def Core.tMode (c : Core) : Bool := c.tstat.getLsbD 0
def Core.tClass (c : Core) : BitVec 2 := c.tstat.extractLsb' 1 2
def Core.inHandler (c : Core) : Bool := c.tstat.getLsbD 3
def Core.mxSaved (c : Core) : Bool := c.tstat.getLsbD 4
def Core.mxRefused (c : Core) : Bool := c.tstat.getLsbD 5

/-- The class of the running firing. -/
def Core.cls (c : Core) : BitVec 2 := (c.firing.map (·.cls)).getD 0

/-- Handler entry (R218): the cause, the trapping pc and the value saved, the status, and system mode at TVEC in class 3. In
system mode with TSTAT[3] clear the handler is entered again and TSTAT[4] kept. [DEDUCED: notes/assumptions/95.md] -/
def Core.enter (c : Core) (code : BitVec 8) (val : Dw) : Core :=
  { c with
    tcause := code, tepc := c.pc, tval := val
    tstat := tstatOf c.sys (if c.sys then 3 else c.cls) true (c.sys && c.mxSaved) false
    sys := true, pc := c.tvec
    firing := c.firing.map fun f => { f with cls := 3, over6 := f.over6 || decide (code = 6) } }

/-- TVEC lies within the tile's handler range (R44). -/
def Tile.hasHandler (t : Tile) : Bool :=
  within t.core.tvec.toNat 4 (t.hrBase.toNat * 64) (t.hrLimit.toNat * 64)

/-- TRRES of a tile as a register value (R44). -/
def Tile.trres (t : Tile) : Dw := packDw [(t.hrBase.toNat, 0), (t.hrLimit.toNat, 16)]

/-- Taking a trap with a cause and a value: the one operation of every exception (R44, R217, R218, R220). A trap in a handler
is a double trap and ends the launch with record 0x51; a trap in graph mode without a handler ends it with 0x5A.
[DESIGN CHOICE: notes/assumptions/17.md] -/
def State.takeTrap (s : State) (code : BitVec 8) (val : Dw) : State :=
  let c := s.core
  let t := s.tile s.focus
  if c.sys && c.inHandler then
    s.fatalHere 0x51 (packDw [(code.toNat, 0), (c.pc.toNat, 32)]) 0
  else if !c.sys && !t.hasHandler then
    s.fatalIn s.runner.1
      { code := 0x5A, cause := code.toNat, tile := s.focus, slot := (s.runActor.map (·.slot)).getD 0
        tstat := tstatOf false c.cls true false false, tepc := c.pc, tval := val,
        d1 := c.tvec.setWidth 64, d2 := t.trres }
  else s.setCore (c.enter code val)

/-- A trap as an outcome. -/
def trapNow (s : State) (code : BitVec 8) (val : Dw) : Res := .next (s.takeTrap code val)

/-- The return of ERET (R219, R349): mode, class and pc restored, TSTAT[3] and TSTAT[5] cleared, TSTAT[4] kept on a return
to system mode. -/
def Core.leave (c : Core) : Core :=
  { c with
    sys := c.tMode, pc := c.tepc
    tstat := tstatOf c.tMode c.tClass false c.mxSaved false
    firing := c.firing.map fun f => { f with cls := if c.tMode then 3 else c.tClass } }

/-- The word of the instruction being executed, as TVAL holds it for traps 0x01 and 0x02 (R217). -/
def State.wordHere (s : State) : Dw := BitVec.ofNat 64 ((s.tile s.focus).load s.core.pc.toNat 4)

/-- The illegal-instruction trap. -/
def illegal (s : State) : Res := trapNow s 1 s.wordHere

/-- The privilege trap. -/
def privileged (s : State) : Res := trapNow s 2 s.wordHere

end Sys2Proof.Machine
end

