-- ==== Sys2Proof/Machine/Elements.lean ====
section
/-! DEFINITION. Elements in tokens and bursts: packing, burst headers and the framing of bursts (R15, R16, R67 to R69, R75). -/

namespace Sys2Proof.Machine

/-! ### Packing (R69) -/

/-- A payload as one little-endian bit string. -/
def payloadNat (l : List Dw) : Nat := l.foldr (fun v acc => v.toNat + 2 ^ 64 * acc) 0

/-- The low `n` doublewords of a number. -/
def natDws : Nat → Nat → List Dw
  | 0, _ => []
  | n + 1, x => BitVec.ofNat 64 x :: natDws n (x / 2 ^ 64)

/-- `n` elements of `w` bits from the bottom of a bit string. -/
def elemsOf (w : Nat) : Nat → Nat → List Nat
  | 0, _ => []
  | n + 1, x => x % 2 ^ w :: elemsOf w n (x / 2 ^ w)

/-- The bit string of elements of `w` bits, element 0 lowest. -/
def elemsNat (w : Nat) (l : List Nat) : Nat := l.foldr (fun v acc => v % 2 ^ w + 2 ^ w * acc) 0

/-- Element positions in a payload. -/
def positions (w : Nat) (l : List Dw) : Nat := 64 * l.length / w

/-- The elements of a payload, one at each position. -/
def unpack (w : Nat) (l : List Dw) : List Nat := elemsOf w (positions w l) (payloadNat l)

/-- Doublewords that `n` elements of `w` bits need: at least one, and whole positions for each. -/
def dwsFor (w n : Nat) : Nat := max 1 ((w * n + 63) / 64)

/-- Elements packed into a payload. -/
def pack (w : Nat) (l : List Nat) : List Dw := natDws (dwsFor w l.length) (elemsNat w l)

/-- A list cut into pieces of `n`; the first argument bounds the number of pieces. -/
def chunksOf {α : Type} (n : Nat) : Nat → List α → List (List α)
  | 0, _ => []
  | _, [] => []
  | k + 1, l => l.take n :: chunksOf n k (l.drop n)

/-- Element positions in a full data token. -/
def perToken (w : Nat) : Nat := 512 / w

/-! ### Burst headers (R67) -/

def hdrScale (h : Dw) : Nat := dwAt h 0 8
def hdrLen (h : Dw) : Nat := dwAt h 8 8 + 1
def hdrLot (h : Dw) : Bool := dwBit h 16
def hdrFmt (h : Dw) : Nat := dwAt h 17 5
def hdrPad (h : Dw) : Nat := dwAt h 24 8
def hdrTag (h : Dw) : Nat := dwAt h 32 16

/-- A header word from its fields. -/
def mkHdr (scale len : Nat) (lot : Bool) (fmt pad tag : Nat) : Dw :=
  packDw [(scale % 256, 0), (len - 1, 8), (b2n lot, 16), (fmt, 17), (pad % 256, 24), (tag, 32)]

/-- A header that is itself a framing violation (R67): a reserved bit, a reserved format, or pads that leave no element in
a full token. -/
def badHdr (h : Dw) : Bool :=
  decide (dwAt h 48 16 ≠ 0) || decide (dwAt h 22 2 ≠ 0) ||
    match Fmt.ofCode (hdrFmt h) with
    | none => true
    | some f => decide (perToken f.width ≤ hdrPad h)

/-- The elements of a burst from its header and its data payloads. -/
def burstElems (w pad : Nat) (tokens : List (List Dw)) : List Nat :=
  let l := tokens.flatMap (unpack w)
  l.take (l.length - pad)

/-- A burst of elements: its header word and the payloads of its data tokens, packed full (R69). -/
def mkBurst (f : Fmt) (code scale : Nat) (lot : Bool) (tag : Nat) (es : List Nat) : Dw × List (List Dw) :=
  let n := perToken f.width
  let cs := match chunksOf n es.length es with
    | [] => [[0]]
    | cs => cs
  let last := (cs.getLast?).getD []
  let pad := positions f.width (pack f.width last) - last.length
  (mkHdr scale cs.length lot code pad tag, cs.map (pack f.width))

/-- The elements an invalid block stands for, and those of a valid one (R75): canonical NaNs where the format has them. -/
def blockElems (f : Fmt) (scale : Nat) (es : List Nat) : List Nat :=
  if scale = 0xFF then es.map fun x => (f.canonNaN).getD x else es

/-! ### Framing at a consumer (R16) -/

/-- The channel carries bursts at its receiving port (R297). -/
def Chan.burst (c : Chan) : Bool := decide (0x20 ≤ c.rt) && decide (c.rt ≤ 0x2C)

/-- The element format of a channel's receiving port; none for handle and raw channels. -/
def Chan.fmt (c : Chan) : Option Fmt := if c.rt < 0x20 then Fmt.ofCode c.rt else if c.burst then Fmt.ofCode (c.rt - 0x20) else none

/-- The channel type of an actor's input; raw where no channel feeds it. -/
def Region.inType (g : Region) (a p : Nat) : Nat := ((g.chanTo a p).map fun q => q.2.rt).getD 0x3F

/-- The channel type of an actor's output, at the sending port. -/
def Region.outType (g : Region) (a p : Nat) : Nat := ((g.chanOf (.actor a p)).map fun q => q.2.st).getD 0x3F

/-- A type code is a burst type. -/
def burstType (t : Nat) : Bool := decide (0x20 ≤ t) && decide (t ≤ 0x2C)

/-- The format of a type code, and its element format code. -/
def typeFmt (t : Nat) : Option Fmt := if burstType t then Fmt.ofCode (t - 0x20) else Fmt.ofCode t
def typeCode (t : Nat) : Nat := if burstType t then t - 0x20 else t

/-- A token at which framing restarts (R16). -/
def Token.restarts (t : Token) : Bool := decide (t.kind = 1) || decide (t.kind = 2) || decide (t.kind = 3) || decide (t.kind = 4)

/-- The token violates the framing of a burst input; a last data token does whose positions the pads use up (R67).
[DEDUCED: notes/assumptions/26.md] -/
def InPort.violates (q : InPort) (t : Token) : Bool :=
  if t.kind = 0 then
    decide (q.left = 0) ||
      (decide (q.left = 1) &&
        match q.hdr with
        | some h => match Fmt.ofCode (hdrFmt h) with
          | some f => decide (positions f.width t.payload ≤ hdrPad h)
          | none => false
        | none => false)
  else if t.kind = 3 then decide (q.left ≠ 0) || badHdr (t.dw 0)
  else t.restarts && decide (q.left ≠ 0)

/-- An input after it has taken a token in its place: the header latched, the open burst counted down. -/
def InPort.track (q : InPort) (t : Token) : InPort :=
  if t.kind = 3 then { q with hdr := some (t.dw 0), left := hdrLen (t.dw 0), seen := 0, skip := false }
  else if t.kind = 0 then { q with left := q.left - 1, seen := q.seen + 1 }
  else if t.kind = 2 then { q with hdr := none, left := 0, seen := 0, skip := false }
  else if t.restarts then { q with left := 0, seen := q.seen + 1, skip := false }
  else q

/-- The head of an input taken with its framing. -/
def Actor.takeTracked (x : Actor) (p : Nat) : Actor :=
  match x.head p with
  | some t => (x.acquire t.deps).setPort p ((x.port p).pop.track t)
  | none => x

/-- The outcome of judging a burst input's head before an actor uses it: the state after the error token and, for a data
token, its discarding; none where the head is in its place. [DEDUCED: notes/assumptions/26.md] -/
def State.framing (s : State) (r a p : Nat) : Option State :=
  match s.region r with
  | none => none
  | some g =>
    match g.actor a with
    | none => none
    | some x =>
      let q := x.port p
      match x.head p with
      | none => none
      | some t =>
        if !burstType (g.inType a p) || decide (t.kind = 6) then none
        else if q.skip then
          if t.restarts then none
          else some (s.modActor r a fun x => x.setPort p { (x.port p).pop with seen := q.seen + 1 })
        else if q.violates t then
          let s1 := s.errorAt r a (chanField (g.chanTo a p)) p 0x05 (BitVec.ofNat 64 q.seen)
          if t.restarts then
            some (s1.modActor r a fun x => x.setPort p { (x.port p) with left := 0, skip := true })
          else some (s1.modActor r a fun x => x.setPort p { (x.port p).pop with skip := true, left := 0, seen := q.seen + 1 })
        else none

end Sys2Proof.Machine
end

