-- ==== Sys2Proof/Machine/LaneWords.lean ====
section
/-! DEFINITION. What a lane segment's words say: operands, formats, group size, inputs and outputs (R56 to R59, R292, R293,
R351). -/

namespace Sys2Proof.Machine

/-- The lane word of a tile's lane; an idle lane where the word is not one of R293. -/
def Tile.laneWord (t : Tile) (i : Nat) : LaneWord := (decodeLane (sget 0 t.lanes i)).getD {}

/-- The parameter word a lane word names. -/
def Tile.param (t : Tile) (w : LaneWord) : Nat := (sget 0 t.params w.p.toNat).toNat

/-- A lane's state. -/
def Tile.laneSt (t : Tile) (i : Nat) : LaneSt := sget {} t.lane i
def Tile.setLaneSt (t : Tile) (i : Nat) (l : LaneSt) : Tile := { t with lane := sset {} t.lane i l }

/-- The lanes of a segment. -/
def LaneSeg.lanes (l : LaneSeg) : List Nat := (List.range (l.last + 1 - l.first)).map (l.first + ·)

/-- The format of a lane's results when `f` enters it: the target of LCVT, else unchanged (R59, R370). -/
def Tile.fmtAfter (t : Tile) (w : LaneWord) (f : Fmt) : Fmt := if w.op = 7 then (Fmt.ofCode (t.param w % 32)).getD f else f

/-- The format that enters lane first + n of a segment with an input format (R351). -/
def Tile.fmtIn (t : Tile) (first : Nat) (f : Fmt) : Nat → Fmt
  | 0 => f
  | n + 1 => t.fmtAfter (t.laneWord (first + n)) (t.fmtIn first f n)

/-- The format at a segment's end. -/
def Tile.fmtEnd (t : Tile) (l : LaneSeg) (f : Fmt) : Fmt := t.fmtIn l.first f (l.last + 1 - l.first)

/-- Elements in a group (R351): 256 over the widest format of the segment. -/
def Tile.groupSize (t : Tile) (l : LaneSeg) (f : Fmt) : Nat :=
  256 / (List.range (l.last + 2 - l.first)).foldl (fun m n => max m (t.fmtIn l.first f n).width) f.width

/-- The selects a lane word uses. -/
def laneSels (w : LaneWord) : List Nat :=
  [w.sa.toNat, w.sb.toNat, w.sc.toNat].take (((laneOp w.op).map (·.1)).getD 0)

/-- The inputs a segment reads: X through select 1 or, in its first lane, select 0 or an idle lane; Y through select 2
(R57). -/
def Tile.segInputs (t : Tile) (l : LaneSeg) : List Nat :=
  let w0 := t.laneWord l.first
  let x := decide (w0.op = 0) || (laneSels w0).contains 0 || l.lanes.any fun i => (laneSels (t.laneWord i)).contains 1
  let y := l.lanes.any fun i => (laneSels (t.laneWord i)).contains 2
  (if x then [0] else []) ++ (if y then [1] else [])

/-- A routing code reaches an output (R58). -/
def routes (out : BitVec 3) (p : Nat) : Bool :=
  if p = 0 then decide (out = 1) || decide (out = 3) || decide (out = 5)
  else decide (out = 2) || decide (out = 4) || decide (out = 5)

/-- The outputs a segment sends on: those its lanes route to, o0 for a resolver's tile-done tokens, and o1 for the statistics of
LROW (R58, R201, R380). -/
def Tile.segOutputs (t : Tile) (l : LaneSeg) : List Nat :=
  let w := l.lanes.map t.laneWord
  (if w.any fun v => decide (v.op ≠ 0) && (routes v.out 0 || (decide (v.op = 0x19) && decide (v.out = 6))) then [0] else []) ++
    (if w.any fun v => decide (v.op ≠ 0) && (routes v.out 1 || decide (v.op = 17)) then [1] else [])

/-- A lane opcode that takes whole tokens, not element groups: EDGE, COVER, RBOX and RTRI (R335, R346, R399, R403). -/
def tokenOp (op : Nat) : Bool := [0x18, 0x19, 0x1C, 0x1D].contains op

/-- The segment takes whole tokens. -/
def Tile.wholeTokens (t : Tile) (l : LaneSeg) : Bool := l.lanes.any fun i => tokenOp (t.laneWord i).op

/-- The segment holds an LSCALE. -/
def Tile.segScales (t : Tile) (l : LaneSeg) : Bool := l.lanes.any fun i => decide ((t.laneWord i).op = 18)

/-- No element group of the segment is on its way and no token waits for a slot. -/
def Tile.drained (t : Tile) (l : LaneSeg) : Bool :=
  decide (l.pend = []) && l.lanes.all fun i => decide ((t.laneSt i).q = []) && decide ((t.laneSt i).samples = [])

/-- A lane of the segment keeps a partial result that an EOS brings out, or a count that it restarts (R367, R374, R379,
R380). -/
def Tile.holdsPart (t : Tile) (l : LaneSeg) : Bool :=
  l.lanes.any fun i => decide ((t.laneSt i).cnt ≠ 0) || decide ((t.laneSt i).idx ≠ 0)

/-- A group passed to the next lane that is not idle; an idle lane passes its operand on. Nothing goes on from the last. -/
def Tile.passGroup (t : Tile) (seg : LaneSeg) : Nat → Nat → Group → Tile
  | 0, _, _ => t
  | n + 1, i, g =>
    if seg.last < i then t
    else if (t.laneWord i).op = 0 then t.passGroup seg n (i + 1) { g with prev2 := g.prev, bad2 := g.bad }
    else t.setLaneSt i { t.laneSt i with q := (t.laneSt i).q ++ [g] }

/-- A group enters a segment. -/
def Tile.enterGroup (t : Tile) (seg : LaneSeg) (g : Group) : Tile := t.passGroup seg 16 seg.first { g with prev := g.x, bad := g.badX }

end Sys2Proof.Machine
end

