-- ==== Sys2Proof/Machine/Operands.lean ====
section
/-! DEFINITION. Operand forms of the scalar instructions (R73, R262, R272 to R285): the 32-bit form, immediates, branch
targets, local addresses, register runs, access sizes, float operands and the named control and status registers. -/

namespace Sys2Proof.Machine

/-- An operation on the width of its form: on 64 bits, or on the low 32 bits with a sign-extended result (R73, R312). -/
def onWidth (w : Bool) (f : (n : Nat) → BitVec n → BitVec n → BitVec n) (x y : Dw) : Dw :=
  if w then (f 32 (x.setWidth 32) (y.setWidth 32)).signExtend 64 else f 64 x y

/-- The width of a form. -/
def formWidth (w : Bool) : Nat := if w then 32 else 64

/-- Sext(imm16, 16) (R273, R279). -/
def simm (i : BitVec 16) : Dw := i.signExtend 64

/-- Zext(imm16, 16). -/
def zimm (i : BitVec 16) : Dw := i.setWidth 64

/-- Zext(pc, 32). -/
def Core.pcDw (c : Core) : Dw := c.pc.setWidth 64

/-- The target of a branch by a signed word offset (R273): pc + 4 × offset. -/
def target13 (pc : Word) (o : BitVec 13) : Word := pc + o.signExtend 32 * 4
def target26 (pc : Word) (o : BitVec 26) : Word := pc + o.signExtend 32 * 4

/-- The local address of LDL and STL: gbase + Sext(off13, 13) (R281, R373). -/
def localAddr (b : Dw) (o : BitVec 13) : Dw := b + o.signExtend 64

/-- Bytes of a size code: 0 to 7 doublewords less one; 8, 9 and 10 one, two and four bytes (R262). -/
def sizeBytes (f : Nat) : Nat := if f < 8 then 8 * (f + 1) else 2 ^ (f - 8)

/-- The trap of a local access, if it takes one (R43, R274, R373): range first, then alignment. -/
def State.localTrap (s : State) (la : Dw) (n : Nat) : Option (BitVec 8) :=
  if !s.localOk la.toNat n then some 3 else if la.toNat % n ≠ 0 then some 4 else none

/-- A float operand: the low bits of a register in a format, flushed by the running actor's FCTL (R277, R353). -/
def State.fop (s : State) (f : Fmt) (r : Reg) : Val :=
  f.operand ((s.runActor.map (·.fctl)).getD 0) ((s.reg r).toNat % 2 ^ f.width)

/-- The running actor's special-value policy, FCTL[3:0] (R49, R353). -/
def State.fctl (s : State) : BitVec 4 := (s.runActor.map (·.fctl)).getD 0

/-- The raw bits of a float operand. -/
def State.fbits (s : State) (f : Fmt) (r : Reg) : Nat := (s.reg r).toNat % 2 ^ f.width

/-- The field that INS, EXTS and EXTU name in gc: position and clipped length (R278, R350). -/
def fieldOf (c : Dw) : Nat × Nat :=
  let pos := dwAt c 0 6
  (pos, min (min (dwAt c 8 7) 64) (64 - pos))

/-! ### Control and status registers (R49, R50) -/

/-- What a mode may do with a register. -/
inductive CsrAccess where
  | none | ro | rw
  deriving DecidableEq, Repr

/-- A register's access in graph and in system mode; none for an unassigned number (R49). -/
def csrAccess (n : Nat) : Option (CsrAccess × CsrAccess) :=
  match n with
  | 0x000 | 0x001 | 0x002 | 0x003 | 0x004 | 0x020 | 0x021 | 0x041 => some (.ro, .ro)
  | 0x005 | 0x010 | 0x011 | 0x012 | 0x013 | 0x014 | 0x015 => some (.none, .rw)
  | 0x030 | 0x031 => some (.rw, .rw)
  | 0x040 => some (.ro, .rw)
  | _ => none

/-- The trap of an access to a register: unassigned 0x01; not for the mode 0x02; a write of a read-only register 0x02 in
graph mode and 0x01 in system mode (R50). -/
def csrTrap (sys write : Bool) (n : Nat) : Option (BitVec 8) :=
  match csrAccess n with
  | none => some 1
  | some (g, y) =>
    match (if sys then y else g), write with
    | .none, _ => some 2
    | .ro, true => some (if sys then 1 else 2)
    | _, _ => none

/-- The value of a register, zero-extended (R49, R344). -/
def State.csrRead (s : State) (n : Nat) : Dw :=
  let c := s.core
  let t := s.focus
  let g := (s.region s.runner.1).getD {}
  let x := s.runActor.getD {}
  let d := s.die (dieOf t)
  match n with
  | 0x000 => packDw [(x.slot % 16, 0), (s.runner.2 % 65536, 4)]
  | 0x001 => packDw [(tileX t, 0), (tileY t, 6), (dieOf t, 10)]
  | 0x002 => packDw [(g.ox, 0), (g.oy, 6), (g.w - 1, 10), (g.h - 1, 16), (g.num % 65536, 20)]
  | 0x003 => packDw [(g.asid % 16384, 0)]
  | 0x004 => packDw [(c.cls.toNat, 0), (x.cls.toNat, 2)]
  | 0x005 => c.bypass.setWidth 64
  | 0x010 => c.tstat.setWidth 64
  | 0x011 => c.tcause.setWidth 64
  | 0x012 => c.tepc.setWidth 64
  | 0x013 => c.tval
  | 0x014 => c.tvec.setWidth 64
  | 0x015 => g.ctxb
  | 0x020 => d.eqt
  | 0x021 => d.eqe
  | 0x030 => x.fctl.setWidth 64
  | 0x031 => x.fflags.setWidth 64
  | 0x040 => g.racec.setWidth 64
  | 0x041 => packDw [(g.credit % 65536, 0), (g.refusals.toNat, 16)]
  | _ => 0

/-- A register written; excess and reserved bits are ignored (R9, R49, R344). [DEDUCED: notes/assumptions/66.md] -/
def State.csrWrite (s : State) (n : Nat) (v : Dw) : State :=
  let c := s.core
  let (r, a) := s.runner
  match n with
  | 0x005 => s.setCore { c with bypass := v.setWidth 4 }
  | 0x010 => s.setCore { c with tstat := v.setWidth 6 }
  | 0x011 => s.setCore { c with tcause := v.setWidth 8 }
  | 0x012 => s.setCore { c with tepc := v.setWidth 32 }
  | 0x013 => s.setCore { c with tval := v }
  | 0x014 => s.setCore { c with tvec := v.setWidth 32 &&& 0xFFFFFFFC }
  | 0x015 => s.modRegion r fun g => { g with ctxb := v &&& 0xFFFFFFFFFFFFF000 }
  | 0x030 => s.modActor r a fun x => { x with fctl := v.setWidth 4 }
  | 0x031 => s.modActor r a fun x => { x with fflags := v.setWidth 5 }
  | 0x040 => s.modRegion r fun g => { g with racec := v.setWidth 32 }
  | _ => s

end Sys2Proof.Machine
end

