-- ==== Sys2Proof/Machine/Firing.lean ====
section
/-! DEFINITION. Firings: which rules are satisfied, candidates and their stamps, the retirement of a firing, and events of a
region (R21 to R26, R33, R184, R192, R348, R426). -/

namespace Sys2Proof.Machine

/-! ### Work-graph nodes of an actor (R191, R192) -/

/-- The node that an actor is, with its index. -/
def Region.nodeOf (g : Region) (a : Nat) : Option (Nat × WNode) :=
  match sfind (fun _ n => match n with | some n => decide (n.actor = a) | none => false) g.nodes with
  | some (k, some n) => some (k, n)
  | _ => none

/-- The input that takes a node's records: the lowest of its first rule. [DESIGN CHOICE: notes/assumptions/15.md] -/
def Actor.recordPort (x : Actor) : Nat := ((x.rules.head?).bind fun u => (maskList u.inMask).head?).getD 0

/-- Records at a node's input, which hold their queue slots until a firing takes them (R192). -/
def Region.atInput (g : Region) (n : WNode) : Nat :=
  match g.actor n.actor with
  | some x => ((x.port x.recordPort).q.filter fun t => decide (t.kind = 0)).length
  | none => 0

/-- Free slots of a node's record queue: neither a queued record, nor one at its input, nor a reservation holds them. -/
def Region.nodeFree (g : Region) (n : WNode) : Nat := n.qlen - (n.recs.length + n.reserved + g.atInput n)

/-- The emission edges that leave an actor's node. -/
def Region.edgesOf (g : Region) (a : Nat) : List WEdge :=
  match g.nodeOf a with
  | some (k, _) => g.edges.filter fun e => decide (e.parent = k)
  | none => []

/-- Every child's queue has room for its emission budget (R192). -/
def Region.budgetFree (g : Region) (a : Nat) : Bool :=
  (g.edgesOf a).all fun e => match g.node e.child with
    | some n => decide (e.budget ≤ g.nodeFree n)
    | none => true

/-- The address of slot `i` of a node's record queue in the launch's backing store, behind the queue's 64-byte header (R191). -/
def Region.slotVa (g : Region) (n : WNode) (i : Nat) : Nat :=
  (g.launch.getD {}).wbase.toNat + n.off + 64 + (n.head + i) % max 1 n.qlen * n.size

/-- Where bytes of the backing store lie; none where an access to them does not translate or meets a poisoned line. -/
def State.storePas (s : State) (g : Region) (need : Need) (va n : Nat) : Option (List Nat) :=
  match s.xlate g.die g.asid (g.ranges.map (·.2)) need 1 va n with
  | .ok ps _ => if s.anyPoison ps || (need.w && (linesOf ps).any (sget false s.badMeta)) then none else some ps
  | _ => none

/-- The marks of the walks of an access to the backing store (R127). -/
def State.storeSeen (s : State) (g : Region) (need : Need) (va n : Nat) : State :=
  s.mark need.writes (s.leaves g.die g.asid (g.ranges.map (·.2)) need 1 va n)

/-- A number of free values. -/
def State.freeDws (s : State) : Nat → List Dw × State
  | 0 => ([], s)
  | n + 1 =>
    let (v, s1) := s.free
    let (l, s2) := s1.freeDws n
    (v :: l, s2)

/-- A node's queue header after a change of its queue: 64 bytes whose contents the spec does not give.
[DESIGN CHOICE: notes/assumptions/81.md] -/
def State.touchHeader (s : State) (g : Region) (n : WNode) : State :=
  let va := (g.launch.getD {}).wbase.toNat + n.off
  let s1 := s.storeSeen g { w := true } va 64
  match s.storePas g { w := true } va 64 with
  | some ps => let (l, s2) := s1.freeDws 8; s2.hwWrite ps (dwsBytes l)
  | none => s1

/-- A record put in its slot of the backing store, and the queue's header with it. -/
def State.storeRecord (s : State) (g : Region) (n : WNode) (data : List Dw) : State :=
  let s0 := s.storeSeen g { w := true } (g.slotVa n n.recs.length) n.size
  let s1 := match s.storePas g { w := true } (g.slotVa n n.recs.length) n.size with
    | some ps => s0.hwWrite ps (dwsBytes data)
    | none => s0
  s1.touchHeader g n

/-- The first record of a queue as the backing store holds it; as it was emitted where the slot cannot be reached.
[DESIGN CHOICE: notes/assumptions/81.md] -/
def State.recordAt (s : State) (g : Region) (n : WNode) (kept : List Dw) : List Dw :=
  match s.storePas g { r := true } (g.slotVa n 0) n.size with
  | some ps => bytesDws (n.size / 8) (ps.map s.rdByte)
  | none => kept

/-! ### Triggers and rules (R21, R26, R29, R32, R426) -/

/-- A control token's subtype (R26). -/
def Token.subtype (t : Token) : Nat := dwAt (t.dw 0) 0 8

/-- A handler call (R26). -/
def Token.isCall (t : Token) : Bool := decide (t.kind = 5) && decide (t.subtype = 3)

/-- The head of an input can trigger a rule: no solstice, no call, and no null or EOS that the actor does not see. -/
def Actor.triggers (x : Actor) (t : Token) : Bool :=
  !(decide (t.kind = 6) || t.isCall || (decide (t.kind = 1) && !x.nullVis) || (decide (t.kind = 2) && !x.eosVis))

/-- Every input of a mask holds a trigger at its head, and on none of them are tokens being discarded (R32).
[DEDUCED: notes/assumptions/27.md] -/
def Actor.inputsReady (x : Actor) (m : BitVec 8) : Bool :=
  (maskList m).all fun p => match x.head p with
    | some t => x.triggers t && !(x.port p).drop
    | none => false

/-- A rule is satisfied: its inputs hold triggers, its outputs have free slots, and a node's children have room. -/
def Region.satisfied (g : Region) (a : Nat) (x : Actor) (u : Rule) : Bool :=
  x.inputsReady u.inMask && g.outsFree a (maskList u.outMask) && g.budgetFree a

/-- The lowest-numbered satisfied rule. -/
def Region.ruleOf (g : Region) (a : Nat) (x : Actor) : Option (Nat × Rule) := lfind (g.satisfied a x) x.rules 0

/-- The lowest-numbered input whose head is a handler call. -/
def Actor.callPort (x : Actor) : Option Nat :=
  (List.range 8).find? fun p => match x.head p with
    | some t => t.isCall
    | none => false

/-- The head of an input is a handler call. -/
def Actor.callAt (x : Actor) (p : Nat) : Bool :=
  match x.head p with
  | some t => t.isCall
  | none => false

/-- The order in which an actor's calls began to wait, brought up to date: calls new at once come the call queue's first, then by
input (R426). [DEDUCED: notes/assumptions/38.md] -/
def Actor.noteCalls (x : Actor) : Actor :=
  let old := x.waits.filter fun w => match w with
    | none => true
    | some p => x.callAt p
  let more := x.calls.length - (old.filter Option.isNone).length
  let heads := (List.range 8).filter fun p => x.callAt p && !old.contains (some p)
  { x with waits := old ++ List.replicate more none ++ heads.map some }

/-- The order of waiting calls of every task actor of a region brought up to date. -/
def Region.noteCalls (g : Region) : Region :=
  { g with actors := smap none (fun _ x => x.map fun x => match x.body with | .task => x.noteCalls | _ => x) g.actors }

/-- An actor of a region is a task actor. -/
def Actor.isTask (x : Actor) : Bool := match x.body with | .task => true | _ => false

/-- An actor's firing runs or waits in a shadow slot. -/
def Tile.busyWith (t : Tile) (r a : Nat) : Bool :=
  (match t.core.firing with | some f => decide (f.region = r) && decide (f.actor = a) | none => false) ||
    t.shadow.any fun f => decide (f.region = r) && decide (f.actor = a)

/-- The actor in a slot is a candidate (R184). -/
def State.isCandidate (s : State) (r a : Nat) : Bool :=
  match s.region r with
  | none => false
  | some g =>
    match g.actor a with
    | none => false
    | some x =>
      x.isTask && decide (x.cut = .run) && !g.halted && !(s.tile x.tile).busyWith r a &&
        (decide (x.calls ≠ []) || x.callPort.isSome || (g.ruleOf a x).isSome)

/-- Candidates of a tile's slots brought up to date in increasing slot order: a new one takes the next age stamp, bypass
count 0 and, without a probe register, its residency bit (R184). [DESIGN CHOICE: notes/assumptions/80.md] -/
def State.refreshSlots (s : State) (t : Nat) : List Nat → State
  | [] => s
  | k :: l =>
    match sget none (s.tile t).slots k with
    | none => s.refreshSlots t l
    | some (r, a) =>
      match s.actor r a with
      | none => s.refreshSlots t l
      | some x =>
        match x.cand, s.isCandidate r a with
        | none, true =>
          let s1 := s.modActor r a fun x => { x with cand := some { age := (s.tile t).age, hit := x.probe.isNone } }
          (s1.modTile t fun u => { u with age := u.age + 1 }).refreshSlots t l
        | some _, false => (s.modActor r a fun x => { x with cand := none }).refreshSlots t l
        | _, _ => s.refreshSlots t l

/-- The tiles on which a region has actors. -/
def Region.tiles (g : Region) : List Nat :=
  (g.actors.filterMap fun p => p.2.map (·.tile)).eraseDups

/-! ### Done reports (R35, R36) -/

/-- Iterations of a counter (R34). -/
def CounterSpec.size (c : CounterSpec) : Nat :=
  let d := c.stop.toInt - c.start.toInt
  let t := c.step.toInt
  if 0 < t then ((d + t - 1) / t).toNat else if t < 0 then ((-d + -t - 1) / -t).toNat else 0

/-- Iterations of a chain; one without counters. -/
def chainSize (l : List CounterSpec) : Nat := l.foldl (fun n c => n * c.size) 1

/-- The iterations of a controller under the enable in force: its chain once for each iteration enabled. -/
def Ctrl.total (c : Ctrl) : Nat := c.span * chainSize c.spec

/-- The parent of a node in the controller tree, with the node's place among its children. -/
def Region.parentOf (g : Region) (n : Node) : Option (Nat × Ctrl × Nat) :=
  match sfind (fun _ c => match c with | some c => c.kids.contains n | none => false) g.ctrls with
  | some (k, some c) => some (k, c, (c.kids.findIdx fun m => decide (m = n)))
  | _ => none

/-- A node reports an iteration done to its parent (R36). -/
def Region.sendDone (g : Region) (n : Node) (iter : Nat) : Region :=
  match g.parentOf n with
  | some (k, _, j) => { g with net := g.net ++ [.done k j iter] }
  | none => g

/-- Done reports of a child still on the control network. [DEDUCED: notes/assumptions/29.md] -/
def Region.donesOf (g : Region) (k j : Nat) : Nat :=
  (g.net.filter fun m => match m with | .done k' j' _ => decide (k' = k) && decide (j' = j) | _ => false).length

/-- The iteration that an actor which follows its streams completes next: the last under a streaming parent, else the
first it has not reported. [DEDUCED: notes/assumptions/29.md] -/
def Region.nextDone (g : Region) (k j : Nat) (c : Ctrl) : Nat :=
  if c.sch = 2 then c.total - 1 else sget 0 c.kidDone j + g.donesOf k j

/-- An actor has ended its streams: an EOS sent on every output that a channel joins or, without one, consumed on every
input that a channel feeds (R36). A channel of its error port's own carries no streams. [DEDUCED: notes/assumptions/29.md] -/
def Region.streamsEnded (g : Region) (a : Nat) (x : Actor) : Bool :=
  let outs := (List.range 8).filter fun p => (g.chanOf (.actor a p)).isSome
  let ins := (List.range 8).filter fun p => (g.chanTo a p).isSome
  if outs = [] then decide (ins ≠ []) && ins.all fun p => (x.port p).eosSeen else outs.all fun p => (x.outp p).eosSent

/-- The kinds that report by their streams: neither a counter chain nor a memory actor that runs its own sequence. -/
def Actor.byStreams (x : Actor) : Bool :=
  match x.body with
  | .counter _ => false
  | .memory m => !m.self
  | _ => true

/-- The marks of ended streams cleared. -/
def Actor.restartStreams (x : Actor) : Actor :=
  { x with
    inp := smap {} (fun _ q => { q with eosSeen := false }) x.inp
    out := smap {} (fun _ o => { o with eosSent := false }) x.out }

/-- Done reports of the actors that have ended their streams. -/
def Region.settleDone (g : Region) : List Nat → Region
  | [] => g
  | a :: l =>
    match g.actor a with
    | none => g.settleDone l
    | some x =>
      if x.byStreams && decide (x.cut = .run) && g.streamsEnded a x then
        let g1 := g.setActor a x.restartStreams
        (match g.parentOf (.actor a) with
          | some (k, c, j) => g1.sendDone (.actor a) (g.nextDone k j c)
          | none => g1).settleDone l
      else g.settleDone l

/-- Done reports, waiting calls and the candidates of every tile of a region brought up to date.
[DESIGN CHOICE: notes/assumptions/9.md] -/
def State.refresh (s : State) (r : Nat) : State :=
  match s.region r with
  | none => s
  | some g =>
    let s := s.setRegion r (g.settleDone (g.actors.map (·.1))).noteCalls
    g.tiles.foldl (fun s t => s.refreshSlots t (List.range 16)) s

/-- An event of a region: after it the candidates are brought up to date; where it is not enabled nothing changes.
[DESIGN CHOICE: notes/assumptions/8.md] -/
def occurIn (s : State) (r : Nat) (o : Option State) : Res := .next ((o.map fun t => t.refresh r).getD s)

/-! ### Retirement (R22, R194, R348, R411) -/

/-- Reservations of a firing on outputs released. -/
def Region.releaseRsv (g : Region) (a : Nat) : Sparse Nat → Region
  | [] => g
  | (p, n) :: l =>
    match g.chanOf (.actor a p) with
    | some (ci, c) => (g.setChan ci { c with reserved := c.reserved - n }).releaseRsv a l
    | none => g.releaseRsv a l

/-- Emission slots of a firing released, by child node. -/
def Region.releaseNodes (g : Region) : Sparse Nat → Region
  | [] => g
  | (k, n) :: l =>
    match g.node k with
    | some w => (g.setNode k { w with reserved := w.reserved - n }).releaseNodes l
    | none => g.releaseNodes l

/-- A firing's grant returned to the bucket, capped at the depth (R194). -/
def Region.refund (g : Region) (n : Nat) : Region := { g with credit := min (g.credit + n) g.bdepth }

/-- The trigger tokens of a firing not yet dequeued are consumed. -/
def Actor.consumeTriggers (x : Actor) : List (Nat × Token × Bool) → Actor
  | [] => x
  | (p, _, gone) :: l => (if gone then x else x.popPort p).consumeTriggers l

/-- The region as a firing leaves it on retirement. -/
def Region.retireFiring (g : Region) (f : Firing) (consume : Bool) : Region :=
  let g := ((g.releaseRsv f.actor f.rsv).releaseNodes f.wrsv).refund f.grant
  if consume then g.modActor f.actor fun x => x.consumeTriggers f.trig else g

/-- The running firing retired: `consume` for END, not for ENDR (R22, R348). The core is free and in graph mode. -/
def State.retireRunning (s : State) (consume : Bool) : State :=
  match s.core.firing with
  | none => s
  | some f =>
    let s := s.modRegion f.region fun g => g.retireFiring f consume
    (s.setCore { s.core with firing := none, sys := false }).refresh f.region

end Sys2Proof.Machine
end

