-- ==== Sys2Proof/Machine/Stages.lean ====
section
/-! DEFINITION. The parts of an elastic stage: the keys and ports of its replicas, its channels, and what its collector merges
(R180 to R183, R416, R417). -/

namespace Sys2Proof.Machine

/-- Units of EQT in a microsecond. -/
def usecUnits : Nat := 64000

/-- The number of replica `n` of stage `k` in the keys of its actors and channels; the template is number 0.
[DESIGN CHOICE: notes/assumptions/75.md] -/
def replicaBase (k n : Nat) : Nat := 2 ^ 20 * (64 * k + n)

/-- The image's index of an actor or channel key. -/
def baseKey (a : Nat) : Nat := a % 2 ^ 20

/-- The replica's number that a key of stage `k` holds. -/
def replicaNum (k a : Nat) : Nat := if a < 2 ^ 20 then 0 else a / 2 ^ 20 - 64 * k

/-- The key of an image's actor or channel in a replica. -/
def inReplica (k n a : Nat) : Nat := if n = 0 then a else replicaBase k n + a

/-- The actor that sends on a channel, and the one that receives from it. -/
def Chan.fromActor (c : Chan) : Option Nat := match c.src with | .actor a _ => some a | .err a => some a | _ => none
def Chan.toActor (c : Chan) : Option Nat := match c.dst with | .actor b _ => some b | _ => none

/-- The actors of a stage's replica: the template and every actor whose channels join it only to the template. -/
def Region.members (g : Region) (t : Stage) : List Nat :=
  let cs := g.chans.filterMap fun c => c.2.map fun v => (v.fromActor, v.toActor)
  let joins (e : Option Nat × Option Nat) (a : Nat) : Bool := decide (e.1 = some a) || decide (e.2 = some a)
  t.tmpl :: (g.actors.filterMap fun a =>
    let mine := cs.filter fun e => joins e a.1
    if decide (a.1 ≠ t.tmpl) && decide (a.1 < 2 ^ 20) && !mine.isEmpty && mine.all (fun e => joins e t.tmpl) then some a.1 else none)

/-- A port of the distributor or collector that serves replica `n`: its own copy of the port (R417).
[DESIGN CHOICE: notes/assumptions/75.md] -/
def copyPort (p n : Nat) : Nat := p + 8 * n

/-- A channel of the image between two actors. -/
def Region.between (g : Region) (a b : Nat) : Option (Nat × Chan) :=
  match sfind (fun i c => decide (i < 2 ^ 20) && (match c with
      | some c => decide (c.src ≠ .err a) && decide (c.fromActor = some a) && decide (c.toActor = some b)
      | none => false)) g.chans with
  | some (i, some c) => some (i, c)
  | _ => none

/-- The ports at a channel's ends. -/
def Chan.outPort (c : Chan) : Nat := match c.src with | .actor _ p => p | _ => 0
def Chan.inPortOf (c : Chan) : Nat := match c.dst with | .actor _ p => p | _ => 0

/-- The numbers of a stage's replicas. -/
def Stage.nums (t : Stage) (k : Nat) : List Nat := t.replicas.map fun p => replicaNum k p.1

/-- The stage that an actor serves as collector, or as distributor. -/
def Region.stageColl (g : Region) (a : Nat) : Option (Nat × Stage) :=
  match sfind (fun _ t => match t with | some t => decide (t.coll = a) | none => false) g.stages with
  | some (k, some t) => some (k, t)
  | _ => none
def Region.stageDist (g : Region) (a : Nat) : Option (Nat × Stage) :=
  match sfind (fun _ t => match t with | some t => decide (t.dist = a) | none => false) g.stages with
  | some (k, some t) => some (k, t)
  | _ => none

/-- The collector's inputs: its copy of the template's channel for each replica. -/
def Region.backPorts (g : Region) (k : Nat) (t : Stage) : List Nat :=
  match g.between t.tmpl t.coll with
  | some (_, c) => (t.nums k).map (copyPort c.inPortOf)
  | none => []

/-- What merges at an actor: whether in order of arrival, and its inputs. -/
def Region.mergeOf (g : Region) (a : Nat) (x : Actor) : Option (Bool × List Nat) :=
  match x.body with
  | .merge arr m _ _ => some (arr, maskList m)
  | .lent => match g.stageColl a with
    | some (k, t) => some (!t.ordered, g.backPorts k t)
    | none => none
  | _ => none

/-- Every input port of an actor, with the copies that serve replicas. -/
def Actor.allPorts (x : Actor) : List Nat := List.range 8 ++ (x.inp.map (·.1)).filter fun p => decide (8 ≤ p)

end Sys2Proof.Machine
end

