-- ==== Sys2Proof/Machine/Graph.lean ====
section
/-! DEFINITION. What hardware does with tokens outside tasks: nulls, the ends of streams, merges, counter chains, the
controller tree, calls and held errors (R25, R28 to R36, R52, R136, R426). -/

namespace Sys2Proof.Machine

/-! ### Named inputs and outputs (R31, R33) -/

/-- The actor may take a step: its region runs, no cut has stopped it and it holds no error token (R24, R52, R229). -/
def Region.active (g : Region) (x : Actor) : Bool :=
  g.launch.isSome && !g.halted && decide (x.cut = .run) && x.holdsNone

/-- The actor's commands may start: as a step, or after HALT, when a lane, abacus or matrix actor completes those issued to it (R363). -/
def Region.serves (g : Region) (x : Actor) : Bool :=
  g.active x || (g.launch.isSome && g.halted && decide (x.cut = .run) &&
    (match x.body with | .lane _ => true | .abacus _ => true | .matrix _ => true | _ => false))

/-- Outputs that a channel joins. -/
def Region.joined (g : Region) (a : Nat) : List Nat := (List.range 8).filter fun p => (g.chanOf (.actor a p)).isSome

/-- Inputs that something feeds. -/
def Actor.fedInputs (x : Actor) : List Nat := (List.range 8).filter fun p => (x.port p).fed

/-- The governing rule of a token at an input (R33): the lowest-numbered one whose mask holds it. -/
def Actor.governing (x : Actor) (p : Nat) : Option Rule := x.rules.find? fun u => u.inMask.getLsbD p

/-- The named inputs and outputs of an engine or merge actor. -/
def State.engineNamed (s : State) (g : Region) (a : Nat) (x : Actor) : List Nat × List Nat :=
  match x.body with
  | .lane l =>
    let t := s.tile x.tile
    (t.segInputs l, (t.segOutputs l).filter fun p => (g.chanOf (.actor a p)).isSome)
  | .merge _ m _ _ => (maskList m, [0])
  | .abacus _ => ([0], [0])
  | .memory m =>
    if m.store then (if m.indexed then [0, 1] else [0], (g.joined a).filter fun p => decide (p = 0))
    else (if m.self then [] else [0], [0])
  | .counter _ => ([], [0])
  | .bank => (x.fedInputs, g.joined a)
  | .lent => match g.mergeOf a x with
    | some (false, l) => (l, [0])
    | _ => ([], [])
  | _ => ([], [])

/-- Named inputs and outputs as they govern a token at input `p`; none where no rule of a task actor names it. -/
def State.named (s : State) (g : Region) (a : Nat) (x : Actor) (p : Nat) : Option (List Nat × List Nat) :=
  match x.body with
  | .task => (x.governing p).map fun u => (maskList u.inMask, maskList u.outMask)
  | _ =>
    let n := s.engineNamed g a x
    if n.1.contains p then some n else none

/-- Kinds whose nulls and ends of stream have no event of their own: task, lane and bank actors and ordered merges. -/
def Actor.joinsEos (x : Actor) : Bool :=
  match x.body with
  | .task | .lane _ | .bank => true
  | .merge arrival _ _ _ => !arrival
  | .lent => true
  | _ => false

/-- The element that a bank actor still has at its tile's port (R137), with its place there.
[DESIGN CHOICE: notes/assumptions/23.md] -/
def State.bankAt (s : State) (x : Actor) : Option (Nat × Access) :=
  lfind (fun q => q.elem.isSome && (match q.kind with | .atomic _ | .cas => true | _ => false) &&
    decide ((s.actor q.region q.actor).map (·.slot) = some x.slot)) (s.tile x.tile).port 0

/-- A burst is open on an input of a segment. -/
def Actor.inBurst (x : Actor) : Bool := decide ((x.port 0).left ≠ 0) || decide ((x.port 1).left ≠ 0)

/-- The actor's pipeline holds nothing that stands before its inputs' heads. -/
def State.settled (s : State) (x : Actor) : Bool :=
  match x.body with
  | .lane l => (s.tile x.tile).drained l && (decide (l.cfg = []) || x.inBurst)
  | .memory m => decide (m.held = []) && m.eos.isNone && !m.pass
  | .abacus b => decide (b.outq = [])
  | .bank => (s.bankAt x).isNone
  | _ => true

/-- A task actor's inputs are the hardware's to consume while none of its firings holds triggers there.
[DEDUCED: notes/assumptions/27.md] -/
def State.notBusy (s : State) (r a : Nat) (x : Actor) : Bool := !x.isTask || !(s.tile x.tile).busyWith r a

/-- An engine actor judges the framing of its burst inputs first (R16); task and merge actors judge none.
[DEDUCED: notes/assumptions/26.md] -/
def State.framed (s : State) (r a : Nat) (x : Actor) (ins : List Nat) : Bool :=
  match x.body with
  | .task | .merge .. | .lent => true
  | _ => ins.all fun p => (s.framing r a p).isNone

/-- The kind of the head of an input. -/
def Actor.headKind (x : Actor) (p : Nat) : Option (BitVec 4) := (x.head p).map (·.kind)

/-- A data or launch token at the head of an input. -/
def Actor.isData (x : Actor) (p : Nat) : Bool := decide (x.headKind p = some 0) || decide (x.headKind p = some 7)

/-- A head that counts as a position's token: neither control nor solstice. -/
def Actor.hasPosition (x : Actor) (p : Nat) : Bool :=
  match x.head p with
  | some t => decide (t.kind ≠ 5) && decide (t.kind ≠ 6)
  | none => false

/-- Tokens are being discarded on some input of a list (case 2 of R32). -/
def Actor.dropping (x : Actor) (l : List Nat) : Bool := l.any fun p => (x.port p).drop

/-- One position taken from an input: a token, or a whole burst or the rest of an open one, whose data tokens are then discarded
(R11, R15, R29). -/
def Actor.takePosition (x : Actor) (p : Nat) : Actor :=
  match x.head p with
  | some t =>
    if t.kind = 3 ∨ (t.kind = 0 ∧ (x.port p).left ≠ 0) then
      let q := ((x.port p).pop.track t)
      (x.acquire t.deps).setPort p { q with left := 0, skip := true }
    else x.takeTracked p
  | none => x

def Actor.takePositions (x : Actor) : List Nat → Actor
  | [] => x
  | p :: l => (x.takePosition p).takePositions l

/-- The inputs 0 to 7 whose head has a kind. -/
def Actor.headsOf (x : Actor) (l : List Nat) (k : BitVec 4) : List Nat := l.filter fun p => decide (x.headKind p = some k)

/-! ### Nulls (R29, R33) -/

/-- A null at the head of input `p` consumes one position from each named input and leaves a null on each named output; at an
input that no rule names it is discarded. A head still discarding the rest of a burst goes first.
[DEDUCED: notes/assumptions/27.md] -/
def State.nullAt (s : State) (r a : Nat) (g : Region) (x : Actor) (p : Nat) : Option State :=
  match s.named g a x p with
  | none => if x.isTask then some (s.modActor r a fun x => x.popPort p) else none
  | some (ins, outs) =>
    let errs := if x.isTask then [] else x.headsOf ins 4
    if ins.all x.hasPosition && decide (x.headsOf ins 2 = []) && decide (errs = []) && !x.dropping ins && g.outsFree a outs &&
        s.framed r a x ins then
      some ((s.modActor r a fun x => if x.isTask then x.popPorts ins else x.takePositions ins).sendAll r a 1 [0] outs)
    else none

/-- The first null at a head that its rule lets go (R29, R33). -/
def State.nullStep (s : State) (r a : Nat) : Option State :=
  match s.region r with
  | none => none
  | some g =>
    match g.actor a with
    | none => none
    | some x =>
      if !(g.active x && x.joinsEos && s.notBusy r a x && s.settled x) || (x.isTask && x.nullVis) || (g.mergeOf a x).isSome then none
      else (x.headsOf (List.range 8) 1).findSome? (s.nullAt r a g x)

/-- NULL_PROPAGATE (R29). -/
def execNullPropagate (r a : Nat) (s : State) : Res := occurIn s r (s.nullStep r a)

/-! ### Ends of streams (R32, R33) -/

/-- An EOS token carries the error mark. -/
def Token.eosErr (t : Token) : Bool := dwBit (t.dw 0) 0

/-- Some EOS at the heads of a list of inputs carries the error mark. -/
def Actor.anyErr (x : Actor) (l : List Nat) : Bool :=
  l.any fun p => match x.head p with
    | some t => decide (t.kind = 2) && t.eosErr
    | none => false

/-- The end of a stream sent through a lane segment: a flush group brings out what its lanes keep (R367, R374, R379, R380). -/
def State.flushLane (s : State) (x : Actor) (l : LaneSeg) : State :=
  s.modTile x.tile fun t => t.enterGroup l { void := true, flush := true, last := true, burstLast := true }

/-- Case 1 of R32 for the EOS at input `p`: EOS at every named input. An EOS at an input that no rule names is discarded. -/
def State.eosJoinAt (s : State) (r a : Nat) (g : Region) (x : Actor) (p : Nat) : Option State :=
  match s.named g a x p with
  | none => if x.isTask then some (s.modActor r a fun x => x.popPort p) else none
  | some (ins, outs) =>
    if !(s.framed r a x ins && ins.all fun q => decide (x.headKind q = some 2) && !(x.port q).drop) then none
    else
      let go := (s.modActor r a fun x => x.popPorts ins).eosAll r a (x.anyErr ins) outs
      match x.body with
      | .lane l =>
        if (s.tile x.tile).holdsPart l then some (s.flushLane x l)
        else if g.outsFree a outs then some go else none
      | _ => if g.outsFree a outs then some go else none

/-- The first EOS at a head that its rule lets go (R32, R33). -/
def State.eosStep (s : State) (r a : Nat) : Option State :=
  match s.region r with
  | none => none
  | some g =>
    match g.actor a with
    | none => none
    | some x =>
      if !(g.active x && x.joinsEos && s.notBusy r a x && s.settled x) || (x.isTask && x.eosVis) then none
      else (x.headsOf x.allPorts 2).findSome? (s.eosJoinAt r a g x)

/-- EOS_JOIN (R32). -/
def execEosJoin (r a : Nat) (s : State) : Res := occurIn s r (s.eosStep r a)

/-- An element-wise node (R32): an engine actor with several named inputs, an ordered merge, or a task actor that is not
EOS-visible, under its governing rule. -/
def Actor.elementWise (x : Actor) (ins : List Nat) : Bool :=
  match x.body with
  | .task => !x.eosVis
  | .merge arrival _ _ _ => !arrival
  | .counter _ => false
  | .lent => true
  | _ => decide (1 < ins.length)

/-- A head that makes case 2 of R32: data, null, burst header, error or launch. -/
def Actor.counts (x : Actor) (p : Nat) : Bool :=
  match x.head p with
  | some t => decide (t.kind ≠ 2) && decide (t.kind ≠ 5) && decide (t.kind ≠ 6)
  | none => false

/-- The inputs discarding under case 2 discard one token: the stream's own EOS ends the discarding, and the last leaves one
EOS with the error mark on each named output; a memory actor forwards it once its stores are accepted. -/
def State.shapeDrop (s : State) (r a : Nat) (g : Region) (x : Actor) (p : Nat) : Option State :=
  match s.named g a x p, x.head p with
  | some (ins, outs), some t =>
    if t.kind = 6 then none
    else if t.kind ≠ 2 then some (s.modActor r a fun x => x.popPort p)
    else
      let final := !(ins.any fun q => decide (q ≠ p) && (x.port q).drop)
      let s1 := s.modActor r a fun x => x.setPort p { (x.port p).pop with drop := false, hdr := none, left := 0, skip := false }
      if !final then some s1
      else
        match x.body with
        | .memory m => some (s1.modActor r a fun x => { x with body := .memory { m with eos := some true } })
        | .lane l =>
          if (s.tile x.tile).holdsPart l then some (s.flushLane x l)
          else if g.outsFree a outs then some (s1.eosAll r a true outs) else none
        | _ => if g.outsFree a outs then some (s1.eosAll r a true outs) else none
  | _, _ => none

/-- A merge or stage passes a burst, or discards the rest of one, which stands for a whole position (R15, R30). -/
def Actor.amidPosition (x : Actor) (ins : List Nat) : Bool :=
  match x.body with
  | .merge .. | .lent => ins.any fun p => decide ((x.port p).left ≠ 0) || ((x.port p).skip && decide (x.headKind p = some 0))
  | _ => false

/-- Case 2 of R32 for the EOS at input `p`, at a boundary of positions: one error token with code 0x03, the EOS tokens at heads taken,
and every other named input discarding; a task actor waits for its governing rule's outputs (R33). -/
def State.shapeAt (s : State) (r a : Nat) (g : Region) (x : Actor) (p : Nat) : Option State :=
  match s.named g a x p with
  | none => none
  | some (ins, outs) =>
    if !(x.elementWise ins && s.framed r a x ins && ins.any x.counts) || x.amidPosition ins || (x.isTask && !g.outsFree a outs) then none
    else
      let ended := x.headsOf ins 2
      let s1 := s.errorAt r a (chanField (g.chanTo a p)) p 0x03 (BitVec.ofNat 64 (x.port p).taken)
      let s2 := s1.modActor r a fun x => x.popPorts ended
      some (s2.modActor r a fun x =>
        { x with inp := (ins.filter fun q => !ended.contains q).foldl (fun m q =>
            sset {} m q { x.port q with drop := true }) x.inp })

/-- The inputs of a stream that is being discarded go on; else the first EOS at a head that makes case 2 (R32, R33). -/
def State.shapeStep (s : State) (r a : Nat) : Option State :=
  match s.region r with
  | none => none
  | some g =>
    match g.actor a with
    | none => none
    | some x =>
      if !(g.active x && s.notBusy r a x && s.settled x) then none
      else
        match (x.allPorts.filter fun p => (x.port p).drop && (x.head p).isSome).findSome? (s.shapeDrop r a g x) with
        | some s1 => some s1
        | none =>
          (x.headsOf x.allPorts 2).findSome? fun p => match s.named g a x p with
            | some (ins, _) => if x.dropping ins then none else s.shapeAt r a g x p
            | none => none

/-- SHAPE_ERROR (R32). -/
def execShapeError (r a : Nat) (s : State) : Res := occurIn s r (s.shapeStep r a)

/-! ### Errors in place (R136) -/

/-- An error token at a named head consumes one position and is copied to each named output, the lowest input's first.
[DEDUCED: notes/assumptions/27.md] -/
def State.errorStep (s : State) (r a : Nat) (g : Region) (x : Actor) (ins outs : List Nat) : Option State :=
  match (x.headsOf ins 4).head? with
  | none => none
  | some p =>
    if ins.all x.hasPosition && decide (x.headsOf ins 2 = []) && !x.dropping ins && g.outsFree a outs && s.settled x then
      let pay := ((x.head p).map (·.payload)).getD []
      some ((s.modActor r a fun x => x.takePositions ins).sendAll r a 4 pay outs)
    else none

/-- A header at a named head of a memory or bank actor: off a burst channel it is consumed with code 0x05 (R364); on one it is latched,
in an element step that takes one token from each named input and yields nothing (R15, R24).
[DESIGN CHOICE: notes/assumptions/30.md] -/
def State.headerStep (s : State) (r a : Nat) (g : Region) (x : Actor) (ins outs : List Nat) : Option State :=
  let heads := x.headsOf ins 3
  match heads.find? fun p => !burstType (g.inType a p) with
  | some p => some ((s.errorAt r a (chanField (g.chanTo a p)) p 0x05 0).modActor r a fun x => x.popPort p)
  | none =>
    if decide (heads ≠ []) && ins.all x.hasPosition && [1, 2, 4].all (fun k => decide (x.headsOf ins k = [])) && !x.dropping ins &&
        g.outsFree a outs then
      some (s.modActor r a fun x => ins.foldl Actor.takeTracked x)
    else none

/-! ### Calls and configuration at heads (R25, R26, R27, R426) -/

/-- A call that cannot run goes to the fault sink with code 0x07 (R25). -/
def State.divertCall (s : State) (r a chan : Nat) (t : Token) : State := s.divert r a chan (dwAt (t.dw 0) 8 4) (t.dw 0)

/-- The lowest-numbered input whose head is a control token. -/
def Actor.controlPort (x : Actor) (l : List Nat) : Option Nat := (x.headsOf l 5).head?

/-! ### Merges (R30, R31) -/

/-- An input in the middle of a burst that the merge is passing. -/
def Actor.openBurst (x : Actor) (l : List Nat) : Option Nat := l.find? fun p => decide ((x.port p).left ≠ 0)

/-- One token of an input passed on o0. -/
def State.passOn (s : State) (r a p : Nat) (t : Token) : State :=
  (s.modActor r a fun x => x.takeTracked p).sendOn r a 0 t.kind t.payload

/-- The rest of a discarded burst at an input of a merge. -/
def Actor.skipping (x : Actor) (l : List Nat) : Option Nat :=
  l.find? fun p => (x.port p).skip && decide (x.headKind p = some 0)

/-- A position of an ordered merge whose inputs all hold tokens (R30). [DEDUCED: notes/assumptions/28.md] -/
def State.mergeHeads (s : State) (r a : Nat) (x : Actor) (ins : List Nat) : State :=
  let data := ins.filter fun p => match x.headKind p with
    | some k => decide (k = 0) || decide (k = 3) || decide (k = 7)
    | none => false
  match data with
  | [] => (s.modActor r a fun x => x.takePositions ins).sendOn r a 0 1 [0]
  | p :: more =>
    let t := (x.head p).getD {}
    let s1 := s.modActor r a fun x => (x.takePositions (ins.filter fun q => decide (q ≠ p))).takeTracked p
    let s2 := s1.sendOn r a 0 t.kind t.payload
    if more = [] then s2
    else s2.errorAt r a 0xFF (packNat (data.map fun q => (1, q))) 0x06 0

/-- One step of an ordered merge (R30, R31): the open burst goes on, a control token passes, a position is merged.
[DEDUCED: notes/assumptions/28.md] -/
def State.orderedMerge (s : State) (r a : Nat) : Option State :=
  match s.region r with
  | none => none
  | some g =>
    match g.actor a with
    | none => none
    | some x =>
      match g.mergeOf a x with
      | some (false, ins) =>
        if !g.active x || ins.any (fun p => (x.port p).drop) then none
        else
          match x.skipping ins, x.openBurst ins with
          | some p, _ => some (s.modActor r a fun x => x.popPort p)
          | none, some p =>
            match x.head p with
            | none => none
            | some t =>
              if t.kind = 6 then none
              else if t.restarts then some (s.modActor r a fun x => x.setPort p { x.port p with left := 0 })
              else if t.isCall then some ((s.modActor r a fun x => x.popPort p).divertCall r a (chanField (g.chanTo a p)) t)
              else if !g.outReady a 0 then none
              else some (s.passOn r a p t)
          | none, none =>
            match x.controlPort ins with
            | some p =>
              let t := (x.head p).getD {}
              if t.isCall then some ((s.modActor r a fun x => x.popPort p).divertCall r a (chanField (g.chanTo a p)) t)
              else if !g.outReady a 0 then none
              else some (s.passOn r a p t)
            | none =>
              if !(ins.all x.hasPosition) || decide (x.headsOf ins 2 ≠ []) || !g.outReady a 0 then none
              else
                match s.errorStep r a g x ins [0] with
                | some s1 => some s1
                | none => some (s.mergeHeads r a x ins)
      | _ => none

/-- ORDERED_MERGE_POSITION (R30). -/
def execOrderedMergePosition (r a : Nat) (s : State) : Res := occurIn s r (s.orderedMerge r a)

/-- One arriving token at an arrival merge (R31): nulls discarded, an EOS noted, others passed; a burst is passed whole.
[DEDUCED: notes/assumptions/28.md] -/
def State.arrivalMerge (s : State) (r a p : Nat) : Option State :=
  match s.region r with
  | none => none
  | some g =>
    match g.actor a with
    | none => none
    | some x =>
      match x.body, x.head p with
      | .merge true m eos err, some t =>
        let busy := match x.openBurst (maskList m) with
          | some q => decide (q ≠ p)
          | none => false
        if !g.active x || !m.getLsbD p || eos.getLsbD p || busy || decide (t.kind = 6) then none
        else if t.kind = 1 then some (s.modActor r a fun x => x.takeTracked p)
        else if t.isCall then some ((s.modActor r a fun x => x.popPort p).divertCall r a (chanField (g.chanTo a p)) t)
        else if t.kind = 2 then
          let eos' := eos ||| (1 <<< p)
          let err' := err || t.eosErr
          if eos' = m then
            if !g.outReady a 0 then none
            else
              let s1 := s.modActor r a fun x => { x.takeTracked p with body := .merge true m 0 false }
              some (s1.sendEos r a 0 err')
          else some (s.modActor r a fun x => { x.takeTracked p with body := .merge true m eos' err' })
        else if !g.outReady a 0 then none
        else some (s.passOn r a p t)
      | _, _ => none

/-- One arriving token at the collector of an elastic stage (R182, R417): nulls and the replicas' EOS discarded, others passed; with
a ray's record or error a ray leaves a partitioned stage. -/
def State.collect (s : State) (r a p : Nat) : Option State :=
  match s.region r with
  | none => none
  | some g =>
    match g.actor a, g.stageColl a with
    | some x, some (k, t) =>
      match g.mergeOf a x, x.head p with
      | some (true, ins), some tok =>
        let busy := match x.openBurst ins with
          | some q => decide (q ≠ p)
          | none => false
        if !g.active x || !ins.contains p || busy || decide (tok.kind = 6) then none
        else if tok.kind = 1 ∨ tok.kind = 2 then some (s.modActor r a fun x => x.takeTracked p)
        else if tok.isCall then some ((s.modActor r a fun x => x.popPort p).divertCall r a (chanField (g.chanTo a p)) tok)
        else if !g.outReady a 0 then none
        else
          let s1 := s.passOn r a p tok
          some (if t.part && (decide (tok.kind = 0) || decide (tok.kind = 4)) then
            s1.modRegion r fun g => g.setStage k { t with inside := t.inside - 1 } else s1)
      | _, _ => none
    | _, _ => none

/-- ARRIVAL_MERGE_TOKEN (R31, R182). -/
def execArrivalMergeToken (r a port : Nat) (s : State) : Res :=
  occurIn s r ((s.arrivalMerge r a port).orElse fun _ => s.collect r a port)

/-! ### Counter chains (R34) -/

/-- The place of each counter at a position of the chain, innermost fastest. -/
def places (l : List CounterSpec) (n : Nat) : List Nat :=
  match l with
  | [] => []
  | c :: rest => n / chainSize rest % c.size :: places rest n

/-- The payload of an index token (R34). -/
def indexToken (l : List CounterSpec) (n : Nat) : List Dw :=
  let ps := (l.zip (places l n)).zipIdx
  let flags := packDw (ps.flatMap fun x =>
    [(b2n (decide (x.1.2 = 0)), x.2), (b2n (decide (x.1.2 + 1 = x.1.1.size)), 4 + x.2)])
  flags :: ps.map fun x => (x.1.1.start + x.1.1.step * BitVec.ofNat 32 x.1.2).signExtend 64

/-- Index tokens that an enable yields. -/
def Counter.total (c : Counter) : Nat := c.span * chainSize c.spec

/-- COUNTER_INDEX_EMIT (R34). -/
def State.indexEmit (s : State) (r a : Nat) : Option State :=
  match s.region r with
  | none => none
  | some g =>
    match g.actor a with
    | none => none
    | some x =>
      match x.body with
      | .counter c =>
        if g.active x && !x.srcCut && c.enabled && !c.eosSent && decide (c.emitted < c.total) && g.outReady a 0 then
          let s1 := s.modActor r a fun x => { x with body := .counter { c with emitted := c.emitted + 1 } }
          some (s1.sendOn r a 0 0 (indexToken c.spec (c.emitted % chainSize c.spec)))
        else none
      | _ => none

def execCounterIndexEmit (r a : Nat) (s : State) : Res := occurIn s r (s.indexEmit r a)

/-- COUNTER_EOS_EMIT (R34, R36): the EOS after the last index token, and done for the last iteration enabled.
[DEDUCED: notes/assumptions/29.md] -/
def State.counterEos (s : State) (r a : Nat) : Option State :=
  match s.region r with
  | none => none
  | some g =>
    match g.actor a with
    | none => none
    | some x =>
      match x.body with
      | .counter c =>
        if g.active x && !x.srcCut && c.enabled && !c.eosSent && decide (c.total ≤ c.emitted) && g.outReady a 0 then
          let s1 := s.modActor r a fun x => { x with body := .counter { c with enabled := false, eosSent := true } }
          let s2 := s1.sendEos r a 0 false
          some (s2.modRegion r fun g => g.sendDone (.actor a) (c.first + c.span - 1))
        else none
      | _ => none

def execCounterEosEmit (r a : Nat) (s : State) : Res := occurIn s r (s.counterEos r a)

/-! ### The controller tree (R35, R36) -/

/-- A controller may enable its child `j` for the child's next iteration. -/
def Ctrl.mayEnable (c : Ctrl) (j : Nat) : Bool :=
  let i := sget 0 c.kidEn j
  let last := c.kids.length - 1
  let m := (List.range c.kids.length).foldl (fun m k => min m (sget 0 c.kidDone k)) c.total
  decide (i < c.total) &&
    (match c.sch with
     | 0 => if j = 0 then decide (i ≤ sget 0 c.kidDone last) else decide (i < sget 0 c.kidDone (j - 1))
     | 1 => decide (i < m + c.win) && (j = 0 || decide (i < sget 0 c.kidDone (j - 1)))
     | _ => decide (i = 0))

/-- One enable of a controller that may be sent: one iteration, or under streaming the whole space (R35). -/
def Region.pumpOne (g : Region) (k : Nat) (c : Ctrl) : Option Region :=
  match (List.range c.kids.length).find? c.mayEnable with
  | none => none
  | some j =>
    match c.kids[j]? with
    | none => none
    | some n =>
      let i := sget 0 c.kidEn j
      if c.sch = 2 then
        some { g.setCtrl k { c with kidEn := sset 0 c.kidEn j c.total } with net := g.net ++ [.enable n 0 0] }
      else some { g.setCtrl k { c with kidEn := sset 0 c.kidEn j (i + 1) } with net := g.net ++ [.enable n i 1] }

/-- Every enable that may be sent now; the first argument bounds their number. -/
def Region.pump : Nat → Region → Nat → Region
  | 0, g, _ => g
  | n + 1, g, k =>
    match g.ctrl k with
    | none => g
    | some c =>
      match g.pumpOne k c with
      | none => g
      | some g1 => g1.pump n k

/-- Every child has reported done for the last iteration. -/
def Ctrl.finished (c : Ctrl) : Bool :=
  (List.range c.kids.length).all fun j => decide (c.total ≤ sget 0 c.kidDone j)

/-- A controller goes on (R36): it sends the enables it may, and when it is finished reports done to its parent; the root's
done is noted for the end of the launch. -/
def Region.advanceCtrl (g : Region) (k : Nat) : Region :=
  match g.ctrl k with
  | none => g
  | some c =>
    if !c.enabled || c.doneSent || decide (c.cut ≠ .run) then g
    else if c.finished then
      let g1 := g.setCtrl k { c with enabled := false, doneSent := true }
      if c.parent.isNone then { g1 with rootDone := true } else g1.sendDone (.ctrl k) (c.first + c.span - 1)
    else g.pump (17 * c.kids.length) k

/-- The iterations an enable token covers (R35): a count of 0 is the rest of the sender's space, one for the root.
[DEDUCED: notes/assumptions/29.md] -/
def Region.spanOf (g : Region) (n : Node) (first span : Nat) : Nat :=
  if span ≠ 0 then span
  else
    match g.parentOf n with
    | some (_, c, _) => c.total - first
    | none => 1

/-- An enable token reaches a controller or an actor (R35); while an earlier one is in force a later one waits. -/
def State.enableStep (s : State) (r k : Nat) : Option State :=
  match s.region r with
  | none => none
  | some g =>
    match g.net[k]? with
    | some (.enable n first span) =>
      let g1 := { g with net := ldrop g.net k }
      let len := g.spanOf n first span
      if !s.netReaches g n then none else
      match n with
      | .ctrl c =>
        match g.ctrl c with
        | none => some (s.setRegion r g1)
        | some y =>
          if y.enabled || decide (y.cut ≠ .run) then none
          else
            let y1 := { y with enabled := true, doneSent := false, first := first, span := len, kidEn := [], kidDone := [] }
            some (s.setRegion r ((g1.setCtrl c y1).advanceCtrl c))
      | .actor a =>
        match g.actor a with
        | none => some (s.setRegion r g1)
        | some x =>
          if x.cut ≠ .run then none
          else
            match x.body with
            | .counter c =>
              if c.enabled then none
              else
                let c1 := { c with enabled := true, first := first, span := len, emitted := 0, eosSent := false }
                some (s.setRegion r (g1.setActor a { x with body := .counter c1 }))
            | .memory m =>
              if m.self then
                if m.enabled then none
                else
                  let m1 := { m with enabled := true, pass := true, pos := 0, strm := 0, first := first, span := len }
                  some (s.setRegion r (g1.setActor a { x with body := .memory m1 }))
              else some (s.setRegion r g1)
            | _ => some (s.setRegion r g1)
    | _ => none

/-- CONTROLLER_ENABLE_RECEIVE (R35). -/
def execControllerEnableReceive (r k : Nat) (s : State) : Res := occurIn s r (s.enableStep r k)

/-- A done token reaches a controller (R36): for an iteration not enabled, or one reported before, it is discarded and
counted in the fault record; else the controller goes on. -/
def State.doneStep (s : State) (r k : Nat) : Option State :=
  match s.region r with
  | none => none
  | some g =>
    match g.net[k]? with
    | some (.done c j iter) =>
      let g1 := { g with net := ldrop g.net k }
      match g.ctrl c with
      | none => some (s.setRegion r g1)
      | some y =>
        if decide (y.cut ≠ .run) || !s.kidReaches g c j then none
        else if y.enabled && decide (iter < sget 0 y.kidEn j) && decide (sget 0 y.kidDone j ≤ iter) then
          some (s.setRegion r ((g1.setCtrl c { y with kidDone := sset 0 y.kidDone j (iter + 1) }).advanceCtrl c))
        else some ((s.setRegion r g1).bumpFault r 8 0)
    | _ => none

/-- CONTROLLER_DONE_RECEIVE (R36). -/
def execControllerDoneReceive (r k : Nat) (s : State) : Res := occurIn s r (s.doneStep r k)

/-! ### Calls on the control network (R25, R426) -/

/-- An entry of an actor's handler table is valid (R25). -/
def Actor.validEntry (x : Actor) (e : Nat) : Bool := x.isTask && dwBit (sget 0 x.htab e) 63

/-- HANDLER_CALL_ARRIVAL (R25, R229, R426): calls to one actor arrive in order; an actor being cut records them, a call
that cannot run, or that names no actor of the region, is diverted (R321). [DEDUCED: notes/assumptions/38.md] -/
def State.callStep (s : State) (r k : Nat) : Option State :=
  match s.region r with
  | none => none
  | some g =>
    match g.net[k]? with
    | some (.call a t) =>
      let behind := (g.net.take k).any fun m => match m with | .call b _ => decide (b = a) | _ => false
      if behind || !s.netReaches g (.actor a) then none
      else
        let s1 := s.setRegion r { g with net := ldrop g.net k }
        match g.actor a with
        | none =>
          let (v, s2) := s1.free
          some (s2.feedError r (v.toNat % 1024) (v.toNat / 1024 % 16) 0xFF (dwAt (t.dw 0) 8 4) 0x07 (t.dw 0))
        | some x =>
          if x.cut = .record ∨ x.cut = .cut then
            some (s1.modActor r a fun x => { x with recd := x.recd ++ [{ control := true, tok := t }] })
          else if x.validEntry (dwAt (t.dw 0) 8 4) then some (s1.modActor r a fun x => { x with calls := x.calls ++ [t] })
          else some (s1.divertCall r a 0xFF t)
    | _ => none

def execHandlerCallArrival (r k : Nat) (s : State) : Res := occurIn s r (s.callStep r k)

/-! ### Held errors (R52, R425) -/

/-- HELD_ERROR_SEND (R52, R425): the oldest held error token is sent once its channel or the fault feed has a slot. An
actor index beyond every actor names the region's own held tokens. -/
def State.heldStep (s : State) (r a : Nat) : Option State :=
  match s.region r with
  | none => none
  | some g =>
    match g.actor a with
    | some x =>
      let own : Option State := match x.held with
        | [] => none
        | t :: l => (s.trySendError r a t.payload).map fun s => s.modActor r a fun x => { x with held := l }
      own.orElse fun _ => match x.diverted with
        | [] => none
        | p :: l => (s.feed r p).map fun s => s.modActor r a fun x => { x with diverted := l }
    | none =>
      match g.feedHeld with
      | [] => none
      | p :: l => (s.feed r p).map fun s => s.modRegion r fun g => { g with feedHeld := l }

def execHeldErrorSend (r a : Nat) (s : State) : Res := occurIn s r (s.heldStep r a)

end Sys2Proof.Machine
end

