-- ==== Sys2Proof/Machine/Commands.lean ====
section
/-! DEFINITION. Stream commands at the command inputs of matrix, lane and abacus actors: taking the next one, refusing one,
and its power charge (R193, R194, R291, R304, R306, R341). -/

namespace Sys2Proof.Machine

/-- A command's error: an error token to the issuer's error port, named by the unit that detects it, with w1:w0 as detail
(R291, R306). [DEDUCED: notes/assumptions/39.md] -/
def State.commandError (s : State) (r issuer tile slot info code : Nat) (w : BitVec 128) : State :=
  match s.region r with
  | none => s
  | some g => s.sendError r issuer (errPayload g.asid 0xFF tile slot info code (w.extractLsb' 0 64))

/-- A command's op value. -/
def opOf (w : BitVec 128) : Nat := (w.extractLsb' 24 8).toNat

/-- The issuer of the commands on a channel: its sender (R304). -/
def Region.issuerOn (g : Region) (a p : Nat) : Nat :=
  match g.chanTo a p with
  | some (_, c) => match c.src with
    | .actor b _ => b
    | .err b => b
    | _ => 0xFFFFF
  | none => 0xFFFFF

/-- What stands next at a command input: a follow-on or channel command with its issuer and the firing that issued it, or a token that
is none. -/
inductive NextCmd where
  | cmd (issuer by_ : Nat) (w : BitVec 128) (followOn : Bool)
  | bad (issuer : Nat) (t : Token)
  deriving DecidableEq, Repr

/-- The next command of an actor in order of arrival, a follow-on first (R341). -/
def Region.nextCommand (g : Region) (a : Nat) (x : Actor) : Option NextCmd :=
  let channel : Option NextCmd :=
    match x.head 7 with
    | none => none
    | some t =>
      if t.kind = 6 then none
      else if t.kind = 0 ∧ t.payload.length = 2 then some (.cmd (g.issuerOn a 7) t.by_ (t.dw 1 ++ t.dw 0) false)
      else some (.bad (g.issuerOn a 7) t)
  match x.follow with
  | f :: _ => if f.ahead = 0 then some (.cmd f.issuer f.by_ f.w true) else channel
  | [] => channel

/-- The next command of an actor taken from its input. -/
def Actor.popCommand (x : Actor) (followOn : Bool) : Actor :=
  if followOn then { x with follow := x.follow.drop 1 }
  else
    let y := x.popPort 7
    { y with follow := y.follow.map fun f => { f with ahead := f.ahead - 1 } }

/-- The barrier slot that a refused command names is to be settled with its bytes and code 0x20 (R159, R291). -/
def State.settleRefused (s : State) (r : Nat) (w : BitVec 128) (bytes : Nat) : State :=
  if w.getLsbD 23 then
    { s with subs := s.subs ++
      [{ region := r, slot := (w.extractLsb' 17 6).toNat, bytes := bytes, failed := true, code := 0x20 }] }
  else s

/-- A command at an actor whose kind accepts `accepts`, with op `op`: none while another op or nothing stands next. A token
that is no command, or a command the actor does not accept, is consumed and answered with code 0x20 (R291, R304). -/
def State.withCommand (s : State) (r a op : Nat) (accepts : Nat → Bool) (count : Region → Nat → BitVec 128 → Nat)
    (run : State → Region → Actor → (issuer by_ : Nat) → (w : BitVec 128) → (followOn : Bool) → Option State) : Option State :=
  match s.region r with
  | none => none
  | some g =>
    match g.actor a with
    | none => none
    | some x =>
      if !g.serves x then none
      else
        match g.nextCommand a x with
        | none => none
        | some (.bad i t) =>
          let w : BitVec 128 := t.dw 1 ++ t.dw 0
          some ((s.modActor r a fun x => x.popCommand false).commandError r i x.tile x.slot (opOf w) 0x20 w)
        | some (.cmd i b w fo) =>
          if !accepts (opOf w) || (decodeCommand w).isNone then
            some (((s.modActor r a fun x => x.popCommand fo).commandError r i x.tile x.slot (opOf w) 0x20 w).settleRefused r w
              (count g i w))
          else if opOf w ≠ op then none
          else run s g x i b w fo

/-- The grant of the firing that issued a command, while it runs (R194, R398). -/
def State.grantOf (s : State) (r issuer by_ : Nat) : Nat :=
  match s.actor r issuer with
  | none => 0
  | some x =>
    match (s.tile x.tile).core.firing with
    | some f => if f.region = r ∧ f.actor = issuer ∧ f.id = by_ then f.grant else 0
    | none => 0

/-- The issuer's grant reduced. -/
def State.spendGrant (s : State) (r issuer by_ n : Nat) : State :=
  match s.actor r issuer with
  | none => s
  | some x => s.modTile x.tile fun t =>
    { t with core := { t.core with firing := t.core.firing.map fun f =>
        if f.region = r ∧ f.actor = issuer ∧ f.id = by_ then { f with grant := f.grant - n } else f } }

/-- A matrix or abacus command's charge taken (R194): below the heavy threshold from the bucket, the rest forgiven; a heavy
one from the grant and then the bucket, none while the uncovered part is not available. -/
def State.chargeCommand (s : State) (r issuer by_ n : Nat) : Option State :=
  match s.region r with
  | none => none
  | some g =>
    if n < g.heavy then some (s.setRegion r { g with credit := g.credit - n })
    else
      let own := min n (s.grantOf r issuer by_)
      if n - own ≤ g.credit then
        some ((s.setRegion r { g with credit := g.credit - (n - own) }).spendGrant r issuer by_ own)
      else none

/-- A lane or abacus actor has an LSTR or ABRUN in progress. -/
def State.unitCmd (s : State) (r a : Nat) : Option (Nat × Cmd) := lfind (fun c => decide (c.eng = .unit r a)) s.cmds 0
def State.unitBusy (s : State) (r a : Nat) : Bool := (s.unitCmd r a).isSome

/-- A charge is heavy in a region. -/
def State.isHeavy (s : State) (r n : Nat) : Bool := ((s.region r).map fun g => decide (g.heavy ≤ n)).getD false

end Sys2Proof.Machine
end

