-- ==== Sys2Proof/Machine/GlobalMem.lean ====
section
/-! DEFINITION. Requests to global memory from task code: loads, stores, atomics, futures, the cache group and ORD (R118,
R119, R141, R155, R156, R282, R318, R319, R328, R334, R359, R360, R371, R394, R408). Each puts an access into the tile's
memory port and goes on; MemEvents.lean performs it. -/

namespace Sys2Proof.Machine

/-- The earlier accesses of the running actor that a fence at a scope names and that are not yet performed there: its reads,
or all (R155). -/
def State.fenceSet (s : State) (sc : Scope) (onlyReads : Bool) : List Dep :=
  let (r, a) := s.runner
  (((s.tile s.focus).port.filter fun x =>
    decide (x.region = r) && decide (x.actor = a) && !x.performed sc.toNat && (!onlyReads || x.kind.reads)).map fun x =>
      ({ tile := s.focus, id := x.id, sc := sc.toNat } : Dep)).eraseDups

/-- The accesses that a release at a scope names: the actor's own earlier ones, and those ordered before it by what it has
received (R153, R155). -/
def State.releaseSet (s : State) (sc : Scope) : List Dep :=
  s.fenceSet sc false ++ (s.carried (s.runActor.getD {})).filterMap fun p =>
    if s.performedAt p.1 p.2 sc.toNat then none else some { tile := p.1, id := p.2, sc := sc.toNat }

/-- What the values of an actor's earlier reads bring with them that it has not consumed yet (R154, R155): those answered at its tile's
port, and the responses that stand at its response ports. -/
def State.readDeps (s : State) : List Dep :=
  let (r, a) := s.runner
  ((s.tile s.focus).port.flatMap fun b =>
    if decide (b.region = r) && decide (b.actor = a) then (match b.st with | .answered t => t.deps | _ => []) else []) ++
  ((s.runActor.getD {}).inp.flatMap fun q => if q.2.resp.isSome then q.2.q.flatMap (·.deps) else [])

/-- A fence of the running actor (R155): acquire holds every later access behind the earlier reads, and orders it after what their values
bring with them, consumed or not; release holds later writes, sends and commands behind every earlier access and what is ordered before
it, and makes the next write a release write; both holds every later access behind every earlier one. -/
def State.fenceHere (s : State) (sc : Scope) (o : Order) : State :=
  let (r, a) := s.runner
  let all := s.fenceSet sc false
  let rd := s.fenceSet sc true
  let rel := s.releaseSet sc
  let s1 := if o.toNat % 2 = 1 then s.modActor r a fun x => x.acquire s.readDeps else s
  s1.modActor r a fun x =>
    { x with fence := { all := x.fence.all ++ (if o = 3 then all else if o = 1 then rd else [])
                        rel := x.fence.rel ++ (if 2 ≤ o.toNat then rel else [])
                        next := if 2 ≤ o.toNat then some (max sc.toNat (x.fence.next.getD 0)) else x.fence.next
                        maybe := if 2 ≤ o.toNat then [] else x.fence.maybe } }

/-- The access may be the release write that a fence asks for (R155): it writes, or, a CAS or FUT put, it writes when it succeeds. -/
def ReqKind.mayWrite : ReqKind → Bool
  | .write _ | .atomic _ | .cas | .futPut => true
  | _ => false

/-- An access that writes only if what it finds lets it (R328, R360). -/
def ReqKind.tries : ReqKind → Bool
  | .cas | .futPut => true
  | _ => false

/-- An access appended to the tile's memory port, behind what the actor's fences hold it. A release annotation acts as a release ORD
before it, and an acquire annotation as an acquire ORD after it (R155, R156). -/
def State.pushAccess (s : State) (acc : Access) : State :=
  let (r, a) := s.runner
  let s := if 2 ≤ acc.ord.toNat then s.fenceHere acc.sc 2 else s
  let x := s.runActor.getD {}
  let k := if acc.kind.mayWrite then x.fence.next else none
  let acc := { acc with
    id := s.nextId, region := r, actor := a, asid := s.runAsid
    after := x.fence.all ++ (if acc.kind.writes then x.fence.rel else [])
    behind := s.carried x, rel := k, relIf := if k.isSome then x.fence.maybe else []
    relDeps := if k.isSome then s.pendingOf s.focus r a ++ s.carried x else [] }
  let s := { s with nextId := s.nextId + 1 }
  let s := s.modTile s.focus fun t => { t with port := t.port ++ [acc] }
  let s := if acc.kind.mayWrite then s.modActor r a fun x =>
      { x with fence := if acc.kind.tries then { x.fence with maybe := x.fence.maybe ++ [acc.id] }
                        else { x.fence with next := none, maybe := [] } }
    else s
  if acc.ord.toNat % 2 = 1 then s.fenceHere acc.sc 1 else s

/-- The port is declared a response port of the running actor (R118). -/
def State.isResp (s : State) (p : Port) : Bool :=
  match s.runActor with
  | some x => (x.port p.toNat).resp.isSome
  | none => false

/-- A request whose port has a free credit (R119). -/
def State.hasCredit (s : State) (p : Port) : Bool :=
  match s.runActor with
  | some x => decide (0 < (x.port p.toNat).freeCredits)
  | none => false

/-- One credit of a response port taken. -/
def State.takeCredit (s : State) (p : Port) : State :=
  s.modActor s.runner.1 s.runner.2 fun x =>
    let q := x.port p.toNat
    x.setPort p.toNat { q with credits := q.credits + 1 }

/-- Code 0x1A: no credit or quota is left; the task goes on (R119, R135). -/
def State.noCredit (s : State) (k : ReqKind) (va : Dw) : State :=
  s.errorAt s.runner.1 s.runner.2 0xFF (memInfo k.code 0 k.bytes) 0x1A va

/-- A request with a response: trap 0x01 for an undeclared port (R118), code 0x1A without a credit (R119), else the access
is issued. -/
def request (s : State) (p : Port) (k : ReqKind) (va : Dw) (data : List Byte) (exp : Dw) (sc : Scope) (o : Order) : Res :=
  if !s.isResp p then illegal s
  else if !s.hasCredit p then .next (s.noCredit k va).advance
  else
    .next ((s.takeCredit p).pushAccess
      { kind := k, va := va, data := data, exp := exp, sc := sc, ord := o, port := p.toNat }).advance

/-- LDG (R371). -/
def execLdg (b : Reg) (p : Port) (f : BitVec 5) (sc : BitVec 2) (o : Bool) (s : State) : Res :=
  request s p (.read (sizeBytes f.toNat) (decide (8 ≤ f.toNat))) (s.reg b) [] 0 sc (if o then 1 else 0)

/-- STG (R408): one unit of quota, or discarded with code 0x1A (R119). -/
def execStg (g b : Reg) (f : BitVec 5) (sc o : BitVec 2) (s : State) : Res :=
  let n := sizeBytes f.toNat
  let data := if f.toNat < 8 then dwsBytes (s.core.regs g.toNat (f.toNat + 1)) else leBytes n (s.reg g).toNat
  match s.runActor with
  | none => .next s.advance
  | some x =>
    if x.quota ≤ x.quotaUsed then .next (s.noCredit (.write n) (s.reg b)).advance
    else
      .next ((s.modActor s.runner.1 s.runner.2 fun x => { x with quotaUsed := x.quotaUsed + 1 }).pushAccess
        { kind := .write n, va := s.reg b, data := data, sc := sc, ord := o }).advance

/-- ATOM (R318, R319). -/
def execAtom (g b : Reg) (p : Port) (f : BitVec 5) (sc o : BitVec 2) (s : State) : Res :=
  request s p (.atomic f.toNat) (s.reg b) (dwBytes (s.reg g)) 0 sc o

/-- CAS (R328): gs the swap value, the next register the expected value. -/
def execCas (g b : Reg) (p : Port) (sc o : BitVec 2) (s : State) : Res :=
  request s p .cas (s.reg b) (dwBytes (s.reg g)) (s.reg (g + 1)) sc o

/-- FUT get (R359, R360). -/
def execFutGet (b : Reg) (p : Port) (sc o : BitVec 2) (s : State) : Res := request s p .futGet (s.reg b) [] 0 sc o

/-- FUT put (R359, R360). -/
def execFutPut (g b : Reg) (p : Port) (sc o : BitVec 2) (s : State) : Res :=
  request s p .futPut (s.reg b) (dwBytes (s.reg g)) 0 sc o

/-- FUT clear (R359, R360). -/
def execFutClear (b : Reg) (p : Port) (sc o : BitVec 2) (s : State) : Res := request s p .futClear (s.reg b) [] 0 sc o

/-- PRF (R141, R334): the tile's read cache takes the line, where the address translates with r permission and the line is
not poisoned; it changes no value a program can read. With ord 1 an acquire fence follows. -/
def execPrf (b : Reg) (sc : BitVec 2) (o : Bool) (s : State) : Res :=
  let va := BitVec.ofNat 64 ((s.reg b).toNat / 128 * 128)
  let es := (s.tile s.focus).ranges
  let s0 := s.mark false (s.leaves (dieOf s.focus) s.runAsid es { r := true } 1 va.toNat 1)
  let s1 := match s.xlate (dieOf s.focus) s.runAsid es { r := true } 1 va.toNat 1 with
    | .ok ps _ => if s.anyPoison ps then s0 else s0.fill s.focus s.runAsid va ps
    | _ => s0
  .next (if o then s1.fenceHere sc 1 else s1).advance

/-- CWB (R141, R334): responds when the line of 128 bytes has been written back; bits [6:0] of the address are ignored. -/
def execCwb (b : Reg) (p : Port) (sc : BitVec 2) (s : State) : Res :=
  request s p .writeBack (BitVec.ofNat 64 ((s.reg b).toNat / 128 * 128)) [] 0 sc 0

/-- CINV (R141, R334): the issuing tile's read cache gives up the line; it touches no memory and never faults. -/
def execCinv (b : Reg) (s : State) : Res :=
  let va := (s.reg b).toNat / 128 * 128
  .next (match s.xlate (dieOf s.focus) s.runAsid (s.tile s.focus).ranges {} 1 va 1 with
    | .ok ps _ => (linesOf ps).foldl (fun (s : State) n => s.setDir n ((s.dir n).drop s.focus)) s
    | _ => s).advance

/-- ORD (R155, R394). -/
def execOrd (sc o : BitVec 2) (s : State) : Res := .next (s.fenceHere sc o).advance

end Sys2Proof.Machine
end

