-- ==== Sys2Proof/Machine/Placed.lean ====
section
/-! DEFINITION. Taking a placed graph off its tiles, the launches that an event ends, and withdrawn gets (R139, R145, R237,
R396). -/

namespace Sys2Proof.Machine

/-- The range entries of a tile that the placed regions need. -/
def State.rangesOn (s : State) (t : Nat) : List RangeEntry :=
  (s.regions.foldl (fun acc p => match p.2 with
    | some g => acc ++ (g.ranges.filterMap fun e => if e.1 = t then some e.2 else none)
    | none => acc) []).eraseDups

/-- Lanes and parameters of a lane actor: first and last lane, first parameter and how many. -/
def Actor.row (x : Actor) : Option (Nat × Nat × Nat × Nat) :=
  match x.body with
  | .lane l => some (l.first, l.last, l.p0, l.np)
  | _ => none

/-- The lane row of a tile without the lanes of a region's lane actors, and parameters that no actor left there gives at zero (R300);
its slots likewise. `others` are the actors that stay. -/
def Tile.vacate (t : Tile) (r : Nat) (g : Region) (others : List Actor) : Tile :=
  let mine := g.actors.filterMap fun p => p.2.bind Actor.row
  let left := others.filterMap Actor.row
  { t with
    params := t.params.filter fun p => !(mine.any fun l => decide (l.2.2.1 ≤ p.1) && decide (p.1 < l.2.2.1 + l.2.2.2)) ||
      left.any fun l => decide (l.2.2.1 ≤ p.1) && decide (p.1 < l.2.2.1 + l.2.2.2)
    slots := smap none (fun _ v => match v with
      | some (r', a) => if r' = r then none else some (r', a)
      | none => none) t.slots
    lanes := t.lanes.filter fun p => !(mine.any fun l => decide (l.1 ≤ p.1) && decide (p.1 ≤ l.2.1))
    lane := t.lane.filter fun p => !(mine.any fun l => decide (l.1 ≤ p.1) && decide (p.1 ≤ l.2.1)) }

/-- Placed actors on a tile. -/
def State.actorsOn (s : State) (t : Nat) : List Actor :=
  (s.tile t).slots.filterMap fun p => p.2.bind fun q => s.actor q.1 q.2

/-- Keys above those of placed graphs, for what is left of a removed one while engines still run its commands (R237). -/
def ghostKey : Nat := 2 ^ 44

/-- The commands that engines run for a graph about to be removed go on for its remainder: its ASID, the tiles of its actors and their
range entries, with no channel, no launch and no wake target (R237). [DEDUCED: notes/assumptions/87.md] -/
def State.orphan (s : State) (r : Nat) (g : Region) : State :=
  let keeps (c : Cmd) : Bool := decide (c.region = r) && c.eng.die.isSome
  if s.cmds.all fun c => !keeps c then s
  else
    let k := ghostKey + s.nextId
    let rest : Region :=
      { slice := g.slice, num := g.num, ox := g.ox, oy := g.oy, w := g.w, h := g.h, asid := g.asid, credit := g.credit, bdepth := g.bdepth
        rate := g.rate, refilled := g.refilled, ranges := g.ranges
        actors := smap none (fun _ (x : Option Actor) => x.map fun x => { tile := x.tile, slot := x.slot, locB := x.locB, locL := x.locL }) g.actors }
    { s.setRegion k rest with
      nextId := s.nextId + 1, cmds := s.cmds.map fun c => if keeps c then { c with region := k } else c }

/-- A placed graph removed: its slots, lanes and range entries are free again and its channels' entries are gone. -/
def State.unplace (s : State) (r : Nat) : State :=
  match s.region r with
  | none => s
  | some g =>
    let s := (s.dropWork r).orphan r g
    let s := s.dropRegion r
    g.tiles.foldl (fun s t =>
      let on_ : Region := { g with actors := g.actors.filter fun p => decide ((p.2.map (·.tile)) = some t) }
      s.modTile t fun u => { u.vacate r on_ (s.actorsOn t) with ranges := s.rangesOn t }) s

/-! ### Die edges (R245) -/

/-- A path crosses the edge between two dies. -/
def crosses (path : List Nat) (a b : Nat) : Bool :=
  (path.zip (path.drop 1)).any fun p =>
    (decide (dieOf p.1 = a) && decide (dieOf p.2 = b)) || (decide (dieOf p.1 = b) && decide (dieOf p.2 = a))

/-- A boundary channel goes over an edge: its route crosses it, and it is not bound to a circuit that joins two dies further apart
(R18, R244). -/
def State.overEdge (s : State) (c : Chan) (a b : Nat) : Bool :=
  let d := dieOf (c.path.headD 0)
  let e := dieOf (c.path.getLastD 0)
  crosses c.path a b && !((edgeNum d e).isNone && c.circuits.any fun i => entJoins (s.entry i) d e)

/-- A region has a boundary channel over an edge. -/
def State.crossesEdge (s : State) (g : Region) (e : Nat) : Bool :=
  match edgeBlocks[e]? with
  | some (a, b, _) => g.chans.any fun c => match c.2 with | some c => s.overEdge c a b | none => false
  | none => false

/-- The launch of a region ends with record 0x56, as for a die reset, and its graph is removed (R237, R245).
[DEDUCED: notes/assumptions/87.md] -/
def State.endRegion (s : State) (r : Nat) (d1 d2 : Dw) : State :=
  match s.region r with
  | none => s
  | some g =>
    let x := ((g.actors.find? fun a => a.2.isSome).bind (·.2)).getD {}
    let s1 := if g.launch.isSome then (s.failCut r).fatalIn r { code := 0x56, tile := x.tile, slot := x.slot, d1 := d1, d2 := d2 } else s
    s1.unplace r

/-- A launch that starts or resumes over an edge that is down ends at once, as it would had it run when the edge went down (R245).
[DEDUCED: notes/assumptions/62.md] -/
def State.checkEdges (s : State) (r : Nat) : State :=
  match s.region r with
  | none => s
  | some g =>
    match (List.range 10).find? fun e => sget false s.edgesDown e && s.crossesEdge g e with
    | some e => if g.launch.isSome then s.endRegion r (BitVec.ofNat 64 (((edgeBlocks[e]?).map (·.1)).getD 0)) 0 else s
    | none => s

/-! ### Heads and encoder sessions in a cut (R215) -/

/-- A head and a session of a die. -/
def Die.head (d : Die) (h : Nat) : Head := sget {} d.heads h
def Die.setHead (d : Die) (h : Nat) (v : Head) : Die := { d with heads := sset {} d.heads h v }
def Die.session (d : Die) (k : Nat) : Session := sget {} d.sess k
def Die.setSession (d : Die) (k : Nat) (v : Session) : Die := { d with sess := sset {} d.sess k v }

/-- The first frame whose start is not past. -/
def Head.nextFrame (h : Head) (eqt : Dw) : Nat :=
  let p := h.dper.toNat
  if p = 0 ∨ eqt.toNat ≤ h.dt0.toNat then 0 else (eqt.toNat - h.dt0.toNat + p - 1) / p

/-- A head or session is part of a region's snapshot: a channel of the region ends at it or comes from it, or it is enabled under the
region's ASID and no placed region's channel does. [DESIGN CHOICE: notes/assumptions/70.md] -/
def State.joins (s : State) (g : Region) (on_ : Bool) (asid : Nat) (p : Chan → Bool) : Bool :=
  let has (g : Region) : Bool := g.chans.any fun c => match c.2 with | some c => p c | none => false
  has g || (on_ && decide (asid = g.asid) && !(s.regions.any fun q => match q.2 with | some g => has g | none => false))

/-- The heads and the sessions, by die and number, that are part of a region's snapshot. -/
def State.headsOf (s : State) (g : Region) : List (Nat × Nat) :=
  ((List.range 8).filter (s.slice g.slice).hasDie).flatMap fun d => ((List.range 2).filter fun h =>
    let v := ((s.die d).head h).dctl
    s.joins g (dwBit v 0) (dwAt v 4 14) fun c => decide (c.dst = .head d h)).map fun h => (d, h)
def State.sessionsOf (s : State) (g : Region) : List (Nat × Nat) :=
  ((List.range 8).filter (s.slice g.slice).hasDie).flatMap fun d => ((List.range 4).filter fun k =>
    let v := ((s.die d).session k).esctl
    s.joins g (dwBit v 0) (dwAt v 4 14) fun c => decide (c.src = .enc d k)).map fun k => (d, k)

/-- They start no frame from the beginning of the cut on. -/
def State.stopDisplay (s : State) (r : Nat) (g : Region) : State :=
  let s1 := (s.headsOf g).foldl (fun s p => s.modDie p.1 fun d => d.setHead p.2 { d.head p.2 with cut := some r }) s
  (s.sessionsOf g).foldl (fun s p => s.modDie p.1 fun d => d.setSession p.2 { d.session p.2 with cut := some r }) s1

/-- No session that a region's cut stopped has still a frame to finish. -/
def State.displayDone (s : State) (r : Nat) : Bool :=
  s.dies.all fun d => d.2.sess.all fun e => !(decide (e.2.cut = some r) && e.2.coding)

/-- Heads and sessions put back by a restore in a slice: a head that the region's channel names now, on the die that `moved` gives, a session
that a channel names on the die of the same rank, and the others on the same dies where the slice still owns them, else on the die of the same rank. Scan-out resumes at the first frame start to
come, and a session goes on without a key frame. [DESIGN CHOICE: notes/assumptions/70.md] -/
def State.restoreDisplay (s : State) (slice : Nat) (k : Kept) (moved : Nat → Nat → Option Nat) : State :=
  let n := s.slice slice
  let rank (d : Nat) : Option Nat := n.rankDie (k.dies.findIdx fun j => decide (j = d))
  let to_ (d : Nat) : Option Nat := if n.hasDie d then some d else rank d
  let s0 := s.modStopped (regionKey k.g.slice k.g.num) (fun h => { h with cut := none, dctl := h.dctl &&& ~~~1 })
    fun e => { e with cut := none, esctl := e.esctl &&& ~~~1 }
  let s1 := k.heads.foldl (fun s (p : Nat × Nat × Head) => match (moved p.1 p.2.1).orElse fun _ => to_ p.1 with
    | some d => s.modDie d fun x => x.setHead p.2.1 { p.2.2 with cut := none, frame := p.2.2.nextFrame x.eqt }
    | none => s) s0
  k.sess.foldl (fun s (p : Nat × Nat × Session) => match (if (k.g.chanOf (.enc p.1 p.2.1)).isSome then rank p.1 else to_ p.1) with
    | some d => s.modDie d fun x => x.setSession p.2.1 { p.2.2 with cut := none }
    | none => s) s1

/-- The regions with an actor on a tile that satisfies `p`. -/
def State.regionsOn (s : State) (p : Nat → Bool) : List Nat :=
  s.regions.filterMap fun q => match q.2 with
    | some g => if g.tiles.any p then some q.1 else none
    | none => none

/-- Every launch with an actor on a tile that satisfies `p` ends with a fatal record (R145, R237). The record names the
first such actor. -/
def State.endOn (s : State) (p : Nat → Bool) (code : Nat) (d1 d2 : Dw) : State :=
  (s.regionsOn p).foldl (fun s r =>
    match s.region r with
    | none => s
    | some g =>
      let who := (sfind (fun _ x => match x with | some x => p x.tile | none => false) g.actors).bind (·.2)
      let t := (who.map (·.tile)).getD 0
      let k := (who.map (·.slot)).getD 0
      if g.launch.isSome then (s.failCut r).fatalIn r { code := code, tile := t, slot := k, d1 := d1, d2 := d2 } else s) s

/-- As `endOn`, and the graphs are removed with their routing entries (R237). [DEDUCED: notes/assumptions/87.md] -/
def State.endAndRemove (s : State) (p : Nat → Bool) (code : Nat) (d1 d2 : Dw) : State :=
  let rs := (s.regionsOn p).filter fun r => decide (r < ghostKey)
  rs.foldl State.unplace (s.endOn p code d1 d2)

/-- A region's deferred gets withdrawn with status 3 (R139): the value of such a response is a free value. -/
def State.withdraw (s : State) (r : Nat) : State :=
  s.deferred.foldl (fun s d =>
    match s.access d.tile d.id with
    | some a =>
      if a.region = r then
        let (v, s) := s.free
        let s := s.modTile d.tile fun t =>
          { t with port := t.port.map fun b => if b.id = d.id then { b with st := .answered { payload := [v, 3] } } else b }
        { s with deferred := s.deferred.filter fun e => decide (e.id ≠ d.id) }
      else s
    | none => s) s

end Sys2Proof.Machine
end

