-- ==== Sys2Proof/Machine/MemEvents.lean ====
section
/-! DEFINITION. What happens to accesses at a tile's memory port and at home banks: walks and spills, acceptance and
performance of writes, bank operations and futures, responses, invalidations, host and peer accesses, and errors in data
(R117 to R148, R166, R238, R239). -/

namespace Sys2Proof.Machine

/-! ### Accesses of a port -/

/-- The access at place `k` of a tile's port. -/
def State.portAt (s : State) (tile k : Nat) : Option Access := (s.tile tile).port[k]?

def State.setAccess (s : State) (tile k : Nat) (a : Access) : State :=
  s.modTile tile fun t => { t with port := lset t.port k a }

def State.dropAccess (s : State) (tile k : Nat) : State := s.modTile tile fun t => { t with port := ldrop t.port k }

/-- The info field of an access's error (R135). -/
def Access.info (a : Access) : Nat := memInfo a.kind.code 0 a.kind.bytes

/-- Entries of a tile's spill queue. -/
def Tile.spills (t : Tile) : Nat := (t.port.filter fun a => a.spilled.isSome).length

/-- The port's spill queue of 64 entries is full: it accepts no new element until an entry leaves (R133). -/
def State.portFull (s : State) (tile : Nat) : Bool := decide (64 ≤ (s.tile tile).spills)

/-! ### Failures and spills (R133, R134, R136) -/

/-- The error token that stands in an access's place. -/
def State.accessError (s : State) (a : Access) (code : Nat) (detail : Dw) : List Dw :=
  let x := (s.actor a.region a.actor).getD {}
  errPayload a.asid 0xFF x.tile x.slot a.info code detail

/-- Elements of an actor that its tile's port still holds. -/
def Tile.elemsOf (t : Tile) (r a : Nat) : List Access :=
  t.port.filter fun b => decide (b.region = r) && decide (b.actor = a) && b.elem.isSome

/-- The output of a memory actor ends at an input declared commutative (R134). -/
def Region.intoCommut (g : Region) (a : Nat) : Bool :=
  match g.chanOf (.actor a 0) with
  | some (_, c) => match c.dst with
    | .actor b p => ((g.actor b).map fun y => (y.port p).commut).getD false
    | _ => false
  | none => false

/-- An element joins those a load memory actor holds, in position order. -/
def MemGen.hold (m : MemGen) (e : HeldElem) : MemGen :=
  { m with held := m.held.filter (fun h => decide (h.pos < e.pos)) ++ [e] ++ m.held.filter fun h => decide (e.pos < h.pos) }

/-- The held element that may leave next (R134): the oldest, once no older one is still fetched; any into a commutative
input. -/
def State.nextHeld (s : State) (g : Region) (r a : Nat) (x : Actor) (m : MemGen) : Option HeldElem :=
  match m.held with
  | [] => none
  | h :: _ =>
    let older := ((s.tile x.tile).elemsOf r a).any fun b => match b.elem with | some p => decide (p < h.pos) | none => false
    if !g.outReady a 0 || (older && !g.intoCommut a) then none else some h

/-- The counts of a hotness window (R143): elements delivered from its pages. [DEDUCED: notes/assumptions/67.md] -/
def Tile.countHot (t : Tile) (asid va : Nat) : Tile :=
  let page := va56 va / 65536
  { t with hot := smap {} (fun _ w =>
      let first := dwAt w.cfg 0 40
      if dwBit w.cfg 63 && decide (dwAt w.cfg 48 14 = asid) && decide (first ≤ page) && decide (page ≤ first + dwAt w.cfg 40 8) &&
          decide (w.delivered ≠ 0xFFFFFFFF) then { w with delivered := w.delivered + 1 } else w) t.hot }

/-- One held element sent; an element that is no error counts as delivered (R143). -/
def State.flushHeld (s : State) (r a : Nat) : Option State :=
  match s.region r with
  | none => none
  | some g =>
    match g.actor a with
    | none => none
    | some x =>
      match x.body with
      | .memory m =>
        (s.nextHeld g r a x m).map fun h =>
          let s1 := s.modActor r a fun x => { x with body := .memory { m with held := m.held.filter fun e => decide (e.pos ≠ h.pos) } }
          let s2 := if h.tok.kind = 0 then s1.modTile x.tile fun t => t.countHot g.asid h.va.toNat else s1
          s2.sendOn r a 0 h.tok.kind h.tok.payload h.tok.deps
      | _ => none

/-- An element of a load memory actor is there (R134): it leaves on o0 if it may and a slot is free, else it is held. -/
def State.deliverElem (s : State) (r a pos : Nat) (kind : BitVec 4) (payload : List Dw) (va : Dw := 0) (deps : List Dep := []) :
    State :=
  let s1 := s.modActor r a fun x => match x.body with
    | .memory m => { x with body := .memory (m.hold { pos := pos, tok := { kind := kind, payload := payload, deps := deps }, va := va }) }
    | _ => x
  (s1.flushHeld r a).getD s1

/-- A CAS or FUT put has written or not (R328, R360), which settles whether it or a later write was the release write that a fence before
it asked for (R155). [DEDUCED: notes/assumptions/77.md] -/
def State.settleRel (s : State) (tile : Nat) (a : Access) (wrote : Bool) : State :=
  let s1 := s.modTile tile fun t => { t with port := t.port.map fun b =>
    if !(b.relIf.contains a.id && decide (b.region = a.region) && decide (b.actor = a.actor)) then b
    else if wrote then { b with rel := none, relDeps := [], relIf := [] }
    else { b with relIf := b.relIf.filter fun i => decide (i ≠ a.id) } }
  s1.modActor a.region a.actor fun x =>
    if !x.fence.maybe.contains a.id then x
    else if wrote then { x with fence := { x.fence with next := none, maybe := [] } }
    else { x with fence := { x.fence with maybe := x.fence.maybe.filter fun i => decide (i ≠ a.id) } }

/-- An access fails (R136): a store reports on its actor's error port and returns its quota if a unit of it is not accepted yet (R119), a
load element's token takes its place on the output, and a request's or bank operation's stands in place of its response. -/
def State.failAccess (s : State) (tile k : Nat) (a : Access) (code : Nat) (detail : Dw) : State :=
  let p := s.accessError a code detail
  match a.kind with
  | .write _ =>
    let owes := a.elem.isNone && (s.tile tile).port.any fun b => decide (b.id = a.id) && decide (b.st = .issued)
    let s := s.modTile tile fun t => { t with port := t.port.filter fun b => decide (b.id ≠ a.id) }
    let s := if owes then
        s.modActor a.region a.actor fun x => { x with quotaUsed := x.quotaUsed - 1 } else s
    s.sendError a.region a.actor p
  | .atomic _ | .cas | .futPut =>
    (s.setAccess tile k { a with spilled := none, st := .answered { kind := 4, payload := p } }).settleRel tile a false
  | _ =>
    match a.elem with
    | some pos => (s.dropAccess tile k).deliverElem a.region a.actor pos 4 p
    | none => s.setAccess tile k { a with spilled := none, st := .answered { kind := 4, payload := p } }

/-- An access that fails at its tile, in its walks or at its home's refusal: the leaves that grant it are marked all the same (R128). -/
def State.refuseAccess (s : State) (tile k : Nat) (a : Access) (code : Nat) (detail : Dw) : State :=
  (s.mark a.kind.need.writes (if a.pas = [] then s.accessLeaves tile a else [])).failAccess tile k a code detail

/-- The retry interval in units of EQT, from 0.5 to 2 µs (R133). [DESIGN CHOICE: notes/assumptions/18.md] -/
def retryUnits : Nat := 32000 + Sys2Proof.Config.retryWord.toNat % 96001

/-- A fault record appended for a page, unless the die's walkers have appended one for it within a retry interval (R133).
[DESIGN CHOICE: notes/assumptions/18.md] -/
def State.recordPage (s : State) (d asid va : Nat) (words : List Dw) : State :=
  let now := (s.die d).eqt
  let page := va56 va / 65536
  let l := (s.die d).faulted.filter fun f => decide ((now - f.2.2).toNat < retryUnits)
  if l.any fun f => decide (f.1 = asid) && decide (f.2.1 = page) then s
  else (s.modDie d fun x => { x with faulted := l ++ [(asid, page, now)] }).faultRecord ((s.sliceOfDie d).getD 0) words

/-- The fault-queue record of a page fault (R133) of an access kind (R135) by an actor, first met at an EQT.
[DEDUCED: notes/assumptions/94.md] -/
def faultWords (d tile asid region slot kind va : Nat) (since : Dw) : List Dw :=
  [BitVec.ofNat 64 va,
   packDw [(asid % 16384, 42), (tileX tile, 36), (tileY tile, 32), (d, 29), (0, 12), (kind, 8), (1, 0)],
   since, packDw [(region % 65536, 0), (slot % 16, 16)]]

/-- The fault-queue record of an access's page fault: an access already in the spill queue names its first fault. -/
def State.pageFaultRecord (s : State) (tile : Nat) (a : Access) (va : Nat) : List Dw :=
  faultWords (dieOf tile) tile a.asid a.region ((s.actor a.region a.actor).getD {}).slot a.kind.code va
    (a.spilled.getD (s.die (dieOf tile)).eqt)

/-- Units of EQT in a millisecond. -/
def msUnits : Nat := 64000000

/-- A page fault of an engine's access (R133): each is recorded, and once the fault window has passed since its first
fault it is code 0x15. The second component is none while the access waits; the third is the EQT of its first fault.
[DEDUCED: notes/assumptions/92.md] -/
def State.engineFault (s : State) (d tile asid region slot kind : Nat) (since : Option Dw) (va : Nat) :
    State × Option Nat × Option Dw :=
  let now := (s.die d).eqt
  let s1 := s.recordPage d asid va (faultWords d tile asid region slot kind va (since.getD now))
  match since with
  | none => (s1, none, some now)
  | some t0 =>
    let win := ((s.sliceOfDie d).map fun n => (s.slice n).fwin.toNat).getD 50
    if win * msUnits ≤ (now - t0).toNat then (s, some 0x15, since) else (s1, none, since)

/-- A page fault diverts an access to the spill queue and records the page (R133); a full queue accepts no new element.
[DESIGN CHOICE: notes/assumptions/18.md] -/
def State.spill (s : State) (tile k : Nat) (a : Access) (va : Nat) : Option State :=
  if a.spilled.isSome then none
  else if s.portFull tile then none
  else
    let now := (s.die (dieOf tile)).eqt
    some ((s.recordPage (dieOf tile) a.asid va (s.pageFaultRecord tile a va)).setAccess tile k
      { a with spilled := some now, tried := now })

/-! ### Performing (R119, R121, R136 to R139, R146) -/

/-- The payload of a load's response (R371): doublewords, or one zero-extended. -/
def loadPayload (n : Nat) (widen : Bool) (l : List Byte) : List Dw :=
  if widen then [BitVec.ofNat 64 (leNat l)] else bytesDws (n / 8) l

/-- The new value of a bank operation (R137): `op` its number, on unsigned words. -/
def bankOp (op : Nat) (old v : Dw) : Dw :=
  match op with
  | 0 => old + v
  | 1 => old &&& v
  | 2 => old ||| v
  | 3 => old ^^^ v
  | 4 => if old.sle v then old else v
  | 5 => if old.sle v then v else old
  | 6 => if old.ule v then old else v
  | 7 => if old.ule v then v else old
  | 8 => v
  | 9 =>
    let x := Fmt.fp32.value (old.toNat % 2 ^ 32)
    let y := Fmt.fp32.value (v.toNat % 2 ^ 32)
    BitVec.ofNat 64 ((toFormat (x.add y 0).1 .fp32 0 0).getD 0)
  | _ => if v.ult old then v else old

/-- The translation an access has, or finds now. -/
def State.xlOf (s : State) (tile : Nat) (a : Access) : Xl := if a.pas ≠ [] then .ok a.pas [] else s.accessXl tile a

/-- The offsets of the aligned 8-byte unit that an access performs next, out of those it has left: units go in no particular
order (R122). -/
def State.pickUnit (s : State) (pas : List Nat) (left : List Nat) : List Nat × State :=
  let units := (left.map fun i => pas.getD i 0 / 8).eraseDups
  if units.length ≤ 1 then (left, s)
  else
    let (v, s) := s.free
    (left.filter fun i => decide (pas.getD i 0 / 8 = units.getD (v.toNat % units.length) 0), s)

/-- What a read's value brings with it reaches the accesses that an acquire holds behind it (R155). -/
def State.passDeps (s : State) (tile : Nat) (a : Access) (l : List Dep) : State :=
  if l = [] then s
  else
    let ps := l.map fun d => (d.tile, d.id)
    let waits (d : Dep) : Bool := decide (d.tile = tile) && decide (d.id = a.id)
    (s.modTile tile fun t =>
      { t with port := t.port.map fun b => if b.after.any waits then { b with behind := b.behind ++ ps } else b }).modActor
        a.region a.actor fun x => if x.fence.all.any waits then { x with carry := x.carry ++ ps } else x

/-- A response there to be delivered: its value and what it brings with it. -/
def State.answerNow (s : State) (tile k : Nat) (a : Access) (payload : List Dw) (deps : List Dep) : State :=
  (s.setAccess tile k { a with spilled := none, st := .answered { payload := payload, deps := deps } }).passDeps tile a deps

/-- A read can be served: its data can cross from the homes of its lines (R244), or at a lower scope than package the tile's read cache
may hold them. -/
def State.served (s : State) (tile : Nat) (sc : Scope) (pas : List Nat) : Bool :=
  (linesOf pas).all fun n => s.bulkWay (dieOf tile) (homeDie (128 * n)) || (decide (sc.toNat < 2) && (s.dir n).tiles.contains tile)

/-- A load performed, one aligned 8-byte unit at a time, or its failure (R121, R122, R151): the last unit fixes the value of
the response or element. [DESIGN CHOICE: notes/assumptions/10.md] -/
def State.performRead (s : State) (tile k : Nat) (a : Access) (n : Nat) (widen : Bool) : Option State :=
  if a.st ≠ .issued || !s.ready tile k a.sc.toNat a then none
  else
    match s.xlOf tile a with
    | .fail c d => some (s.refuseAccess tile k a c d)
    | .page v => s.spill tile k a v
    | .ok ps ms =>
      if !s.served tile a.sc ps then none
      else if s.anyPoison ps then some ((s.mark false ms).failAccess tile k a 0x16 a.va)
      else
        let left := (List.range n).filter fun i => !(a.got.any fun q => decide (q.1 = i))
        let (u, s1) := s.pickUnit ps left
        let us := u.map fun i => ps.getD i 0
        let src := (s1.sources tile a.sc us).map fun w => (w.1, w.2.id)
        let got := a.got ++ u.zip (s1.seenBytes tile a.sc us)
        let deps := a.deps ++ s1.sourceDeps tile a.sc us
        let s2 := (s1.mark false ms).fill tile a.asid a.va us
        let s3 := if src = [] then s2 else s2.modActor a.region a.actor fun x => { x with seen := x.seen ++ src }
        if u.length < left.length then some (s3.setAccess tile k { a with pas := ps, got := got, deps := deps })
        else
          let byte (i : Nat) : Byte := ((got.find? fun q => decide (q.1 = i)).map (·.2)).getD 0
          let pay := loadPayload n widen ((List.range n).map byte)
          match a.elem with
          | some pos => some ((s3.dropAccess tile k).deliverElem a.region a.actor pos 0 pay a.va deps)
          | none => some (s3.answerNow tile k a pay deps)

/-- A line written back (R141, R334): the response follows, poison giving code 0x16. -/
def State.performBack (s : State) (tile k : Nat) (a : Access) : Option State :=
  if a.st ≠ .issued || !s.ready tile k 2 a then none
  else
    match s.accessXl tile a with
    | .fail c d => some (s.refuseAccess tile k a c d)
    | .page v => s.spill tile k a v
    | .ok ps ms =>
      if s.anyPoison ps then some ((s.mark false ms).failAccess tile k a 0x16 a.va)
      else some ((s.mark false ms).setAccess tile k { a with spilled := none, st := .answered { payload := [0] } })

/-- The pages an access touches. -/
def Access.pages (a : Access) : List Nat :=
  [va56 a.va.toNat / 65536, va56 (a.va.toNat + (a.kind.bytes - 1)) / 65536].eraseDups

/-- A store accepted at the port, one aligned 8-byte unit at a time (R119, R121, R122): each unit goes on by itself, and the
last returns the quota. A store behind a spilled one of its page waits (R134). -/
def State.performAccept (s : State) (tile k : Nat) (a : Access) : Option State :=
  let behind := (Access.before (s.tile tile).port k).any fun b =>
    b.spilled.isSome && decide (b.asid = a.asid) && (match b.kind with | .write _ => true | _ => false) &&
      b.pages.any a.pages.contains
  if a.st ≠ .issued || behind || !s.ready tile k 0 a then none
  else
    match s.xlOf tile a with
    | .fail c d => some (s.refuseAccess tile k a c d)
    | .page v => s.spill tile k a v
    | .ok ps ms =>
      let (u, s1) := s.pickUnit ps (List.range ps.length)
      let s2 := { s1.mark true ms with nextId := (s1.mark true ms).nextId + 1 }
      let sub (l : List Nat) : Access :=
        { a with spilled := none, pas := l.map fun i => ps.getD i 0, data := l.map fun i => a.data.getD i 0 }
      let unit : Access := { sub u with st := .accepted, stamp := s1.nextId }
      if u.length < ps.length then
        let rest := sub ((List.range ps.length).filter fun i => !u.contains i)
        some (s2.modTile tile fun t => { t with port := t.port.take k ++ [unit, rest] ++ t.port.drop (k + 1) })
      else
        let s3 := if a.elem.isNone then s2.modActor a.region a.actor fun x => { x with quotaUsed := x.quotaUsed - 1 } else s2
        some (s3.setAccess tile k unit)

/-- What a write that reaches its home leaves in its units (R154): a release write's scope and the accesses ordered before it
that are not at their homes. -/
def State.relOf (s : State) (tile : Nat) (a : Access) : Option RelUnit :=
  match a.rel with
  | some k =>
    let l := a.relDeps.filter fun p => !s.performedAt p.1 p.2 2
    if l = [] then none else some { tile := tile, sc := k, deps := l }
  | none => none

/-- The bank operation or CAS of an access at the line's home (R137, R319, R328), once no read cache holds the line (R142); a CAS whose
comparison fails writes nothing. -/
def State.performBank (s : State) (tile k : Nat) (a : Access) : Option State :=
  if a.st ≠ .issued || !s.ready tile k 2 a then none
  else
    match s.accessXl tile a with
    | .fail c d => some (s.refuseAccess tile k a c d)
    | .page v => s.spill tile k a v
    | .ok ps ms =>
      if !s.linesReach (dieOf tile) (linesOf ps) then none
      else if s.anyPoison ps then some ((s.mark true ms).failAccess tile k a 0x16 a.va)
      else if !s.linesFree none (linesOf ps) then s.invalidate none (linesOf ps)
      else
        let old : Dw := BitVec.ofNat 64 (leNat (ps.map s.rdByte))
        let v : Dw := BitVec.ofNat 64 (leNat a.data)
        let new : Dw := match a.kind with
          | .atomic op => bankOp op old v
          | _ => if old = a.exp then v else old
        let deps := s.sourceDeps tile 2 ps
        let wrote := decide (a.kind ≠ .cas) || decide (old = a.exp)
        let s0 := s.mark true ms
        let s1 := if wrote then s0.homeWrite ps (leBytes ps.length new.toNat) (s.relOf tile a) else s0
        some ((s1.settleRel tile a wrote).answerNow tile k a [old] deps)

/-- Deferral entries of a home bank in use (R138). -/
def State.bankDeferred (s : State) (pa : Nat) : Nat :=
  (s.deferred.filter fun d => decide (homeDie d.pa = homeDie pa) && decide (homeBank d.pa = homeBank pa)).length

/-- A FUT response: the value, then status and operation (R139). -/
def futAnswer (v : Dw) (status op : Nat) : Token := { payload := [v, packDw [(status, 0), (op, 8)]] }

/-- Every deferred get of a future answered with the value of a put, in deferral order (R138); a release put orders what comes
before it for who consumes an answer (R154, R360). -/
def State.answerGets (s : State) (pa : Nat) (v : Dw) (tile : Nat) (put : Access) : State :=
  let mine := s.deferred.filter fun d => decide (d.pa = pa)
  let s := { s with deferred := s.deferred.filter fun d => decide (d.pa ≠ pa) }
  mine.foldl (fun s d =>
    let deps := match put.rel with
      | some k => if scopeCovers k tile d.tile then put.relDeps.map fun p => ({ tile := p.1, id := p.2 } : Dep) else []
      | none => []
    match lfind (fun b => decide (b.id = d.id)) (s.tile d.tile).port 0 with
    | some (k, b) =>
      (s.setAccess d.tile k { b with st := .answered { futAnswer v 0 0 with deps := deps } }).passDeps d.tile b deps
    | none => s) s

/-- The region of an access is being cut: a get that would wait is withdrawn (R139). -/
def State.cutting (s : State) (r : Nat) : Bool := ((s.region r).map fun g => g.cutBy.isSome).getD false

/-- A future operation at the home bank (R138, R139, R360). A refused or withdrawn get's value is a free value; a put waits
until no read cache holds the line (R142). -/
def State.performFut (s : State) (tile k : Nat) (a : Access) : Option State :=
  if a.st ≠ .issued || !s.ready tile k 2 a then none
  else
    match s.accessXl tile a with
    | .fail c d => some (s.refuseAccess tile k a c d)
    | .page v => s.spill tile k a v
    | .ok ps ms =>
      if !s.linesReach (dieOf tile) (linesOf ps) then none
      else if s.anyPoison ps then some ((s.mark (decide (a.kind ≠ .futGet)) ms).failAccess tile k a 0x16 a.va)
      else
        let pa := ps.headD 0
        let cur : Dw := BitVec.ofNat 64 (leNat (ps.map s.rdByte))
        let full := sget false s.full (pa / 8)
        let deps := s.sourceDeps tile 2 ps
        let s := s.mark (decide (a.kind ≠ .futGet)) ms
        let ans (s : State) (t : Token) (l : List Dep) : State := s.answerNow tile k a t.payload l
        match a.kind with
        | .futGet =>
          if full then some (ans s (futAnswer cur 0 0) deps)
          else if s.cutting a.region then
            let (v, s) := s.free
            some (ans s (futAnswer v 3 0) [])
          else if 32 ≤ s.bankDeferred pa then
            let (v, s) := s.free
            some (ans s (futAnswer v 1 0) [])
          else
            let s : State := { s with deferred := s.deferred ++ [{ pa := pa, tile := tile, id := a.id }] }
            some (s.setAccess tile k { a with spilled := none, st := .deferred })
        | .futPut =>
          if full then some ((ans s (futAnswer cur 2 1) deps).settleRel tile a false)
          else if !s.linesFree none (linesOf ps) then s.invalidate none (linesOf ps)
          else
            let v : Dw := BitVec.ofNat 64 (leNat a.data)
            let s1 := { (s.homeWrite ps a.data (s.relOf tile a)) with full := sset false s.full (pa / 8) true }
            some ((ans (s1.answerGets pa v tile a) (futAnswer v 0 1) []).settleRel tile a true)
        | _ =>
          if full then some (ans { s with full := sset false s.full (pa / 8) false } (futAnswer cur 0 2) deps)
          else some (ans s (futAnswer 0 0 2) deps)

/-- An access performed by its kind, as far as one event takes it. -/
def State.perform (s : State) (tile k : Nat) : Option State :=
  match s.portAt tile k with
  | none => none
  | some a =>
    match a.kind with
    | .read n w => s.performRead tile k a n w
    | .write _ => s.performAccept tile k a
    | .atomic _ | .cas => s.performBank tile k a
    | .futGet | .futPut | .futClear => s.performFut tile k a
    | .writeBack => s.performBack tile k a
    | .prefetch | .engine => none

/-- An event on the access at a place of a port: `ok` names the kinds the event performs. -/
def accessEvent (s : State) (tile k : Nat) (ok : ReqKind → Bool) : Res :=
  match s.portAt tile k with
  | some a => if ok a.kind && a.spilled.isNone && !s.portFull tile then occurIn s a.region (s.perform tile k) else .next s
  | none => .next s

/-- BANK_OPERATION_PERFORM (R137). -/
def execBankOperationPerform (tile k : Nat) (s : State) : Res :=
  accessEvent s tile k fun q => match q with | .atomic _ | .cas => true | _ => false

/-- FUTURE_GET_PERFORM (R138). -/
def execFutureGetPerform (tile k : Nat) (s : State) : Res := accessEvent s tile k fun q => decide (q = .futGet)

/-- FUTURE_PUT_PERFORM (R138). -/
def execFuturePutPerform (tile k : Nat) (s : State) : Res := accessEvent s tile k fun q => decide (q = .futPut)

/-- FUTURE_CLEAR_PERFORM (R138). -/
def execFutureClearPerform (tile k : Nat) (s : State) : Res := accessEvent s tile k fun q => decide (q = .futClear)

/-- STORE_ACCEPT (R119). -/
def execStoreAccept (tile k : Nat) (s : State) : Res :=
  accessEvent s tile k fun q => match q with | .write _ => true | _ => false

/-- Two lists of addresses have one in common. -/
def shareByte (a b : List Nat) : Bool := a.any b.contains

/-- No write to the same bytes stands before a write in a stage (R151): those the tile has accepted, or those the die has
taken. -/
def State.firstOf (s : State) (tile : Nat) (a : Access) : Bool :=
  if a.st = .accepted then
    (s.tile tile).port.all fun b => !b.onTile || decide (a.stamp ≤ b.stamp) || !shareByte b.pas a.pas
  else (s.dieWrites (dieOf tile)).all fun w => decide (a.stamp ≤ w.2.stamp) || !shareByte w.2.pas a.pas

/-- The bytes that a store still has to perform, in all its units. -/
def Tile.storeBytes (t : Tile) (id : Nat) : List Nat := (t.port.filter fun b => decide (b.id = id)).flatMap (·.pas)

/-- A write one scope further (R121, R142): to its die; then to its home, once every other sharer's invalidation is
acknowledged; a store that meets a poisoned line in any unit fails whole (R146). Writes to the same bytes keep their order.
[DESIGN CHOICE: notes/assumptions/10.md, notes/assumptions/83.md] -/
def State.advanceWrite (s : State) (tile k : Nat) (a : Access) : Option State :=
  match a.st with
  | .accepted =>
    if s.ready tile k 1 a && s.firstOf tile a then
      some ({ s with nextId := s.nextId + 1 }.setAccess tile k { a with st := .atDie, stamp := s.nextId })
    else none
  | .atDie =>
    if !(s.ready tile k 2 a && s.firstOf tile a && s.linesReach (dieOf tile) (linesOf a.pas)) then none
    else if s.anyPoison ((s.tile tile).storeBytes a.id) then some (s.failAccess tile k a 0x16 a.va)
    else if !s.linesFree (some tile) (linesOf a.pas) then s.invalidate (some tile) (linesOf a.pas)
    else some ((s.homeWrite a.pas a.data (s.relOf tile a)).dropAccess tile k)
  | _ => none

/-- WRITE_PERFORM (R121). -/
def execWritePerform (tile k : Nat) (s : State) : Res :=
  match s.portAt tile k with
  | some a =>
    match a.kind with
    | .write _ => occurIn s a.region (s.advanceWrite tile k a)
    | _ => .next s
  | none => .next s

/-- A tile's acknowledgement of the invalidation of a line (R142). -/
def State.ackInv (s : State) (line tile : Nat) : State :=
  { s with invs := s.invs.filter fun i => !(decide (i.1 = line) && decide (i.2 = tile)) }.settle

/-- INVALIDATION_ACK (R142): it crosses between dies on the narrow plane (R161, R242). -/
def execInvalidationAck (line tile : Nat) (s : State) : Res :=
  .next (if s.narrowWay (homeDie (128 * line)) (dieOf tile) then s.ackInv line tile else s)

/-- EVICTION_NOTICE (R142): the directory drops the tile, and the notice stands as its acknowledgement of an invalidation that
crosses it. -/
def execEvictionNotice (line tile : Nat) (s : State) : Res :=
  .next (if s.narrowWay (homeDie (128 * line)) (dieOf tile) then (s.setDir line ((s.dir line).drop tile)).ackInv line tile else s)

/-- A response joins its port behind every earlier one (R120); an actor in RECORD records it there (R229). What a bank actor's element
yields leaves by its own step. -/
def State.deliver (s : State) (tile k : Nat) (a : Access) (t : Token) : Option State :=
  let ahead := (Access.before (s.tile tile).port k).any fun b =>
    decide (b.region = a.region) && decide (b.actor = a.actor) && decide (b.port = a.port) &&
      (match b.kind with | .write _ | .prefetch => false | _ => b.elem.isNone)
  if ahead || a.elem.isSome then none
  else
    let s := s.dropAccess tile k
    some (s.respond a.region a.actor a.port t.kind t.payload t.deps)

/-- REQUEST_RESPONSE (R120): a load's or write-back's value is fixed; with `deliver` the response becomes visible at its
port, in issue order. -/
def execRequestResponse (tile k : Nat) (deliver : Bool) (s : State) : Res :=
  match s.portAt tile k with
  | none => .next s
  | some a =>
    match a.st, deliver with
    | .answered t, true => occurIn s a.region (s.deliver tile k a t)
    | _, _ =>
      match a.kind with
      | .read n w => occurIn s a.region (if a.spilled.isSome || s.portFull tile then none else s.performRead tile k a n w)
      | .writeBack => occurIn s a.region (if a.spilled.isSome || s.portFull tile then none else s.performBack tile k a)
      | _ => .next s

/-! ### Walks and spills (R127 to R133) -/

/-- PAGE_WALK (R127): a walker translates the pages of an access that reaches its walk (R135), marks the leaves and lets the
die cache them; an absent page diverts the access. -/
def execPageWalk (tile k : Nat) (s : State) : Res :=
  match s.portAt tile k with
  | none => .next s
  | some a =>
    let d := dieOf tile
    let e := (s.tile tile).ranges.find? fun e => decide (e.asid = a.asid) && e.covers (va56 a.va.toNat)
    if a.st ≠ .issued ∨ a.spilled.isSome ∨ a.pas ≠ [] then .next s
    else
      match e, s.accessXl tile a with
      | none, _ | _, .fail .. => .next s
      | _, .page v => .next ((s.spill tile k a v).getD s)
      | some e, .ok .. =>
        if !e.paged then .next s
        else
          .next (a.pages.foldl (fun s p =>
            match s.walk d a.asid (p * 65536) with
            | .leaf v addr =>
              let s := s.mark (a.kind.need.writes && leafAllows v a.kind.need) [addr]
              s.modDie d fun x =>
                { x with tlb := { asid := a.asid, page := p, leaf := s.rd64 addr } ::
                    x.tlb.filter fun t => !(decide (t.asid = a.asid) && decide (t.page = p)) }
            | _ => s) s)

/-- SPILL_RETRY (R133): once in each retry interval; when the retry translates, the access is performed, and a page it finds absent is
recorded. [DESIGN CHOICE: notes/assumptions/18.md] -/
def execSpillRetry (tile k : Nat) (s : State) : Res :=
  match s.portAt tile k with
  | none => .next s
  | some a =>
    let now := (s.die (dieOf tile)).eqt
    if a.spilled.isNone ∨ (now - a.tried).toNat < retryUnits then .next s
    else
      match s.accessXl tile a with
      | .page v =>
        .next ((s.recordPage (dieOf tile) a.asid v (s.pageFaultRecord tile a v)).setAccess tile k { a with tried := now })
      | _ =>
        occurIn s a.region ((s.setAccess tile k { a with spilled := none }).perform tile k)

/-- FAULT_WINDOW_EXPIRY (R133): past the slice's fault window code 0x15 takes the access's place. -/
def execFaultWindowExpiry (tile k : Nat) (s : State) : Res :=
  match s.portAt tile k with
  | none => .next s
  | some a =>
    match a.spilled with
    | none => .next s
    | some t0 =>
      let d := dieOf tile
      let win := ((s.sliceOfDie d).map fun n => (s.slice n).fwin.toNat).getD 50
      if win * msUnits ≤ ((s.die d).eqt - t0).toNat then
        occurIn s a.region (some (s.failAccess tile k a 0x15 a.va))
      else .next s

/-! ### The host and peers (R132, R146, R166, R249) -/

/-- A function may reach a line (R132): function n + 1 the lines homed in slice n, physical function 0 every line but those
of a slice whose interface is locked or runs; in the recovery state none (R254).
[DESIGN CHOICE: notes/assumptions/21.md; DEDUCED: notes/assumptions/78.md] -/
def State.hostAdmits (s : State) (fn pa : Nat) : Bool :=
  s.inDevice pa && !s.recovery && s.presents fn &&
    (if fn = 0 then !((s.sliceOfDie (homeDie pa)).map fun n => (s.slice n).frozen).getD false
    else (s.slice (fn - 1)).hasDie (homeDie pa))

/-- The byte with every die-scope write upon it (R166). -/
def State.dirtyByte (s : State) (pa : Nat) : Byte :=
  s.tiles.foldl (fun b t => t.2.port.foldl (fun b a => if a.onDie then a.over pa b else b) b) (s.rdByte pa)

/-- A host read of `n` bytes: each aligned 8-byte unit independently old or new (R166). [DEDUCED: notes/assumptions/78.md] -/
def State.hostBytes (s : State) (pa n : Nat) : List Byte :=
  (List.range n).map fun i =>
    if Sys2Proof.Config.freeChoice (s.fresh + (pa + i) / 8 - pa / 8) then s.dirtyByte (pa + i) else s.rdByte (pa + i)

/-- A write of the host or a peer that finds a line's metadata entry unreadable (R147). -/
def State.metaLost (s : State) (pas : List Nat) : Bool := (linesOf pas).any (sget false s.badMeta)

/-- Such a write reported: its next one meets the line's poison. -/
def State.metaTold (s : State) (pas : List Nat) : State :=
  { s with badMeta := (linesOf pas).foldl (fun m n => sset false m n false) s.badMeta, reply := [0x19] }

/-- A posted write to some of the bytes waits to be performed. -/
def State.postedAt (s : State) (pas : List Nat) : Bool := s.posted.any fun w => shareByte (s.postedPas w) pas

/-- HOST_READ (R166): the reply is a status, 0 or an error code, and the data. It does not pass the host's posted writes to
its bytes. [DESIGN CHOICE: notes/assumptions/21.md] -/
def execHostRead (fn pa n : Nat) (s : State) : Res :=
  let pas := (List.range n).map (pa + ·)
  if s.postedAt pas then .next s
  else if !pas.all (s.hostAdmits fn) then .next { s with reply := [0x18] }
  else if s.anyPoison pas then .next { s with reply := [0x16] }
  else .next { s with reply := 0 :: bytesDws ((n + 7) / 8) (s.hostBytes pa n), fresh := s.fresh + n / 8 + 2 }

/-- HOST_WRITE (R132, R146, R147). -/
def execHostWrite (fn pa : Nat) (data : List Byte) (s : State) : Res :=
  let pas := (List.range data.length).map (pa + ·)
  if !pas.all (s.hostAdmits fn) then .next { s with reply := [0x18] }
  else if s.metaLost pas then .next (s.metaTold pas)
  else if s.anyPoison pas then .next { s with reply := [0x16] }
  else .next { (s.post pas data) with reply := [0] }

/-- PEER_ACCESS (R249): within the link's window, in device memory of the owning slice, or any on a package-owned link.
[DESIGN CHOICE: notes/assumptions/10.md] -/
def execPeerAccess (link pa n : Nat) (write : Bool) (data : List Byte) (s : State) : Res :=
  let l := s.link link
  let len := if write then data.length else n
  let pas := (List.range len).map (pa + ·)
  let ok (p : Nat) : Bool := decide (l.low ≤ p) && decide (p ≤ l.high) && s.inDevice p &&
    (l.pkg || (s.slice l.owner).hasDie (homeDie p))
  if !(l.live && pas.all ok) then .next { s with reply := [0x18] }
  else if write && s.metaLost pas then .next (s.metaTold pas)
  else if s.anyPoison pas then .next { s with reply := [0x16] }
  else if write then .next { (s.post pas data) with reply := [0] }
  else if s.postedAt pas then .next s
  else .next { s with reply := 0 :: bytesDws ((n + 7) / 8) (pas.map s.rdByte) }

/-! ### Errors in data and die resets (R145 to R148, R237 to R239) -/

/-- UNCORRECTABLE_LINE_ERROR (R146): the line is poisoned and no read cache holds it. -/
def execUncorrectableLineError (pa : Nat) (s : State) : Res :=
  .next (s.poisonLine (lineOf pa))

/-- SCRATCHPAD_UNCORRECTABLE (R145, R225): every launch with an actor on the tile ends with record 0x55. -/
def execScratchpadUncorrectable (tile detail : Nat) (s : State) : Res :=
  .next (s.endOn (fun t => decide (t = tile)) 0x55 (BitVec.ofNat 64 detail) 0)

/-- The lines of device memory under a list of bytes, which alone have metadata (R147). -/
def State.deviceLines (s : State) (pas : List Nat) : List Nat := (linesOf pas).filter fun n => s.inDevice (128 * n)

/-- A partial write whose old metadata cannot be read poisons its lines (R147). -/
def State.loseLines (s : State) (pas : List Nat) : State := (s.deviceLines pas).foldl State.poisonLine s

/-- The metadata fetch of an access's partial write fails (R147): code 0x19 takes the store's place on its actor's error port, or
the response's of an atomic, CAS or future operation about to be performed. -/
def State.metaAccess (s : State) (tile k : Nat) (a : Access) : Option State :=
  match a.kind, a.st with
  | .write _, .atDie => if s.ready tile k 2 a && decide (s.deviceLines a.pas ≠ []) then some ((s.loseLines a.pas).failAccess tile k a 0x19 a.va) else none
  | .atomic _, .issued | .cas, .issued | .futPut, .issued | .futClear, .issued =>
    match s.accessXl tile a with
    | .ok ps _ =>
      if !s.ready tile k 2 a || a.spilled.isSome || s.anyPoison ps || decide (s.deviceLines ps = []) then none
      else some ((s.loseLines ps).failAccess tile k a 0x19 a.va)
    | _ => none
  | _, _ => none

/-- 24 hours in units of 1/64 ns (R238). -/
def dayUnits : Nat := 5529600000000000

/-- A unit's stamps with a corrected error at `t`: the new entry and whether it is the third within 24 hours (R238). -/
def stampError (old : Option ErrUnit) (kind unit : Nat) (t : Dw) : ErrUnit × Bool :=
  match old with
  | none => ({ kind := kind, unit := unit, newer := t, older := none }, false)
  | some u =>
    ({ kind := kind, unit := unit, newer := t, older := some u.newer },
      match u.older with
      | some o => decide ((t - o).toNat ≤ dayUnits)
      | none => false)

/-- The table of units with corrected errors, of 4,096 entries: when full a new unit replaces the one whose newer stamp is
oldest (R238). [DESIGN CHOICE: notes/assumptions/93.md] -/
def putUnit (l : List ErrUnit) (u : ErrUnit) : List ErrUnit :=
  let rest := l.filter fun v => !(decide (v.kind = u.kind) && decide (v.unit = u.unit))
  if rest.length < 4096 then rest ++ [u]
  else
    let oldest := rest.foldl (fun m v => min m v.newer.toNat) (2 ^ 64)
    (match lfind (fun v => decide (v.newer.toNat = oldest)) rest 0 with
      | some (i, _) => ldrop rest i
      | none => rest) ++ [u]

/-- CORRECTED_ERROR (R238, R239): `kind` 0 a GDDR7 row, 1 an L2 bank, 2 a tile SRAM bank; a row's `unit` holds channel
[1:0], bank [7:2] and row [25:8], a tile bank's the tile in its die from bit 8; `page` is the physical page of a row.
[DESIGN CHOICE: notes/assumptions/93.md] -/
def execCorrectedError (die kind unit page : Nat) (s : State) : Res :=
  let d := s.die die
  let old := d.errs.find? fun u => decide (u.kind = kind) && decide (u.unit = unit)
  let (u, third) := stampError old kind unit d.eqt
  let d1 := { d with errs := putUnit d.errs u }
  if !third then .next (s.setDie die d1)
  else
    let d2 := { d1 with lasting := if d1.lasting.contains (kind, unit) then d1.lasting else d1.lasting ++ [(kind, unit)] }
    match kind with
    | 0 =>
      let used := sget 0 d2.spares (unit % 256)
      if used < 8 then .next (s.setDie die { d2 with spares := sset 0 d2.spares (unit % 256) (used + 1) })
      else
        let s1 := s.setDie die d2
        .next (s1.faultRecord ((s.sliceOfDie die).getD 0)
          [BitVec.ofNat 64 (page / 65536 * 65536), packDw [(die, 29), (2, 0)], d.eqt, packDw [(unit % 2 ^ 26, 0)]])
    | 1 => .next (s.setDie die { d2 with ways := sset 0 d2.ways unit (sget 0 d2.ways unit + 1) })
    | _ => .next ((s.setDie die d2).modTile (tileInDie die (unit / 256)) fun t => { t with unplaceable := true })

/-- A tile after a reset of its die: every register at its reset value; scratchpad bytes stay as they are
(notes/assumptions/12.md). [DESIGN CHOICE: notes/assumptions/12.md] -/
def Tile.reset (t : Tile) : Tile := { spad := t.spad, unplaceable := t.unplaceable }

/-- The tiles of a die after its reset, the die unlocked and its translations dropped; range entries that commands on engines of other
dies still need stay (R237). [DESIGN CHOICE: notes/assumptions/12.md] -/
def State.resetDie (s : State) (die : Nat) : State :=
  let s := (List.range 128).foldl (fun s k =>
    let t := tileInDie die k
    s.modTile t fun u => { u.reset with ranges := s.rangesOn t }) s
  s.modDie die fun d => { d with locked := false, eqe := 0xFFFFFFFFFFFFFFFF, tlb := [] }

/-- The lines homed elsewhere of which a die holds the only dirty copy: those of the writes in its outbound buffer (R121, R148). -/
def State.dirtyLines (s : State) (die : Nat) : List Nat :=
  (((s.dieWrites die).flatMap fun w => linesOf w.2.pas).eraseDups).filter fun n => decide (homeDie (128 * n) ≠ die)

/-- DIE_RESET (R148, R237): launches with an actor on the die end with record 0x56 and their graphs are removed, their commands on its
engines with them; the lines whose only dirty copy it held are poisoned, which State tells and not the lines that the event names. -/
def execDieReset (die : Nat) (_ : List Nat) (s : State) : Res :=
  let dirty := s.dirtyLines die
  let s1 := dirty.foldl State.poisonLine s
  let gone := s1.regionsOn fun t => decide (dieOf t = die)
  let s1 : State := { s1 with cmds := s1.cmds.filter fun c => !(decide (c.eng.die = some die) && gone.contains c.region) }
  let s2 := s1.endAndRemove (fun t => decide (dieOf t = die)) 0x56 (BitVec.ofNat 64 die) (BitVec.ofNat 64 dirty.length)
  .next (s2.resetDie die)

end Sys2Proof.Machine
end

