-- ==== Sys2Proof/Machine/Reckoning.lean ====
section
/-! DEFINITION. Reckonings: their images, the checks of the loader, and the computation of one vector (R94, R95, R97, R98,
R100, R102 to R107). -/

namespace Sys2Proof.Machine

/-- Why an image is refused (R107, R110): the reason with frame, bead and width needed. -/
structure AbRefusal where
  reason : Nat
  frame : Nat := 0
  bead : Nat := 0
  width : Nat := 0
  deriving DecidableEq, Repr

/-! ### Reading the image (R102 to R106) -/

/-- A little-endian number of `n` bytes at an offset of a byte string; zeros beyond it. -/
def bytesAt (l : List Byte) (off n : Nat) : Nat := leNat ((l.drop off).take n)

/-- A multiple of 8 not below. -/
def up8 (n : Nat) : Nat := (n + 7) / 8 * 8

/-- A frame record's header fields: signed offset and inbound tracks. -/
def frameHdr (h : Nat) : Int × Int × Nat := (sextNat (bitsAt h 56 8) 8, sextNat (bitsAt h 48 8) 8, bitsAt h 32 7)

/-- Rods in use of a frame record: index, stage and bead count. -/
def rodList (img : List Byte) (off : Nat) : List (Nat × Nat × Nat) :=
  (List.range 64).filterMap fun i =>
    let h := bytesAt img (off + 8 + 2 * i) 2
    if bitsAt h 15 1 = 1 then some (i, bitsAt h 9 6, bitsAt h 4 5 + 1) else none

/-- Beads configured in a list of rods. -/
def beadCount (rods : List (Nat × Nat × Nat)) : Nat := rods.foldl (fun n r => n + r.2.2) 0

/-- Bytes of a frame record (R102). -/
def frameLen (rods : List (Nat × Nat × Nat)) (tracks : Nat) : Nat := 136 + up8 (4 * tracks) + up8 (6 * beadCount rods)

/-- The offset and length of each of `n` frame records from an offset. -/
def frameSpans (img : List Byte) : Nat → Nat → List (Nat × Nat)
  | 0, _ => []
  | n + 1, off =>
    let len := frameLen (rodList img off) (bitsAt (bytesAt img off 8) 32 7)
    (off, len) :: frameSpans img n (off + len)

/-- A bead's source (R105). -/
def beadSrc (kind idx : Nat) : BeadSrc :=
  match kind with
  | 0 => .zero
  | 1 => .input idx
  | 2 => .bead idx
  | _ => .track idx

/-- A bead record (R105). -/
def beadOf (x : Nat) : Bead :=
  { a := beadSrc (bitsAt x 46 2) (bitsAt x 35 11), ash := bitsAt x 30 5, aneg := decide (bitsAt x 29 1 = 1)
    b := beadSrc (bitsAt x 27 2) (bitsAt x 16 11), bsh := bitsAt x 11 5, bneg := decide (bitsAt x 10 1 = 1)
    width := bitsAt x 5 5 + 1, flt := decide (bitsAt x 4 1 = 1) }

/-- The bead indices of a list of rods, in rod and then bead order. -/
def beadIndices (rods : List (Nat × Nat × Nat)) : List Nat :=
  rods.flatMap fun r => (List.range r.2.2).map fun j => 32 * r.1 + j

/-- The frame record at an offset. -/
def frameAt (img : List Byte) (off : Nat) : FrameRec :=
  let (dx, dy, nt) := frameHdr (bytesAt img off 8)
  let rods := rodList img off
  let t0 := off + 136
  let b0 := t0 + up8 (4 * nt)
  { dx := dx, dy := dy, rods := rods
    tracks := (List.range nt).map fun i => let e := bytesAt img (t0 + 4 * i) 4; (bitsAt e 26 6, bitsAt e 15 11)
    beads := (beadIndices rods).zipIdx.map fun p => (p.1, beadOf (bytesAt img (b0 + 6 * p.2) 6)) }

/-- Counts and offsets of an image's header: frames, inputs, outputs, output-table offset and length. -/
structure AbHeader where
  frames : Nat := 1
  nin : Nat := 1
  nout : Nat := 1
  otab : Nat := 0
  len : Nat := 0

def abHeader (img : List Byte) : AbHeader :=
  let d0 := bytesAt img 0 8
  let d2 := bytesAt img 16 8
  { frames := bitsAt d0 34 6 + 1, nin := bitsAt d0 21 11 + 1, nout := bitsAt d0 10 11 + 1, otab := bitsAt d2 32 32
    len := bitsAt d2 0 32 }

/-- The reckoning an image holds. -/
def reckoningOf (img : List Byte) : Reckoning :=
  let d1 := bytesAt img 8 8
  let h := abHeader img
  { nin := h.nin, nout := h.nout, ifmt := bitsAt d1 59 5, ofmt := bitsAt d1 54 5, rs := bitsAt d1 49 5
    iw := bitsAt d1 45 4 + 1, oshift := sextNat (bitsAt d1 37 8) 8, depth := bitsAt d1 31 6, len := h.len
    frames := (frameSpans img h.frames 32).map fun p => frameAt img p.1
    outs := (List.range h.nout).map fun j =>
      let e := bytesAt img (h.otab + 4 * j) 4
      if bitsAt e 31 1 = 1 then none else some (bitsAt e 25 6, bitsAt e 14 11) }

/-! ### The checks of R107, in its order -/

/-- A rod's stage. -/
def FrameRec.stageOf (f : FrameRec) (bead : Nat) : Option Nat :=
  (f.rods.find? fun r => decide (r.1 = bead / 32) && decide (bead % 32 < r.2.2)).map (·.2.1)

/-- Reason 1: magic, version, reserved fields, and the ranges of formats, iw, wm and stages. -/
def badHeader (img : List Byte) : Bool :=
  let d0 := bytesAt img 0 8
  let d1 := bytesAt img 8 8
  let ifm := bitsAt d1 59 5
  let ofm := bitsAt d1 54 5
  let w := if ifm = 9 then 8 else if ifm = 10 then 4 else 16
  let iw := bitsAt d1 45 4 + 1
  decide (bitsAt d0 48 16 ≠ 0xABAC) || decide (bitsAt d0 40 8 ≠ 1) || decide (bitsAt d0 32 2 ≠ 0) ||
    decide (bitsAt d0 0 10 ≠ 0) || !(decide (ifm = 9) || decide (ifm = 10) || decide (ifm = 11)) ||
    !(decide (ofm = 9) || decide (ofm = 11) || decide (ofm = 12)) || decide (iw < 2) || decide (w < iw) ||
    decide (bitsAt d1 0 31 ≠ 0) || decide (bytesAt img 24 8 ≠ 0)

/-- Reason 1 in a frame record: its reserved fields, track count, rod stages and bead widths, and an index where the kind takes none
(R107). [DESIGN CHOICE: notes/assumptions/41.md] -/
def badFrame (img : List Byte) (depth off : Nat) : Bool :=
  let h := bytesAt img off 8
  let nt := bitsAt h 32 7
  let rods := rodList img off
  let t0 := off + 136
  let b0 := t0 + up8 (4 * nt)
  decide (bitsAt h 39 9 ≠ 0) || decide (bitsAt h 0 32 ≠ 0) || decide (64 < nt) ||
    ((List.range 64).any fun i =>
      let r := bytesAt img (off + 8 + 2 * i) 2
      decide (bitsAt r 0 4 ≠ 0) || (decide (bitsAt r 15 1 = 0) && decide (r ≠ 0))) ||
    rods.any (fun r => decide (depth < r.2.1)) ||
    ((List.range nt).any fun i => decide (bitsAt (bytesAt img (t0 + 4 * i) 4) 0 15 ≠ 0)) ||
    ((List.range (beadCount rods)).any fun i =>
      let x := bytesAt img (b0 + 6 * i) 6
      decide (bitsAt x 0 4 ≠ 0) || decide (bitsAt x 5 5 < 7) ||
        (decide (bitsAt x 46 2 = 0) && decide (bitsAt x 35 11 ≠ 0)) ||
        (decide (bitsAt x 27 2 = 0) && decide (bitsAt x 16 11 ≠ 0)))

/-- Reason 1 in the output table, whose padding R102 makes zero. [DESIGN CHOICE: notes/assumptions/41.md] -/
def badOuts (img : List Byte) (h : AbHeader) : Bool :=
  (decide (h.nout % 2 = 1) && decide (bytesAt img (h.otab + 4 * h.nout) 4 ≠ 0)) || (List.range h.nout).any fun j =>
    let e := bytesAt img (h.otab + 4 * j) 4
    decide (bitsAt e 0 14 ≠ 0) || (decide (bitsAt e 31 1 = 1) && decide (bitsAt e 0 31 ≠ 0))

/-- Reason 7: the lengths of the image do not agree. -/
def badLengths (img : List Byte) (h : AbHeader) (spans : List (Nat × Nat)) : Bool :=
  let fin := match spans.getLast? with
    | some (o, l) => o + l
    | none => 32
  decide (h.otab ≠ fin) || decide (h.len ≠ fin + up8 (4 * h.nout)) || decide (img.length < h.len)

/-- Reason 5 of a source. -/
def badSrc (r : Reckoning) (f : FrameRec) : BeadSrc → Bool
  | .zero => false
  | .input i => decide (r.nin ≤ i)
  | .bead b => (f.stageOf b).isNone
  | .track t => decide (f.tracks.length ≤ t)

/-- A bead of a reckoning exists. -/
def Reckoning.hasBead (r : Reckoning) (fr bead : Nat) : Bool :=
  match r.frames[fr]? with
  | some f => (f.stageOf bead).isSome
  | none => false

/-- Hops between two frames. -/
def hops (f g : FrameRec) : Nat := (f.dx - g.dx).natAbs + (f.dy - g.dy).natAbs

/-- The track of frame 0 that carries a bead. -/
def Reckoning.carrier (r : Reckoning) (fr bead : Nat) : Bool :=
  match r.frames[0]? with
  | some f => f.tracks.any fun t => decide (t = (fr, bead))
  | none => false

/-- The stage of a bead of a reckoning. -/
def Reckoning.stage (r : Reckoning) (fr bead : Nat) : Nat :=
  ((r.frames[fr]?).bind fun f => f.stageOf bead).getD 0

/-- The first bead of a reckoning that satisfies a test, in frame and then bead order. -/
def Reckoning.findBead (r : Reckoning) (p : FrameRec → Nat → Bead → Bool) : Option (Nat × Nat) :=
  r.frames.zipIdx.findSome? fun f => (f.1.beads.find? fun b => p f.1 b.1 b.2).map fun b => (f.2, b.1)

/-- A bead reads a bead of its frame at a stage not below its own (reason 3). -/
def badStage (f : FrameRec) (i : Nat) (b : Bead) : Bool :=
  let s := (f.stageOf i).getD 0
  let bad (x : BeadSrc) : Bool := match x with
    | .bead j => decide (s ≤ (f.stageOf j).getD 0)
    | _ => false
  bad b.a || bad b.b

/-- A bead reads a track too early (reason 4). -/
def Reckoning.badTrack (r : Reckoning) (f : FrameRec) (i : Nat) (b : Bead) : Bool :=
  let s := (f.stageOf i).getD 0
  let bad (x : BeadSrc) : Bool := match x with
    | .track t =>
      match f.tracks[t]? with
      | some (sf, sb) =>
        let h := ((r.frames[sf]?).map (hops f)).getD 0
        decide (s < r.stage sf sb + 1 + h)
      | none => false
    | _ => false
  bad b.a || bad b.b

/-! ### Width intervals (R100) -/

/-- The interval of a source under those of beads already known, by frame and bead. -/
def srcRange (m : Sparse (Option (Int × Int))) (iw fr : Nat) (tracks : List (Nat × Nat)) (x : BeadSrc) (sh : Nat) (neg : Bool) :
    Int × Int :=
  let base : Int × Int := match x with
    | .zero => (0, 0)
    | .input _ => (-(2 ^ (iw - 1) : Nat), (2 ^ (iw - 1) : Nat) - 1)
    | .bead j => (sget none m (2048 * fr + j)).getD (0, 0)
    | .track t =>
      match tracks[t]? with
      | some (sf, sb) => (sget none m (2048 * sf + sb)).getD (0, 0)
      | none => (0, 0)
  let p : Int × Int := (base.1 * (2 ^ sh : Nat), base.2 * (2 ^ sh : Nat))
  if neg then (-p.2, -p.1) else p

/-- The beads of a stage: frame index, frame and bead. -/
def Reckoning.beadsAt (r : Reckoning) (st : Nat) : List (Nat × FrameRec × Nat × Bead) :=
  r.frames.zipIdx.flatMap fun f =>
    (f.1.beads.filter fun b => decide (f.1.stageOf b.1 = some st)).map fun b => (f.2, f.1, b.1, b.2)

/-- The intervals of every bead, stage by stage. -/
def Reckoning.ranges (r : Reckoning) : Sparse (Option (Int × Int)) :=
  (List.range (r.depth + 1)).foldl (fun m st =>
    (r.beadsAt st).foldl (fun m b =>
      let u := srcRange m r.iw b.1 b.2.1.tracks b.2.2.2.a b.2.2.2.ash b.2.2.2.aneg
      let v := srcRange m r.iw b.1 b.2.1.tracks b.2.2.2.b b.2.2.2.bsh b.2.2.2.bneg
      sset none m (2048 * b.1 + b.2.2.1) (some (u.1 + v.1, u.2 + v.2))) m) []

/-- The width an interval needs; the first argument bounds the search. -/
def widthFor (lo hi : Int) : Nat → Nat → Nat
  | 0, w => w
  | n + 1, w => if -(2 ^ (w - 1) : Nat) ≤ lo ∧ hi ≤ (2 ^ (w - 1) : Nat) - 1 then w else widthFor lo hi n (w + 1)

/-- The first bead whose width does not cover its interval, with the width it needs (R100). -/
def Reckoning.badWidth (r : Reckoning) : Option (Nat × Nat × Nat) :=
  let m := r.ranges
  r.frames.zipIdx.findSome? fun f => f.1.beads.findSome? fun b =>
    let (lo, hi) := (sget none m (2048 * f.2 + b.1)).getD (0, 0)
    if lo < -(2 ^ (b.2.width - 1) : Nat) ∨ (2 ^ (b.2.width - 1) : Nat) - 1 < hi then
      some (f.2, b.1, min 63 (widthFor lo hi 63 1))
    else none

/-- The first failing check of an image (R107); its capacity is checked before (R111). [DESIGN CHOICE: notes/assumptions/41.md] -/
def checkImage (img : List Byte) : Option AbRefusal :=
  let h := abHeader img
  let spans := frameSpans img h.frames 32
  let depth := bitsAt (bytesAt img 8 8) 31 6
  let r := reckoningOf img
  if badHeader img then some { reason := 1 }
  else
    match spans.zipIdx.find? fun p => badFrame img depth p.1.1 with
    | some p => some { reason := 1, frame := p.2 }
    | none =>
      if badOuts img h then some { reason := 1 }
      else if badLengths img h spans then some { reason := 7 }
      else
        let offs := r.frames.map fun f => (f.dx, f.dy)
        if offs.head? ≠ some (0, 0) || decide (offs.eraseDups.length ≠ offs.length) then some { reason := 6 }
        else
          match r.findBead fun f _ b => badSrc r f b.a || badSrc r f b.b with
          | some (f, b) => some { reason := 5, frame := f, bead := b }
          | none =>
            match r.frames.zipIdx.find? fun f => f.1.tracks.any fun t => !r.hasBead t.1 t.2 with
            | some f => some { reason := 5, frame := f.2 }
            | none =>
              match r.outs.findSome? fun o => o.bind fun o =>
                  if !r.hasBead o.1 o.2 || (decide (o.1 ≠ 0) && !r.carrier o.1 o.2) then some o else none with
              | some o => some { reason := 5, frame := o.1, bead := o.2 }
              | none =>
                match r.findBead badStage with
                | some (f, b) => some { reason := 3, frame := f, bead := b }
                | none =>
                  match r.frames.zipIdx.find? fun f => f.1.tracks.any fun t =>
                      decide (4 < ((r.frames[t.1]?).map (hops f.1)).getD 0) with
                  | some f => some { reason := 4, frame := f.2 }
                  | none =>
                    match r.findBead r.badTrack with
                    | some (f, b) => some { reason := 4, frame := f, bead := b }
                    | none =>
                      match r.outs.findSome? fun o => o.bind fun o =>
                          let h := match r.frames[0]?, r.frames[o.1]? with
                            | some a, some b => hops a b
                            | _, _ => 0
                          if decide (o.1 ≠ 0) && decide (r.depth < r.stage o.1 o.2 + h) then some o else none with
                      | some o => some { reason := 4, frame := o.1, bead := o.2 }
                      | none => r.badWidth.map fun w => { reason := 2, frame := w.1, bead := w.2.1, width := w.2.2 }

/-! ### One vector (R94, R98) -/

/-- What a vector leaves: results by frame and bead, the beads whose sticky flag it sets, and the first bead that faults. -/
structure AbRun where
  vals : Sparse Int := []
  sticky : List (Nat × Nat) := []
  fault : Option (Nat × Nat) := none

/-- A source's value. -/
def AbRun.value (v : AbRun) (x : List Int) (fr : Nat) (f : FrameRec) : BeadSrc → Int
  | .zero => 0
  | .input i => x.getD i 0
  | .bead b => sget 0 v.vals (2048 * fr + b)
  | .track t =>
    match f.tracks[t]? with
    | some (sf, sb) => sget 0 v.vals (2048 * sf + sb)
    | none => 0

/-- One bead (R94); the fault kept is the first in the order of stages, frames and beads.
[DESIGN CHOICE: notes/assumptions/41.md] -/
def AbRun.bead (v : AbRun) (x : List Int) (fr : Nat) (f : FrameRec) (i : Nat) (b : Bead) : AbRun :=
  let va := v.value x fr f b.a * (2 ^ b.ash : Nat)
  let vb := v.value x fr f b.b * (2 ^ b.bsh : Nat)
  let s := (if b.aneg then -va else va) + (if b.bneg then -vb else vb)
  let lo : Int := -(2 ^ (b.width - 1) : Nat)
  let hi : Int := (2 ^ (b.width - 1) : Nat) - 1
  let key := 2048 * fr + i
  if lo ≤ s ∧ s ≤ hi then { v with vals := sset 0 v.vals key s }
  else
    let sticky := if v.sticky.contains (fr, i) then v.sticky else v.sticky ++ [(fr, i)]
    if b.flt then { vals := sset 0 v.vals key s, sticky := sticky, fault := v.fault.orElse fun _ => some (fr, i) }
    else { v with vals := sset 0 v.vals key (max lo (min s hi)), sticky := sticky }

/-- A vector through a reckoning, stage by stage. -/
def Reckoning.run (r : Reckoning) (x : List Int) : AbRun :=
  (List.range (r.depth + 1)).foldl (fun v st =>
    (r.beadsAt st).foldl (fun v b => v.bead x b.1 b.2.1 b.2.2.1 b.2.2.2) v) {}

/-- The output elements of a vector (R98): rounded and saturated in the output format. -/
def Reckoning.outputs (r : Reckoning) (v : AbRun) : List Nat :=
  let f := (Fmt.ofCode r.ofmt).getD .int16
  r.outs.map fun o =>
    let i : Int := match o with
      | none => 0
      | some (fr, b) => sget 0 v.vals (2048 * fr + b)
    (toFormat (.fin (decide (i < 0)) i.natAbs (2 ^ r.rs)) f 1 0).getD 0

/-- The output scale (R98). -/
def Reckoning.scaleOut (r : Reckoning) (scale : Nat) : Int := (scale : Int) + r.oshift + (r.rs : Int)

/-- Elements of an input vector as mantissas (R97). -/
def Reckoning.mantissas (r : Reckoning) (es : List Nat) : List Int :=
  es.map fun e => sextNat e ((Fmt.ofCode r.ifmt).getD .int8).width

end Sys2Proof.Machine
end

