-- ==== Sys2Proof/Machine/Abacus.lean ====
section
/-! DEFINITION. Abacus actors: the shadow-plane instructions, loads and swaps, in-band configuration, and the vectors they
take and send (R93 to R115, R307, R308). -/

namespace Sys2Proof.Machine

/-! ### The actor's own state -/

/-- An abacus actor's state. -/
def Actor.abacus (x : Actor) : Option Abacus := match x.body with | .abacus b => some b | _ => none

/-- The state with an abacus actor's own state changed. -/
def State.modAbacus (s : State) (r a : Nat) (f : Abacus → Abacus) : State :=
  s.modActor r a fun x => match x.body with
    | .abacus b => { x with body := .abacus (f b) }
    | _ => x

/-- Codes of the planes' states in responses and save areas (R110). -/
def Abacus.activeCode (b : Abacus) : Nat := if b.active.isSome then 2 else 0
def ShadowState.code : ShadowState → Nat
  | .empty => 0 | .loading => 1 | .loaded => 2 | .swapPending => 3

/-- A response's doublewords (R110). -/
def abReply (op status len active shadow : Nat) (d1 : Dw) : List Dw :=
  [packDw [(len % 2 ^ 32, 32), (active, 20), (shadow, 16), (status, 8), (op, 0)], d1]

/-- A response of an actor's present state. -/
def Abacus.reply (b : Abacus) (op status len : Nat) (d1 : Dw) : List Dw :=
  abReply op status len b.activeCode b.shState.code d1

/-! ### Shadow-plane instructions (R108 to R110, R307, R308) -/

/-- The abacus actor that a target register names: an offset from the issuer's tile and a slot, in its region. -/
def State.abTarget (s : State) (v : Dw) : Option Nat :=
  if dwAt v 20 44 ≠ 0 then none
  else
    let x := (tileX s.focus : Int) + sextNat (dwAt v 0 8) 8
    let y := (tileY s.focus : Int) + sextNat (dwAt v 8 8) 8
    if x < 0 ∨ 64 ≤ x ∨ y < 0 ∨ 16 ≤ y then none
    else
      ((s.region s.runner.1).bind fun g => sfind (fun _ y' => match y' with
        | some y' => decide (y'.tile = tileAt x.toNat y.toNat) && decide (y'.slot = dwAt v 16 4) && y'.abacus.isSome
        | none => false) g.actors).map (·.1)

/-- A request to another unit with a response on a port: trap 0x01 for an undeclared port, code 0x1A without a credit; else
an access that `act` answers now or later. -/
def engineRequest (s : State) (p : Port) (va : Dw) (act : State → Owed → State) : Res :=
  if !s.isResp p then illegal s
  else if !s.hasCredit p then .next (s.noCredit .engine va).advance
  else
    let id := s.nextId
    let s1 := (s.takeCredit p).pushAccess { kind := .engine, va := va, port := p.toNat }
    .next (act s1 { actor := s.runner.2, port := p.toNat, id := id }).advance

/-- The effect of a shadow-plane request on its target (R108), with the answer it gives at once; ABQRY's counts are modulo 2^16.
[DESIGN CHOICE: notes/assumptions/41.md] -/
def Abacus.request (b : Abacus) (op : Nat) (va : Dw) (clear : Bool) (o : Owed) : Abacus × Option (List Dw) :=
  let busy := decide (b.shState = .loading) || decide (b.shState = .swapPending)
  match op with
  | 3 =>
    let n (p : Option Plane) : Nat := (p.map fun q => q.sticky.length).getD 0
    let d : Dw := packDw [(n b.active % 65536, 0), (n b.shadow % 65536, 16)]
    (if clear then { b with active := b.active.map fun p => { p with sticky := [] } } else b, some (b.reply 3 0 0 d))
  | 0 =>
    if busy ∨ b.shState = .loaded then (b, some (b.reply 0 3 0 0))
    else if va.toNat % 8 ≠ 0 then (b, some (b.reply 0 2 0 1))
    else ({ b with shState := .loading, shadow := some { va := va }, owedLoad := some o, fault := none }, none)
  | 1 => if busy then (b, some (b.reply 1 3 0 0)) else ({ b with shState := .swapPending, owedSwap := some o }, none)
  | _ =>
    if busy then (b, some (b.reply 2 3 0 0))
    else
      let b1 := { b with shadow := none, shState := .empty }
      (b1, some (b1.reply 2 0 0 0))

/-- A shadow-plane request reaches its target (R109); one at an actor that has left RUN is answered with status 3 and changes nothing
(R308). -/
def State.abRequest (s : State) (op : Nat) (va target : Dw) (clear : Bool) (o : Owed) : State :=
  let r := s.runner.1
  match s.abTarget target with
  | none => s.answer r o (abReply op 5 0 0 0 0)
  | some a =>
    match (s.actor r a).bind fun x => x.abacus.map fun b => (x, b) with
    | none => s.answer r o (abReply op 5 0 0 0 0)
    | some (x, b) =>
      if x.cut ≠ .run then s.answer r o (b.reply op 3 0 0)
      else
        let (b1, ans) := b.request op va clear o
        let s1 := s.modAbacus r a fun _ => b1
        match ans with
        | some p => s1.answer r o p
        | none => s1

/-- ABLOAD (R307). -/
def execAbload (a b : Reg) (p : Port) (s : State) : Res :=
  engineRequest s p (s.reg a) fun s1 o => s1.abRequest 0 (s.reg a) (s.reg b) false o

/-- ABSWAP (R307). -/
def execAbswap (b : Reg) (p : Port) (s : State) : Res :=
  engineRequest s p 0 fun s1 o => s1.abRequest 1 0 (s.reg b) false o

/-- ABDROP (R307). -/
def execAbdrop (b : Reg) (p : Port) (s : State) : Res :=
  engineRequest s p 0 fun s1 o => s1.abRequest 2 0 (s.reg b) false o

/-- ABQRY (R307). -/
def execAbqry (a b : Reg) (p : Port) (s : State) : Res :=
  engineRequest s p 0 fun s1 o => s1.abRequest 3 0 (s.reg b) (dwBit (s.reg a) 0) o

/-! ### Capacity (R95, R111) -/

/-- The rods, or the tracks, assigned to an actor by `f`: those that either plane uses, as (tile, index) pairs (R95). -/
def Actor.assigned (x : Actor) (f : Plane → List (Nat × Nat)) : List (Nat × Nat) :=
  match x.abacus with
  | none => []
  | some b => (b.active.map f).getD [] ++ (b.shadow.map f).getD []

/-- Those of a tile's frame assigned to actors other than (r, a). -/
def State.heldByOthers (s : State) (f : Plane → List (Nat × Nat)) (r a tile : Nat) : List Nat :=
  s.regions.flatMap fun q => match q.2 with
    | none => []
    | some g => g.actors.flatMap fun p => match p.2 with
      | none => []
      | some x => if q.1 = r ∧ p.1 = a then []
        else ((x.assigned f).filter fun u => decide (u.1 = tile)).map (·.2)

/-- The free shadow rods, or tracks, of a tile's frame for an actor whose shadow plane is empty (R111): those that no other actor
holds. -/
def State.freeFor (s : State) (f : Plane → List (Nat × Nat)) (r a tile : Nat) : List Nat :=
  let held := s.heldByOthers f r a tile
  (List.range 64).filter fun i => !held.contains i

/-- The indices that a load takes of a frame for those its image names: the same ones where they are free, the lowest free ones for the
rest. [DESIGN CHOICE: notes/assumptions/41.md] -/
def takeIndices (free want : List Nat) : List Nat :=
  let same := want.filter free.contains
  same ++ (free.filter fun i => !want.contains i).take (want.length - same.length)

/-- A frame's tile, none outside the region. -/
def Region.frameTile (g : Region) (home : Nat) (f : FrameRec) : Option Nat :=
  let x := (tileX home : Int) + f.dx
  let y := (tileY home : Int) + f.dy
  if (g.ox : Int) ≤ x ∧ x < g.ox + g.w ∧ (g.oy : Int) ≤ y ∧ y < g.oy + g.h then some (tileAt x.toNat y.toNat) else none

/-- A frame's tile in the package's array, none outside it: whether or not the region has it. -/
def frameSite (home : Nat) (f : FrameRec) : Option Nat :=
  let x := (tileX home : Int) + f.dx
  let y := (tileY home : Int) + f.dy
  if 0 ≤ x ∧ x < 64 ∧ 0 ≤ y ∧ y < 16 then some (tileAt x.toNat y.toNat) else none

/-- The rods and tracks of a loaded reckoning's frames. -/
def State.withRods (s : State) (r a : Nat) (g : Region) (home : Nat) (p : Plane) : Plane :=
  let each (f : FrameRec → List Nat) (h : Plane → List (Nat × Nat)) : List (Nat × Nat) :=
    p.reck.frames.flatMap fun k => match g.frameTile home k with
      | some t => (takeIndices (s.freeFor h r a t) (f k)).map fun i => (t, i)
      | none => []
  { p with rods := each (fun k => k.rods.map (·.1)) (·.rods), tracks := each (fun k => List.range k.tracks.length) (·.tracks) }

/-- The shortfalls of an image (R111): frames, rods, tracks and beads, the last three summed over every frame record. A tile outside the
region has the rods that no actor holds, and a place outside the array has none. [DESIGN CHOICE: notes/assumptions/41.md] -/
def State.shortfall (s : State) (r a : Nat) (g : Region) (home : Nat) (fs : List FrameRec) : Dw :=
  let tiles := fs.map (frameSite home)
  let dieAt (i : Nat) : Option Nat := ((tiles[i]?).getD none).map dieOf
  let outside := (fs.filter fun f => (g.frameTile home f).isNone).length
  let per := (fs.zip tiles).map fun p =>
    let free (f : Plane → List (Nat × Nat)) : Nat := (p.2.map fun t => (s.freeFor f r a t).length).getD 0
    (p.1.rods.length - free (·.rods), p.1.tracks.length - free (·.tracks), 32 * min p.1.rods.length (free (·.rods)))
  let crossing := (fs.zipIdx.map fun f =>
    (f.1.tracks.filter fun t => decide (t.1 < fs.length) && decide (dieAt f.2 ≠ dieAt t.1)).length).sum
  let beads := (fs.map fun f => beadCount f.rods).sum - (per.map (·.2.2)).sum
  packDw [(min outside 127, 46), (min ((per.map (·.2.1)).sum + crossing) 8191, 33), (min (per.map (·.1)).sum 8191, 20),
    (min beads (2 ^ 20 - 1), 0)]

/-! ### Loads (R111, R114) -/

/-- How a read of an image ends: its bytes, a memory error, or a page fault at an address. -/
inductive ImgRead where
  | ok (l : List Byte)
  | fail (code : Nat)
  | page (va : Nat)

/-- Bytes of an image read through a tile's memory port under the launch's ASID and the tile's range entries; its walks mark their leaves
(R127). -/
def State.imgRead (s : State) (tile asid va n : Nat) : State × ImgRead :=
  if n = 0 then (s, .ok [])
  else
    let es := (s.tile tile).ranges
    (s.mark false (s.leaves (dieOf tile) asid es { r := true } 1 va n),
      match s.xlate (dieOf tile) asid es { r := true } 1 va n with
      | .ok ps _ => if s.anyPoison ps then .fail 0x16 else .ok (ps.map s.rdByte)
      | .fail c _ => .fail c
      | .page v => .page v)

/-- The outcome of a load: a page fault, a refusal with status and doubleword 1, or the plane. -/
inductive AbLoad where
  | page (va : Nat)
  | refused (status : Nat) (d1 : Dw)
  | loaded (p : Plane)

/-- What capacity needs of `n` frame records from an offset, read by the home tile: each frame's header, rod headers and tracks, with
the record's offset and length; none with the read that fails. -/
def State.frameHeads (s : State) (home asid va : Nat) :
    Nat → Nat → List (FrameRec × Nat × Nat) → State × Except ImgRead (List (FrameRec × Nat × Nat))
  | 0, _, l => (s, .ok l)
  | n + 1, off, l =>
    match s.imgRead home asid (va + off) 136 with
    | (s1, .ok h) =>
      match s1.imgRead home asid (va + off + 136) (4 * (frameHdr (bytesAt h 0 8)).2.2) with
      | (s2, .ok ts) =>
        let f := frameAt (h ++ ts) 0
        let len := frameLen f.rods f.tracks.length
        s2.frameHeads home asid va n (off + len) (l ++ [({ f with beads := [] }, off, len)])
      | (s2, x) => (s2, .error x)
    | (s1, x) => (s1, .error x)

/-- The frame records read one after the other, each by its own frame's tile (R111); what is read so far comes first. -/
def State.readFrames (s : State) (g : Region) (home asid va : Nat) : List (FrameRec × Nat × Nat) → List Byte → State × ImgRead
  | [], img => (s, .ok img)
  | (f, off, len) :: l, img =>
    match s.imgRead ((g.frameTile home f).getD home) asid (va + off) len with
    | (s1, .ok b) => s1.readFrames g home asid va l (img ++ b)
    | (s1, x) => (s1, x)

/-- Doubleword 1 of a refusal with status 2 (R110). -/
def AbRefusal.word (e : AbRefusal) : Dw :=
  packDw [(e.reason, 0), (e.frame % 64, 8), (e.bead % 2048, 14), (min e.width 63, 25)]

/-- A read of an image that does not succeed: a page fault, or a memory error. -/
def ImgRead.ends : ImgRead → AbLoad
  | .page v => .page v
  | .fail c => .refused 4 (BitVec.ofNat 64 c)
  | .ok _ => .refused 4 0

/-- An image read and checked for an actor: its header and frame headers, then capacity, then the frame records, then R107 (R111). All of
it is read in one event, so that a write beside the load is seen in all its units or in none (R114).
[DESIGN CHOICE: notes/assumptions/41.md] -/
def State.loadImage (s : State) (r a : Nat) (g : Region) (x : Actor) (va : Nat) : State × AbLoad :=
  match s.imgRead x.tile g.asid va 32 with
  | (s1, .ok hd) =>
    let h := abHeader hd
    match s1.frameHeads x.tile g.asid va h.frames 32 [] with
    | (s2, .error e) => (s2, e.ends)
    | (s2, .ok fs) =>
      let short := s2.shortfall r a g x.tile (fs.map (·.1))
      if short ≠ 0 then (s2, .refused 1 short)
      else
        match s2.readFrames g x.tile g.asid va fs hd with
        | (s3, .ok body) =>
          match s3.imgRead x.tile g.asid (va + body.length) (up8 (4 * h.nout)) with
          | (s4, .ok tab) =>
            let img := body ++ tab
            (s4, match checkImage img with
              | some e => .refused 2 e.word
              | none => .loaded (s4.withRods r a g x.tile { va := BitVec.ofNat 64 va, reck := reckoningOf img }))
          | (s4, e) => (s4, e.ends)
        | (s3, e) => (s3, e.ends)
  | (s1, e) => (s1, e.ends)

/-- The number of beads of a reckoning. -/
def Reckoning.beads (r : Reckoning) : Nat := r.frames.foldl (fun n f => n + f.beads.length) 0

/-- A page fault delays a load (R111, R133). -/
def State.faultWait (s : State) (r : Nat) (x : Actor) (since : Option Dw) (va : Nat) : State × Option Nat × Option Dw :=
  s.engineFault (dieOf x.tile) x.tile (((s.region r).map (·.asid)).getD 0) r x.slot 0 since va

/-- The two planes exchanged whole. -/
def Abacus.swap (b : Abacus) : Abacus :=
  { b with active := b.shadow, shadow := b.active, shState := if b.active.isSome then .loaded else .empty }

/-- The first configuration token is done (R113): its load is over, `p`, its reckoning or none, is swapped in, and the token leaves: the
oldest taken inside a burst, else the one at the head of i0. -/
def State.configDone (s : State) (r a : Nat) (p : Option Plane) : State :=
  s.modActor r a fun x => match x.body with
    | .abacus b =>
      let y := if b.config = [] then x.popPort 0 else x
      { y with body := .abacus { { b with shadow := p }.swap with config := b.config.drop 1, cfgLoad := false, fault := none } }
    | _ => x

/-- A refused in-band load: code 0x34 on the error port, and the empty plane swapped in.
[DESIGN CHOICE: notes/assumptions/41.md] -/
def State.configRefused (s : State) (r a : Nat) (x : Actor) (g : Region) (va : Dw) (status : Nat) : State :=
  (s.sendError r a (errPayload g.asid 0xFF x.tile x.slot status 0x34 va)).configDone r a none

/-- A load ends as refused: the shadow plane is empty again, and its response is sent or the configuration token is done. -/
def State.abRefuse (s : State) (r a : Nat) (g : Region) (x : Actor) (va : Dw) (status : Nat) (d1 : Dw) : State :=
  let s1 := s.modAbacus r a fun b => { b with shadow := none, shState := .empty, owedLoad := none, fault := none }
  match (s.actor r a).bind Actor.abacus, (s1.actor r a).bind Actor.abacus with
  | some b0, some b1 =>
    if b0.cfgLoad then s.configRefused r a x g va status
    else match b0.owedLoad with
      | some o => s1.answer r o (b1.reply 0 status 0 d1)
      | none => s1
  | _, _ => s1

/-- ABACUS_LOAD_COMPLETE (R111, R113): the load under way completes or is refused; its response is sent, or its reckoning swapped in at
the configuration token's position. -/
def State.abLoaded (s : State) (r a : Nat) : Option State :=
  match s.region r with
  | none => none
  | some g =>
    match g.actor a with
    | none => none
    | some x =>
      match x.abacus with
      | none => none
      | some b =>
        if b.shState ≠ .loading ∨ x.cut ≠ .run ∨ (b.cfgLoad ∧ s.unitBusy r a) then none
        else
          let va := ((b.shadow.map (·.va)).getD 0)
          match s.loadImage r a g x va.toNat with
          | (s, .page v) =>
            let (s1, err, t) := s.faultWait r x b.fault v
            match err with
            | some c => some (s1.abRefuse r a g x va 4 (BitVec.ofNat 64 c))
            | none => some (s1.modAbacus r a fun b => { b with fault := t })
          | (s, .refused st d1) => some (s.abRefuse r a g x va st d1)
          | (s, .loaded p) =>
            if b.cfgLoad then some (s.configDone r a (some p))
            else
              let s1 := s.modAbacus r a fun b => { b with shadow := some p, shState := .loaded, owedLoad := none, fault := none }
              match b.owedLoad, (s1.actor r a).bind Actor.abacus with
              | some o, some b1 => some (s1.answer r o (b1.reply 0 0 p.reck.len (BitVec.ofNat 64 p.reck.beads)))
              | _, _ => some s1

def execAbacusLoadComplete (r a : Nat) (s : State) : Res := occurIn s r (s.abLoaded r a)

/-! ### Swaps (R108, R112) -/

/-- No burst is open at i0. -/
def Actor.atBoundary (x : Actor) : Bool := decide ((x.port 0).left = 0)

/-- ABACUS_SWAP_EFFECT (R112). -/
def State.abSwaps (s : State) (r a : Nat) : Option State :=
  match s.actor r a with
  | none => none
  | some x =>
    match x.abacus with
    | none => none
    | some b =>
      if b.shState ≠ .swapPending ∨ !x.atBoundary ∨ x.cut ≠ .run ∨ s.unitBusy r a then none
      else
        let b1 := { b.swap with owedSwap := none }
        let s1 := s.modAbacus r a fun _ => b1
        some (match b.owedSwap with
          | some o => s1.answer r o (b1.reply 1 0 0 0)
          | none => s1)

def execAbacusSwapEffect (r a : Nat) (s : State) : Res := occurIn s r (s.abSwaps r a)

/-! ### In-band configuration (R113) -/

/-- The payload of the engine-configuration token at the head of i0. -/
def Actor.configHead (x : Actor) : Option (List Dw) :=
  match x.head 0 with
  | none => none
  | some t => if t.kind = 5 ∧ t.subtype = 4 then some t.payload else none

/-- The configuration token that i0 stands at, at a burst boundary: the oldest taken inside the burst, else the one at the head of i0,
which stays there until it is done (R27, R113). -/
def Actor.configNext (x : Actor) (b : Abacus) : Option (List Dw) :=
  if x.atBoundary then b.config.head?.orElse fun _ => x.configHead else none

/-- ABACUS_CONFIG_TOKEN (R113): inside a burst the token is taken, and applied at the next boundary; at a boundary, once the shadow plane
is neither loading nor swap-pending, the load of its image begins. [DESIGN CHOICE: notes/assumptions/41.md] -/
def State.abConfig (s : State) (r a : Nat) : Option State :=
  match s.region r with
  | none => none
  | some g =>
    match g.actor a with
    | none => none
    | some x =>
      match x.abacus with
      | none => none
      | some b =>
        if !g.active x then none
        else if !x.atBoundary then
          (x.configHead).map fun c => (s.modActor r a fun x => x.popPort 0).modAbacus r a fun b => { b with config := b.config ++ [c] }
        else
          match x.configNext b with
          | none => none
          | some c =>
            let va := c.getD 1 0
            if s.unitBusy r a || decide (b.shState = .swapPending) || decide (b.shState = .loading) then none
            else if (c.drop 2).any (fun v => decide (v ≠ 0)) || decide (va.toNat % 8 ≠ 0) then some (s.configRefused r a x g va 2)
            else some (s.modAbacus r a fun b =>
              { b with shadow := some { va := va }, shState := .loading, cfgLoad := true, fault := none })

def execAbacusConfigToken (r a : Nat) (s : State) : Res := occurIn s r (s.abConfig r a)

/-! ### Vectors (R97, R98) -/

/-- An error token of an abacus actor in place of an output burst (R99). -/
def abError (g : Region) (a : Nat) (x : Actor) (code info : Nat) (detail : Dw) : Token :=
  { kind := 4, payload := errPayload g.asid (chanField (g.chanTo a 0)) x.tile x.slot info code detail }

/-- The beads of a run added to a plane's sticky flags. -/
def Plane.stick (p : Plane) (l : List (Nat × Nat)) : Plane :=
  { p with sticky := p.sticky ++ l.filter fun b => !p.sticky.contains b }

/-- The tokens that answer a whole input burst (R97, R98), and the sticky flags it sets: none for an invalid input block, for no bead
runs; those that were set where only the output scale is out of range. [DESIGN CHOICE: notes/assumptions/41.md] -/
def abVector (g : Region) (a : Nat) (x : Actor) (act : Option Plane) (h : Dw) (es : List Nat) :
    List Token × List (Nat × Nat) :=
  let tag := hdrTag h
  match act with
  | none => ([abError g a x 0x33 0 (BitVec.ofNat 64 tag)], [])
  | some p =>
    let k := p.reck
    if hdrFmt h ≠ k.ifmt ∨ es.length ≠ k.nin then
      ([abError g a x 0x32 (es.length % 65536) (packDw [(hdrFmt h, 0), (tag, 32)])], [])
    else
      let f := (Fmt.ofCode k.ofmt).getD .int16
      let burst (sc : Nat) (ys : List Nat) : List Token :=
        let (hd, ps) := mkBurst f k.ofmt sc (hdrLot h) tag ys
        { kind := 3, payload := [hd] } :: ps.map fun p => { kind := 0, payload := p }
      let zeros := List.replicate k.nout 0
      if hdrScale h = 0xFF then (burst 0xFF zeros, [])
      else
        let v := k.run (k.mantissas es)
        let sc := k.scaleOut (hdrScale h)
        if sc < 0 ∨ 254 < sc then (burst 0xFF zeros, v.sticky)
        else
          match v.fault with
          | some (fr, b) => ([abError g a x 0x31 (b % 2048) (packDw [(fr % 64, 0), (tag, 16)])], v.sticky)
          | none => (burst sc.toNat (k.outputs v), v.sticky)

/-- A data token of the open burst: kept, and with the last one the vector enters. -/
def State.abData (s : State) (r a : Nat) (g : Region) (x : Actor) (b : Abacus) (t : Token) : State :=
  let q := x.port 0
  let s1 := s.modActor r a fun x => x.takeTracked 0
  let part := b.part ++ [t.payload]
  if 1 < q.left then s1.modAbacus r a fun b => { b with part := part }
  else
    let h := q.hdr.getD 0
    let es := burstElems ((Fmt.ofCode (hdrFmt h)).getD .int8).width (hdrPad h) part
    let (out, st) := abVector g a x b.active h es
    s1.modAbacus r a fun b =>
      { b with part := [], outq := b.outq ++ out, active := b.active.map fun p => p.stick st }

/-- ABACUS_INPUT_BURST (R97): one token of i0 taken. [DESIGN CHOICE: notes/assumptions/41.md] -/
def State.abInput (s : State) (r a : Nat) : Option State :=
  match s.region r with
  | none => none
  | some g =>
    match g.actor a with
    | none => none
    | some x =>
      match x.abacus with
      | none => none
      | some b =>
        let held := (x.configNext b).isSome || x.atBoundary && decide (b.shState = .swapPending)
        if !g.active x || held || s.unitBusy r a || (x.port 0).drop || decide (b.outq ≠ []) || !g.outReady a 0 then none
        else
          match s.framing r a 0 with
          | some s1 => some (s1.modAbacus r a fun b => { b with part := [] })
          | none =>
            match x.head 0 with
            | none => none
            | some t =>
              if t.kind = 3 ∧ !burstType (g.inType a 0) then
                some ((s.modActor r a fun x => x.takeTracked 0).errorAt r a (chanField (g.chanTo a 0)) 0 0x05 0)
              else if t.kind = 3 then some ((s.modActor r a fun x => x.takeTracked 0).modAbacus r a fun b => { b with part := [] })
              else if t.kind = 0 then some (s.abData r a g x b t)
              else if t.kind = 1 then some ((s.modActor r a fun x => x.takeTracked 0).sendOn r a 0 1 [0])
              else if t.kind = 2 then some ((s.modActor r a fun x => x.takeTracked 0).sendEos r a 0 t.eosErr)
              else if t.kind = 4 then some ((s.modActor r a fun x => x.takeTracked 0).sendOn r a 0 4 t.payload)
              else if t.kind = 7 then some (s.modActor r a fun x => x.takeTracked 0)
              else none

def execAbacusInputBurst (r a : Nat) (s : State) : Res := occurIn s r (s.abInput r a)

/-- ABACUS_VECTOR_OUTPUT (R98): the oldest token of the answers leaves once o0 has a slot. -/
def State.abOutput (s : State) (r a : Nat) : Option State :=
  match s.region r with
  | none => none
  | some g =>
    match g.actor a with
    | none => none
    | some x =>
      match x.abacus with
      | none => none
      | some b =>
        match b.outq with
        | [] => none
        | t :: l =>
          if !g.outReady a 0 ∨ x.holdsNone = false ∨ !(x.cut = .run ∨ x.cut = .finish) then none
          else some ((s.modAbacus r a fun b => { b with outq := l }).sendOn r a 0 t.kind t.payload)

def execAbacusVectorOutput (r a : Nat) (s : State) : Res := occurIn s r (s.abOutput r a)

end Sys2Proof.Machine
end

