-- ==== Sys2Proof/Machine/Flags.lean ====
section
/-! DEFINITION. Flag computations: FFLAGS of the scalar float instructions (R49, R80, R353 to R358). Integer instructions set
no flag (R73, R313). -/

namespace Sys2Proof.Machine

/-- The sticky flags that a result adds to the running actor's FFLAGS. -/
def State.addFlags (s : State) (f : Flags) : State :=
  s.modActor s.runner.1 s.runner.2 fun x => { x with fflags := x.fflags ||| f.bits }

/-- A signalling operand sets invalid (R79). -/
def sigFlags (l : List Val) : Flags := { invalid := l.any Val.signalling }

/-- The union of two flag sets. -/
def Flags.or (a b : Flags) : Flags :=
  { invalid := a.invalid || b.invalid, divZero := a.divZero || b.divZero, overflow := a.overflow || b.overflow
    underflow := a.underflow || b.underflow, inexact := a.inexact || b.inexact }

/-- The result of an exact operation: an invalid one gives the canonical NaN and the invalid flag, a NaN follows NaNOf, and
every other value is rounded once (R353, R358). `v` is the exact value, `bad` whether the operation is invalid. -/
def floatResult (f : Fmt) (pol : BitVec 4) (mode : Nat) (ops : List Val) (v : Val) (bad : Bool) : Nat × Flags :=
  if bad then ((f.canonNaN).getD 0, { invalid := true })
  else
    let r := toFormatF v f pol mode
    (r.1.getD 0, Flags.or r.2 (sigFlags ops))

/-- A float result written zero-extended with its flags, and on to the next instruction. -/
def retireFloat (s : State) (d : Reg) (r : Nat × Flags) : Res :=
  retire (s.addFlags r.2) d (BitVec.ofNat 64 r.1)

end Sys2Proof.Machine
end

