-- ==== Sys2Proof/Machine/Alu.lean ====
section
/-! DEFINITION. The integer instructions: the ALU group, immediates, shifts by an immediate, multiplication and division,
selection and bit fields (R73, R312 to R315, R345, R350, R372, R391, R400, R405). None sets a flag or traps on a value. -/

namespace Sys2Proof.Machine

/-! ### Operations on one width (R312, R345, R391) -/

def bvMin {n : Nat} (x y : BitVec n) : BitVec n := if x.sle y then x else y
def bvMax {n : Nat} (x y : BitVec n) : BitVec n := if x.sle y then y else x
def bvMinu {n : Nat} (x y : BitVec n) : BitVec n := if x.ule y then x else y
def bvMaxu {n : Nat} (x y : BitVec n) : BitVec n := if x.ule y then y else x

/-- 1 or 0 of a width. -/
def bvBool {n : Nat} (b : Bool) : BitVec n := if b then 1 else 0

/-- Leading zero bits among the low `k` bits of `x`. -/
def leadZeros (x : Nat) : Nat → Nat
  | 0 => 0
  | k + 1 => if x.testBit k then 0 else leadZeros x k + 1

/-- Trailing zero bits from bit `i`, `k` bits on. -/
def trailZeros (x i : Nat) : Nat → Nat
  | 0 => 0
  | k + 1 => if x.testBit i then 0 else trailZeros x (i + 1) k + 1

/-- Set bits among the low `k` bits. -/
def popCount (x : Nat) : Nat → Nat
  | 0 => 0
  | k + 1 => popCount x k + b2n (x.testBit k)

/-- The quotient of DIV and DIVU and the remainder of REM and REMU (R345). -/
def divSigned {n : Nat} (x y : BitVec n) : BitVec n := if y = 0 then BitVec.allOnes n else x.sdiv y
def divUnsigned {n : Nat} (x y : BitVec n) : BitVec n := if y = 0 then BitVec.allOnes n else x / y
def remSigned {n : Nat} (x y : BitVec n) : BitVec n := if y = 0 then x else x.srem y
def remUnsigned {n : Nat} (x y : BitVec n) : BitVec n := if y = 0 then x else x % y

/-- The high half of a product (R391). -/
def mulHigh {n : Nat} (x y : BitVec n) : BitVec n := BitVec.ofInt n (x.toInt * y.toInt / ((2 ^ n : Nat) : Int))
def mulHighU {n : Nat} (x y : BitVec n) : BitVec n := BitVec.ofNat n (x.toNat * y.toNat / 2 ^ n)

/-- Shifts by an amount modulo the width (R312). -/
def shiftL {n : Nat} (x y : BitVec n) : BitVec n := x <<< (y.toNat % n)
def shiftR {n : Nat} (x y : BitVec n) : BitVec n := x >>> (y.toNat % n)
def shiftA {n : Nat} (x y : BitVec n) : BitVec n := x.sshiftRight (y.toNat % n)
def rotateR {n : Nat} (x y : BitVec n) : BitVec n := x.rotateRight (y.toNat % n)

/-- A two-source instruction of the R format in its width form. -/
def alu (s : State) (d a b : Reg) (w : Bool) (f : (n : Nat) → BitVec n → BitVec n → BitVec n) : Res :=
  retire s d (onWidth w f (s.reg a) (s.reg b))

/-- A shift by an immediate (R400): the shift of R312 by the amount. -/
def aluImm (s : State) (d a : Reg) (w : Bool) (i : BitVec 6) (f : (n : Nat) → BitVec n → BitVec n → BitVec n) : Res :=
  retire s d (onWidth w f (s.reg a) (i.setWidth 64))

/-! ### The ALU group (R312) -/

/-- ADD (R312): x + y. -/
def execAdd (d a b : Reg) (w : Bool) (s : State) : Res := alu s d a b w fun _ x y => x + y

/-- SUB (R312): x − y. -/
def execSub (d a b : Reg) (w : Bool) (s : State) : Res := alu s d a b w fun _ x y => x - y

/-- AND (R312). -/
def execAnd (d a b : Reg) (w : Bool) (s : State) : Res := alu s d a b w fun _ x y => x &&& y

/-- OR (R312). -/
def execOr (d a b : Reg) (w : Bool) (s : State) : Res := alu s d a b w fun _ x y => x ||| y

/-- XOR (R312). -/
def execXor (d a b : Reg) (w : Bool) (s : State) : Res := alu s d a b w fun _ x y => x ^^^ y

/-- ANDN (R312): x and not y. -/
def execAndn (d a b : Reg) (w : Bool) (s : State) : Res := alu s d a b w fun _ x y => x &&& ~~~y

/-- SHL (R312). -/
def execShl (d a b : Reg) (w : Bool) (s : State) : Res := alu s d a b w fun _ => shiftL

/-- SHR (R312): zero fill. -/
def execShr (d a b : Reg) (w : Bool) (s : State) : Res := alu s d a b w fun _ => shiftR

/-- SAR (R312): sign fill. -/
def execSar (d a b : Reg) (w : Bool) (s : State) : Res := alu s d a b w fun _ => shiftA

/-- ROTR (R312). -/
def execRotr (d a b : Reg) (w : Bool) (s : State) : Res := alu s d a b w fun _ => rotateR

/-- MIN (R312): signed minimum. -/
def execMin (d a b : Reg) (w : Bool) (s : State) : Res := alu s d a b w fun _ => bvMin

/-- MAX (R312): signed maximum. -/
def execMax (d a b : Reg) (w : Bool) (s : State) : Res := alu s d a b w fun _ => bvMax

/-- MINU (R312): unsigned minimum. -/
def execMinu (d a b : Reg) (w : Bool) (s : State) : Res := alu s d a b w fun _ => bvMinu

/-- MAXU (R312): unsigned maximum. -/
def execMaxu (d a b : Reg) (w : Bool) (s : State) : Res := alu s d a b w fun _ => bvMaxu

/-- SLT (R312): 1 if x < y signed. -/
def execSlt (d a b : Reg) (w : Bool) (s : State) : Res := alu s d a b w fun _ x y => bvBool (x.slt y)

/-- SLTU (R312): 1 if x < y unsigned. -/
def execSltu (d a b : Reg) (w : Bool) (s : State) : Res := alu s d a b w fun _ x y => bvBool (x.ult y)

/-- SEQ (R312): 1 if x equals y. -/
def execSeq (d a b : Reg) (w : Bool) (s : State) : Res := alu s d a b w fun _ x y => bvBool (x == y)

/-- CLZ (R312): leading zero bits, the width when x is 0. -/
def execClz (d a : Reg) (w : Bool) (s : State) : Res :=
  alu s d a 0 w fun n x _ => BitVec.ofNat n (leadZeros x.toNat n)

/-- CTZ (R312): trailing zero bits, the width when x is 0. -/
def execCtz (d a : Reg) (w : Bool) (s : State) : Res :=
  alu s d a 0 w fun n x _ => BitVec.ofNat n (trailZeros x.toNat 0 n)

/-- POPC (R312): set bits. -/
def execPopc (d a : Reg) (w : Bool) (s : State) : Res :=
  alu s d a 0 w fun n x _ => BitVec.ofNat n (popCount x.toNat n)

/-! ### Multiplication and division (R345, R391) -/

/-- MUL (R391): the low bits of the product. -/
def execMul (d a b : Reg) (w : Bool) (s : State) : Res := alu s d a b w fun _ x y => x * y

/-- MULH (R391): the high half of the signed product. -/
def execMulh (d a b : Reg) (w : Bool) (s : State) : Res := alu s d a b w fun _ => mulHigh

/-- MULHU (R391): the high half of the unsigned product. -/
def execMulhu (d a b : Reg) (w : Bool) (s : State) : Res := alu s d a b w fun _ => mulHighU

/-- DIV (R345). -/
def execDiv (d a b : Reg) (w : Bool) (s : State) : Res := alu s d a b w fun _ => divSigned

/-- DIVU (R345). -/
def execDivu (d a b : Reg) (w : Bool) (s : State) : Res := alu s d a b w fun _ => divUnsigned

/-- REM (R345). -/
def execRem (d a b : Reg) (w : Bool) (s : State) : Res := alu s d a b w fun _ => remSigned

/-- REMU (R345). -/
def execRemu (d a b : Reg) (w : Bool) (s : State) : Res := alu s d a b w fun _ => remUnsigned

/-! ### Selection and bit fields (R350, R405) -/

/-- SEL (R405): ga if gc is non-zero, else gb. -/
def execSel (d a b c : Reg) (s : State) : Res := retire s d (if s.reg c ≠ 0 then s.reg a else s.reg b)

/-- The `n` bits of `x` from bit `pos`. -/
def extractBits (x : Dw) (pos n : Nat) : Dw := BitVec.ofNat 64 (bitsAt x.toNat pos n)

/-- `n` bits sign-extended. -/
def signFrom (x : Dw) (n : Nat) : Dw := if n = 0 then 0 else BitVec.ofInt 64 (sextNat x.toNat n)

/-- `x` with `n` bits from `pos` replaced by the low bits of `y`. -/
def insertBits (x y : Dw) (pos n : Nat) : Dw :=
  let m : Dw := BitVec.ofNat 64 ((2 ^ n - 1) * 2 ^ pos)
  (x &&& ~~~m) ||| ((y <<< pos) &&& m)

/-- INS (R350). -/
def execIns (d a b c : Reg) (s : State) : Res :=
  let f := fieldOf (s.reg c)
  retire s d (insertBits (s.reg a) (s.reg b) f.1 f.2)

/-- EXTS (R350). -/
def execExts (d a c : Reg) (s : State) : Res :=
  let f := fieldOf (s.reg c)
  retire s d (signFrom (extractBits (s.reg a) f.1 f.2) f.2)

/-- EXTU (R350). -/
def execExtu (d a c : Reg) (s : State) : Res :=
  let f := fieldOf (s.reg c)
  retire s d (extractBits (s.reg a) f.1 f.2)

/-! ### Immediates (R314, R315, R372, R400) -/

/-- ADDI (R314). -/
def execAddi (d a : Reg) (i : BitVec 16) (s : State) : Res := retire s d (s.reg a + simm i)

/-- ANDI (R314). -/
def execAndi (d a : Reg) (i : BitVec 16) (s : State) : Res := retire s d (s.reg a &&& zimm i)

/-- ORI (R314). -/
def execOri (d a : Reg) (i : BitVec 16) (s : State) : Res := retire s d (s.reg a ||| zimm i)

/-- XORI (R314). -/
def execXori (d a : Reg) (i : BitVec 16) (s : State) : Res := retire s d (s.reg a ^^^ zimm i)

/-- SLTI (R314). -/
def execSlti (d a : Reg) (i : BitVec 16) (s : State) : Res := retire s d (bvBool ((s.reg a).slt (simm i)))

/-- SHLI (R400). -/
def execShli (d a : Reg) (w : Bool) (i : BitVec 6) (s : State) : Res := aluImm s d a w i fun _ => shiftL

/-- SHRI (R400). -/
def execShri (d a : Reg) (w : Bool) (i : BitVec 6) (s : State) : Res := aluImm s d a w i fun _ => shiftR

/-- SARI (R400). -/
def execSari (d a : Reg) (w : Bool) (i : BitVec 6) (s : State) : Res := aluImm s d a w i fun _ => shiftA

/-- ROTRI (R400). -/
def execRotri (d a : Reg) (w : Bool) (i : BitVec 6) (s : State) : Res := aluImm s d a w i fun _ => rotateR

/-- LDHI (R372): Sext(imm16, 16) × 2^16. -/
def execLdhi (d : Reg) (i : BitVec 16) (s : State) : Res := retire s d (simm i <<< 16)

/-- ADDPC (R315): pc + Sext(imm16, 16) × 4. -/
def execAddpc (d : Reg) (i : BitVec 16) (s : State) : Res := retire s d (s.core.pcDw + simm i * 4)

/-- NOP (R393): no state changes but the pc. -/
def execNop (s : State) : Res := .next s.advance

end Sys2Proof.Machine
end

