-- ==== Sys2Proof/Machine/Barriers.lean ====
section
/-! DEFINITION. Barrier slots (R158 to R160, R190, R321). -/

namespace Sys2Proof.Machine

/-- Doubleword 2 of a barrier completion token (R160). -/
def Barrier.statusWord (b : Barrier) (slot : Nat) : Dw :=
  packDw [(b.phase.toNat, 32), (slot, 16), (b.code.toNat, 8), (b2n b.abandoned, 2), (b2n b.overcount, 1), (b2n b.err, 0)]

/-- A slot's phase completes: the slot goes idle and its completion token is sent to the wake target (R160). The token
carries the phase's status, which the idle slot starts without. [DEDUCED: notes/assumptions/16.md] -/
def State.barComplete (s : State) (r slot : Nat) : State :=
  match s.region r with
  | none => s
  | some g =>
    let b := g.barrier slot
    let s1 := s.setRegion r (g.setBarrier slot
      { b with armed := false, pending := 0, err := false, overcount := false, abandoned := false, code := 0 })
    s1.netCall r b.target b.entry.toNat b.written (b.statusWord slot)

/-- BARSET on a slot (R158, R321): an armed phase is first completed as abandoned. [DEDUCED: notes/assumptions/16.md] -/
def State.barSet (s : State) (r slot : Nat) (n : Dw) (target : Nat) (entry : BitVec 4) : State :=
  match s.region r with
  | none => s
  | some g =>
    let b := g.barrier slot
    let s1 := if b.armed then (s.setRegion r (g.setBarrier slot { b with abandoned := true })).barComplete r slot else s
    match s1.region r with
    | none => s1
    | some g1 =>
      let cls := ((g1.actor target).map (·.cls)).getD 0
      let s2 := s1.setRegion r (g1.setBarrier slot
        { armed := true, pending := n, written := 0, target := target, entry := entry, cls := cls
          phase := (g1.barrier slot).phase + 1 })
      if n = 0 then s2.barComplete r slot else s2

/-- BARADD on a slot (R158): an idle slot is re-armed with its old target and kept status; an armed counter saturates.
[DEDUCED: notes/assumptions/16.md] -/
def State.barAdd (s : State) (r slot : Nat) (n : Dw) : State :=
  match s.region r with
  | none => s
  | some g =>
    let b := g.barrier slot
    if b.armed then
      let sum := b.pending.toNat + n.toNat
      s.setRegion r (g.setBarrier slot
        (if 2 ^ 64 ≤ sum then { b with pending := BitVec.allOnes 64, overcount := true }
         else { b with pending := BitVec.ofNat 64 sum }))
    else if n = 0 then s
    else s.setRegion r (g.setBarrier slot { b with armed := true, pending := n, written := 0, phase := b.phase + 1 })

/-- An engine's subtraction of bytes from a slot (R158, R159): bytes performed are added to the written count, bytes that
failed set the error bit and the phase's first code, on an idle slot too, whose count is discarded. -/
def State.barSub (s : State) (r slot n : Nat) (failed : Bool) (code : Byte) : State :=
  match s.region r with
  | none => s
  | some g =>
    let b := g.barrier slot
    let b := if failed then { b with err := true, code := if b.code = 0 then code else b.code } else b
    if !b.armed then s.setRegion r (g.setBarrier slot { b with overcount := true })
    else
      let b := if failed then b else { b with written := b.written + BitVec.ofNat 64 n }
      let b := if b.pending.toNat < n then { b with pending := 0, overcount := true }
               else { b with pending := b.pending - BitVec.ofNat 64 n }
      let s1 := s.setRegion r (g.setBarrier slot b)
      if b.pending = 0 then s1.barComplete r slot else s1

/-- BARSET (R320, R321). -/
def execBarset (a b : Reg) (sl : BitVec 6) (s : State) : Res :=
  let t := s.reg b
  .next (s.barSet s.runner.1 sl.toNat (s.reg a) (dwAt t 0 20) (t.extractLsb' 20 4)).advance

/-- BARADD (R320, R321). -/
def execBaradd (a : Reg) (sl : BitVec 6) (s : State) : Res :=
  .next (s.barAdd s.runner.1 sl.toNat (s.reg a)).advance

end Sys2Proof.Machine
end

