-- ==== Sys2Proof/Machine/Tensors.lean ====
section
/-! DEFINITION. What a stream command names: tensor descriptors, extension blocks and index lists; how its engine reads and
writes elements, and how a command is refused, fails or completes (R140, R159, R289 to R291, R304 to R306, R338, R342). -/

namespace Sys2Proof.Machine

/-! ### Descriptors and extension blocks (R289 to R291) -/

/-- A tensor descriptor (R289). -/
structure Tensor where
  loc : Bool := false
  fmt : Nat := 0
  base : Nat := 0
  n0 : Nat := 0
  n1 : Nat := 0
  n2 : Nat := 0
  s1 : Int := 0
  s2 : Int := 0
  b0 : Nat := 0
  b1 : Nat := 0
  b2 : Nat := 0
  deriving DecidableEq, Repr

/-- A doubleword of a tile's scratchpad. -/
def Tile.localDw (t : Tile) (la : Nat) : Dw := BitVec.ofNat 64 (t.load la 8)

/-- The descriptor at a local address, and whether its reserved bits are clear and its format is one of R68. -/
def tensorAt (t : Tile) (la : Nat) : Tensor × Bool :=
  let d (i : Nat) : Dw := t.localDw (la + 8 * i)
  ({ loc := dwBit (d 1) 6, fmt := dwAt (d 1) 0 5, base := (d 0).toNat, n0 := dwAt (d 2) 0 32, n1 := dwAt (d 2) 32 32
     n2 := dwAt (d 3) 0 32, s1 := (d 4).toInt, s2 := (d 5).toInt, b0 := dwAt (d 6) 0 32, b1 := dwAt (d 6) 32 32
     b2 := dwAt (d 7) 0 32 },
   decide (dwAt (d 1) 7 57 = 0) && !dwBit (d 1) 5 && (Fmt.ofCode (dwAt (d 1) 0 5)).isSome &&
     decide (dwAt (d 3) 32 32 = 0) && decide (dwAt (d 7) 32 32 = 0))

def Tensor.f (d : Tensor) : Fmt := (Fmt.ofCode d.fmt).getD .fp32
def Tensor.width (d : Tensor) : Nat := d.f.width
def Tensor.count (d : Tensor) : Nat := d.n0 * d.n1 * d.n2
def Tensor.bytes (d : Tensor) : Nat := d.n0 * d.width / 8 * d.n1 * d.n2
def Tensor.unbounded (d : Tensor) : Bool := decide (d.b0 = 0) && decide (d.b1 = 0) && decide (d.b2 = 0)
def Tensor.wholeRows (d : Tensor) : Bool := decide (d.n0 * d.width % 8 = 0)

/-- The index triple of a linear index, dimension 0 fastest. -/
def Tensor.split (d : Tensor) (e : Nat) : Nat × Nat × Nat := (e % d.n0, e / d.n0 % d.n1, e / d.n0 / d.n1)

/-- An element excluded by the bounds (R289). -/
def Tensor.excludes (d : Tensor) (j : Nat × Nat × Nat) : Bool :=
  (decide (d.b0 ≠ 0) && decide (d.b0 ≤ j.1)) || (decide (d.b1 ≠ 0) && decide (d.b1 ≤ j.2.1)) ||
    (decide (d.b2 ≠ 0) && decide (d.b2 ≤ j.2.2))

/-- The byte at which an element begins, and its first bit within it (R338). -/
def Tensor.place (d : Tensor) (j : Nat × Nat × Nat) : Nat × Nat :=
  let bit := j.1 * d.width
  ((((d.base : Int) + (bit / 8 : Nat) + (j.2.1 : Int) * d.s1 + (j.2.2 : Int) * d.s2) % (2 ^ 64 : Nat)).toNat, bit % 8)

/-- A local descriptor's elements lie in a window, over its counts and strides (R291). -/
def Tensor.within (d : Tensor) (lo hi : Nat) : Bool :=
  if !d.loc || decide (d.count = 0) then true
  else
    let r1 : Int := (d.n1 - 1 : Nat) * d.s1
    let r2 : Int := (d.n2 - 1 : Nat) * d.s2
    let first : Int := d.base + min 0 r1 + min 0 r2
    let last : Int := d.base + ((d.n0 * d.width + 7) / 8 : Nat) + max 0 r1 + max 0 r2
    decide ((lo : Int) ≤ first) && decide (last ≤ (hi : Int))

/-- An extension block (R290). -/
structure Ext where
  cv : Bool := false
  rnd : Nat := 0
  pol : BitVec 4 := 0
  auto : Bool := false
  scale : Nat := 127
  /-- Doubleword 1 is not zero: an index list is given (notes/assumptions/31.md). -/
  lists : Bool := false
  ilist : Nat := 0
  icnt : Nat := 0
  cta : Nat := 0
  cth : Nat := 0
  ibound : Nat := 0
  fcmd : Nat := 0
  fact : Nat := 0
  deriving DecidableEq, Repr

/-- The extension block at a local address, and whether its reserved bits are clear. [DEDUCED: notes/assumptions/31.md] -/
def extAt (t : Tile) (la : Nat) : Ext × Bool :=
  let d (i : Nat) : Dw := t.localDw (la + 8 * i)
  ({ cv := dwBit (d 0) 15, rnd := dwAt (d 0) 13 2, pol := (d 0).extractLsb' 9 4, auto := dwBit (d 0) 8, scale := dwAt (d 0) 0 8
     lists := decide (d 1 ≠ 0), ilist := dwAt (d 1) 0 18, icnt := dwAt (d 1) 32 16, cta := dwAt (d 2) 0 20
     cth := dwAt (d 2) 20 4, ibound := dwAt (d 2) 32 32, fcmd := dwAt (d 3) 0 18, fact := dwAt (d 3) 32 20 },
   decide (dwAt (d 0) 16 48 = 0) && decide (dwAt (d 1) 18 14 = 0) && decide (dwAt (d 1) 48 16 = 0) &&
     decide (dwAt (d 2) 24 8 = 0) && decide (dwAt (d 3) 18 14 = 0) && decide (dwAt (d 3) 52 12 = 0))

/-- Entry `k` of an extension block's index list. -/
def Ext.index (x : Ext) (t : Tile) (k : Nat) : Nat := t.load (x.ilist + 4 * k) 4

/-- Index `j` is outside the bound or the rows of a table (R362). -/
def Ext.badIndex (x : Ext) (rows j : Nat) : Bool := (decide (x.ibound ≠ 0) && decide (x.ibound ≤ j)) || decide (rows ≤ j)

/-- A local operand lies aligned in the issuer's local window. -/
def Actor.owns (x : Actor) (la n al : Nat) : Bool := decide (la % al = 0) && within la n x.locB x.locL

/-- A descriptor that may be used (R291): its base lies in R289's range, canonical or a local address. -/
def Actor.tensorOk (x : Actor) (t : Tile) (la : Nat) : Bool :=
  let d := (tensorAt t la).1
  x.owns la 64 8 && (tensorAt t la).2 && d.within x.locB x.locL && (if d.loc then decide (d.base < 2 ^ 18) else canonical d.base)

/-- An extension block that may be used, with its index list where the command reads one. -/
def Actor.extOk (x : Actor) (t : Tile) (la : Nat) (list : Ext → Bool) : Bool :=
  let e := (extAt t la).1
  x.owns la 32 8 && (extAt t la).2 && (!list e || x.owns e.ilist (4 * (e.icnt + 1)) 4)

/-- The extension block of a command, or the defaults without one. -/
def extOf (t : Tile) : Option (BitVec 18) → Ext
  | some a => (extAt t a.toNat).1
  | none => {}

/-- A value converted as an extension block asks under a tile scale (R338); none for INVALID. -/
def Ext.conv (x : Ext) (sf df : Fmt) (scale v : Nat) : Option Nat :=
  if x.cv then toFormat ((sf.value v).shift (127 - (scale : Int))) df x.pol x.rnd else some v

/-- Formats for which the engine may choose the scale (R339). -/
def autoFmt (code : Nat) : Bool := decide (4 ≤ code) && decide (code ≤ 10)

/-! ### Reading and writing by an engine -/

/-- Where an engine's accesses go: its die, the issuer's tile, the ASID and the command's scope. -/
structure Via where
  die : Nat
  tile : Nat
  asid : Nat
  sc : Scope

/-- Scratchpad bytes stand beside physical addresses under keys from 2^60. -/
def localKey : Nat := 2 ^ 60

/-- Translation of an access of an engine: keys of its bytes. The issuer's tile's range entries and ASID apply. -/
def State.viaXl (s : State) (e : Via) (loc : Bool) (need : Need) (al va n : Nat) : Xl :=
  if loc then .ok ((List.range n).map (localKey + va + ·)) []
  else s.xlate e.die e.asid (s.tile e.tile).ranges need al va n

/-- The marks of the walks of an engine's access (R127). -/
def State.viaSeen (s : State) (e : Via) (loc : Bool) (need : Need) (al va n : Nat) : State :=
  if loc then s else s.mark need.writes (s.leaves e.die e.asid (s.tile e.tile).ranges need al va n)

/-- The byte an engine reads under a key. -/
def State.viaByte (s : State) (e : Via) (key : Nat) : Byte :=
  if localKey ≤ key then (s.tile e.tile).byte (key - localKey)
  else if 2 ≤ e.sc.toNat then s.rdByte key else s.dieByte e.die key

/-- A byte an engine writes under a key. -/
def State.viaPut (s : State) (e : Via) (key : Nat) (b : Byte) : State :=
  if localKey ≤ key then s.modTile e.tile fun t => t.setByte (key - localKey) b
  else
    s.hwWrite [key] [b]

/-- How a read of elements ends: their encodings, each with whether its bytes were poisoned; a failure; or a page fault. -/
inductive Reads where
  | ok (l : List (Nat × Bool))
  | fail (code : Nat) (detail : Dw)
  | page (va : Nat)
  deriving DecidableEq, Repr

/-- Elements of a tensor read. Bytes that the command has itself written over are read as they were or as they are (R342).
[DESIGN CHOICE: notes/assumptions/43.md] -/
def State.readElems (s : State) (e : Via) (before : Sparse (Option Byte)) (d : Tensor) :
    List (Nat × Nat × Nat) → State × Reads
  | [] => (s, .ok [])
  | j :: l =>
    if d.excludes j then
      match s.readElems e before d l with
      | (s1, .ok r) => (s1, .ok ((0, false) :: r))
      | q => q
    else
      let (va, b) := d.place j
      let s1 := s.viaSeen e d.loc { r := true } 1 va ((b + d.width + 7) / 8)
      match s.viaXl e d.loc { r := true } 1 va ((b + d.width + 7) / 8) with
      | .fail c x => (s1, .fail c x)
      | .page v => (s1, .page v)
      | .ok ks _ =>
        let now := leNat (ks.map (s1.viaByte e))
        let old := leNat (ks.map fun k => (sget none before k).getD (s1.viaByte e k))
        let (x, s2) := if ks.any fun k => (sget none before k).isSome then
            let (v, s2) := s1.free
            (if dwBit v 0 then old else now, s2)
          else (now, s1)
        let poison := s2.anyPoison ks
        match s2.readElems e before d l with
        | (s3, .ok r) => (s3, .ok ((bitsAt x b d.width, poison) :: r))
        | q => q

/-- Bytes put in order, each with its key and the row it belongs to. Where a byte was already written by the command, the
aligned 8 bytes of one row keep it or not as a free value says (R342, R404); the last choice made is answered, for the rest of its unit.
[DESIGN CHOICE: notes/assumptions/43.md] -/
def State.putAll (s : State) (e : Via) (before : Sparse (Option Byte)) :
    List (Nat × Nat × Byte) → Option (Nat × Nat × Bool) → State × Sparse (Option Byte) × Option (Nat × Nat × Bool)
  | [], cur => (s, before, cur)
  | (row, key, b) :: l, cur =>
    if (sget none before key).isNone then
      (s.viaPut e key b).putAll e (sset none before key (some (s.viaByte e key))) l cur
    else
      let (keep, s1, cur1) : Bool × State × Option (Nat × Nat × Bool) :=
        match cur with
        | some (r, u, k) => if r = row ∧ u = key / 8 then (k, s, cur)
            else let (v, s1) := s.free; (dwBit v 0, s1, some (row, key / 8, dwBit v 0))
        | none => let (v, s1) := s.free; (dwBit v 0, s1, some (row, key / 8, dwBit v 0))
      (if keep then s1 else s1.viaPut e key b).putAll e before l cur1

/-- Destination bytes of poisoned sources written poisoned (R146, R342): the lines of memory, and free values in scratchpad, which holds no
poison. -/
def State.poisonKeys (s : State) (e : Via) (l : List Nat) : State :=
  l.foldl (fun s q =>
    if q < localKey then s.poisonLine (lineOf q)
    else let (v, s) := s.free; s.viaPut e q (v.setWidth 8)) s

/-- Lines of which a list of keys covers all 128 bytes. -/
def wholeLines (keys : List Nat) : List Nat :=
  ((keys.map lineOf).eraseDups).filter fun n => (List.range 128).all fun i => keys.contains (128 * n + i)

/-! ### A command's fate -/

def State.setCmd (s : State) (k : Nat) (c : Cmd) : State := { s with cmds := lset s.cmds k c }
def State.dropCmd (s : State) (k : Nat) : State :=
  let s1 : State := { s with cmds := ldrop s.cmds k }
  match s.cmds[k]? with
  | some c => if ghostKey ≤ c.region ∧ s1.cmds.all (fun d => decide (d.region ≠ c.region)) then s1.unplace c.region else s1
  | none => s1

/-- The command an engine serves: that of the transfer unit under way, else the oldest of its highest class (R190). -/
def State.engineCmd (s : State) (e : Engine) : Option (Nat × Cmd) :=
  (lfind (fun c => decide (c.eng = e) && decide (c.left ≠ 0)) s.cmds 0).orElse fun _ =>
    [3, 2, 1, 0].findSome? fun (n : Nat) => lfind (fun c => decide (c.eng = e) && decide (c.cls.toNat = n)) s.cmds 0

/-- The bytes left of a command's 4 KiB transfer unit after `n` more (R190). -/
def Cmd.leftAfter (c : Cmd) (n : Nat) : Nat := (if c.left = 0 then 4096 else c.left) - n

/-- The memory lines under a list of keys. -/
def keyLines (keys : List Nat) : List Nat := linesOf (keys.filter fun q => decide (q < localKey))

/-- A write of an engine goes on once its data can cross to the homes of its lines (R244) and no read cache holds them; until then
it waits, or sends invalidations (R142). -/
def State.writeFree (s : State) (die : Nat) (keys : List Nat) (o : Option State) : Option State :=
  if !s.linesReach die (keyLines keys) then none
  else if s.linesFree none (keyLines keys) then o else s.invalidate none (keyLines keys)

/-- The data of elements of a tensor can cross to the engine that reads them (R244). -/
def State.readsReach (s : State) (e : Via) (d : Tensor) (js : List (Nat × Nat × Nat)) : Bool :=
  d.loc || js.all fun j => d.excludes j ||
    match s.viaXl e d.loc { r := true } 1 (d.place j).1 (((d.place j).2 + d.width + 7) / 8) with
    | .ok ks _ => s.linesReach e.die (keyLines ks)
    | _ => true

/-- The slot a command names. -/
def Cmd.slot (c : Cmd) : Option Nat := if c.w.getLsbD 23 then some (cfld c.w 17 6).toNat else none

/-- Bytes to subtract from a command's slot (R159). -/
def State.count (s : State) (c : Cmd) (n : Nat) (failed : Bool) (code : Nat) : State :=
  match c.slot with
  | some b => if n = 0 ∧ !failed then s
      else { s with subs := s.subs ++ [{ region := c.region, slot := b, bytes := n, failed := failed, code := BitVec.ofNat 8 code }] }
  | none => s

/-- An error token to the issuer about a command: named by the issuer's tile and slot. [DEDUCED: notes/assumptions/39.md] -/
def State.tellIssuer (s : State) (c : Cmd) (info code : Nat) (detail : Dw) : State :=
  s.errorAt c.region c.actor 0xFF info code detail

/-- The command with an error code noted: the first is kept (R305). -/
def Cmd.note (c : Cmd) (code : Nat) (failed : Bool) : Cmd :=
  { c with code := if c.code = 0 then BitVec.ofNat 8 code else c.code, err := c.err || failed }

/-- The status doubleword of a completion (R305). -/
def Cmd.status (c : Cmd) (scale : Nat) : Dw := packDw [(b2n c.err, 16), (scale, 8), (c.code.toNat, 0)]

/-- A command leaves its engine: what it owes follows, the completion token (R140) and the follow-on (R340). The token of an
RSEND goes behind its last part on the link; its `written` counts the bytes that the peer has refused so far (R401). -/
def State.finishCmd (s : State) (k : Nat) (c : Cmd) (x : Ext) (scale : Nat) : State :=
  let s1 := s.dropCmd k
  let s2 := match c.follow with
    | some (w, a) => { s1 with follows := s1.follows ++ [{ region := c.region, actor := a, issuer := c.actor, by_ := c.by_, w := w }] }
    | none => s1
  let sends := decide (opOf c.w = 10)
  let q : Completion := { region := c.region, actor := x.cta, entry := x.cth, status := c.status scale
                          bytes := if sends then c.counted - c.written else c.written
                          die := c.eng.die.getD (((s.region c.region).map fun g => g.nodeDie (.actor c.actor)).getD 0) }
  if !c.w.getLsbD 14 then s2
  else if sends then
    { s2 with remotes := s2.remotes ++
      [{ region := c.region, actor := c.actor, link := (cfld c.w 11 3).toNat, w := c.w, comp := some q }] }
  else { s2 with comps := s2.comps ++ [q] }

/-- A command that is not performed (R291, R306): an error token, its barrier settled with its whole count, and, but for a
decode error, the completion token it owes. -/
def State.refuseCmd (s : State) (k : Nat) (c : Cmd) (code info : Nat) (detail : Dw) (bytes : Nat) (x : Ext) : State :=
  let s1 := (s.tellIssuer c info code detail).count c bytes true code
  let c1 := { c.note code true with follow := none }
  if code = 0x20 then s1.dropCmd k else s1.finishCmd k c1 x 0

/-- A memory error ends a command (R159, R342): its remaining bytes fail. -/
def State.failCmd (s : State) (k : Nat) (c : Cmd) (x : Ext) (scale total kind n code : Nat) (detail : Dw) : State :=
  let s1 := (s.tellIssuer c (memInfo kind 0 n) code detail).count c (total - c.counted) true code
  s1.finishCmd k (c.note code true) x scale

/-- A page fault of a command (R133): it waits, or its window has passed and it fails. [DEDUCED: notes/assumptions/92.md] -/
def State.pageCmd (s : State) (e : Via) (k : Nat) (c : Cmd) (x : Ext) (scale total kind n va : Nat) : State :=
  let slot := ((s.actor c.region c.actor).map (·.slot)).getD 0
  match s.engineFault e.die e.tile e.asid c.region slot kind c.fault va with
  | (s1, some code, _) => s1.failCmd k c x scale total kind n code (BitVec.ofNat 64 va)
  | (s1, none, t) => s1.setCmd k { c with fault := t }

/-- The charge of `n` bytes that a command moves when it has moved `m` (R193): a credit for each 256 bytes of the command, rounded up; none
while the region's bucket is short. [DESIGN CHOICE: notes/assumptions/56.md] -/
def State.chargeBytes (s : State) (r m n : Nat) : Option State :=
  match s.region r with
  | none => none
  | some g =>
    let c := (m + n + 255) / 256 - (m + 255) / 256
    if c ≤ g.credit then some (s.setRegion r { g with credit := g.credit - c }) else none

/-- A write that a command is ordered after and that its die has not sent home: the command's accesses, which go there, wait for it (R152,
R155). [DEDUCED: notes/assumptions/11.md] -/
def State.cmdWaits (s : State) (c : Cmd) : Bool :=
  c.behind.any fun p => (s.tile p.1).port.any fun a => decide (a.id = p.2) && a.spilled.isNone && (a.onTile || a.onDie)

/-- The accesses of a command's engine. -/
def State.viaOf (s : State) (c : Cmd) (die : Nat) : Via :=
  { die := die, tile := c.tile, asid := ((s.region c.region).map (·.asid)).getD 0, sc := cfld c.w 15 2 }

/-- The descriptor at a local address, where it can be read at all. -/
def Actor.readable (x : Actor) (t : Tile) (la : BitVec 18) : Option Tensor :=
  if x.owns la.toNat 64 8 && (Fmt.ofCode (tensorAt t la.toNat).1.fmt).isSome then some (tensorAt t la.toNat).1 else none

/-- The byte count of a refused command, as far as its descriptors can be read (R159, R289). [DEDUCED: notes/assumptions/76.md] -/
def refusedBytes (x : Actor) (t : Tile) : Command → Nat
  | .cpy _ _ _ d _ | .gath _ d _ | .lstr _ _ d _ | .abrun _ d _ | .rsend _ _ d _ =>
    ((x.readable t d).map Tensor.bytes).getD 0
  | .scat _ d e =>
    if x.owns e.toNat 32 8 then
      ((x.readable t d).map fun q => ((extAt t e.toNat).1.icnt + 1) * (q.n0 * q.width / 8)).getD 0
    else 0
  | .bred op v d _ => match x.readable t v, x.readable t d with
    | some q, some _ => q.count * (if op = 9 then 4 else 8)
    | _, _ => 0
  | _ => 0

/-- The operands that a command of a known op names, whatever else in it makes it no command (R159, R291).
[DEDUCED: notes/assumptions/76.md] -/
def looseCommand (w : BitVec 128) : Option Command :=
  let a1 := cfld w 32 18
  let a2 := cfld w 64 18
  match opOf w with
  | 1 => some (.cpy false false a1 a2 none)
  | 2 => some (.gath a1 a2 (cfld w 96 18))
  | 3 => some (.scat a1 a2 (cfld w 96 18))
  | 4 => some (.bred (cfld w 10 4) a1 a2 none)
  | 8 => some (.lstr 0 a1 a2 none)
  | 9 => some (.abrun a1 a2 0)
  | 10 => some (.rsend 0 a1 a2 none)
  | _ => none

/-- The byte count of a command that does not decode, as far as it can be read (R159). [DEDUCED: notes/assumptions/76.md] -/
def State.refusedCount (s : State) (g : Region) (issuer : Nat) (w : BitVec 128) : Nat :=
  match looseCommand w, g.actor issuer with
  | some d, some u => refusedBytes u (s.tile u.tile) d
  | _, _ => 0

/-- A command at an actor's command input: one that does not decode has its barrier settled with what `refusedCount` reads
(R291). -/
def State.unitCommand (s : State) (r a op : Nat) (accepts : Nat → Bool)
    (run : State → Region → Actor → (issuer by_ : Nat) → (w : BitVec 128) → (followOn : Bool) → Option State) : Option State :=
  s.withCommand r a op accepts s.refusedCount run

end Sys2Proof.Machine
end

