-- ==== Sys2Proof/Machine/Matrix.lean ====
section
/-! DEFINITION. The matrix actor: MMA, MMAC and ACCRD, the operands it takes and the groups it adds (R61, R62, R88, R89,
R310, R311, R387 to R390). -/

namespace Sys2Proof.Machine

/-! ### What a command asks -/

/-- An MMA or MMAC: destination accumulator, clear, rounding mode, operand formats, major orders, steps of K, policy,
operand inputs (none for an A taken from an accumulator) and that accumulator with its scale. -/
structure MatCmd where
  d : Nat := 0
  clear : Bool := false
  rnd : Nat := 0
  af : Nat := 0
  bf : Nat := 0
  ac : Bool := false
  bc : Bool := false
  k : Nat := 1
  pol : BitVec 4 := 0
  ai : Option Nat := none
  bi : Nat := 0
  src : Option (Nat × Nat) := none

/-- The command that 128 bits decode to, where it is MMA or MMAC. -/
def matCmd (w : BitVec 128) : Option MatCmd :=
  match decodeCommand w with
  | some (_, .mma d c m af bf ac bc k pol ai bi) =>
    some { d := d.toNat, clear := c, rnd := m.toNat, af := af.toNat, bf := bf.toNat, ac := ac, bc := bc
           k := k.toNat + 1, pol := pol, ai := some ai.toNat, bi := bi.toNat }
  | some (_, .mmac d c m sr f e bc bf pol bi) =>
    some { d := d.toNat, clear := c, rnd := m.toNat, af := f.toNat, bf := bf.toNat, bc := bc, k := 64, pol := pol
           bi := bi.toNat, src := some (sr.toNat, e.toNat) }
  | _ => none

/-- Format codes of the FP8, FP6 and FP4 class, and of the integer class (R388). -/
def narrowFloat (c : Nat) : Bool := decide (4 ≤ c) && decide (c ≤ 8)
def narrowInt (c : Nat) : Bool := decide (c = 9) || decide (c = 10)

/-- A legal format pair (R388). -/
def legalPair (a b : Nat) : Bool :=
  (narrowFloat a && narrowFloat b) || (narrowInt a && narrowInt b) || (decide (a = b) && (decide (a = 2) || decide (a = 3)))

/-- A format that only runs along k may carry (R388). -/
def alongK (c : Nat) : Bool := decide (c = 6) || decide (c = 7) || decide (c = 8) || decide (c = 10)

/-- Clock periods of the array's occupancy (R61, R388). -/
def MatCmd.dclk (m : MatCmd) : Nat :=
  if (decide (m.af = 8) && decide (m.bf = 8)) || (decide (m.af = 10) && decide (m.bf = 10)) then (m.k + 1) / 2
  else if m.af = 2 ∨ m.af = 3 then 2 * m.k else m.k

/-- The command's charge (R193). [DEDUCED: notes/assumptions/40.md] -/
def MatCmd.charge (m : MatCmd) : Nat := (m.dclk + 31) / 32

/-- Positions along one line of an operand (R388). -/
def MatCmd.lineA (m : MatCmd) : Nat := if m.ac then 64 else m.k
def MatCmd.lineB (m : MatCmd) : Nat := if m.bc then m.k else 64

/-- Stream position of A(r, k) and of B(k, c). -/
def MatCmd.posA (m : MatCmd) (r k : Nat) : Nat := if m.ac then k * 64 + r else r * m.k + k
def MatCmd.posB (m : MatCmd) (k c : Nat) : Nat := if m.bc then c * m.k + k else k * 64 + c

/-- The open batch that runs: the one that MXSAVE has not put aside. -/
def runBatch (l : List Batch) : Option (Nat × Batch) := lfind (fun b => !b.held) l 0

/-- A matrix actor's open batches. -/
def Actor.batches (x : Actor) : List Batch :=
  match x.body with
  | .matrix l => l
  | _ => []

/-- The actor is a matrix actor. -/
def Actor.isMatrix (x : Actor) : Bool := match x.body with | .matrix _ => true | _ => false

/-- The state with a matrix actor's open batches changed. -/
def State.modBatches (s : State) (r a : Nat) (f : List Batch → List Batch) : State :=
  s.modActor r a fun x => match x.body with
    | .matrix l => { x with body := .matrix (f l) }
    | _ => x

/-- The running batch replaced, or removed. -/
def State.setBatch (s : State) (r a n : Nat) (b : Batch) : State := s.modBatches r a fun l => lset l n b
def State.endBatch (s : State) (r a n : Nat) : State := s.modBatches r a fun l => ldrop l n

/-! ### Accumulators (R62) -/

/-- Word (r, c) of an accumulator of a tile. -/
def Tile.accWord (t : Tile) (d r c : Nat) : Word := sget 0 t.acc (4096 * d + 64 * r + c)
def Tile.setAccWord (t : Tile) (d i : Nat) (v : Word) : Tile := { t with acc := sset 0 t.acc (4096 * d + i) v }

/-- Every word of an accumulator zero. -/
def Tile.clearAcc (t : Tile) (d : Nat) : Tile :=
  { t with acc := t.acc.filter fun p => decide (p.1 / 4096 ≠ d) }

/-! ### Starting a command (R387 to R390) -/

/-- A batch as its command opens it: an MMAC reads its source accumulator first (R390). -/
def MatCmd.open_ (m : MatCmd) (t : Tile) (issuer : Nat) (w : BitVec 128) : Batch :=
  match m.src with
  | none => { cmd := w, issuer := issuer }
  | some (sr, ea) =>
    let f := (Fmt.ofCode m.af).getD .e4m3
    let conv (i : Nat) : Operand :=
      if ea = 0xFF then { scale := 0xFF }
      else
        match toFormat ((Fmt.fp32.value (sget 0 t.acc (4096 * sr + i)).toNat).shift (127 - (ea : Int))) f m.pol m.rnd with
        | some y => { x := BitVec.ofNat 32 y, scale := BitVec.ofNat 8 ea }
        | none => { scale := 0xFF }
    { cmd := w, issuer := issuer, stageA := (List.range 4096).map conv, takenA := 4096, endA := true }

/-- The code that refuses a command before it takes an operand: 0x22 for an accumulator not held, 0x21 for its formats or
inputs; the info of the error token beside it. -/
def MatCmd.refusal (m : MatCmd) (x : Actor) (w : BitVec 128) : Option (Nat × Nat) :=
  let lacks (d : Nat) : Bool := !x.acc.getLsbD d
  if lacks m.d then some (0x22, m.d)
  else if (match m.src with | some (sr, _) => lacks sr | none => false) then some (0x22, (m.src.map (·.1)).getD 0)
  else if !legalPair m.af m.bf || decide (m.ai = some m.bi) || decide (m.bi = 7) || decide (m.ai = some 7) then
    some (0x21, opOf w)
  else if (m.src.isNone && alongK m.af && m.ac) || (alongK m.bf && !m.bc) then some (0x21, opOf w)
  else none

/-- The actor whose accumulators a command may name: the matrix actor, or for a command of a handler the interrupted actor, its issuer
(R62, R222). -/
def State.accHolder (s : State) (r issuer : Nat) (x : Actor) (fo : Bool) : Actor :=
  if !fo && ((x.head 7).map (·.hand)).getD false then
    match s.actor r issuer with
    | some y => if y.tile = x.tile then y else { x with acc := 0 }
    | none => { x with acc := 0 }
  else x

/-- A command taken and its batch opened, once its charge is covered (R194, R388). [DEDUCED: notes/assumptions/40.md] -/
def State.startMat (only : Bool) (s : State) (r a : Nat) (x : Actor) (issuer by_ : Nat) (w : BitVec 128) (fo : Bool) :
    Option State :=
  match matCmd w with
  | none => none
  | some m =>
    if !x.isMatrix || (runBatch x.batches).isSome then none
    else
      match m.refusal (s.accHolder r issuer x fo) w with
      | some (code, info) =>
        some ((s.modActor r a fun x => x.popCommand fo).commandError r issuer x.tile x.slot info code w)
      | none =>
        if only && !s.isHeavy r m.charge then none
        else
          (s.chargeCommand r issuer by_ m.charge).map fun s1 =>
            let s2 := s1.modActor r a fun x => x.popCommand fo
            let b := m.open_ (s2.tile x.tile) issuer w
            let s3 := if m.clear then s2.modTile x.tile fun t => t.clearAcc m.d else s2
            s3.modBatches r a fun l => l ++ [b]

/-- The ops a matrix actor accepts. -/
def matAccepts (op : Nat) : Bool := decide (op = 5) || decide (op = 6) || decide (op = 7)

/-- MMA (R387, R388): its command taken and its batch opened; MATRIX_GROUP_ADD and ENGINE_ELEMENT_STEP perform it. -/
def execMma (r a : Nat) (s : State) : Res :=
  occurIn s r (s.unitCommand r a 5 matAccepts fun s _ x i b w fo => s.startMat false r a x i b w fo)

/-- MMAC (R390). -/
def execMmac (r a : Nat) (s : State) : Res :=
  occurIn s r (s.unitCommand r a 6 matAccepts fun s _ x i b w fo => s.startMat false r a x i b w fo)

/-! ### Operand tokens (R388, R389) -/

/-- Whether a side of a batch is A. -/
def Batch.hdr (b : Batch) (isA : Bool) : Option Dw := if isA then b.hdrA else b.hdrB
def Batch.taken (b : Batch) (isA : Bool) : Nat := if isA then b.takenA else b.takenB
/-- The batch with the header of a new burst: the burst begins at the elements supplied so far. -/
def Batch.setHdr (b : Batch) (isA : Bool) (h : Option Dw) : Batch :=
  if isA then { b with hdrA := h, fromA := b.takenA } else { b with hdrB := h, fromB := b.takenB }
/-- With k more elements the open burst of a side stays within the line it began in (R388). -/
def Batch.inLine (b : Batch) (isA : Bool) (line k : Nat) : Bool :=
  decide (b.taken isA + k ≤ ((if isA then b.fromA else b.fromB) / line + 1) * line)
def Batch.supply (b : Batch) (isA : Bool) (es : List Operand) : Batch :=
  if isA then { b with stageA := b.stageA ++ es, takenA := b.takenA + es.length }
  else { b with stageB := b.stageB ++ es, takenB := b.takenB + es.length }
def Batch.ended (b : Batch) (isA : Bool) : Bool := if isA then b.endA else b.endB
def Batch.finish (b : Batch) (isA : Bool) : Batch := if isA then { b with endA := true } else { b with endB := true }

/-- Elements that the data token at an input carries: pads apart when it is the last of its burst. -/
def dataElems (w : Nat) (q : InPort) (t : Token) : List Nat :=
  let es := unpack w t.payload
  if q.left = 1 then es.take (es.length - hdrPad (q.hdr.getD 0)) else es

/-- The batch after an input has reached its element count or ended; a failed command with both ended is over. -/
def State.settleBatch (s : State) (r a n : Nat) (m : MatCmd) (b : Batch) : State :=
  let b := if 64 * m.k ≤ b.takenA then b.finish true else b
  let b := if 64 * m.k ≤ b.takenB then b.finish false else b
  if b.failed && b.endA && b.endB then s.endBatch r a n else s.setBatch r a n b

/-- The command ends with code 0x21 and goes on to discard its operands (R389). -/
def State.failBatch (s : State) (r a n : Nat) (m : MatCmd) (x : Actor) (b : Batch) : State :=
  (s.commandError r b.issuer x.tile x.slot (opOf b.cmd) 0x21 b.cmd).settleBatch r a n m { b with failed := true }

/-- A token discarded on an operand input of a failed command (R389): its elements count, an EOS ends the discarding.
[DEDUCED: notes/assumptions/40.md] -/
def State.discardOperand (s : State) (r a n : Nat) (m : MatCmd) (b : Batch) (x : Actor) (isA : Bool) (p : Nat) : Option State :=
  match x.head p with
  | none => none
  | some t =>
    if t.kind = 5 ∨ t.kind = 6 then none
    else
      let w := ((Fmt.ofCode (hdrFmt ((x.port p).hdr.getD 0))).getD .e4m3).width
      let k := if t.kind = 0 then (dataElems w (x.port p) t).length else 0
      let b1 := if isA then { b with takenA := b.takenA + k } else { b with takenB := b.takenB + k }
      let b2 := if t.kind = 2 then b1.finish isA else b1
      let s1 := s.modActor r a fun x => x.takeTracked p
      let s2 := if t.kind = 4 then s1.sendError r a t.payload else s1
      some (s2.settleBatch r a n m b2)

/-- A burst header on an operand input: of the operand's format, and an integer burst with scale 127 (R89, R389). -/
def headerFits (f : Nat) (h : Dw) : Bool :=
  decide (hdrFmt h = f) && (!narrowInt f || decide (hdrScale h = 127))

/-- A header at an operand input whose channel is not of burst type: code 0x05, and the command goes on (R364). -/
def State.strayHeader (s : State) (r a p : Nat) : Option State :=
  match s.region r, s.actor r a with
  | some g, some x =>
    match x.head p with
    | some t =>
      if t.kind = 3 && !burstType (g.inType a p) then
        some ((s.modActor r a fun x => x.takeTracked p).errorAt r a (chanField (g.chanTo a p)) p 0x05 0)
      else none
    | none => none
  | _, _ => none

/-- A token taken by an open batch on an operand input (R388, R389). [DEDUCED: notes/assumptions/40.md] -/
def State.takeOperand (s : State) (r a n : Nat) (m : MatCmd) (b : Batch) (x : Actor) (isA : Bool) (p : Nat) : Option State :=
  let f := if isA then m.af else m.bf
  let line := if isA then m.lineA else m.lineB
  match s.framing r a p with
  | some s1 => some s1
  | none =>
    match x.head p with
    | none => none
    | some t =>
      if t.kind = 5 ∨ t.kind = 6 then none
      else
        let q := x.port p
        let s1 := s.modActor r a fun x => x.takeTracked p
        if t.kind = 3 then
          if headerFits f (t.dw 0) then some (s1.setBatch r a n (b.setHdr isA (some (t.dw 0))))
          else some (s1.failBatch r a n m x b)
        else if t.kind = 0 ∧ (b.hdr isA).isSome then
          let h := (b.hdr isA).getD 0
          let es := dataElems ((Fmt.ofCode f).getD .e4m3).width q t
          if !b.inLine isA line es.length then
            some (s1.failBatch r a n m x (if isA then { b with takenA := b.takenA + es.length }
              else { b with takenB := b.takenB + es.length }))
          else
            let ops := es.zipIdx.map fun e =>
              ({ x := BitVec.ofNat 32 e.1, scale := BitVec.ofNat 8 (hdrScale h)
                 last := decide (q.left = 1) && decide (e.2 + 1 = es.length) } : Operand)
            some (s1.settleBatch r a n m (b.supply isA ops))
        else if t.kind = 1 ∧ b.taken isA = 0 ∧ (b.hdr isA).isNone then
          -- the first token of this operand is a null: one null is taken from each operand input
          let other := if isA then m.bi else m.ai.getD 8
          if m.ai.isNone then some (s1.endBatch r a n)
          else if b.taken (!isA) = 0 ∧ (b.hdr (!isA)).isNone then
            match x.head other with
            | none => none
            | some u =>
              if u.kind = 1 then some ((s1.modActor r a fun x => x.takeTracked other).endBatch r a n)
              else if u.kind = 5 ∨ u.kind = 6 then none
              else some (s1.failBatch r a n m x b)
          else some (s1.failBatch r a n m x b)
        else
          let s2 := if t.kind = 4 then s1.sendError r a t.payload else s1
          some (s2.failBatch r a n m x (if t.kind = 2 then b.finish isA else b))

/-- One operand token of a matrix actor taken: A's input first. -/
def State.matrixElement (s : State) (r a : Nat) (g : Region) (x : Actor) : Option State :=
  if !(g.serves x && x.holdsNone) then none
  else
    match runBatch x.batches with
    | none => none
    | some (n, b) =>
      match matCmd b.cmd with
      | none => none
      | some m =>
        let one (isA : Bool) (p : Nat) : Option State :=
          if b.ended isA then none
          else if let some s1 := s.strayHeader r a p then some s1
          else if b.failed then s.discardOperand r a n m b x isA p else s.takeOperand r a n m b x isA p
        match m.ai.bind (one true) with
        | some s1 => some s1
        | none => one false m.bi

/-! ### Groups (R88, R89) -/

/-- A block of A or of B ends with step k of some line. -/
def Batch.boundary (b : Batch) (m : MatCmd) (k : Nat) : Bool :=
  (List.range 64).any fun i =>
    ((b.stageA[m.posA i k]?).map (·.last)).getD false || ((b.stageB[m.posB k i]?).map (·.last)).getD false

/-- All operands of step k have been taken. -/
def Batch.hasStep (b : Batch) (m : MatCmd) (k : Nat) : Bool :=
  (List.range 64).all fun i => (b.stageA[m.posA i k]?).isSome && (b.stageB[m.posB k i]?).isSome

/-- The end of the group that starts at a batch's next step, none while an operand of it is missing: 16 steps, fewer at a
block boundary and at the end of K. The first argument counts the steps the group may still take. -/
def Batch.groupEnd (b : Batch) (m : MatCmd) : Nat → Nat → Option Nat
  | 0, k => some k
  | n + 1, k =>
    if m.k ≤ k then some k
    else if !b.hasStep m k then none
    else if b.boundary m k then some (k + 1) else b.groupEnd m n (k + 1)

/-- The exact product of two operands; one of an invalid block is a NaN (R75, R88). -/
def operandProduct (fa fb : Fmt) (pol : BitVec 4) (x y : Operand) : Val :=
  if x.scale = 0xFF ∨ y.scale = 0xFF then .canon
  else
    match (fa.operand pol x.x.toNat).mul (fb.operand pol y.x.toNat) with
    | (_, true) => .canon
    | (v, false) => v

/-- The exact sum of a group's products. -/
def sumVals (mode : Nat) : List Val → Val
  | [] => .zero
  | [v] => v
  | v :: l =>
    match v.add (sumVals mode l) mode with
    | (_, true) => .canon
    | (u, false) => u

/-- An FP32 accumulator word after a group (R88): one rounding, no flush, the canonical NaN, an infinity on overflow. -/
def accFloat (old : Word) (v : Val) (mode : Nat) : Word :=
  match (Fmt.fp32.value old.toNat).add v mode with
  | (_, true) => BitVec.ofNat 32 ((Fmt.fp32.canonNaN).getD 0)
  | (u, false) =>
    if u.isNaN then BitVec.ofNat 32 ((Fmt.fp32.canonNaN).getD 0)
    else
      let (y, fl) := toFormatF u .fp32 0 mode
      BitVec.ofNat 32 (if fl.overflow then Fmt.fp32.infBits u.sign else y.getD 0)

/-- Saturation at the 32-bit limits (R89). -/
def sat32 (i : Int) : Word := BitVec.ofInt 32 (max (-2147483648) (min i 2147483647))

/-- Accumulator word i after the group of steps [k0, k1). [DEDUCED: notes/assumptions/40.md] -/
def Batch.addWord (b : Batch) (m : MatCmd) (k0 k1 i : Nat) (old : Word) : Word :=
  let fa := (Fmt.ofCode m.af).getD .e4m3
  let fb := (Fmt.ofCode m.bf).getD .e4m3
  let r := i / 64
  let c := i % 64
  let ks := (List.range (k1 - k0)).map (k0 + ·)
  let opA (k : Nat) : Operand := (b.stageA[m.posA r k]?).getD {}
  let opB (k : Nat) : Operand := (b.stageB[m.posB k c]?).getD {}
  if narrowInt m.af then
    let sum := ks.foldl (fun acc k =>
      acc + sextNat (opA k).x.toNat fa.width * sextNat (opB k).x.toNat fb.width) (0 : Int)
    sat32 (old.toInt + sum)
  else
    let v := sumVals m.rnd (ks.map fun k => operandProduct fa fb m.pol (opA k) (opB k))
    accFloat old (v.shift (((opA k0).scale.toNat : Int) - 127 + ((opB k0).scale.toNat : Int) - 127)) m.rnd

/-- A group added to all 4,096 words of an accumulator; the first argument counts the words still to do. -/
def Tile.addGroup (b : Batch) (m : MatCmd) (k0 k1 : Nat) : Nat → Tile → Tile
  | 0, t => t
  | n + 1, t => Tile.addGroup b m k0 k1 n (t.setAccWord m.d n (b.addWord m k0 k1 n (t.accWord m.d 0 n)))

/-- One group of an open batch added (R88). -/
def State.groupAdd (s : State) (r a : Nat) : Option State :=
  match s.region r with
  | none => none
  | some g =>
    match g.actor a with
    | none => none
    | some x =>
      if !(g.launch.isSome && (decide (x.cut = .run) || decide (x.cut = .finish)) && x.holdsNone) then none
      else
        match runBatch x.batches with
        | none => none
        | some (n, b) =>
          match matCmd b.cmd with
          | none => none
          | some m =>
            if b.failed then none
            else
              match b.groupEnd m 16 b.nextK with
              | none => none
              | some e =>
                let s1 := s.modTile x.tile (Tile.addGroup b m b.nextK e 4096)
                some (if m.k ≤ e then s1.endBatch r a n else s1.setBatch r a n { b with nextK := e })

/-- MATRIX_GROUP_ADD (R88). -/
def execMatrixGroupAdd (r a : Nat) (s : State) : Res := occurIn s r (s.groupAdd r a)

/-! ### ACCRD (R310, R311) -/

/-- An ACCRD: accumulator, clear, rounding, format code, scale adjustment, block length, policy and output. -/
structure AccRead where
  d : Nat := 0
  clear : Bool := false
  rnd : Nat := 0
  f : Nat := 0
  sadj : Int := 0
  len : Nat := 1
  pol : BitVec 4 := 0
  out : Nat := 0

/-- The command that 128 bits decode to, where it is ACCRD. -/
def accRead (w : BitVec 128) : Option AccRead :=
  match decodeCommand w with
  | some (_, .accrd d c m f sj b pol o) =>
    some { d := d.toNat, clear := c, rnd := m.toNat, f := f.toNat, sadj := sj.toInt, len := b.toNat + 1, pol := pol
           out := o.toNat }
  | _ => none

/-- The greatest magnitude among the finite values of a list; zero if there is none. -/
def maxMag (l : List Val) : Val :=
  l.foldl (fun m v => match v with
    | .fin _ n d => if m.lt (.fin false n d) then .fin false n d else m
    | _ => m) .zero

/-- The exponent of a block that is scaled to a format by its greatest magnitude (R310, R339). -/
def scaleFor (f : Fmt) (m : Val) : Int :=
  match m with
  | .fin _ n d => if n = 0 then 127 else log2Rat n d - f.emax + 127
  | _ => 127

/-- Elements of a block in a format under a scale, none where a result is INVALID (R81). -/
def scaleBlock (f : Fmt) (e : Int) (pol : BitVec 4) (rnd : Nat) : List Val → Option (List Nat)
  | [] => some []
  | v :: l =>
    match toFormat (v.shift (127 - e)) f pol rnd, scaleBlock f e pol rnd l with
    | some y, some ys => some (y :: ys)
    | _, _ => none

/-- The block of an ACCRD at a position of the accumulator: its header word and the payloads of its data tokens. -/
def AccRead.block (c : AccRead) (t : Tile) (pos : Nat) : Dw × List (List Dw) :=
  let f := (Fmt.ofCode c.f).getD .fp32
  let n := min c.len (4096 - pos)
  let xs := (List.range n).map fun i => Fmt.fp32.value (sget 0 t.acc (4096 * c.d + pos + i)).toNat
  let m := maxMag xs
  let fixed := decide (f = .fp32) || decide (f = .bf16) || decide (f = .fp16) || m.isZero
  let e : Int := (if fixed then 127 else scaleFor f m) + c.sadj
  let lot := decide (4096 ≤ pos + n)
  let tag := pos / c.len % 65536
  let bad := mkBurst f c.f 0xFF lot tag (xs.map fun _ => 0)
  if e < 0 ∨ 254 < e then bad
  else
    match scaleBlock f e c.pol c.rnd xs with
    | some ys => mkBurst f c.f e.toNat lot tag ys
    | none => bad

/-- The code that refuses an ACCRD (R311). -/
def AccRead.refusal (c : AccRead) (g : Region) (a : Nat) (x : Actor) (w : BitVec 128) : Option (Nat × Nat) :=
  if !x.acc.getLsbD c.d then some (0x22, c.d)
  else if (Fmt.ofCode c.f).isNone || decide (c.f = 1) || decide (g.outType a c.out ≠ 0x20 + c.f) then some (0x21, opOf w)
  else none

/-- The next token of an ACCRD in progress; after the last the accumulator is cleared where the command asks. A block's
header goes first, then its data tokens, `nextK` counting the positions sent. -/
def State.accStep (s : State) (r a : Nat) (g : Region) (x : Actor) (n : Nat) (b : Batch) (c : AccRead) : Option State :=
  if !g.outReady a c.out then none
  else
    let per := perToken ((Fmt.ofCode c.f).getD .fp32).width
    let start := b.nextK / c.len * c.len
    let (h, ps) := c.block (s.tile x.tile) start
    match b.hdrA with
    | none => some ((s.setBatch r a n { b with hdrA := some h }).sendOn r a c.out 3 [h])
    | some _ =>
      let len := min c.len (4096 - start)
      let done := min (b.nextK - start + per) len
      let s1 := s.sendOn r a c.out 0 ((ps[(b.nextK - start) / per]?).getD [0])
      let b1 := { b with nextK := start + done, hdrA := if done = len then none else b.hdrA }
      if 4096 ≤ start + done then
        let s2 := s1.endBatch r a n
        some (if c.clear then s2.modTile x.tile fun t => t.clearAcc c.d else s2)
      else some (s1.setBatch r a n b1)

/-- ACCRD (R310): its command is taken when every earlier one is complete, and then sends one token at a time. -/
def State.accRead (s : State) (r a : Nat) : Option State :=
  match s.region r with
  | none => none
  | some g =>
    match g.actor a with
    | none => none
    | some x =>
      match runBatch x.batches with
      | some (n, b) =>
        match Sys2Proof.Machine.accRead b.cmd with
        | some c => if g.serves x && x.holdsNone then s.accStep r a g x n b c else none
        | none => none
      | none =>
        s.unitCommand r a 7 matAccepts fun s g x i _ w fo =>
          match Sys2Proof.Machine.accRead w with
          | none => none
          | some c =>
            if !x.isMatrix then none
            else
              let s1 := s.modActor r a fun x => x.popCommand fo
              match c.refusal g a (s.accHolder r i x fo) w with
              | some (code, info) => some (s1.commandError r i x.tile x.slot info code w)
              | none => some (s1.modBatches r a fun l => l ++ [{ cmd := w, issuer := i }])

def execAccrd (r a : Nat) (s : State) : Res := occurIn s r (s.accRead r a)

end Sys2Proof.Machine
end

