-- ==== Sys2Proof/Machine/MemActor.lean ====
section
/-! DEFINITION. Memory actors: the elements they load and store and the ends of their streams (R32, R126, R134, R136, R427). -/

namespace Sys2Proof.Machine

/-! ### Addresses (R300, R427) -/

/-- Bytes of an element, and whether a load widens it to a doubleword. -/
def MemGen.bytes (m : MemGen) : Nat := sizeBytes m.size

/-- Positions of one pass of the sequence. -/
def MemGen.count (m : MemGen) : Nat := m.counts.foldl (· * ·) 1

/-- Positions under the enable or pass in force. [DEDUCED: notes/assumptions/29.md] -/
def MemGen.total (m : MemGen) : Nat := if m.self then m.span * m.count else m.count

/-- The address of a position, dimension 0 fastest. -/
def affineVa : List (Nat × Dw) → Nat → Dw → Dw
  | [], _, va => va
  | (c, st) :: l, i, va => affineVa l (i / c) (va + BitVec.ofNat 64 (i % c) * st)

def MemGen.va (m : MemGen) (i : Nat) : Dw := affineVa (m.counts.zip m.strides) (i % m.count) m.base

/-- The address of an index. -/
def MemGen.indexed_ (m : MemGen) (i : Nat) : Dw := m.base + BitVec.ofNat 64 (i * m.bytes)

/-! ### Elements -/

/-- The state with a memory actor's generator changed. -/
def State.modGen (s : State) (r a : Nat) (f : MemGen → MemGen) : State :=
  s.modActor r a fun x => match x.body with
    | .memory m => { x with body := .memory (f m) }
    | _ => x

/-- An element's access at the tile's memory port, under the declared scope. -/
def State.pushElem (s : State) (r a : Nat) (g : Region) (x : Actor) (m : MemGen) (va : Dw) (data : Option (List Byte)) : State :=
  let kind : ReqKind := match data with
    | some _ => .write m.bytes
    | none => .read m.bytes (decide (8 ≤ m.size))
  let y := (s.actor r a).getD x
  let acc : Access :=
    { id := s.nextId, region := r, actor := a, asid := g.asid, kind := kind, va := va, data := data.getD [], sc := m.sc
      after := y.fence.all, behind := s.carried y, elem := some m.strm }
  let s1 : State := { s with nextId := s.nextId + 1 }
  (s1.modTile x.tile fun t => { t with port := t.port ++ [acc] }).modGen r a fun m => { m with strm := m.strm + 1 }

/-- The bytes an element stores: the first of the payload, zeros beyond it. -/
def MemGen.data (m : MemGen) (t : Token) : List Byte := (dwsBytes t.payload ++ List.replicate m.bytes 0).take m.bytes

/-- The info of code 0x14 (R126, R135, R427). -/
def MemGen.info (m : MemGen) : Nat := memInfo (if m.store then 1 else 0) 0 m.bytes

/-- A load's element at an index, or code 0x14 at its position (R126). -/
def State.loadIndex (s : State) (r a : Nat) (g : Region) (x : Actor) (m : MemGen) (i : Nat) : State :=
  if i < m.bound then s.pushElem r a g x m (m.indexed_ i) none
  else
    let p := errPayload g.asid 0xFF x.tile x.slot m.info 0x14 (BitVec.ofNat 64 i)
    (s.modGen r a fun m => { m with strm := m.strm + 1 }).deliverElem r a m.strm 4 p

/-- The index that a token carries: its last doubleword. -/
def Token.index (t : Token) : Nat := ((t.payload.getLast?).getD 0).toNat

/-- Room for one more element: at most 64 fetched or held beyond the oldest undelivered one (R134).
[DESIGN CHOICE: notes/assumptions/42.md] -/
def State.elemRoom (s : State) (r a : Nat) (x : Actor) (m : MemGen) : Bool :=
  decide (((s.tile x.tile).elemsOf r a).length + m.held.length < 64)

/-- No element of the actor is under way. -/
def State.elemsDone (s : State) (r a : Nat) (x : Actor) (m : MemGen) : Bool :=
  decide ((s.tile x.tile).elemsOf r a = []) && decide (m.held = [])

/-! ### Tokens other than data (R27, R29, R32, R136) -/

/-- A null at a named head consumes a position and leaves a null; an error is copied; a header is latched or reported. -/
def State.memSpecial (s : State) (r a : Nat) (g : Region) (x : Actor) (m : MemGen) (ins outs : List Nat) : Option State :=
  if !s.elemsDone r a x m then none
  else
    match s.errorStep r a g x ins outs with
    | some s1 => some s1
    | none =>
      if decide (x.headsOf ins 1 ≠ []) && ins.all x.hasPosition && decide (x.headsOf ins 2 = []) &&
          decide (x.headsOf ins 4 = []) && g.outsFree a outs then
        some ((s.modActor r a fun x => x.takePositions ins).sendAll r a 1 [0] outs)
      else s.headerStep r a g x ins outs

/-- EOS at every named input: an affine load's is consumed, another's waits to be forwarded (R427). -/
def State.memEos (s : State) (r a : Nat) (x : Actor) (m : MemGen) (ins : List Nat) : Option State :=
  if ins.all fun p => decide (x.headKind p = some 2) && !(x.port p).drop then
    let s1 := s.modActor r a fun x => x.popPorts ins
    some (if m.store || m.indexed then s1.modGen r a fun m => { m with eos := some (x.anyErr ins) } else s1)
  else none

/-- The actor may take a token: active, no stream being discarded, no EOS waiting, room for an element. -/
def State.memReady (s : State) (r a : Nat) (g : Region) (x : Actor) (m : MemGen) (ins : List Nat) : Bool :=
  g.active x && m.eos.isNone && !(ins.any fun p => (x.port p).drop) && s.elemRoom r a x m && s.framed r a x ins

/-! ### Loads -/

/-- One step of a load memory actor: a held element leaves, a pass goes on, or a token is taken. -/
def State.memLoad (s : State) (r a : Nat) : Option State :=
  match s.region r with
  | none => none
  | some g =>
    match g.actor a with
    | none => none
    | some x =>
      match x.body with
      | .memory m =>
        if m.store then none
        else
          match s.flushHeld r a with
          | some s1 => some s1
          | none =>
            let (ins, outs) := s.engineNamed g a x
            if m.pass then
              if m.total ≤ m.pos then some (s.modGen r a fun m => { m with pass := false, eos := some false })
              else if g.active x && !x.srcCut && s.elemRoom r a x m && g.outReady a 0 then
                some ((s.pushElem r a g x m (m.va m.pos) none).modGen r a fun m => { m with pos := m.pos + 1 })
              else none
            else if m.self then none
            else
              match ins.findSome? (s.framing r a) with
              | some s1 => if g.active x then some s1 else none
              | none =>
                if !s.memReady r a g x m ins then none
                else if x.isData 0 then
                  if !g.outReady a 0 then none
                  else
                    let t := (x.head 0).getD {}
                    let s1 := s.modActor r a fun x => x.takeTracked 0
                    if !m.indexed then some (s1.modGen r a fun m => { m with pass := true, pos := 0 })
                    else if t.kind = 7 then
                      some ((s1.loadIndex r a g x m (t.dw 2).toNat).modGen r a fun m => { m with eos := some false })
                    else some (s1.loadIndex r a g x m t.index)
                else
                  match s.memEos r a x m ins with
                  | some s1 => some s1
                  | none => s.memSpecial r a g x m ins outs
      | _ => none

/-- MEMORY_ACTOR_LOAD (R427). -/
def execMemoryActorLoad (r a : Nat) (s : State) : Res := occurIn s r (s.memLoad r a)

/-! ### Stores -/

/-- An affine store of one token at the next position of its stream; beyond the last, code 0x14 on the error port.
[DESIGN CHOICE: notes/assumptions/107.md] -/
def State.storeNext (s : State) (r a : Nat) (g : Region) (x : Actor) (m : MemGen) (t : Token) : State :=
  if m.count ≤ m.pos then
    (s.errorAt r a 0xFF m.info 0x14 (BitVec.ofNat 64 m.pos)).modGen r a fun m => { m with pos := m.pos + 1 }
  else (s.pushElem r a g x m (m.va m.pos) (some (m.data t))).modGen r a fun m => { m with pos := m.pos + 1 }

/-- An indexed store of one token; an index outside the bound gives code 0x14 on the error port (R126, R136). -/
def State.storeIndex (s : State) (r a : Nat) (g : Region) (x : Actor) (m : MemGen) (i : Nat) (t : Token) : State :=
  if i < m.bound then s.pushElem r a g x m (m.indexed_ i) (some (m.data t))
  else s.errorAt r a 0xFF m.info 0x14 (BitVec.ofNat 64 i)

/-- An input acts as having taken its EOS: a launch token is a stream of its own (R427). -/
def Actor.noteEos (x : Actor) (p : Nat) : Actor :=
  let q := x.port p
  x.setPort p { q with eosSeen := true, sinkDone := q.sinkDone || q.sink, taken := 0 }

/-- One step of a store memory actor. -/
def State.memStore (s : State) (r a : Nat) : Option State :=
  match s.region r with
  | none => none
  | some g =>
    match g.actor a with
    | none => none
    | some x =>
      match x.body with
      | .memory m =>
        if !m.store then none
        else
          let (ins, outs) := s.engineNamed g a x
          match ins.findSome? (s.framing r a) with
          | some s1 => if g.active x then some s1 else none
          | none =>
            if !s.memReady r a g x m ins then none
            else if ins.all x.isData then
              if !g.outsFree a outs then none
              else
                let t := (x.head 0).getD {}
                let s1 := s.modActor r a fun x => ins.foldl Actor.takeTracked x
                if m.indexed then some (s1.storeIndex r a g x m t.index ((x.head 1).getD {}))
                else if t.kind = 7 then
                  some (((s1.storeNext r a g x m t).modActor r a fun x => x.noteEos 0).modGen r a fun m =>
                    { m with eos := some false })
                else some (s1.storeNext r a g x m t)
            else
              match s.memEos r a x m ins with
              | some s1 => some s1
              | none => s.memSpecial r a g x m ins outs
      | _ => none

/-- MEMORY_ACTOR_STORE (R427). -/
def execMemoryActorStore (r a : Nat) (s : State) : Res := occurIn s r (s.memStore r a)

/-! ### The end of a stream (R32, R134) -/

/-- Every element of the stream is delivered, or every store of it accepted at the declared scope. -/
def State.streamSettled (s : State) (r a : Nat) (x : Actor) (m : MemGen) : Bool :=
  decide (m.held = []) &&
    ((s.tile x.tile).elemsOf r a).all fun b => m.store && b.spilled.isNone && b.performed m.sc.toNat

/-- MEMORY_ACTOR_EOS_FORWARD (R32): the EOS leaves; a load that runs its own sequence reports done (R36). -/
def State.memForward (s : State) (r a : Nat) : Option State :=
  match s.region r with
  | none => none
  | some g =>
    match g.actor a with
    | none => none
    | some x =>
      match x.body with
      | .memory m =>
        match m.eos with
        | none => none
        | some err =>
          let outs := (s.engineNamed g a x).2
          if g.active x && s.streamSettled r a x m && g.outsFree a outs then
            let s1 := s.modGen r a fun m => { m with eos := none, strm := 0, pos := 0, enabled := false }
            let s2 := s1.eosAll r a err outs
            some (if m.self then s2.modRegion r fun g => g.sendDone (.actor a) (m.first + m.span - 1) else s2)
          else none
      | _ => none

def execMemoryActorEosForward (r a : Nat) (s : State) : Res := occurIn s r (s.memForward r a)

end Sys2Proof.Machine
end

