-- ==== Sys2Proof/Machine/Lanes.lean ====
section
/-! DEFINITION. The lane row: element groups through a segment's lanes, and each lane operation on elements (R56 to R60, R90,
R351, R367 to R370, R374, R375, R377 to R383). Elements are encodings in the lane's format. -/

namespace Sys2Proof.Machine

/-! ### One element -/

/-- An exact integer narrowed to a format: saturated with sat, else wrapped (R351). -/
def intResult (f : Fmt) (pol : BitVec 4) (i : Int) : Nat :=
  let lim : Int := (2 ^ (f.width - 1) : Nat)
  if polSat pol then lowBits (max (-lim) (min i (lim - 1))) f.width else lowBits i f.width

/-- An exact float result under RNE and the policy, without flags (R351). -/
def laneRound (f : Fmt) (pol : BitVec 4) (v : Val × Bool) : Nat :=
  if v.2 then (f.canonNaN).getD 0 else (toFormat v.1 f pol 0).getD 0

/-- A two-operand arithmetic operation on elements: exact on integers, one rounding on floats. -/
def laneArith (f : Fmt) (pol : BitVec 4) (i : Int → Int → Int) (v : Val → Val → Val × Bool) (a b : Nat) : Nat :=
  if f.isInt then intResult f pol (i (sextNat a f.width) (sextNat b f.width))
  else laneRound f pol (v (f.operand pol a) (f.operand pol b))

/-- LADD, LSUB and LMUL of one element (R368). -/
def laneAdd (f : Fmt) (pol : BitVec 4) : Nat → Nat → Nat := laneArith f pol (· + ·) fun x y => x.add y 0
def laneSub (f : Fmt) (pol : BitVec 4) : Nat → Nat → Nat :=
  laneArith f pol (· - ·) fun x y => x.add (if y.isNaN then y else y.neg) 0
def laneMul (f : Fmt) (pol : BitVec 4) : Nat → Nat → Nat := laneArith f pol (· * ·) fun x y => x.mul y

/-- LFMA of one element (R368). -/
def laneFma (f : Fmt) (pol : BitVec 4) (a b c : Nat) : Nat :=
  if f.isInt then intResult f pol (sextNat a f.width * sextNat b f.width + sextNat c f.width)
  else laneRound f pol ((f.operand pol a).fma (f.operand pol b) (f.operand pol c) 0)

/-- LMIN and LMAX of one element (R368). -/
def laneMin (f : Fmt) (pol : BitVec 4) (a b : Nat) : Nat := (minMax false f pol a b).1
def laneMax (f : Fmt) (pol : BitVec 4) (a b : Nat) : Nat := (minMax true f pol a b).1

/-- 1 in a format (R369). -/
def laneOne (f : Fmt) : Nat := if f.isInt then 1 else (toFormat (.ofInt 1) f 0 0).getD 0

/-- LCMP of one element (R369): 0 eq, 1 lt, 2 le, 3 uo, 4 ne. -/
def laneCmp (f : Fmt) (pol : BitVec 4) (rel a b : Nat) : Nat :=
  let x := f.operand pol a
  let y := f.operand pol b
  let h := if rel = 4 then !(compare 0 x y).1 else (compare rel x y).1
  if h then laneOne f else 0

/-- LCVT of one element (R370). -/
def laneCvt (f : Fmt) (pol : BitVec 4) (param a : Nat) : Nat :=
  match Fmt.ofCode (param % 32) with
  | none => a
  | some d =>
    (toFormat ((f.operand pol a).shift (sextNat (bitsAt param 7 8) 8)) d pol (bitsAt param 5 2)).getD 0

/-- LPASS of one element (R377). -/
def lanePass (f : Fmt) (pol : BitVec 4) (a : Nat) : Nat :=
  if f.isInt then a else (toFormat (f.operand pol a) f pol 0).getD 0

/-- LSCALE of one element under a block scale (R381). -/
def laneScale (f : Fmt) (pol : BitVec 4) (e a b : Nat) : Nat :=
  if e = 0xFF then (f.canonNaN).getD 0
  else
    let v := (f.operand pol a).mul (f.operand pol b)
    laneRound f pol (v.1.shift ((e : Int) - 127), v.2)

/-- LSHF of one integer element (R383). -/
def laneShiftInt (f : Fmt) (pol : BitVec 4) (a b : Nat) : Nat :=
  let x := sextNat a f.width
  let n := sextNat b f.width
  if 0 ≤ n then
    if f.width ≤ n.toNat then
      (if polSat pol then intResult f pol (x * (2 ^ f.width : Nat)) else 0)
    else intResult f pol (x * (2 ^ n.toNat : Nat))
  else lowBits (Int.fdiv x ((2 ^ min f.width (-n).toNat : Nat) : Int)) f.width

/-- LSHF of one float element (R383). Shifts beyond every format's range are clamped. [DEDUCED: notes/assumptions/33.md] -/
def laneShiftFloat (f : Fmt) (pol : BitVec 4) (a b : Nat) : Nat :=
  let x := f.operand pol a
  let y := f.operand pol b
  if x.isNaN then (nanOf x f pol).getD 0
  else
    match y with
    | .nan .. => (nanOf y f pol).getD 0
    | .inf s => laneRound f pol ((Val.inf s).mul x)
    | _ => laneRound f pol (x.shift (max (-2000) (min y.trunc 2000)), false)

/-- LSHF (R383). -/
def laneShift (f : Fmt) (pol : BitVec 4) (a b : Nat) : Nat :=
  if f.isInt then laneShiftInt f pol a b else laneShiftFloat f pol a b

/-- A function of R356 on one element under RNE (R375). -/
def laneFn (fn : Val → Fmt → BitVec 4 → Nat → Nat → Option Nat × Flags) (f : Fmt) (pol : BitVec 4) (a : Nat) : Nat :=
  ((fn (f.operand pol a) f pol 0 a).1).getD 0

def laneExp2 (f : Fmt) (pol : BitVec 4) : Nat → Nat := laneFn exp2 f pol
def laneLog (f : Fmt) (pol : BitVec 4) : Nat → Nat := laneFn log2 f pol
def laneRcp (f : Fmt) (pol : BitVec 4) : Nat → Nat := laneFn (fun v f p m _ => recip v f p m) f pol
def laneRsq (f : Fmt) (pol : BitVec 4) : Nat → Nat := laneFn (fun v f p m _ => recipSqrt v f p m) f pol

/-! ### Operands of a lane (R57) -/

/-- What a lane's turn works with: its tile, segment, input format, place and word. -/
structure LaneCtx where
  t : Tile
  seg : LaneSeg
  inF : Fmt
  i : Nat
  w : LaneWord
  deriving DecidableEq, Repr

/-- The format that enters the lane, and the segment's group size. -/
def LaneCtx.fmt (c : LaneCtx) : Fmt := c.t.fmtIn c.seg.first c.inF (c.i - c.seg.first)
def LaneCtx.size (c : LaneCtx) : Nat := c.t.groupSize c.seg c.inF

/-- The operand that a select names at position `j` of a group (R57, R351); the lane's own value before its first group is zero.
[DESIGN CHOICE: notes/assumptions/30.md] -/
def LaneCtx.operand (c : LaneCtx) (g : Group) (sel j : Nat) : Nat :=
  let at_ (l : List Word) : Nat := (l.getD j 0).toNat
  match sel with
  | 0 => at_ g.prev
  | 1 => at_ g.x
  | 2 => at_ g.y
  | 3 => c.t.param c.w % 2 ^ c.fmt.width
  | 4 => (toFormat (.ofInt (sextNat c.w.p.toNat 10)) c.fmt c.w.pol 0).getD 0
  | 5 => at_ (c.t.laneSt c.i).own
  | 6 => at_ g.prev2
  | _ => 0

def LaneCtx.a (c : LaneCtx) (g : Group) (j : Nat) : Nat := c.operand g c.w.sa.toNat j
def LaneCtx.b (c : LaneCtx) (g : Group) (j : Nat) : Nat := c.operand g c.w.sb.toNat j
def LaneCtx.c_ (c : LaneCtx) (g : Group) (j : Nat) : Nat := c.operand g c.w.sc.toNat j

/-- Elements as stored. -/
def words (l : List Nat) : List Word := l.map (BitVec.ofNat 32)

/-- A result for every position of a group. -/
def Group.each (g : Group) (f : Nat → Nat) : List Word := words ((List.range g.len).map f)

/-- Operand A of a group's elements. -/
def LaneCtx.as_ (c : LaneCtx) (g : Group) : List Nat := (List.range g.len).map (c.a g)

/-- What a lane's turn yields: its tile, the group that goes on, results for the outputs, and tokens sent apart. -/
structure LaneOut where
  t : Tile
  g : Group
  res : List Word := []
  toks : List (Nat × Token) := []
  deriving DecidableEq, Repr

/-- The positions of a group that its operands make derive from an invalid block or a poisoned unit, `own` being those of the lane's own
value (R75, R342). -/
def derives (w : LaneWord) (own : BitVec 32) (g : Group) : BitVec 32 :=
  (laneSels w).foldl (fun m sel => m ||| (match sel with
    | 0 => g.bad | 1 => g.badX | 2 => g.badY | 5 => own | 6 => g.bad2 | _ => 0)) 0

def LaneCtx.derives (c : LaneCtx) (g : Group) : BitVec 32 := Machine.derives c.w (c.t.laneSt c.i).ownBad g

/-- A group's results, with the positions that derive from an invalid block. -/
def LaneCtx.gives (c : LaneCtx) (g : Group) (t : Tile) (bad : BitVec 32) (r : List Word) : LaneOut :=
  { t := t.setLaneSt c.i { t.laneSt c.i with own := r, ownBad := bad }
    g := { g with prev2 := g.prev, prev := r, bad2 := g.bad, bad := bad }, res := r }

/-- A plain element-wise result. -/
def LaneCtx.plain (c : LaneCtx) (g : Group) (f : Nat → Nat) : LaneOut :=
  if g.void then { t := c.t, g := g } else c.gives g c.t (c.derives g) (g.each f)

/-- A group that a lane emits in place of the one it took. -/
def LaneCtx.emits (c : LaneCtx) (g : Group) (t : Tile) (bad : BitVec 32) (r : List Word) : LaneOut :=
  c.gives { g with void := false, len := r.length, valid := r.length } t bad r

/-- A group whose elements a lane keeps. -/
def LaneCtx.keeps (_c : LaneCtx) (g : Group) (t : Tile) : LaneOut := { t := t, g := { g with void := true } }

/-! ### Accumulating lanes (R90, R367, R374, R379, R380) -/

/-- Groups that an accumulating lane takes for each one it emits (R367, R379). -/
def accGroups (t : Tile) (w : LaneWord) : Nat := if w.op = 19 then t.param w % 4096 + 1 else bitsAt (t.param w) 2 12 + 1

/-- The positions of an accumulation after a group: LRED has the one result. -/
def accBad (w : LaneWord) (st : LaneSt) (b : BitVec 32) : BitVec 32 :=
  if w.op = 19 then st.bad ||| b else if st.bad ||| b = 0 then 0 else 1

/-- LACC (R367); a sum that holds elements of an invalid block derives from it (R75). [DESIGN CHOICE: notes/assumptions/30.md] -/
def LaneCtx.lacc (c : LaneCtx) (g : Group) : LaneOut :=
  let st := c.t.laneSt c.i
  let n := accGroups c.t c.w
  let gs := c.size
  let acc := words ((List.range gs).map fun j =>
    let o := (st.acc.getD j 0).toNat
    if !g.void && decide (j < g.valid) then laneAdd c.fmt c.w.pol o (c.a g j) else o)
  let cnt := if g.void then st.cnt else st.cnt + 1
  let bad := accBad c.w st (if g.void then 0 else c.derives g)
  if cnt = n ∨ (g.flush ∧ cnt ≠ 0) then
    c.emits g (c.t.setLaneSt c.i { st with acc := [], cnt := 0, bad := 0 }) bad acc
  else c.keeps g (c.t.setLaneSt c.i { st with acc := if cnt = 0 then [] else acc, cnt := cnt, bad := bad })

/-- One step of LRED's operation (R379). -/
def redStep (op : Nat) (f : Fmt) (pol : BitVec 4) : Nat → Nat → Nat :=
  match op with
  | 0 => laneAdd f pol
  | 1 => laneMax f pol
  | _ => laneMin f pol

/-- LRED (R379): the first element starts the partial result. -/
def LaneCtx.lred (c : LaneCtx) (g : Group) : LaneOut :=
  let st := c.t.laneSt c.i
  let p := c.t.param c.w
  let n := accGroups c.t c.w
  let es := if g.void then [] else (c.as_ g).take g.valid
  let part := es.foldl (fun (o : Option Nat) x => some (match o with
    | none => x
    | some y => redStep (p % 4) c.fmt c.w.pol y x)) (if st.cnt = 0 then none else some st.part.toNat)
  let cnt := if g.void then st.cnt else st.cnt + 1
  let v := BitVec.ofNat 32 (part.getD 0)
  let bad := accBad c.w st (if g.void then 0 else c.derives g)
  if cnt = n ∨ (g.flush ∧ cnt ≠ 0) then
    c.emits g (c.t.setLaneSt c.i { st with part := 0, cnt := 0, bad := 0 }) bad (v :: List.replicate (c.size - 1) 0)
  else c.keeps g (c.t.setLaneSt c.i { st with part := v, cnt := cnt, bad := bad })

/-- One element of LROW (R380): the maximum m and the sum s as FP32 encodings. -/
def rowStep (pol : BitVec 4) (ms : Nat × Nat) (x : Nat) : Nat × Nat :=
  let f : Fmt := .fp32
  let (m, s) := ms
  let v := f.operand pol x
  let mv := f.value m
  let one := laneOne f
  let nan := 0x7FC00000
  if v.isNaN || mv.isNaN then (nan, nan)
  else if decide (v = .inf true) then (m, s)
  else
    let xb := (toFormat v f 0 0).getD x
    if mv.lt v then (xb, laneAdd f pol (laneMul f pol s (laneExp2 f pol (laneSub f pol m xb))) one)
    else (m, laneAdd f pol s (if v.eqv mv then one else laneExp2 f pol (laneSub f pol xb m)))

/-- The statistics token of a row (R380). -/
def rowToken (ms : Nat × Nat) : Nat × Token := (1, { payload := [packDw [(ms.1, 0), (ms.2, 32)]] })

/-- The state in which a row starts. -/
def rowStart : Nat × Nat := (0xFF800000, 0)

/-- Elements taken into rows of `len`, with the statistics of each row that ends. -/
def rowRun (pol : BitVec 4) (len : Nat) : List Nat → (Nat × Nat) → Nat → (Nat × Nat) × Nat × List (Nat × Token)
  | [], ms, k => (ms, k, [])
  | x :: l, ms, k =>
    let ms1 := rowStep pol ms x
    if k + 1 = len then
      let r := rowRun pol len l rowStart 0
      (r.1, r.2.1, rowToken ms1 :: r.2.2)
    else rowRun pol len l ms1 (k + 1)

/-- LROW (R380): the data pass unchanged; a partial row at an EOS sends its statistics.
[DESIGN CHOICE: notes/assumptions/30.md] -/
def LaneCtx.lrow (c : LaneCtx) (g : Group) : LaneOut :=
  let st := c.t.laneSt c.i
  let len := c.t.param c.w % 4096 + 1
  let es := if g.void then [] else (c.as_ g).take g.valid
  let start := if st.idx = 0 then rowStart else (st.m.toNat, st.s.toNat)
  let (ms, k, toks) := rowRun c.w.pol len es start st.idx
  let toks := if g.flush ∧ k ≠ 0 then toks ++ [rowToken ms] else toks
  let k := if g.flush then 0 else k
  let ms := if k = 0 then rowStart else ms
  let t := c.t.setLaneSt c.i { st with idx := k, m := BitVec.ofNat 32 ms.1, s := BitVec.ofNat 32 ms.2 }
  let o := LaneCtx.plain { c with t := t } g (c.a g)
  { o with toks := toks }

/-- The bytes of a group of elements in a delay buffer: 32 bytes, packed in the lane's format (R374). -/
def groupBytes (f : Fmt) (l : List Nat) : List Byte := leBytes 32 (elemsNat f.width l)

/-- Groups that LDLY delays by (R374). -/
def delayOf (t : Tile) (w : LaneWord) : Nat := bitsAt (t.param w) 18 12 + 1

/-- LDLY (R374): the group that entered D groups earlier, zeros for the first D; an EOS restarts the count. -/
def LaneCtx.ldly (c : LaneCtx) (g : Group) : LaneOut :=
  let st := c.t.laneSt c.i
  let p := c.t.param c.w
  let base := p % 2 ^ 18
  let d := delayOf c.t c.w
  if g.void then
    { t := if g.flush then c.t.setLaneSt c.i { st with cnt := 0, idx := 0, delayed := [] } else c.t, g := g }
  else
    let a := base + 32 * st.idx
    let old := if st.cnt = d then elemsOf c.fmt.width (256 / c.fmt.width) (c.t.load a 32) else []
    let full := decide (st.cnt = d)
    let t := (c.t.setBytes a (groupBytes c.fmt (c.as_ g))).setLaneSt c.i
      { st with
        cnt := if g.flush then 0 else min (st.cnt + 1) d, idx := if g.flush then 0 else (st.idx + 1) % d
        delayed := if g.flush then [] else (if full then st.delayed.drop 1 else st.delayed) ++ [c.derives g] }
    c.gives g t (if full then st.delayed.headD 0 else 0) (g.each fun j => old.getD j 0)

/-- LPERM (R378). -/
def LaneCtx.lperm (c : LaneCtx) (g : Group) : LaneOut :=
  let p := c.t.param c.w
  let n := c.size
  let k := bitsAt p 2 6
  let a (j : Nat) : Nat := if j < g.len then c.a g j else 0
  let src (j : Nat) : Nat := if p % 4 = 0 then n - 1 - j else if p % 4 = 1 then (j + k) % n else k
  let r := words ((List.range n).map fun j => a (src j))
  let bad := BitVec.ofNat 32 (packNat ((List.range n).map fun j => (b2n ((c.derives g).getLsbD (src j)), j)))
  if g.void then { t := c.t, g := g } else if g.len = n then c.gives g c.t bad r else c.emits g c.t bad r

/-! ### A lane's turn -/

/-- The elements of an invalid block, which every lane reads as the canonical NaN (R75). -/
def nanElems (f : Fmt) (l : List Nat) : List Nat := blockElems f 0xFF l

/-- The element-wise result of an opcode at position `j`; LSEL as a switch passes A on (R382). -/
def LaneCtx.elem (c : LaneCtx) (g : Group) (j : Nat) : Nat :=
  let f := c.fmt
  let pol := c.w.pol
  let a := c.a g j
  let b := c.b g j
  match c.w.op with
  | 1 => laneAdd f pol a b
  | 2 => laneSub f pol a b
  | 3 => laneMul f pol a b
  | 4 => laneFma f pol a b (c.c_ g j)
  | 5 => laneMin f pol a b
  | 6 => laneMax f pol a b
  | 7 => laneCvt f pol (c.t.param c.w) a
  | 8 => laneExp2 f pol a
  | 9 => laneRcp f pol a
  | 10 => laneRsq f pol a
  | 11 => if c.c_ g j ≠ 0 ∨ c.w.out = 5 then a else b
  | 12 => laneCmp f pol (c.t.param c.w % 8) a b
  | 13 => laneShift f pol a b
  | 14 => laneLog f pol a
  | 15 => lanePass f pol a
  | 18 => laneScale f pol g.scale.toNat a b
  | _ => a

/-- The turn of a lane of the arithmetic opcodes. -/
def LaneCtx.run (c : LaneCtx) (g : Group) : LaneOut :=
  match c.w.op with
  | 16 => c.ldly g
  | 17 => c.lrow g
  | 19 => c.lacc g
  | 20 => c.lred g
  | 21 => c.lperm g
  | _ => c.plain g (c.elem g)

/-! ### From lane to lane and out (R56, R58, R351) -/

/-- The burst's header as it leaves a segment (R351): `fmt` of the segment's end, the scale kept or, after LSCALE, 127. -/
def Tile.segScaleOut (t : Tile) (seg : LaneSeg) (e : Nat) : Nat := if t.segScales seg then 127 else e

/-- Results of one data token as the tokens that leave on an output: several full tokens where one does not hold them
(R351). [DESIGN CHOICE: notes/assumptions/30.md] -/
def outTokens (f : Fmt) (es : List Nat) : List Token :=
  if es = [] then []
  else (chunksOf (perToken f.width) es.length es).map fun l => { payload := pack f.width l }

/-- The element format code of a format (R68). -/
def Fmt.code : Fmt → Nat
  | .fp32 => 0 | .fp64 => 1 | .bf16 => 2 | .fp16 => 3 | .e4m3 => 4 | .e5m2 => 5 | .e3m2 => 6 | .e2m3 => 7 | .e2m1 => 8
  | .int8 => 9 | .int4 => 10 | .int16 => 11 | .int32 => 12 | .int64 => 13

/-- A whole burst of results in format `f`: its header, for the format at the segment's end, and its data tokens (R351). -/
def burstTokens (f fin : Fmt) (hdr : Dw) (scale : Nat) (es : List Nat) : List Token :=
  { kind := 3, payload := [(mkBurst fin fin.code scale (hdrLot hdr) (hdrTag hdr) es).1] } ::
    (mkBurst f f.code scale (hdrLot hdr) (hdrTag hdr) es).2.map fun p => { payload := p }

/-- The segment changes the element width of a burst channel's data. -/
def Tile.widens (t : Tile) (seg : LaneSeg) (inF : Fmt) (burst : Bool) : Bool :=
  burst && decide ((t.fmtEnd seg inF).width ≠ inF.width)

/-- The results of a group as they are routed, with those that derive from an invalid block or a poisoned unit: zero at pads (R351). -/
def routed (valid : Nat) (bad : BitVec 32) (r : List Word) : List (Word × Bool) :=
  (r.zipIdx).map fun p => if p.2 < valid then (p.1, bad.getLsbD p.2) else (0, false)

/-- What leaves a segment at an output: the results of a data token or burst in a format, or a token of its own. -/
inductive Yield where
  | elems (port : Nat) (f : Fmt) (es : List (Word × Bool))
  | tok (port : Nat) (t : Token)
  deriving DecidableEq, Repr

/-- The turn of lane `i` on the group at the head of its queue: the tile after it, and what leaves. `switch` is LSEL acting as
a switch (R382). `bursts` are the outputs that carry bursts: where the width changes, they get a burst's results, without its pads, at
its end (R351). -/
def Tile.laneTurn (t : Tile) (seg : LaneSeg) (inF : Fmt) (inBurst : Bool) (bursts : List Nat) (i : Nat)
    (run : LaneCtx → Group → LaneOut) : Tile × List Yield :=
  match (t.laneSt i).q with
  | [] => (t, [])
  | g :: rest =>
    let t0 := t.setLaneSt i { t.laneSt i with q := rest }
    let c : LaneCtx := { t := t0, seg := seg, inF := inF, i := i, w := t0.laneWord i }
    let o := run c g
    let st := o.t.laneSt i
    let wide := t.widens seg inF inBurst
    let f := t.fmtAfter c.w c.fmt
    let switch := decide (c.w.op = 11) && decide (c.w.out = 5)
    let to1 := switch && (if g.first then decide (c.c_ g 0 = 0) else decide (st.cnt = 1))
    let new := if o.g.void then [] else routed o.g.valid o.g.bad o.res
    let out := st.out ++ new
    let burst := if wide then st.burst ++ new.take o.g.valid else []
    let ports := [0, 1].filter (routes c.w.out)
    let sel := if to1 then 1 else 0
    let whole (p : Nat) : Bool := wide && bursts.contains p
    let ends (p : Nat) : Bool := if whole p then g.burstLast else g.last
    let es (p : Nat) : List (Word × Bool) := if whole p then burst else out
    let ys := if switch then
        (if ends sel && decide (es sel ≠ []) then [.elems sel f (es sel), .tok (1 - sel) { kind := 1, payload := [0] }] else [])
      else (ports.filter fun p => ends p && decide (es p ≠ [])).map fun p => .elems p f (es p)
    let t1 := o.t.setLaneSt i { st with
      out := if g.last then [] else out, burst := if g.burstLast then [] else burst
      cnt := if switch then (if to1 && !ends sel then 1 else 0) else st.cnt }
    let goes := decide (c.w.out = 0) || decide (c.w.out = 1) || decide (c.w.out = 2) || decide (c.w.out = 6)
    ((if goes then t1.passGroup seg 16 (i + 1) o.g else t1), o.toks.map (fun p => .tok p.1 p.2) ++ ys)

/-- How a segment's results leave as tokens: the outputs that carry bursts and those whose burst is an invalid block; where the width
changes, the header that opens each burst; the format at the segment's end, the scale, and whether the segment holds an LSCALE. -/
structure SegOut where
  bursts : List Nat := []
  marked : List Nat := []
  hdr : Option Dw := none
  fin : Fmt := .fp32
  scale : Nat := 127
  scales : Bool := false
  deriving DecidableEq, Repr

/-- A result that derives from an invalid block: the canonical NaN, or zero in a format without one and on a channel of bursts, whose
blocks carry the mark instead (R75); LSCALE's are its own (R381). -/
def SegOut.value (o : SegOut) (p : Nat) (f : Fmt) (e : Word × Bool) : Nat :=
  if o.marked.contains p then 0
  else if e.2 && !o.scales then (if o.bursts.contains p then 0 else f.canonNaN.getD 0)
  else e.1.toNat

/-- The tokens of what leaves a segment, with their outputs. -/
def Yield.tokens (o : SegOut) : Yield → List (Nat × Token)
  | .tok p t => [(p, t)]
  | .elems p f es =>
    match (if o.bursts.contains p then o.hdr else none) with
    | some h =>
      let bad := o.marked.contains p || (es.any (·.2) && !o.scales)
      (burstTokens f o.fin h (if bad then 0xFF else o.scale) (if bad then es.map fun _ => 0 else es.map (o.value p f))).map fun t => (p, t)
    | none => (outTokens f (es.map (o.value p f))).map fun t => (p, t)

/-! ### Segments as actors -/

/-- The lane actor that owns a lane of a tile: region, index, actor and segment. -/
def State.laneOwner (s : State) (tile lane : Nat) : Option (Nat × Nat × Actor × LaneSeg) :=
  (s.tile tile).slots.findSome? fun p =>
    match p.2 with
    | none => none
    | some (r, a) =>
      match s.actor r a with
      | none => none
      | some x =>
        match x.body with
        | .lane l => if l.first ≤ lane ∧ lane ≤ l.last then some (r, a, x, l) else none
        | _ => none

/-- The segment's place among those of its tile's row, in lane order (R56, R428). [DESIGN CHOICE: notes/assumptions/45.md] -/
def State.segNumber (s : State) (tile : Nat) (seg : LaneSeg) : Nat :=
  ((s.tile tile).slots.filter fun p => match p.2.bind fun q => s.actor q.1 q.2 with
    | some x => (match x.body with | .lane l => decide (l.first < seg.first) | _ => false)
    | none => false).length

/-- The channel type of a segment's data inputs (R351). -/
def Region.segType (g : Region) (a : Nat) : Nat :=
  let t := g.inType a 0
  if t = 0x3F then g.inType a 1 else t

/-- Its input format; FP32 stands where a raw channel gives none. -/
def Region.segFmt (g : Region) (a : Nat) : Fmt := (typeFmt (g.segType a)).getD .fp32

/-- Tokens that wait sent in order on each output while slots are free; the rest wait on. -/
def State.sendPend (s : State) (r a : Nat) : List (Nat × Token) → List Nat → State × List (Nat × Token)
  | [], _ => (s, [])
  | (p, t) :: l, blocked =>
    let ready := ((s.region r).map fun g => g.outReady a p).getD false
    if blocked.contains p || !ready then
      let (s1, rest) := s.sendPend r a l (p :: blocked)
      (s1, (p, t) :: rest)
    else (s.sendOn r a p t.kind t.payload).sendPend r a l blocked

/-- The state with a lane actor's segment changed. -/
def State.modSeg (s : State) (r a : Nat) (f : LaneSeg → LaneSeg) : State :=
  s.modActor r a fun x => match x.body with
    | .lane l => { x with body := .lane (f l) }
    | _ => x

/-- The tokens a segment holds back sent as far as slots are free. -/
def State.drainPend (s : State) (r a : Nat) : State :=
  match s.actor r a with
  | some x =>
    match x.body with
    | .lane l =>
      let (s1, rest) := s.sendPend r a l.pend []
      s1.modSeg r a fun l => { l with pend := rest }
    | _ => s
  | none => s

/-- Outputs of a lane actor that carry bursts. -/
def Region.burstOuts (g : Region) (a : Nat) : List Nat := [0, 1].filter fun p => burstType (g.outType a p)

/-- How a lane actor's results leave, under the scale of X's open burst. -/
def Region.segOut (g : Region) (a : Nat) (t : Tile) (seg : LaneSeg) (scale : Nat) : SegOut :=
  { bursts := g.burstOuts a, marked := seg.marked, hdr := if t.widens seg (g.segFmt a) (burstType (g.segType a)) then seg.hdr else none
    fin := t.fmtEnd seg (g.segFmt a), scale := t.segScaleOut seg scale, scales := t.segScales seg }

/-- A lane's turn as an event (R56): of the lane that holds opcode `op` and has a group waiting. -/
def State.laneStep (s : State) (tile lane op : Nat) (switch : Bool) (run : LaneCtx → Group → LaneOut) : Option State :=
  match s.laneOwner tile lane with
  | none => none
  | some (r, a, _, seg) =>
    let t := s.tile tile
    let w := t.laneWord lane
    if !(decide (w.op = op) && (switch == (decide (op = 11) && decide (w.out = 5)))) then none
    else
      match (t.laneSt lane).q with
      | [] => none
      | g :: _ =>
        let gr := (s.region r).getD {}
        let inF := gr.segFmt a
        let burst := burstType (gr.segType a)
        let (t1, ys) := t.laneTurn seg inF burst (gr.burstOuts a) lane run
        let toks := ys.flatMap (Yield.tokens (gr.segOut a t seg g.scale.toNat))
        let s1 := (s.setTile tile t1).modSeg r a fun l =>
          { l with pend := l.pend ++ toks, hdr := if lane = seg.last ∧ g.burstLast then none else l.hdr }
        some (s1.drainPend r a)

/-- A lane operation as an outcome. -/
def laneEvent (s : State) (tile lane op : Nat) : Res :=
  match s.laneOwner tile lane with
  | some (r, _) => occurIn s r (s.laneStep tile lane op false LaneCtx.run)
  | none => .next s

/-- LADD (R368). -/
def execLadd (tile lane : Nat) (s : State) : Res := laneEvent s tile lane 1
/-- LSUB (R368). -/
def execLsub (tile lane : Nat) (s : State) : Res := laneEvent s tile lane 2
/-- LMUL (R368). -/
def execLmul (tile lane : Nat) (s : State) : Res := laneEvent s tile lane 3
/-- LFMA (R368). -/
def execLfma (tile lane : Nat) (s : State) : Res := laneEvent s tile lane 4
/-- LMIN (R368). -/
def execLmin (tile lane : Nat) (s : State) : Res := laneEvent s tile lane 5
/-- LMAX (R368). -/
def execLmax (tile lane : Nat) (s : State) : Res := laneEvent s tile lane 6
/-- LCVT (R370). -/
def execLcvt (tile lane : Nat) (s : State) : Res := laneEvent s tile lane 7
/-- LEXP2 (R375). -/
def execLexp2 (tile lane : Nat) (s : State) : Res := laneEvent s tile lane 8
/-- LRCP (R375). -/
def execLrcp (tile lane : Nat) (s : State) : Res := laneEvent s tile lane 9
/-- LRSQ (R375). -/
def execLrsq (tile lane : Nat) (s : State) : Res := laneEvent s tile lane 10
/-- LSEL (R382). -/
def execLsel (tile lane : Nat) (s : State) : Res := laneEvent s tile lane 11
/-- LSEL as a switch (R28, R382). -/
def execLselSwitch (tile lane : Nat) (s : State) : Res :=
  match s.laneOwner tile lane with
  | some (r, _) => occurIn s r (s.laneStep tile lane 11 true LaneCtx.run)
  | none => .next s
/-- LCMP (R369). -/
def execLcmp (tile lane : Nat) (s : State) : Res := laneEvent s tile lane 12
/-- LSHF (R383). -/
def execLshf (tile lane : Nat) (s : State) : Res := laneEvent s tile lane 13
/-- LLOG (R375). -/
def execLlog (tile lane : Nat) (s : State) : Res := laneEvent s tile lane 14
/-- LPASS (R377). -/
def execLpass (tile lane : Nat) (s : State) : Res := laneEvent s tile lane 15
/-- LDLY (R374). -/
def execLdly (tile lane : Nat) (s : State) : Res := laneEvent s tile lane 16
/-- LROW (R380). -/
def execLrow (tile lane : Nat) (s : State) : Res := laneEvent s tile lane 17
/-- LSCALE (R381). -/
def execLscale (tile lane : Nat) (s : State) : Res := laneEvent s tile lane 18
/-- LACC (R367). -/
def execLacc (tile lane : Nat) (s : State) : Res := laneEvent s tile lane 19
/-- LRED (R379). -/
def execLred (tile lane : Nat) (s : State) : Res := laneEvent s tile lane 20
/-- LPERM (R378). -/
def execLperm (tile lane : Nat) (s : State) : Res := laneEvent s tile lane 21

/-! ### Element steps of a segment (R16, R24, R136, R351) -/

/-- The element groups of one data token of a segment, its inputs' blocks with their scales. -/
def tokenGroups (f : Fmt) (n : Nat) (x y : List Dw) (pad scale scaleY : Nat) (burstLast : Bool) : List Group :=
  let xs := unpack f.width x
  let ys := blockElems f scaleY (unpack f.width y)
  let cx := chunksOf n xs.length (blockElems f scale xs)
  let total := xs.length - pad
  (cx.zipIdx).map fun p =>
    let k := p.2 * n
    { x := words p.1, y := words (ys.drop k |>.take n), tokX := x, tokY := y, scale := BitVec.ofNat 8 scale
      badX := if scale = 0xFF then BitVec.allOnes 32 else 0, badY := if scaleY = 0xFF then BitVec.allOnes 32 else 0
      first := decide (p.2 = 0), last := decide (p.2 + 1 = cx.length)
      burstLast := burstLast && decide (p.2 + 1 = cx.length)
      len := p.1.length, valid := min p.1.length (total - k) }

/-- The header that goes out when a header comes in (R351), marked where the burst is an invalid block (R75). -/
def Tile.headerOut (t : Tile) (seg : LaneSeg) (f : Fmt) (inval : Bool) (h : Dw) : Dw :=
  mkHdr (t.segScaleOut seg (if inval then 0xFF else hdrScale h)) (hdrLen h) (hdrLot h) (t.fmtEnd seg f).code (hdrPad h) (hdrTag h)

/-- The groups that leave a lane for those that enter it, as to what derives from an invalid block: sums and delayed groups bring in
what the lane holds of earlier bursts (R75, R367, R374, R379). -/
def badGroups (t : Tile) (w : LaneWord) : LaneSt → List Group → List Group
  | _, [] => []
  | st, g :: l =>
    let b := derives w st.ownBad g
    let out (m : BitVec 32) : Group := { g with bad2 := g.bad, bad := m }
    if w.op = 19 ∨ w.op = 20 then
      let m := accBad w st b
      if st.cnt + 1 = accGroups t w then out m :: badGroups t w { st with cnt := 0, bad := 0, ownBad := m } l
      else badGroups t w { st with cnt := st.cnt + 1, bad := m } l
    else if w.op = 16 then
      let full := decide (st.cnt = delayOf t w)
      let m := if full then st.delayed.headD 0 else 0
      out m :: badGroups t w
        { st with cnt := if full then st.cnt else st.cnt + 1, delayed := (if full then st.delayed.drop 1 else st.delayed) ++ [b], ownBad := m } l
    else out b :: badGroups t w { st with ownBad := b } l

/-- Some result that the lanes route to output `p` derives from an invalid block, for the groups of a burst as they enter.
[DESIGN CHOICE: notes/assumptions/30.md] -/
def Tile.badAt (t : Tile) (p : Nat) : List Nat → List Group → Bool
  | [], _ => false
  | i :: l, gs =>
    let w := t.laneWord i
    if w.op = 0 then t.badAt p l (gs.map fun g => { g with bad2 := g.bad })
    else
      let out := badGroups t w (t.laneSt i) gs
      (routes w.out p && out.any fun g => decide (g.bad ≠ 0)) || t.badAt p l out

/-- The groups of a burst of full tokens, with the inputs whose blocks are invalid. -/
def Tile.burstGroups (t : Tile) (seg : LaneSeg) (f : Fmt) (h : Dw) (x y : Bool) : List Group :=
  let n := t.groupSize seg f
  let bx : BitVec 32 := if x then BitVec.allOnes 32 else 0
  List.replicate (hdrLen h * ((perToken f.width + n - 1) / n)) { badX := bx, badY := if y then BitVec.allOnes 32 else 0, bad := bx }

/-- A header at an input that is none of the segment's: of another format than the input's it is a framing violation and its burst
is discarded (R351); on a channel that carries no bursts it is answered with code 0x05 (R364). -/
def State.laneBadHeader (s : State) (r a : Nat) (g : Region) (x : Actor) (p : Nat) : Option State :=
  let wrong := s.errorAt r a (chanField (g.chanTo a p)) p 0x05 (BitVec.ofNat 64 (x.port p).seen)
  if !burstType (g.inType a p) then some (wrong.modActor r a fun x => x.popPort p)
  else if hdrFmt (((x.head p).getD {}).dw 0) ≠ (g.segFmt a).code then some (wrong.modActor r a fun x => x.takePosition p)
  else none

/-- An element step that meets a header: one token is taken from every input (R24), and the header of X, or of Y where the segment
reads no X, passes to the outputs that carry bursts (R351); it goes out marked where its block is invalid, or results of the burst will
derive from an invalid one (R75). A data token beside it yields nothing. [DESIGN CHOICE: notes/assumptions/30.md] -/
def State.laneHeaders (s : State) (r a : Nat) (g : Region) (x : Actor) (seg : LaneSeg) (ins outs : List Nat) : State :=
  let t := s.tile x.tile
  let f := g.segFmt a
  let took := s.modActor r a fun x => ins.foldl Actor.takeTracked x
  let p := ins.headD 0
  if x.headKind p ≠ some 3 then took
  else
    let h := ((x.head p).getD {}).dw 0
    let inval (q : Nat) : Bool := ins.contains q && decide (x.headKind q = some 3) && decide (hdrScale (((x.head q).getD {}).dw 0) = 0xFF)
    let gs := t.burstGroups seg f h (inval p) (inval 1)
    let marked := if t.segScales seg then [] else (g.burstOuts a).filter fun q => inval p || t.badAt q seg.lanes gs
    let s1 := took.modSeg r a fun l => { l with marked := marked }
    if t.widens seg f true then s1.modSeg r a fun l => { l with hdr := some h }
    else (outs.filter fun q => (g.burstOuts a).contains q).foldl (fun s q =>
      s.sendOn r a q 3 [t.headerOut seg f (marked.contains q) h]) s1

/-- Data tokens at every named input taken in at the first lane: whole where the segment takes tokens, else in element groups, of
FP32 where a raw channel gives no format (R316, R351). -/
def State.laneData (s : State) (r a : Nat) (g : Region) (x : Actor) (seg : LaneSeg) (ins : List Nat) : State :=
  let t := s.tile x.tile
  let pay (p : Nat) : List Dw := if ins.contains p then ((x.head p).map (·.payload)).getD [] else []
  let q := x.port (ins.headD 0)
  let burst := burstType (g.segType a)
  let lastTok := burst && decide (q.left = 1)
  let hdr := q.hdr.getD 0
  let scaleOf (p : Nat) : Nat := if burst && ins.contains p then hdrScale ((x.port p).hdr.getD 0) else 127
  let gs : List Group :=
    if t.wholeTokens seg then
      [{ x := words (unpack 32 (pay 0)), y := words (unpack 32 (pay 1)), tokX := pay 0, tokY := pay 1, burstLast := lastTok
         len := 0, valid := 0 }]
    else
      let n := t.groupSize seg (g.segFmt a)
      let xs := if ins.contains 0 then pay 0 else pay 1
      tokenGroups (g.segFmt a) n xs (pay 1) (if lastTok then hdrPad hdr else 0) (scaleOf (ins.headD 0)) (scaleOf 1) lastTok
  let s1 := s.modActor r a fun x => ins.foldl Actor.takeTracked x
  s1.modTile x.tile fun t => gs.foldl (fun t u => t.enterGroup seg u) t

/-- The credit channel of a blender: the channel with initial tokens on an output its lanes do not route to; its initial
tokens are the window W. [DEDUCED: notes/assumptions/35.md] -/
def State.creditOf (s : State) (r a : Nat) : Option (Nat × Nat) :=
  match s.region r, s.actor r a with
  | some g, some x =>
    match x.body with
    | .lane l =>
      (List.range 8).findSome? fun p =>
        if ((s.tile x.tile).segOutputs l).contains p then none
        else match g.chanOf (.actor a p) with
          | some (_, c) => if c.init = 0 then none else some (p, c.init)
          | none => none
    | _ => none
  | _, _ => none

/-- One element step of a lane actor: what waits for slots goes first; then framing, errors, headers and data (R24). A
configuration that waits lets no further burst in (R27); a blender takes its data in the order of their tags alone (R204). -/
def State.laneElement (s : State) (r a : Nat) (g : Region) (x : Actor) (seg : LaneSeg) : Option State :=
  let t := s.tile x.tile
  let (ins, outs) := s.engineNamed g a x
  if seg.pend ≠ [] then some (s.drainPend r a)
  else if !g.active x || ins.any (fun p => (x.port p).drop) || (decide (seg.cfg ≠ []) && !x.inBurst) then none
  else
    match ins.findSome? (s.framing r a) with
    | some s1 => some s1
    | none =>
      match s.errorStep r a g x ins outs with
      | some s1 => some s1
      | none =>
        let hs := x.headsOf ins 3
        if hs ≠ [] ∧ t.drained seg = false then none
        else
          match hs.findSome? (s.laneBadHeader r a g x) with
          | some s1 => some s1
          | none =>
            if !(ins.all fun p => hs.contains p || x.isData p) || !g.outsFree a outs then none
            else if hs ≠ [] then some (s.laneHeaders r a g x seg ins outs)
            else if (s.creditOf r a).isSome then none
            else some (s.laneData r a g x seg ins)

/-! ### In-band configuration (R27, R60) -/

/-- A lane word as a configuration token leaves it: the token's words have no layout in the spec, so the new word is a free
value, and one that no lane can hold changes nothing (R293). [DESIGN CHOICE: notes/assumptions/32.md] -/
def configWord (old : Word) (v : Word) (ends : Bool) : Word :=
  match decodeLane v with
  | some w => if ends == (decide (w.out = 3) || decide (w.out = 4) || decide (w.out = 5) || decide (w.out = 7)) then v else old
  | none => old

/-- A configuration applied to a segment's lanes: a lane whose opcode changes loses its statistics and accumulations.
[DESIGN CHOICE: notes/assumptions/32.md] -/
def State.configLanes (s : State) (tile : Nat) (seg : LaneSeg) : List Nat → State
  | [] => s
  | i :: l =>
    let (v, s1) := s.free
    (s1.modTile tile fun t =>
      let old := sget 0 t.lanes i
      let new := configWord old (v.setWidth 32) (decide (i = seg.last))
      let t1 := { t with lanes := sset 0 t.lanes i new }
      if (t1.laneWord i).op = (t.laneWord i).op then t1 else t1.setLaneSt i {}).configLanes tile seg l

end Sys2Proof.Machine
end

