-- ==== Sys2Proof/Machine/Image.lean ====
section
/-! DEFINITION. Graph images: their sections and records, and the loader's checks on the image alone (R294 to R303, R330). -/

namespace Sys2Proof.Machine

/-! ### Records (R294 to R302) -/

/-- An image as bytes. -/
abbrev Img := List Byte

def Img.dw (m : Img) (o : Nat) : Dw := BitVec.ofNat 64 (bytesAt m o 8)
/-- Field [lo + n - 1 : lo] of the doubleword at a byte offset. -/
def Img.fld (m : Img) (o lo n : Nat) : Nat := dwAt (m.dw o) lo n
/-- A signed 32-bit offset held in a field, added to the place of its record. -/
def Img.ref (m : Img) (rec_ o lo : Nat) : Int := (rec_ : Int) + sextNat (m.fld o lo 32) 32

/-- The index that means none. -/
def noIndex : Nat := 0xFFFFF

def Img.len (m : Img) : Nat := m.fld 0 0 32
/-- Byte offset and record count of a section. -/
def Img.secOff (m : Img) (n : Nat) : Nat := m.fld (8 * n) 0 32
def Img.secCnt (m : Img) (n : Nat) : Nat := m.fld (8 * n) 32 20
/-- Bytes in a record of a section; the header alone of a block. -/
def recSize (n : Nat) : Nat := [0, 64, 320, 32, 32, 32, 24, 32, 16, 8, 4].getD n 0
/-- Where record `i` of a section lies. -/
def Img.at_ (m : Img) (n i : Nat) : Nat := m.secOff n + recSize n * i

/-- An actor record (R296). -/
structure ARec where
  off : Nat := 0
  dx : Int := 0
  dy : Int := 0
  slot : Nat := 0
  kind : Nat := 0
  cls : Nat := 0
  nv : Bool := false
  ev : Bool := false
  probe : Option Nat := none
  comm : Nat := 0
  eport : Option Nat := none
  rules : List Rule := []
  fctl : Nat := 0
  acc : Nat := 0
  quota : Nat := 1
  rmask : Nat := 0
  rdep : List Nat := []
  cb : Nat := 0
  cs : Nat := 0
  lb : Nat := 0
  ls : Nat := 0
  kblk : Int := 0
  klen : Nat := 0
  live : Int := 0
  nlive : Nat := 0
  otl : Int := 0
  notl : Nat := 0
  htab : List Dw := []
  k : List Dw := []

/-- A firing rule from its 20 bits (R296). -/
def ruleOf (v : Nat) : Rule :=
  { inMask := BitVec.ofNat 8 v, outMask := BitVec.ofNat 8 (v / 256), entry := BitVec.ofNat 4 (v / 65536) }

/-- Actor record `i`. -/
def Img.actor (m : Img) (i : Nat) : ARec :=
  let o := m.at_ 2 i
  let d (n : Nat) : Nat := o + 8 * n
  let n := m.fld (d 1) 60 2 + 1
  { off := o, dx := sextNat (m.fld o 0 8) 8, dy := sextNat (m.fld o 8 8) 8, slot := m.fld o 16 4, kind := m.fld o 20 4
    cls := m.fld o 24 2, nv := dwBit (m.dw o) 26, ev := dwBit (m.dw o) 27
    probe := if dwBit (m.dw o) 28 then some (m.fld o 29 4) else none
    comm := m.fld o 33 8
    eport := if dwBit (m.dw o) 41 then some (m.fld o 42 3) else none
    rules := ([m.fld (d 1) 0 20, m.fld (d 1) 20 20, m.fld (d 1) 40 20, m.fld (d 2) 0 20].take n).map ruleOf
    fctl := m.fld (d 2) 20 4, acc := m.fld (d 2) 24 4, quota := m.fld (d 2) 28 6 + 1, rmask := m.fld (d 2) 34 8
    rdep := (List.range 8).map fun j => m.fld (d 3) (6 * j) 6 + 1
    cb := 64 * m.fld (d 4) 0 12, cs := 64 * m.fld (d 4) 12 13, lb := 64 * m.fld (d 4) 25 12, ls := 64 * m.fld (d 4) 37 13
    kblk := m.ref o (d 5) 0, klen := m.fld (d 5) 32 32, live := m.ref o (d 6) 0, nlive := m.fld (d 6) 32 16
    otl := m.ref o (d 7) 0, notl := m.fld (d 7) 32 16
    htab := (List.range 16).map fun j => m.dw (o + 0x40 + 8 * j)
    k := (List.range 16).map fun j => m.dw (o + 0xC0 + 8 * j) }

/-- The offset and slot of an actor record alone. -/
def Img.actorPos (m : Img) (i : Nat) : Int × Int × Nat :=
  let d := m.dw (m.at_ 2 i)
  (sextNat (dwAt d 0 8) 8, sextNat (dwAt d 8 8) 8, dwAt d 16 4)

def Img.actors (m : Img) : List ARec := (List.range (m.secCnt 2)).map m.actor

/-- A channel record (R297). -/
structure CRec where
  snd : Nat := 0
  sp : Nat := 0
  se : Bool := false
  dx : Int := 0
  dy : Int := 0
  rs : Nat := 0
  rp : Nat := 0
  ek : Nat := 0
  sk : Nat := 0
  lch : Nat := 0
  slots : Nat := 1
  init : Nat := 0
  st : Nat := 0
  rt : Nat := 0
  bulk : Bool := false
  blk : Nat := 0
  hop : Nat := 0
  fv : Bool := false
  filt : Dw := 0

/-- Channel record `i`. -/
def Img.chan (m : Img) (i : Nat) : CRec :=
  let o := m.at_ 3 i
  { snd := m.fld o 0 20, sp := m.fld o 20 3, se := dwBit (m.dw o) 23, dx := sextNat (m.fld o 24 8) 8
    dy := sextNat (m.fld o 32 8) 8, rs := m.fld o 40 4, rp := m.fld o 44 3, ek := m.fld o 47 3, sk := m.fld o 50 2
    lch := m.fld o 52 8, slots := m.fld (o + 8) 0 9 + 1, init := m.fld (o + 8) 9 9, st := m.fld (o + 8) 18 6
    rt := m.fld (o + 8) 24 6, bulk := dwBit (m.dw (o + 8)) 30, blk := m.fld (o + 8) 32 16 + 1, hop := m.fld (o + 16) 0 8
    fv := dwBit (m.dw (o + 16)) 8, filt := m.dw (o + 24) }

def Img.chans (m : Img) : List CRec := (List.range (m.secCnt 3)).map m.chan

/-- A range declaration (R298). -/
structure DRec where
  base : Dw := 0
  len : Dw := 0
  grant : Nat := 0
  perm : Nat := 0
  acc : Nat := 0
  act : Nat := 0

def Img.decl (m : Img) (i : Nat) : DRec :=
  let o := m.at_ 4 i
  { base := m.dw o, len := m.dw (o + 8), grant := m.fld (o + 16) 0 6, perm := m.fld (o + 16) 6 5, acc := m.fld (o + 16) 11 3
    act := m.fld (o + 16) 14 20 }

def Img.decls (m : Img) : List DRec := (List.range (m.secCnt 4)).map m.decl

/-- A controller record (R299). -/
structure KRec where
  sch : Nat := 0
  win : Nat := 1
  par : Nat := 0
  kids : Int := 0
  nkid : Nat := 0
  cblk : Int := 0
  hasBlk : Bool := false

def Img.ctrl (m : Img) (i : Nat) : KRec :=
  let o := m.at_ 5 i
  { sch := m.fld o 0 2, win := m.fld o 2 4 + 1, par := m.fld o 6 20, kids := m.ref o (o + 8) 0, nkid := m.fld (o + 8) 32 16
    cblk := m.ref o (o + 16) 0, hasBlk := decide (m.fld (o + 16) 0 32 ≠ 0) }

def Img.ctrls (m : Img) : List KRec := (List.range (m.secCnt 5)).map m.ctrl

/-- A controller's children from its child list: index, and whether it is a controller. -/
def Img.kidsOf (m : Img) (k : KRec) : List (Nat × Bool) :=
  (List.range k.nkid).map fun j =>
    let v := bytesAt m (k.kids.toNat + 4 * j) 4
    (bitsAt v 0 20, bitsAt v 20 1 = 1)

/-- The counters of a counter block (R299). -/
def Img.counters (m : Img) (o : Nat) : List CounterSpec :=
  (List.range (m.fld o 0 3)).map fun j =>
    let a := o + 8 + 16 * j
    { start := (m.dw a).setWidth 32, stop := (m.dw a).extractLsb' 32 32, step := (m.dw (a + 8)).setWidth 32
      ii := m.fld (a + 8) 32 6 + 1 }

/-- A scratchpad or global block (R301): tile offset, local address, whether global, and where its content lies. -/
structure BRec where
  off : Nat := 0
  dx : Int := 0
  dy : Int := 0
  la : Nat := 0
  glob : Bool := false
  len : Nat := 0

/-- Block records one after the other from an offset. -/
def Img.blocksFrom (m : Img) : Nat → Nat → List BRec
  | 0, _ => []
  | n + 1, o =>
    let b : BRec := { off := o, dx := sextNat (m.fld o 0 8) 8, dy := sextNat (m.fld o 8 8) 8, la := m.fld o 16 18
                      glob := dwBit (m.dw o) 34, len := m.fld (o + 8) 0 32 }
    b :: m.blocksFrom n (o + 24 + up8 b.len)

def Img.blocks (m : Img) : List BRec := m.blocksFrom (m.secCnt 6) (m.secOff 6)

/-- An elastic-stage record (R302). -/
structure SRec where
  dist : Nat := 0
  tmpl : Nat := 0
  coll : Nat := 0
  m : Nat := 1
  lim : Nat := 1
  hi : Nat := 0
  lo : Nat := 0
  window : Nat := 1
  part : Bool := false
  growth : List (Int × Int) := []

def Img.stage (m : Img) (i : Nat) : SRec :=
  let o := m.at_ 7 i
  let g := (m.ref o (o + 16) 0).toNat
  { dist := m.fld o 0 20, tmpl := m.fld o 20 20, coll := m.fld o 40 20, m := m.fld (o + 8) 0 6 + 1
    lim := m.fld (o + 8) 6 6 + 1, hi := m.fld (o + 8) 12 5, lo := m.fld (o + 8) 17 5, window := m.fld (o + 8) 22 10 + 1
    part := dwBit (m.dw (o + 8)) 32
    growth := (List.range (m.fld (o + 16) 32 16)).map fun j =>
      let v := bytesAt m (g + 2 * j) 2
      (sextNat (bitsAt v 0 8) 8, sextNat (bitsAt v 8 8) 8) }

def Img.stages (m : Img) : List SRec := (List.range (m.secCnt 7)).map m.stage

/-- Work-graph nodes: actor, record size and queue length (R302). -/
def Img.nodes (m : Img) : List (Nat × Nat × Nat) :=
  (List.range (m.secCnt 8)).map fun i =>
    let o := m.at_ 8 i
    (m.fld o 0 20, 8 * (m.fld o 20 3 + 1), m.fld o 32 32)

/-- Work-graph edges (R302). -/
def Img.edges (m : Img) : List WEdge :=
  (List.range (m.secCnt 9)).map fun i =>
    let o := m.at_ 9 i
    { parent := m.fld o 0 16, child := m.fld o 16 16, budget := m.fld o 32 8 + 1, num := m.fld o 40 3 }

/-- Sinks: actor and input. -/
def Img.sinks (m : Img) : List (Nat × Nat) :=
  (List.range (m.secCnt 10)).map fun i =>
    let v := bytesAt m (m.at_ 10 i) 4
    (bitsAt v 0 20, bitsAt v 20 3)

/-- The region record's fields (R295). -/
structure GRec where
  w : Nat := 1
  h : Nat := 1
  depth : Nat := 1
  ing : Nat := noIndex
  ingp : Nat := 0
  fs : Nat := noIndex
  fsp : Nat := 0
  heavy : Nat := 8
  ilv : Nat := 1
  root : Nat := noIndex

def Img.region (m : Img) : GRec :=
  let o := m.at_ 1 0
  { w := m.fld o 0 6 + 1, h := m.fld o 6 4 + 1, depth := m.fld o 10 4 + 1, ing := m.fld o 14 20, ingp := m.fld o 34 3
    fs := m.fld (o + 8) 0 20, fsp := m.fld (o + 8) 20 3, heavy := m.fld (o + 8) 23 12 + 1, ilv := m.fld (o + 8) 35 6
    root := m.fld (o + 8) 41 20 }

/-! ### Refusals (R330) -/

/-- A refusal of a load: CFGLOAD status, reason and details. -/
structure LoadErr where
  status : Nat
  reason : Nat := 0
  d1 : Dw := 0
  d2 : Dw := 0
  deriving DecidableEq, Repr

/-- An image refused with status 2: reason, section, record and detail 2. -/
def imageErr (reason sec rec_ d2 : Nat) : LoadErr :=
  { status := 2, reason := reason, d1 := packDw [(rec_ % 65536, 0), (sec, 16)], d2 := BitVec.ofNat 64 d2 }

/-- The refusals of one section's records, by record. -/
def eachRec {α : Type} (l : List α) (f : Nat → α → List LoadErr) : List LoadErr := l.zipIdx.flatMap fun p => f p.2 p.1

/-- A refusal where a condition holds. -/
def errIf (b : Bool) (e : LoadErr) : List LoadErr := if b then [e] else []

/-! ### Reason 1: magic, version, reserved fields and ranges -/

/-- Refusals of the header. -/
def Img.headerErrs (m : Img) (va : Nat) : List LoadErr :=
  let e (off : Nat) : LoadErr := imageErr 1 0 0 off
  errIf (decide (va % 64 ≠ 0) || decide (m.len < 128) || decide (m.len ≠ m.length)) (e 0) ++
    errIf (decide (m.fld 0 32 8 ≠ 0)) (e 4) ++ errIf (decide (m.fld 0 40 8 ≠ 1)) (e 5) ++
    errIf (decide (m.fld 0 48 16 ≠ 0x57E1)) (e 6) ++
    ((List.range 15).map (· + 1)).flatMap fun n =>
      errIf (decide (m.secOff n % 8 ≠ 0) || (decide (m.secCnt n = 0) && decide (m.secOff n ≠ 0))) (e (8 * n)) ++
        errIf ((decide (n = 1) && decide (m.secCnt 1 ≠ 1)) || (decide (11 ≤ n) && decide (m.secCnt n ≠ 0))) (e (8 * n + 4)) ++
        errIf (decide (m.fld (8 * n) 52 12 ≠ 0)) (e (8 * n + 6))

/-- Sections that leave the image (reason 2). -/
def Img.extentErrs (m : Img) : List LoadErr :=
  ((List.range 10).map (· + 1)).flatMap fun n =>
    errIf (decide (m.secCnt n ≠ 0) && (decide (m.secOff n < 128) || decide (m.len < m.secOff n + recSize n * m.secCnt n)))
      (imageErr 2 n 0 (m.secOff n))

/-- A record's fields that must be zero, as (doubleword, low bit, bits), each a refusal naming its byte. -/
def Img.resv (m : Img) (sec i o : Nat) (l : List (Nat × Nat × Nat)) : List LoadErr :=
  l.flatMap fun f => errIf (decide (m.fld (o + 8 * f.1) f.2.1 f.2.2 ≠ 0)) (imageErr 1 sec i (o + 8 * f.1 + f.2.1 / 8))

/-- Reserved fields and ranges of an actor record and its kind block. -/
def Img.actorErrs (m : Img) (i : Nat) (a : ARec) : List LoadErr :=
  let o := a.off
  let e (off : Nat) : LoadErr := imageErr 1 2 i off
  let kb := a.kblk.toNat
  let task := decide (a.kind = 0)
  m.resv 2 i o [(0, 45, 19), (1, 62, 2), (2, 42, 22), (3, 48, 16), (4, 50, 14), (6, 48, 16), (7, 48, 16)] ++
    errIf (decide (a.kind = 7) || decide (9 ≤ a.kind)) (e (o + 2)) ++
    (if task then errIf (decide (a.cs = 0)) (e (o + 0x21))
     else m.resv 2 i o [(1, 0, 62), (2, 0, 20)] ++
       (List.range 16).flatMap fun j => errIf (decide (a.htab.getD j 0 ≠ 0)) (e (o + 0x40 + 8 * j))) ++
    (if task then (List.range 16).flatMap fun j =>
      errIf (decide (dwAt (a.htab.getD j 0) 32 24 ≠ 0)) (e (o + 0x44 + 8 * j)) else []) ++
    errIf ((decide (a.kind = 2) || decide (a.kind = 3) || decide (a.kind = 5)) && decide (a.klen ≠ 0)) (e (o + 0x2C)) ++
    (if a.kind = 4 then
       errIf (decide (m.fld kb 7 4 > 10)) (e kb) ++ errIf (decide (m.fld kb 0 2 > 1)) (e kb) ++ m.resv 2 i kb [(0, 12, 20)] ++
         errIf (dwBit (m.dw kb) 11 && (dwBit (m.dw kb) 2 || decide (m.fld kb 0 2 ≠ 0))) (e (kb + 1))
     else if a.kind = 6 then
       m.resv 2 i kb [(0, 3, 61)] ++ errIf (decide (m.fld kb 0 3 = 0) || decide (m.fld kb 0 3 > 4)) (e kb) ++
         (List.range (m.fld kb 0 3)).flatMap fun j =>
           m.resv 2 i (kb + 8 + 16 * j) [(1, 38, 26)] ++ errIf (decide (m.fld (kb + 16 + 16 * j) 0 32 = 0)) (e (kb + 16 + 16 * j))
     else if a.kind = 8 then
       m.resv 2 i kb [(0, 9, 55)] ++ errIf (decide ((maskList (BitVec.ofNat 8 (m.fld kb 1 8))).length < 2)) (e kb)
     else if a.kind = 1 then
       m.resv 2 i kb [(8, 29, 35)] ++ errIf (decide (m.fld (kb + 64) 10 11 > 1024)) (e (kb + 65)) ++
         errIf (decide (m.fld (kb + 64) 25 4 < m.fld (kb + 64) 21 4)) (e (kb + 67))
     else []) ++
    (List.range a.notl).flatMap fun j =>
      errIf (decide (bitsAt (bytesAt m (a.otl.toNat + 4 * j) 4) 20 12 ≠ 0)) (e (a.otl.toNat + 4 * j + 2))

/-- Reserved fields and ranges of a channel record. -/
def Img.chanErrs (m : Img) (i : Nat) (c : CRec) : List LoadErr :=
  let o := m.at_ 3 i
  let e (off : Nat) : LoadErr := imageErr 1 3 i off
  m.resv 3 i o [(0, 60, 4), (1, 31, 1), (1, 48, 16), (2, 9, 55)] ++
    errIf (decide (c.ek = 7)) (e (o + 5)) ++ errIf (decide (c.sk = 3)) (e (o + 6)) ++
    errIf ((decide (c.sk = 1) && decide (8 ≤ c.snd)) || (decide (c.sk = 2) && decide (32 ≤ c.snd))) (e o) ++
    errIf ((decide (c.sk ≠ 0) || c.se) && decide (c.sp ≠ 0)) (e (o + 2)) ++
    errIf ((decide (c.ek = 4) || decide (c.ek = 5)) && (decide (c.dx ≠ 0) || decide (c.dy ≠ 0))) (e (o + 3)) ++
    errIf ((decide (c.ek = 1) && decide (12 ≤ c.rs)) || (decide (c.ek = 5) && decide (8 ≤ c.rs)) ||
      (decide (c.ek = 6) && decide (2 ≤ c.rs))) (e (o + 5)) ++
    errIf (decide (c.ek ≠ 0) && decide (c.rp ≠ 0)) (e (o + 5)) ++
    errIf (decide (c.ek ≠ 5) && decide (c.sk ≠ 1) && decide (c.lch ≠ 0)) (e (o + 6)) ++
    errIf (decide (256 < c.slots)) (e (o + 8)) ++ errIf (decide (c.slots < c.init)) (e (o + 9)) ++
    errIf (!burstType c.st && decide (c.blk ≠ 1)) (e (o + 12)) ++ errIf (!c.fv && decide (c.filt ≠ 0)) (e (o + 24))

/-- Refusals for reason 1 of the records. -/
def Img.reason1 (m : Img) : List LoadErr :=
  let g := m.at_ 1 0
  m.resv 1 0 g [(0, 37, 27), (1, 61, 3), (2, 0, 64), (3, 0, 64), (4, 0, 64), (5, 0, 64), (6, 0, 64), (7, 0, 64)] ++
    eachRec m.actors m.actorErrs ++ eachRec m.chans m.chanErrs ++
    (eachRec m.decls fun i d =>
      let o := m.at_ 4 i
      m.resv 4 i o [(2, 34, 30), (3, 0, 64)] ++
        errIf (!canonical d.base.toNat || decide (2 ^ 64 ≤ d.base.toNat + d.len.toNat)) (imageErr 1 4 i o)) ++
    (eachRec m.ctrls fun i k =>
      let o := m.at_ 5 i
      m.resv 5 i o [(0, 26, 38), (1, 48, 16), (2, 32, 32), (3, 0, 64)] ++ errIf (decide (k.sch = 3)) (imageErr 1 5 i o) ++
        errIf (decide (k.sch ≠ 1) && decide (k.win ≠ 1)) (imageErr 1 5 i o) ++
        ((List.range k.nkid).flatMap fun j =>
          errIf (decide (bitsAt (bytesAt m (k.kids.toNat + 4 * j) 4) 21 11 ≠ 0)) (imageErr 1 5 i (k.kids.toNat + 4 * j + 2))) ++
        (if k.hasBlk then
          m.resv 5 i k.cblk.toNat [(0, 3, 61)] ++
            ((List.range (m.fld k.cblk.toNat 0 3)).flatMap fun j =>
              m.resv 5 i (k.cblk.toNat + 8 + 16 * j) [(1, 38, 26)] ++
                errIf (decide (m.fld (k.cblk.toNat + 16 + 16 * j) 0 32 = 0)) (imageErr 1 5 i (k.cblk.toNat + 16 + 16 * j))) ++
            errIf (decide (m.fld k.cblk.toNat 0 3 = 0) || decide (m.fld k.cblk.toNat 0 3 > 4)) (imageErr 1 5 i k.cblk.toNat)
         else [])) ++
    (eachRec m.blocks fun i b =>
      m.resv 6 i b.off [(0, 35, 29), (1, 32, 32)] ++
        errIf (!b.glob && decide (m.dw (b.off + 16) ≠ 0)) (imageErr 1 6 i (b.off + 16))) ++
    (eachRec m.stages fun i _ => m.resv 7 i (m.at_ 7 i) [(0, 60, 4), (1, 33, 31), (2, 48, 16), (3, 0, 64)]) ++
    (eachRec m.nodes fun i _ => m.resv 8 i (m.at_ 8 i) [(0, 23, 9), (1, 0, 64)]) ++
    (eachRec m.edges fun i _ => m.resv 9 i (m.at_ 9 i) [(0, 43, 21)]) ++
    eachRec m.sinks fun i _ =>
      errIf (decide (bitsAt (bytesAt m (m.at_ 10 i) 4) 23 9 ≠ 0)) (imageErr 1 10 i (m.at_ 10 i + 2))

/-! ### Reason 2: indexes and offsets -/

/-- Bytes from a signed offset that lie in the image. -/
def Img.holds (m : Img) (o : Int) (n : Nat) : Bool := decide (0 ≤ o) && decide (o + n ≤ (m.len : Int))

/-- The actor of the image at a place. -/
def Img.actorAt (m : Img) (dx dy : Int) (slot : Nat) : Option Nat :=
  (List.range (m.secCnt 2)).find? fun i => decide (m.actorPos i = (dx, dy, slot))

/-- A channel's endpoint as an offset from the region's origin (R37). -/
def Img.endOf (m : Img) (c : CRec) : Int × Int :=
  if c.sk = 0 then let a := m.actorPos c.snd; (a.1 + c.dx, a.2.1 + c.dy) else (c.dx, c.dy)

/-- The receiving actor of a channel record. -/
def Img.rcvr (m : Img) (c : CRec) : Option Nat :=
  if c.ek = 0 then m.actorAt (m.endOf c).1 (m.endOf c).2 c.rs else none

/-- A channel of the image leaves an output of an actor, or its error port there. -/
def Img.leaves (m : Img) (i : Nat) (a : ARec) (p : Nat) : Bool :=
  m.chans.any fun c => decide (c.sk = 0) && decide (c.snd = i) && (if c.se then decide (a.eport = some p) else decide (c.sp = p))

/-- Refusals for reason 2 of an actor record; a rule's output is present where a channel leaves it (R296).
[DEDUCED: notes/assumptions/7.md] -/
def Img.actorRefs (m : Img) (i : Nat) (a : ARec) : List LoadErr :=
  let e (v : Nat) : LoadErr := imageErr 2 2 i v
  let need := if a.kind = 4 then 64 else if a.kind = 8 then 8
    else if a.kind = 6 then 8 + 16 * m.fld a.kblk.toNat 0 3
    else if a.kind = 1 then 72 + 4 * m.fld (a.kblk.toNat + 64) 10 11 else 0
  (if a.kind = 0 then a.rules.flatMap fun u =>
      ((maskList u.outMask).flatMap fun p => errIf (!m.leaves i a p) (e p)) ++
        errIf (!dwBit (a.htab.getD u.entry.toNat 0) 63) (e u.entry.toNat)
   else []) ++
    errIf (decide (a.klen < need) || (decide (a.klen ≠ 0) && !m.holds a.kblk a.klen)) (e (m.fld (a.off + 0x28) 0 32)) ++
    errIf (decide (a.nlive ≠ 0) && !m.holds a.live (8 * a.nlive)) (e (m.fld (a.off + 0x30) 0 32)) ++
    errIf (decide (a.notl ≠ 0) && !m.holds a.otl (4 * a.notl)) (e (m.fld (a.off + 0x38) 0 32)) ++
    (List.range a.notl).flatMap fun j =>
      let v := bitsAt (bytesAt m (a.otl.toNat + 4 * j) 4) 0 20
      errIf (decide (m.secCnt 2 ≤ v)) (e v)

/-- Refusals for reason 2. -/
def Img.reason2 (m : Img) : List LoadErr :=
  let g := m.region
  let na := m.secCnt 2
  let nk := m.secCnt 5
  let opt (sec i v n : Nat) : List LoadErr := errIf (decide (v ≠ noIndex) && decide (n ≤ v)) (imageErr 2 sec i v)
  opt 1 0 g.ing na ++ opt 1 0 g.fs na ++ opt 1 0 g.root nk ++ eachRec m.actors m.actorRefs ++
    (eachRec m.chans fun i c =>
      errIf (decide (c.sk = 0) && decide (na ≤ c.snd)) (imageErr 2 3 i c.snd) ++
        errIf (decide (c.ek = 0) && (m.rcvr c).isNone) (imageErr 2 3 i c.rs)) ++
    (eachRec m.decls fun i d => errIf (decide (na ≤ d.act)) (imageErr 2 4 i d.act)) ++
    (eachRec m.ctrls fun i k =>
      opt 5 i k.par nk ++ errIf (decide (k.nkid ≠ 0) && !m.holds k.kids (4 * k.nkid)) (imageErr 2 5 i (m.fld (m.at_ 5 i + 8) 0 32)) ++
        ((m.kidsOf k).flatMap fun q => errIf (decide ((if q.2 then nk else na) ≤ q.1)) (imageErr 2 5 i q.1)) ++
        errIf (k.hasBlk && !m.holds k.cblk (8 + 16 * m.fld k.cblk.toNat 0 3)) (imageErr 2 5 i (m.fld (m.at_ 5 i + 16) 0 32))) ++
    (eachRec m.blocks fun i b => errIf (!m.holds (b.off : Int) (24 + b.len)) (imageErr 2 6 i b.off)) ++
    (eachRec m.stages fun i k =>
      [k.dist, k.tmpl, k.coll].flatMap (fun v => errIf (decide (na ≤ v)) (imageErr 2 7 i v)) ++
        errIf (decide (k.growth ≠ []) && !m.holds (m.ref (m.at_ 7 i) (m.at_ 7 i + 16) 0) (2 * k.growth.length))
          (imageErr 2 7 i (m.fld (m.at_ 7 i + 16) 0 32))) ++
    (eachRec m.nodes fun i n => errIf (decide (na ≤ n.1)) (imageErr 2 8 i n.1)) ++
    (eachRec m.edges fun i e => [e.parent, e.child].flatMap fun v => errIf (decide (m.secCnt 8 ≤ v)) (imageErr 2 9 i v)) ++
    eachRec m.sinks fun i q => errIf (decide (na ≤ q.1)) (imageErr 2 10 i q.1)

/-! ### Reasons 4, 5, 7 and 11 to 15: the image's own structure -/

/-- Channels between actors as edges, where `keep` holds. -/
def Img.arcs (m : Img) (keep : CRec → Bool) : List (Nat × Nat) :=
  m.chans.filterMap fun c => if decide (c.sk = 0) && keep c then (m.rcvr c).map fun b => (c.snd, b) else none

/-- Nodes reached from a list along edges, in at most `n` rounds. -/
def reachFrom (es : List (Nat × Nat)) : Nat → List Nat → List Nat
  | 0, l => l
  | n + 1, l =>
    let new := (es.filterMap fun e => if l.contains e.1 && !l.contains e.2 then some e.2 else none).eraseDups
    if new = [] then l else reachFrom es n (l ++ new)

/-- Reason 4 (R19): the first channel of a loop whose channels all start full. -/
def Img.reason4 (m : Img) : List LoadErr :=
  let es := m.arcs fun c => decide (c.slots = c.init)
  match lfind (fun c => decide (c.sk = 0) && decide (c.slots = c.init) && (match m.rcvr c with
      | some b => (reachFrom es m.actors.length [b]).contains c.snd
      | none => false)) m.chans 0 with
  | some (i, _) => [imageErr 4 3 i i]
  | none => []

/-- An input of an actor that something can feed (R40). -/
def Img.feeds (m : Img) (i : Nat) (a : ARec) (p : Nat) : Bool :=
  let g := m.region
  (m.chans.any fun c => decide (m.rcvr c = some i) && decide (c.rp = p)) || (decide (g.ing = i) && decide (g.ingp = p)) ||
    (decide (g.fs = i) && decide (g.fsp = p)) || a.rmask.testBit p || (decide (a.kind = 2) && decide (p = 7))

/-- Reason 5 (R40, R296, R427). -/
def Img.reason5 (m : Img) : List LoadErr :=
  eachRec m.actors fun i a =>
    if a.kind = 0 then
      errIf (a.rules.any fun u => decide (u.inMask = 0) || (maskList u.inMask).any fun p => !m.feeds i a p) (imageErr 5 2 i i)
    else
      errIf (decide (a.kind = 4) && decide (m.fld a.kblk.toNat 0 3 = 5) && !m.feeds i a 1) (imageErr 5 2 i i)

/-- The kind block of a merge actor: arrival, and its input mask (R31). -/
def Img.mergeOf (m : Img) (a : ARec) : Bool × Nat := (dwBit (m.dw a.kblk.toNat) 0, m.fld a.kblk.toNat 1 8)

/-- A channel ends at a commutative input. -/
def Img.commut (m : Img) (c : CRec) : Bool :=
  match m.rcvr c with
  | some b => (m.actor b).comm.testBit c.rp
  | none => true

/-- Reason 7 (R30, R31): an arrival merge, or the collector of a partitioned stage, before a consumer that is not
commutative. -/
def Img.reason7 (m : Img) : List LoadErr :=
  eachRec m.chans fun i c =>
    errIf (decide (c.sk = 0) && !c.se && decide (c.sp = 0) && !m.commut c &&
      ((decide ((m.actor c.snd).kind = 8) && (m.mergeOf (m.actor c.snd)).1) ||
        m.stages.any fun k => k.part && decide (k.coll = c.snd))) (imageErr 7 3 i i)

/-- The lane words of a lane actor, its first and last lane, and its parameters with their first index (R300). -/
def Img.lanesOf (m : Img) (a : ARec) : List Word × Nat × Nat × Nat × List Word :=
  let kb := a.kblk.toNat
  let n := m.fld (kb + 64) 10 11
  ((List.range 16).map fun j => BitVec.ofNat 32 (bytesAt m (kb + 4 * j) 4), m.fld (kb + 64) 21 4, m.fld (kb + 64) 25 4,
    m.fld (kb + 64) 0 10, (List.range n).map fun j => BitVec.ofNat 32 (bytesAt m (kb + 72 + 4 * j) 4))

/-- Formats a lane accepts (R351). -/
def laneFmt (code : Nat) : Bool := [0, 2, 3, 4, 5, 9, 11, 12].contains code

/-- A lane row with the words of one actor and the parameters that the image's lane actors on its tile give.
[DEDUCED: notes/assumptions/96.md] -/
def Img.rowOf (m : Img) (a : ARec) : Tile :=
  let (ws, _, _, _, _) := m.lanesOf a
  let row := m.actors.filter fun b => decide (b.kind = 1) && decide (b.dx = a.dx) && decide (b.dy = a.dy)
  { lanes := ws.zipIdx.foldl (fun t w => sset 0 t w.2 w.1) []
    params := row.foldl (fun t b =>
      let (_, _, _, p0, ps) := m.lanesOf b
      ps.zipIdx.foldl (fun t w => sset 0 t (p0 + w.2) w.1) t) [] }

/-- The receiving type of the channel into an input. -/
def Img.typeInto (m : Img) (i p : Nat) : Option Nat :=
  (m.chans.find? fun c => decide (m.rcvr c = some i) && decide (c.rp = p)).map (·.rt)

/-- A parameter word that its opcode refuses, in a lane of format `x` and group size `g` whose actor has the local window
`lb`, `ls` (R316, R335, R367, R369, R370, R374, R378, R379, R380). [DEDUCED: notes/assumptions/96.md] -/
def badParam (op v : Nat) (x : Fmt) (g lb ls : Nat) : Bool :=
  if op = 0x07 then !laneFmt (v % 32) || decide (2 ^ 15 ≤ v)
  else if op = 0x0C then decide (4 < v)
  else if op = 0x10 then
    decide (v % 32 ≠ 0) || decide (2 ^ 30 ≤ v) || decide (4096 < (v / 2 ^ 18 + 1) * g) ||
      !within (v % 2 ^ 18) (32 * (v / 2 ^ 18 + 1)) lb (lb + ls)
  else if op = 0x11 then decide (4096 ≤ v) || decide (x ≠ .fp32)
  else if op = 0x13 then decide (4096 ≤ v)
  else if op = 0x14 then decide (v % 4 = 3) || decide (2 ^ 14 ≤ v)
  else if op = 0x15 then decide (v % 4 = 3) || decide (g ≤ v / 4)
  else if op = 0x19 then decide (v % 8 ≠ 0) || decide (2 ^ 18 ≤ v)
  else if op = 0x1A then decide (1 < v)
  else false

/-- A lane of a segment that its opcode's entry refuses: its parameter word; select 6 without a lane two places before
(R57); a float operation on an integer format (R375, R381); a switch whose B is not zero (R382); LROW without its routing or
with o1 in use (R380); RBOX or RTRI beside another lane (R399, R403). [DEDUCED: notes/assumptions/96.md] -/
def badLane (t : Tile) (seg : LaneSeg) (fmt : Fmt) (lb ls j : Nat) : Bool :=
  let w := t.laneWord j
  let x := t.fmtIn seg.first fmt (j - seg.first)
  badParam w.op (t.param w) x (t.groupSize seg fmt) lb ls ||
    ((laneSels w).contains 6 && decide (j < seg.first + 2)) ||
    ([0x08, 0x09, 0x0A, 0x0E, 0x12].contains w.op && x.isInt) ||
    (decide (w.op = 0x0B) && decide (w.out = 5) && decide (w.sb ≠ 7)) ||
    (decide (w.op = 0x11) && (decide (w.out ≠ 6) || seg.lanes.any fun k =>
      [2, 4, 5].contains (t.laneWord k).out.toNat)) ||
    ([0x1C, 0x1D].contains w.op && seg.lanes.any fun k => decide (k ≠ j) && decide ((t.laneWord k).op ≠ 0))

/-- Lane words, ownership and formats of a lane actor that R58, R292, R293, R300 and R351 refuse, and a row of more than four
segments (R56). -/
def Img.badLanes (m : Img) (i : Nat) (a : ARec) : Bool :=
  let (ws, f, l, p0, ps) := m.lanesOf a
  let ends (w : LaneWord) : Bool := decide (w.out = 3) || decide (w.out = 4) || decide (w.out = 5) || decide (w.out = 7)
  let t := m.rowOf a
  let seg : LaneSeg := { first := f, last := l }
  let ins := t.segInputs seg
  let ty := (m.typeInto i 0).orElse fun _ => m.typeInto i 1
  let raw := decide (ty = some 0x3F)
  let w0 := t.laneWord f
  let fmt := (ty.bind typeFmt).getD .fp32
  let others := m.actors.zipIdx.filter fun b =>
    decide (b.2 ≠ i) && decide (b.1.kind = 1) && decide (b.1.dx = a.dx) && decide (b.1.dy = a.dy)
  decide (3 < others.length) || (ws.zipIdx.any fun w => if f ≤ w.2 ∧ w.2 ≤ l then (decodeLane w.1).isNone else decide (w.1 ≠ 0)) ||
    (seg.lanes.any fun j => ends (t.laneWord j) != decide (j = l) || badLane t seg fmt a.lb a.ls j) || decide ((t.laneWord l).op = 0) ||
    decide (1024 < p0 + ps.length) ||
    (others.any fun b =>
      let (_, f', l', q0, qs) := m.lanesOf b.1
      (decide (f ≤ l') && decide (f' ≤ l)) ||
        ps.zipIdx.any fun w => decide (q0 ≤ p0 + w.2) && decide (p0 + w.2 < q0 + qs.length) &&
          decide (qs.getD (p0 + w.2 - q0) 0 ≠ w.1)) ||
    (match m.typeInto i 0, m.typeInto i 1 with
     | some x, some y => decide (x ≠ y)
     | _, _ => false) ||
    (if raw then !([0x18, 0x1A, 0x1C, 0x1D].contains w0.op)
     else (ty.any fun x => !laneFmt (typeCode x)) ||
       seg.lanes.any fun j =>
         !laneFmt (t.fmtIn f fmt (j + 1 - f)).code ||
           ((laneSels (t.laneWord j)).any fun q => decide (q = 1) || decide (q = 2)) && decide (t.fmtIn f fmt (j - f) ≠ fmt)) ||
    ins.any fun p => (m.typeInto i p).isNone && m.chans.any fun c => decide (m.rcvr c = some i) && decide (c.rp ≠ 7)

/-- Reason 11. -/
def Img.reason11 (m : Img) : List LoadErr :=
  eachRec m.actors fun i a => errIf (decide (a.kind = 1) && m.badLanes i a) (imageErr 11 2 i i)

/-- The admission limit of a partitioned stage: the slots of the channel into its distributor's i0 (R417). -/
def Img.admits (m : Img) (k : SRec) : Nat :=
  ((m.chans.find? fun c => decide (m.rcvr c = some k.dist) && decide (c.rp = 0)).map (·.slots)).getD 0

/-- The actors of a stage's replica (R416). -/
def Img.members (m : Img) (k : SRec) : List Nat :=
  let cs := m.chans.map fun c => (if c.sk = 0 then some c.snd else none, m.rcvr c)
  let joins (e : Option Nat × Option Nat) (a : Nat) : Bool := decide (e.1 = some a) || decide (e.2 = some a)
  k.tmpl :: (List.range (m.secCnt 2)).filter fun a =>
    let mine := cs.filter fun e => joins e a
    decide (a ≠ k.tmpl) && !mine.isEmpty && mine.all fun e => joins e k.tmpl

/-- The tiles of a stage's growth set within the region where the image itself leaves a replica's slots free (R180). -/
def Img.usable (m : Img) (k : SRec) : List (Int × Int) :=
  k.growth.eraseDups.filter fun p =>
    decide (0 ≤ p.1) && decide (p.1 < m.region.w) && decide (0 ≤ p.2) && decide (p.2 < m.region.h) &&
      (m.members k).all fun a => (m.actorAt p.1 p.2 (m.actorPos a).2.2).isNone

/-- Reason 12: a stage's or work graph's breaches (R180, R191), a growth set that holds replicas 1 to m - 1 and leaves fewer than L - m
tiles being one, and an admission limit that is not below the free capacity of
the loop of distributor, owners and migration channels (R208). -/
def Img.reason12 (m : Img) : List LoadErr :=
  let es := m.edges.map fun e => (e.parent, e.child)
  (eachRec m.stages fun i k =>
    let room := (m.chans.filter fun c => match m.rcvr c with
      | some b => decide (c.sk = 0) && ((decide (c.snd = k.dist) && decide (b = k.tmpl)) ||
          (decide (c.snd = k.tmpl) && decide (b = k.dist) && decide (c.rp = 1)))
      | none => false).foldl (fun n c => n + (c.slots - c.init)) 0
    errIf (decide (k.lim < k.m) || decide (16 < k.hi) || decide (k.hi ≤ k.lo) || decide (1000 < k.window) ||
      decide ((m.usable k).length < k.lim - 1) || (k.part && decide (room ≤ m.admits k))) (imageErr 12 7 i i)) ++
    (eachRec m.nodes fun i n => errIf (decide ((m.actor n.1).kind ≠ 0)) (imageErr 12 8 i i)) ++
    eachRec m.edges fun i e =>
      let q := ((m.nodes[e.child]?).map (·.2.2)).getD 0
      errIf (decide (q < e.budget) || (reachFrom es m.nodes.length [e.child]).contains e.parent ||
        (m.edges.zipIdx.any fun f => decide (f.2 < i) && decide (f.1.parent = e.parent) &&
          (decide (f.1.num = e.num) || decide (f.1.child = e.child)))) (imageErr 12 9 i i)

/-- The window W of a blender: the initial tokens of a channel that leaves a lane actor by an output its lanes do not route to (R204).
[DEDUCED: notes/assumptions/35.md] -/
def Img.blendWindow (m : Img) (i : Nat) (a : ARec) : Option Nat :=
  let (_, f, l, _, _) := m.lanesOf a
  let outs := (m.rowOf a).segOutputs { first := f, last := l }
  (m.chans.find? fun c => decide (c.sk = 0) && decide (c.snd = i) && !c.se && decide (c.init ≠ 0) && !outs.contains c.sp).map (·.init)

/-- Bytes of a blender's buffer for a primitive of its window at one sample a pixel: 1,024 fragments of two doublewords (R203, R204).
No record declares ns. [DEDUCED: notes/assumptions/35.md] -/
def blendBytes : Nat := 16384

/-- Reason 13 (R188, R204): a handle channel joins two actors of one tile, and each range its sender declares live lies in the local
windows of both; a blender's window is of 1 to 8 primitives, whose buffer its local window holds. -/
def Img.reason13 (m : Img) : List LoadErr :=
  (eachRec m.actors fun i a => errIf (decide (a.kind = 1) && (match m.blendWindow i a with
      | some w => decide (8 < w) || decide (a.ls < w * blendBytes)
      | none => false)) (imageErr 13 2 i i)) ++
  eachRec m.chans fun i c =>
    if decide (c.st = 0x3E) || decide (c.rt = 0x3E) then
      let a := m.actor c.snd
      let inside (b : ARec) (p : Nat × Nat) : Bool := within p.1 p.2 b.lb (b.lb + b.ls)
      let live := (List.range a.nlive).map fun j =>
        let v := m.dw (a.live.toNat + 8 * j)
        (dwAt v 0 18, dwAt v 32 18)
      errIf (decide (c.sk ≠ 0) || (match m.rcvr c with
        | some b =>
          let y := m.actor b
          decide (y.dx ≠ a.dx) || decide (y.dy ≠ a.dy) || live.any fun p => !(inside a p && inside y p)
        | none => true)) (imageErr 13 3 i i)
    else []

/-- Reason 15 (R301): a scratchpad block outside every window of the image's actors on its tile. -/
def Img.reason15 (m : Img) : List LoadErr :=
  eachRec m.blocks fun i b =>
    errIf (!b.glob && !m.actors.any fun a => decide (a.dx = b.dx) && decide (a.dy = b.dy) &&
      (within b.la b.len a.cb (a.cb + a.cs) || within b.la b.len a.lb (a.lb + a.ls))) (imageErr 15 6 i i)

end Sys2Proof.Machine
end

