-- ==== Sys2Proof/Machine/Router.lean ====
section
/-! DEFINITION. Tokens on the wire: router hops, the filters of routes, and arrival at a receiver (R12, R14, R18, R26, R64,
R65, R82 to R87, R153, R304). -/

namespace Sys2Proof.Machine

/-! ### Filter entries (R65, R83, R84) -/

def filtSrc (f : Dw) : Nat := dwAt f 59 5
def filtDst (f : Dw) : Nat := dwAt f 54 5
def filtAdj (f : Dw) : Int := sextNat (dwAt f 46 8) 8
def filtOp (f : Dw) : Nat := dwAt f 44 2
def filtPol (f : Dw) : BitVec 4 := f.extractLsb' 40 4
def filtRnd (f : Dw) : Nat := dwAt f 38 2
def filtRows (f : Dw) : Nat := dwAt f 30 8 + 1
def filtCols (f : Dw) : Nat := dwAt f 22 8 + 1

/-- The entry converts: an entry of equal formats and no scale adjustment serves zero removal or transposition alone
(R83). [DESIGN CHOICE: notes/assumptions/24.md] -/
def filtConverts (f : Dw) : Bool := decide (filtSrc f ≠ filtDst f) || decide (filtAdj f ≠ 0)

/-- Conversion of one element (R84): flushed, scaled by 2^-sadj, and rounded into the destination format; none where the result is
INVALID. -/
def filtElem? (f : Dw) (x : Nat) : Option Nat :=
  match Fmt.ofCode (filtSrc f), Fmt.ofCode (filtDst f) with
  | some a, some b =>
    if filtConverts f then toFormat ((a.operand (filtPol f) x).shift (-filtAdj f)) b (filtPol f) (filtRnd f) else some x
  | _, _ => some x

/-- As an element-type channel carries it: zero for an INVALID result. [DESIGN CHOICE: notes/assumptions/24.md] -/
def filtElem (f : Dw) (x : Nat) : Nat := (filtElem? f x).getD 0

/-- Widths of an entry's formats. -/
def filtIn (f : Dw) : Nat := ((Fmt.ofCode (filtSrc f)).map Fmt.width).getD 64
def filtOut (f : Dw) : Nat := ((Fmt.ofCode (filtDst f)).map Fmt.width).getD 64

/-- A conversion that may answer INVALID: from a format with NaNs to one without (R82, R84). -/
def filtMayFail (f : Dw) : Bool :=
  match Fmt.ofCode (filtSrc f), Fmt.ofCode (filtDst f) with
  | some a, some b => filtConverts f && a.hasNaN && !b.hasNaN
  | _, _ => false

/-- The hop holds whole bursts: it changes the width or transposes (R85, R86), or an element that turns out INVALID would mark the
header ahead of it (R84). [DESIGN CHOICE: notes/assumptions/24.md] -/
def Chan.holds (c : Chan) (f : Dw) : Bool :=
  burstType c.st && (decide (filtIn f ≠ filtOut f) || decide (filtOp f = 2) || filtMayFail f)

/-- The tokens of a burst leave one for one, in their places: the width stays and nothing is transposed (R85). -/
def filtInPlace (f : Dw) : Bool := decide (filtIn f = filtOut f) && decide (filtOp f ≠ 2)

/-- The scale a burst leaves with (R84): the sum, or invalid where the source is or the sum leaves 0 to 254. -/
def filtScale (f : Dw) (scale : Nat) : Nat :=
  let n : Int := scale + filtAdj f
  if scale = 0xFF ∨ n < 0 ∨ 254 < n then 0xFF else n.toNat

/-- Transposition (R86): the element at row × ncol + col moves to col × nrow + row. -/
def transposed (rows cols : Nat) (l : List Nat) : List Nat :=
  (List.range (rows * cols)).map (fun j => l.getD (j % rows * cols + j / rows) 0) ++ l.drop (rows * cols)

/-! ### Zero removal (R87) -/

/-- An element is zero: every bit but a floating-point sign is clear. -/
def zeroElem (f : Fmt) (x : Nat) : Bool := decide ((if f.isInt then x else x % 2 ^ (f.width - 1)) = 0)

/-- The (position, element) doublewords of the non-zero elements of a token. -/
def zeroPairs (f : Fmt) : Nat → List Nat → List (List Dw)
  | _, [] => []
  | p, x :: l =>
    if zeroElem f x then zeroPairs f (p + 1) l
    else
      (if f.width = 64 then [BitVec.ofNat 64 p, BitVec.ofNat 64 x] else [packDw [(p % 2 ^ 32, 32), (x, 0)]]) ::
        zeroPairs f (p + 1) l

/-! ### One hop -/

/-- A flit past the hop, with a token in its place. -/
def Flit.past (x : Flit) (pos : Nat) (t : Token) : Flit := { x with pos := pos, tok := t }

/-- Flits stamped with the numbers of the part after the hop (R87). -/
def stampFlits (n : BitVec 12) : List Flit → List Flit
  | [] => []
  | x :: l => { x with tok := { x.tok with seq := n } } :: stampFlits (n + 1) l

/-- The channel after a number of stamped flits. [DESIGN CHOICE: notes/assumptions/24.md] -/
def Chan.stamped (c : Chan) (l : List Flit) : Chan × List Flit :=
  ({ c with zseq := c.zseq + BitVec.ofNat 12 l.length }, stampFlits c.zseq l)

/-- Zero removal of one flit (R87). -/
def Chan.dropZeros (c : Chan) (f : Dw) (x : Flit) : Chan × List Flit :=
  let pos := c.fhop + 1
  match Fmt.ofCode (filtDst f) with
  | none => c.stamped [x.past pos x.tok]
  | some m =>
    if x.tok.kind = 0 then
      let es := (unpack m.width x.tok.payload).map (filtElem f)
      let per := if m.width = 64 then 4 else 8
      let pairs := zeroPairs m c.zpos es
      let toks := (chunksOf per pairs.length pairs).map fun l => x.past pos { kind := 0, payload := l.flatten }
      ({ c with zpos := c.zpos + es.length, zcount := c.zcount + toks.length }).stamped toks
    else if x.tok.kind = 2 then
      let d : Dw := packDw [(dwAt (x.tok.dw 0) 0 32, 0), (c.zcount % 2 ^ 32, 32)]
      ({ c with zpos := 0, zcount := 0 }).stamped [x.past pos { x.tok with payload := [d] }]
    else
      let n := if x.tok.kind = 1 then c.zcount + 1 else c.zcount
      ({ c with zcount := n }).stamped [x.past pos x.tok]

/-- Data tokens a held burst still lacks; none where no burst is held. -/
def Chan.lacks (c : Chan) : Option Nat :=
  match c.held with
  | [] => none
  | h :: l => some (hdrLen (h.tok.dw 0) - (l.filter fun x => decide (x.tok.kind = 0)).length)

/-- A data token of an entry that keeps the element width, converted by `one`. -/
def Token.mapped (t : Token) (f : Dw) (one : Nat → Nat) : Token :=
  { t with payload := natDws t.payload.length (elemsNat (filtOut f) ((unpack (filtIn f) t.payload).map one)) }

/-- A header as a conversion that keeps the width rewrites it (R84). -/
def filtHeader (f hd : Dw) (scale : Nat) : Dw := mkHdr scale (hdrLen hd) (hdrLot hd) (filtDst f) (hdrPad hd) (hdrTag hd)

/-- A flit at a hop that converts token for token (R84, R85): a header is rewritten as it passes, and the elements of a burst that it
marks invalid leave as zeros (R75). -/
def Chan.convertFlit (c : Chan) (f : Dw) (x : Flit) : Chan × List Flit :=
  let pos := c.fhop + 1
  if filtConverts f = false then (c, [x.past pos x.tok])
  else if x.tok.kind = 3 ∧ burstType c.st then
    let sc := filtScale f (hdrScale (x.tok.dw 0))
    ({ c with zbad := decide (sc = 0xFF) }, [x.past pos { x.tok with payload := [filtHeader f (x.tok.dw 0) sc] }])
  else if x.tok.kind = 0 then (c, [x.past pos (x.tok.mapped f fun e => if c.zbad then 0 else filtElem f e)])
  else (c, [x.past pos x.tok])

/-- The tokens of a held burst as they leave the hop (R84 to R86): the burst converted, an invalid block zeroed; where the width
changes or the burst is transposed, packed full and then whatever else it held. The second component counts the elements of a
burst too short to transpose. A control token of a repacked burst leaves after its data.
[DESIGN CHOICE: notes/assumptions/24.md] -/
def burstOut (f : Dw) (held : List Flit) : List Token × Option Nat :=
  match held with
  | [] => ([], none)
  | h :: l =>
    let hd := h.tok.dw 0
    let data := (l.filter fun x => decide (x.tok.kind = 0)).map fun x => x.tok.payload
    let rest := (l.filter fun x => decide (x.tok.kind ≠ 0)).map (·.tok)
    let es := burstElems (filtIn f) (if data.length = hdrLen hd then hdrPad hd else 0) data
    let sc0 := if filtConverts f then filtScale f (hdrScale hd) else hdrScale hd
    let sc := if es.any fun x => (filtElem? f x).isNone then 0xFF else sc0
    let one (x : Nat) : Nat := if sc = 0xFF then 0 else filtElem f x
    if filtInPlace f then
      ({ h.tok with payload := [filtHeader f hd sc] } :: l.map fun x => if x.tok.kind = 0 then x.tok.mapped f one else x.tok, none)
    else
      let n := filtRows f * filtCols f
      let short := decide (filtOp f = 2) && decide (es.length < n)
      let es1 := es.map one
      let es2 := if decide (filtOp f = 2) && !short then transposed (filtRows f) (filtCols f) es1 else es1
      match Fmt.ofCode (filtDst f) with
      | none => (h.tok :: l.map (·.tok), none)
      | some m =>
        let (h', ps) := mkBurst m (filtDst f) sc (hdrLot hd) (hdrTag hd) es2
        ({ h.tok with payload := [h'] } :: ps.map (fun p => { kind := 0, payload := p }) ++ rest,
          if short then some es.length else none)

/-- The flits of a held burst that is broken off leave for their consumer to judge: converted token for token, or as they came
where the burst was to be repacked. [DESIGN CHOICE: notes/assumptions/24.md] -/
def Chan.brokenOff (c : Chan) (f : Dw) : List Flit :=
  let toks := if filtInPlace f then (burstOut f c.held).1 else c.held.map (·.tok)
  (c.held.zip toks).map fun h => h.1.past (c.fhop + 1) h.2

/-- The hop as a flit of a later launch finds it: a burst that the earlier one left unfinished has left it, and its numbering and its
element positions start afresh (R14, R87). [DESIGN CHOICE: notes/assumptions/24.md] -/
def Chan.turned (c : Chan) (f : Dw) (x : Flit) : Chan × List Flit :=
  if x.old < c.zold then
    ({ c with held := [], zold := x.old, zseq := 0, zpos := 0, zcount := 0, zbad := false }, (c.stamped (c.brokenOff f)).2)
  else (c, [])

/-- The hop's filter applied to a flit: the channel and the flits that leave the hop. A null, EOS, error or header breaks a held
burst off. Zero removal applies to element-type channels and transposition to burst channels (R86, R87); on the other kind the
entry only converts. [DESIGN CHOICE: notes/assumptions/24.md] -/
def Chan.filterFlit (c : Chan) (f : Dw) (x : Flit) : Chan × List Flit :=
  if filtOp f = 1 ∧ burstType c.st = false then c.dropZeros f x
  else if c.holds f then
    match c.lacks with
    | some (_ + 1) =>
      if x.tok.restarts then
        let out := c.brokenOff f
        if x.tok.kind = 3 then ({ c with held := [x] }).stamped out
        else ({ c with held := [] }).stamped (out ++ [x.past (c.fhop + 1) x.tok])
      else ({ c with held := c.held ++ [x] }, [])
    | _ => if x.tok.kind = 3 then ({ c with held := [x] }, []) else c.stamped [x.past (c.fhop + 1) x.tok]
  else c.convertFlit f x

/-- A router that receives kind 8 to 15 delivers an error token with code 0x01 and the same number in its place (R12); the
slot field names no actor and is a free value. [DESIGN CHOICE: notes/assumptions/25.md] -/
def State.badKind (s : State) (r ch tile : Nat) (t : Token) : Token × State :=
  let asid := ((s.region r).map (·.asid)).getD 0
  let (v, s) := s.free
  ({ kind := 4, seq := t.seq, payload := errPayload asid ch tile (v.toNat % 16) t.kind.toNat 0x01 0 }, s)

/-- A flit that crosses an edge ends a row of failed replays there (R245). [DEDUCED: notes/assumptions/62.md] -/
def State.crossed (s : State) (a b : Nat) : State :=
  match edgeNum a b with
  | some e => { s with replays := sset 0 s.replays e 0 }
  | none => s

/-- How a token of a channel crosses between two dies of its path (R242, R244): on the bulk circuit that the channel is bound to, false;
on the edge's narrow plane, true; none while that is not ready. [DEDUCED: notes/assumptions/61.md] -/
def State.crossing (s : State) (c : Chan) (a b : Nat) : Option Bool :=
  let ends := (dieOf (c.path.headD 0), dieOf (c.path.getLastD 0))
  if a = b then some false
  else
    match c.circuits.find? fun e => entJoins (s.entry e) ends.1 ends.2 || entJoins (s.entry e) a b with
    | some e => if entV (s.entry e) && entRdy (s.entry e) then some false else none
    | none => if s.narrowAt a b then some true else none

/-- Flit `k` of a channel passes the router it stands at: it keeps its order behind the flits ahead of it, and a complete
held burst leaves the hop first. -/
def State.hop (s : State) (r ch k : Nat) : Option State :=
  match (s.region r).bind fun g => g.chan ch with
  | none => none
  | some c =>
    match c.wire[k]? with
    | none => none
    | some x =>
      let here := decide (x.pos = c.fhop) && c.filt.isSome
      let free := (c.wire.take k).all fun y => decide (x.pos < y.pos)
      let a := dieOf ((c.path[x.pos]?).getD 0)
      let b := ((c.path[x.pos + 1]?).map dieOf).getD a
      let way := s.crossing c a b
      if !(decide (x.pos + 1 < c.path.length) || here) || !free || (here && decide (c.lacks = some 0)) || way.isNone then none
      else
        let (t, s) := if 8 ≤ x.tok.kind.toNat then s.badKind r ch ((c.path[x.pos]?).getD 0) x.tok else (x.tok, s)
        let x := { x with tok := t }
        let s := if way = some true then s.crossed a b else s
        let (c, out) := match c.filt, here with
          | some f, true =>
            let (c, first) := c.turned f x
            let (c, out) := c.filterFlit f x
            (c, first ++ out)
          | _, _ => (c, [x.past (x.pos + 1) t])
        some (s.modRegion r fun g => g.setChan ch { c with wire := c.wire.take k ++ out ++ c.wire.drop (k + 1) })

/-- The tile, slot and input port that a channel's tokens name (R66, R297): an actor's, or for another receiver the last router's tile
and the engine, link or head in the slot's place. [DESIGN CHOICE: notes/assumptions/13.md] -/
def Region.destOf (g : Region) (c : Chan) : Nat × Nat × Nat :=
  let last := (c.path.getLast?).getD 0
  match c.dst with
  | .actor a p => ((g.actor a).map fun y => (y.tile, y.slot, p % 8)).getD (last, 0, p % 8)
  | .copy _ n => (last, n % 16, 0)
  | .link k _ => (last, k % 16, 0)
  | .head _ h => (last, h % 16, 0)
  | .bank _ | .linkEngine _ | .launch => (last, 0, 0)

/-- The head word of a token as it travels (R66): the virtual channel is that of the hop it stands at. A channel's index is
kept modulo 256. [DESIGN CHOICE: notes/assumptions/13.md] -/
def Region.headWord (g : Region) (ch : Nat) (c : Chan) (x : Flit) : Dw :=
  let (t, slot, p) := g.destOf c
  packDw [(x.tok.sideband, 48), (tileX t, 42), (tileY t, 38), (slot, 34), (p, 31), (x.tok.payload.length - 1, 28),
    (c.vcs.getD x.pos 0, 25), (ch % 256, 17), (g.asid % 16384, 0)]

/-- ROUTER_HOP (R64). -/
def execRouterHop (r ch k : Nat) (s : State) : Res := occurIn s r (s.hop r ch k)

/-- FILTER_BURST_EMIT (R85, R86): the held burst leaves whole once its last data token has arrived.
[DESIGN CHOICE: notes/assumptions/25.md] -/
def State.emitBurst (s : State) (r ch : Nat) : Option State :=
  match (s.region r).bind fun g => g.chan ch with
  | none => none
  | some c =>
    let a := dieOf ((c.path[c.fhop]?).getD 0)
    let b := ((c.path[c.fhop + 1]?).map dieOf).getD a
    match c.filt, c.lacks, s.crossing c a b with
    | some f, some 0, some way =>
      let s := if way then s.crossed a b else s
      let (ts, short) := burstOut f c.held
      let after := (c.held.flatMap (·.after)).eraseDups
      let out := ts.map fun t => ({ pos := c.fhop + 1, tok := t, after := after, old := (c.held.head?.map (·.old)).getD 0 } : Flit)
      let (c1, out) := ({ c with held := [] }).stamped out
      let ahead := c.wire.takeWhile fun x => decide (c.fhop < x.pos)
      let s1 := s.modRegion r fun g => g.setChan ch { c1 with wire := ahead ++ out ++ c.wire.drop ahead.length }
      match short with
      | none => some s1
      | some n =>
        let (v, s2) := s1.free
        some (s2.feedError r ((c.path[c.fhop]?).getD 0) (v.toNat % 16) ch 0xFF 0x05 (BitVec.ofNat 64 n))
    | _, _, _ => none

/-- FILTER_BURST_EMIT. -/
def execFilterBurstEmit (r ch : Nat) (s : State) : Res := occurIn s r (s.emitBurst r ch)

/-! ### Arrival (R14, R26, R153, R304) -/

/-- A flit has reached its receiver's router. -/
def Chan.atEnd (c : Chan) (x : Flit) : Bool :=
  decide (c.path.length ≤ x.pos + 1) && (c.filt.isNone || decide (c.fhop < x.pos))

/-- A token as its input port takes it (R14, R26): a sequence break becomes code 0x02, an unknown control subtype code 0x08;
the number expected next. -/
def arriveAs (asid ch tile slot p : Nat) (exp : BitVec 12) (t : Token) : Token × BitVec 12 :=
  if t.seq ≠ exp then
    ({ kind := 4, seq := t.seq,
       payload := errPayload asid ch tile slot p 0x02 (packDw [(exp.toNat, 0), (t.seq.toNat, 16)]) }, t.seq + 1)
  else if t.kind = 5 ∧ t.subtype ≠ 3 ∧ t.subtype ≠ 4 then
    ({ kind := 4, seq := t.seq, payload := errPayload asid ch tile slot t.subtype 0x08 0 }, exp + 1)
  else (t, exp + 1)

/-- The command that two doublewords make: w1:w0 and w3:w2. -/
def cmdOf (t : Token) : BitVec 128 := t.dw 1 ++ t.dw 0

/-- The class a command runs in (R190): the higher of the issuing firing's and, where it names a barrier slot, the slot's
wake class. [DEDUCED: notes/assumptions/36.md] -/
def Region.commandClass (g : Region) (cls : BitVec 2) (w : BitVec 128) : BitVec 2 :=
  let wake := (g.barrier (w.extractLsb' 17 6).toNat).cls
  if w.getLsbD 23 && cls.ult wake then wake else cls

/-- A token accepted by a command engine (R190, R304); a solstice is consumed there silently (R229).
[DEDUCED: notes/assumptions/36.md] -/
def State.accept (s : State) (r ch : Nat) (e : Engine) (c : Chan) (cls : BitVec 2) (t : Token) (after : List Dep) : State :=
  if t.kind = 6 then s
  else
    match s.region r with
    | none => s
    | some g =>
      let a := match c.src with | .actor a _ => a | _ => 0
      let tile := ((g.actor a).map (·.tile)).getD 0
      { s with cmds := s.cmds ++
        [{ eng := e, cls := g.commandClass cls (cmdOf t), region := r, actor := a, chan := ch, tile := tile, w := cmdOf t, by_ := t.by_
           behind := (after.map fun u => (u.tile, u.id)).eraseDups
           bad := decide (t.kind ≠ 0) || decide (t.payload.length ≠ 2) }] }

/-- Commands of a channel that its engine has accepted and not completed (R304). -/
def State.openCmds (s : State) (r ch : Nat) : Nat :=
  (s.cmds.filter fun c => decide (c.region = r) && decide (c.chan = ch) &&
    (match c.eng with | .unit .. => false | _ => true)).length

/-- A flit waits for an access that its send released (R153, R155, R161); a deferred get, and in a cut a spilled access, holds
back not the token but the receiver's later accesses (R231, R360). -/
def State.holds (s : State) (cutting : Bool) (d : Dep) : Bool :=
  !s.depDone d && !((s.tile d.tile).port.any fun a => decide (a.id = d.id) &&
    (decide (a.st = .deferred) || (cutting && a.spilled.isSome)))

/-- A token handed to a sister link (R251): the peer holds at most 256 of a channel for which it has not returned credit, how many it has
returned being a free value; with no credit the token stays, as `s`, where `taken` is the state without it. On a link that is down or not enabled it is
lost, an error token taking its place at the peer. [DESIGN CHOICE: notes/assumptions/64.md] -/
def State.sendLink (s taken : State) (k n : Nat) (t : Token) : State :=
  let l := s.link k
  let (v, _) := s.free
  let owed := sget 0 l.owed n - v.toNat % (sget 0 l.owed n + 1)
  let l1 := { l with owed := sset 0 l.owed n (owed + 1), sent := sset [] l.sent n (sget [] l.sent n ++ [t]) }
  if !l.live then taken
  else if 256 ≤ owed then { s.setLink k { l with owed := sset 0 l.owed n owed } with fresh := s.fresh + 1 }
  else { taken.setLink k l1 with fresh := s.fresh + 1 }

/-- The first flit of a channel taken by its receiver (R14): not before the accesses that its send released are performed
at the scope the send needs (R153, R155); those not yet performed at package scope pass to the receiver with the token.
[DEDUCED: notes/assumptions/11.md] -/
def State.receive (s : State) (r ch : Nat) : Option State :=
  match s.region r with
  | none => none
  | some g =>
    match g.chan ch with
    | none => none
    | some c =>
      match c.wire with
      | [] => none
      | x :: rest =>
        let full := (match c.dst with | .copy .. | .bank .. | .linkEngine .. => true | _ => false) &&
          decide (x.tok.kind ≠ 6) && decide (c.slots ≤ s.openCmds r ch)
        if !c.atEnd x || full || x.after.any (s.holds g.cutBy.isSome) then none
        else
          let tile := (c.path.getLast?).getD 0
          let (t, s) := if 8 ≤ x.tok.kind.toNat then s.badKind r ch tile x.tok else (x.tok, s)
          let s1 := s.modRegion r fun g => g.setChan ch { c with wire := rest, older := x.old }
          match c.dst with
          | .actor a p =>
            match g.actor a with
            | none => some s1
            | some y =>
              let q := y.port p
              let (t', e) := arriveAs g.asid ch y.tile y.slot p (if x.old < c.older then 0 else q.exp) t
              let left := x.after.filter fun u => !s.performedAt u.tile u.id 2
              some (s1.modActor r a fun y =>
                y.setPort p { q with exp := e, q := q.q ++ [{ t' with deps := t'.deps ++ left }] })
          | .copy d n => some (s1.accept r ch (.copy d n) c x.cls t x.after)
          | .bank d => some (s1.accept r ch (.bank d) c x.cls t x.after)
          | .linkEngine d => some (s1.accept r ch (.link d) c x.cls t x.after)
          | .link k n => if t.kind = 6 then some s1 else some (s.sendLink s1 k n t)
          | _ =>
            if t.kind = 6 then some s1
            else some (s1.modRegion r fun g => g.modChan ch fun c => { c with q := c.q ++ [t] })

/-- TOKEN_RECEIVE (R14). -/
def execTokenReceive (r ch : Nat) (s : State) : Res := occurIn s r (s.receive r ch)

end Sys2Proof.Machine
end

