-- ==== Sys2Proof/Machine/LoadChecks.lean ====
section
/-! DEFINITION. The loader's checks that need more than the image: places and handler ranges, channel types and filters, range
declarations against grants, exhausted tile resources, the race check, and the size of the save area (R37, R44, R62, R64,
R65, R83, R118, R124, R126, R162, R163, R178, R232, R330). -/

namespace Sys2Proof.Machine

/-! ### Reading the image, and grants by index (R124, R232) -/

/-- Bytes read through an ASID's grants with the r permission. -/
def State.grantRead (s : State) (die asid va n : Nat) : Except (Nat × Dw) (List Byte) :=
  match s.xlate die asid (s.grants die asid) { r := true } 1 va n with
  | .ok ps _ => if s.anyPoison ps then .error (0x16, BitVec.ofNat 64 va) else .ok (ps.map s.rdByte)
  | .fail c d => .error (c, d)
  | .page v => .error (0x15, BitVec.ofNat 64 v)

/-- The image at an address: its header's first 8 bytes, and then the length they give. -/
def State.readImage (s : State) (die asid va : Nat) : Except (Nat × Dw) Img :=
  match s.grantRead die asid va 8 with
  | .error e => .error e
  | .ok l => if leNat (l.take 4) ≤ 8 then .ok l else s.grantRead die asid va (leNat (l.take 4))

/-- The marks of the walks by which an image is read, as far as it can be (R127). -/
def State.imageSeen (s : State) (die asid va : Nat) : State :=
  let seen (s : State) (n : Nat) : State := s.mark false (s.leaves die asid (s.grants die asid) { r := true } 1 va n)
  match s.grantRead die asid va 8 with
  | .error _ => seen s 8
  | .ok l => seen s (max 8 (leNat (l.take 4)))

/-! ### Places and paths (R37, R64) -/

/-- The tiles of a flit's way: first along x, then along y. -/
def pathOf (t u : Nat) : List Nat :=
  (runTo (tileX t) (tileX u)).map (fun x => tileAt x (tileY t)) ++ ((runTo (tileY t) (tileY u)).drop 1).map (tileAt (tileX u))

/-- The tile of an offset from an origin. -/
def tileFrom (ox oy : Nat) (dx dy : Int) : Nat := tileAt (ox + dx).toNat (oy + dy).toNat

/-- The routers a channel of the image crosses, its region at an origin. -/
def Img.route (m : Img) (ox oy : Nat) (c : CRec) : List Nat :=
  let e := m.endOf c
  let u := tileFrom ox oy e.1 e.2
  if c.sk = 0 then
    let a := m.actor c.snd
    let t := tileFrom ox oy a.dx a.dy
    if c.ek = 4 ∨ c.ek = 5 then [t] else pathOf t u
  else [u]

/-! ### Reason 3 (R37, R44, R296) -/

/-- Two byte ranges meet. -/
def meets (a n b k : Nat) : Bool := decide (0 < n) && decide (0 < k) && decide (a < b + k) && decide (b < a + n)

/-- A byte range meets a tile's handler range. -/
def Tile.meetsHandler (t : Tile) (a n : Nat) : Bool :=
  meets a n (64 * t.hrBase.toNat) (64 * t.hrLimit.toNat - 64 * t.hrBase.toNat)

/-- A place lies in the region's rectangle. -/
def GRec.has (g : GRec) (x y : Int) : Bool := decide (0 ≤ x) && decide (x < g.w) && decide (0 ≤ y) && decide (y < g.h)

/-- Reason 3, at a given origin; without one the handler ranges are left to the search. -/
def Img.reason3 (m : Img) (s : State) (o : Option (Nat × Nat)) : List LoadErr :=
  let g := m.region
  let handler (dx dy : Int) (a n : Nat) : Bool := match o with
    | some (ox, oy) => g.has dx dy && (s.tile (tileFrom ox oy dx dy)).meetsHandler a n
    | none => false
  (eachRec m.actors fun i a =>
    errIf (!g.has a.dx a.dy || decide (0x40000 < a.cb + a.cs) || decide (0x40000 < a.lb + a.ls) ||
      handler a.dx a.dy a.cb a.cs || handler a.dx a.dy a.lb a.ls) (imageErr 3 2 i i)) ++
    (eachRec m.chans fun i c =>
      errIf (!g.has (m.endOf c).1 (m.endOf c).2) (imageErr 3 3 i (if c.sk = 0 then c.snd else noIndex))) ++
    (eachRec m.blocks fun i b =>
      errIf (!b.glob && (!g.has b.dx b.dy || handler b.dx b.dy b.la b.len)) (imageErr 3 6 i noIndex)) ++
    eachRec m.stages fun i k => errIf (k.growth.any fun p => !g.has p.1 p.2) (imageErr 3 7 i k.tmpl)

/-! ### Reason 6 (R65, R83, R84, R213, R251, R297, R425) -/

/-- A type code of R297. -/
def goodType (t : Nat) : Bool := decide (t ≤ 0x0C) || burstType t || decide (t = 0x3E) || decide (t = 0x3F)

/-- Bits of an element of a type. -/
def typeWidth (t : Nat) : Nat := ((typeFmt t).map Fmt.width).getD 64

/-- A filter entry that R65, R83 or R84 refuses on a channel; where the types agree it converts nothing (R83). -/
def Img.badFilter (m : Img) (c : CRec) : Bool :=
  let f := c.filt
  let same := decide (filtSrc f = filtDst f)
  decide (filtOp f = 3) || decide (dwAt f 0 22 ≠ 0) || (Fmt.ofCode (filtSrc f)).isNone || (Fmt.ofCode (filtDst f)).isNone ||
    ((decide (filtIn f < 8) || decide (filtOut f < 8)) && !(same && decide (filtOp f = 0))) ||
    (decide (filtOp f = 2) && decide (c.blk < filtRows f * filtCols f)) || (!burstType c.st && decide (filtAdj f ≠ 0)) ||
    decide (0x3E ≤ c.st) || decide ((m.route 0 0 c).length ≤ c.hop) ||
    (if c.st = c.rt then !same || decide (filtAdj f ≠ 0)
     else decide (filtSrc f ≠ typeCode c.st) || decide (filtDst f ≠ typeCode c.rt))

/-- A channel's types refused by R83 or R297. -/
def CRec.badTypes (c : CRec) : Bool :=
  !goodType c.st || !goodType c.rt || (decide (c.st < 0x20) && decide (typeWidth c.st < 8)) ||
    (decide (c.rt < 0x20) && decide (typeWidth c.rt < 8)) ||
    (burstType c.st && decide (131072 < c.blk * typeWidth c.rt)) ||
    (decide (c.st ≠ c.rt) && (!c.fv || decide (0x3E ≤ c.st) || decide (0x3E ≤ c.rt) || decide (burstType c.st ≠ burstType c.rt) ||
      (!burstType c.st && decide (typeWidth c.st ≠ typeWidth c.rt))))

/-- A link channel's number is bound in a direction by a placed region. -/
def State.linkBound (s : State) (sends : Bool) (k n : Nat) : Bool :=
  s.regions.any fun r => match r.2 with
    | some g => g.chans.any fun c => match c.2 with
      | some c => if sends then decide (c.dst = .link k n) else decide (c.src = .link k n)
      | none => false
    | none => false

/-- A half of a link channel refused: the link not enabled, or not the slice's, or its number bound (R251). -/
def Img.badLink (m : Img) (s : State) (slice i : Nat) (c : CRec) : Bool :=
  let bad (sends : Bool) (k : Nat) : Bool :=
    let l := s.link k
    !l.enabled || l.pkg || decide (l.owner ≠ slice) || s.linkBound sends k c.lch ||
      m.chans.zipIdx.any fun d => decide (d.2 < i) && decide (d.1.lch = c.lch) &&
        (if sends then decide (d.1.ek = 5) && decide (d.1.rs = k) else decide (d.1.sk = 1) && decide (d.1.snd % 8 = k))
  (decide (c.ek = 5) && bad true c.rs) || (decide (c.sk = 1) && bad false (c.snd % 8))

/-- The die whose head a channel ends at, with the image at an origin. [DEDUCED: notes/assumptions/47.md] -/
def Img.headDie (m : Img) (ox oy : Nat) (c : CRec) : Nat :=
  let e := m.endOf c
  dieOf (tileFrom ox oy e.1 e.2)

/-- A channel to a display head that does not hold the ASID, with the image at an origin (R213). -/
def Img.badHead (m : Img) (s : State) (asid ox oy : Nat) (c : CRec) : Bool :=
  decide (c.ek = 6) && decide (dwAt (sget {} (s.die (m.headDie ox oy c)).heads c.rs).dctl 4 14 ≠ asid)

/-- A channel from an encoder session that does not hold the ASID, or one from a session or to a head that is not of raw type; to a head
that does not hold the ASID, where the origin is given (R213, R297). -/
def Img.badMedia (m : Img) (s : State) (slice asid : Nat) (o : Option (Nat × Nat)) (c : CRec) : Bool :=
  ((decide (c.sk = 2) || decide (c.ek = 6)) && !(decide (c.st = 0x3F) && decide (c.rt = 0x3F))) ||
    (decide (c.sk = 2) && (match (s.slice slice).rankDie (c.snd / 4) with
      | some d => decide (dwAt (sget {} (s.die d).sess (c.snd % 4)).esctl 4 14 ≠ asid)
      | none => true)) ||
    o.any fun p => m.badHead s asid p.1 p.2 c

/-- The output that a channel leaves: its actor and port, the error port being the one that the actor's record names (R17, R21); 8 where
it names none. -/
def Img.outPort (m : Img) (c : CRec) : Nat × Nat := (c.snd, if c.se then (m.actor c.snd).eport.getD 8 else c.sp)

/-- Reason 6 for a placement in a slice under an ASID, at an origin. -/
def Img.reason6 (m : Img) (s : State) (slice asid : Nat) (o : Option (Nat × Nat)) : List LoadErr :=
  let g := m.region
  eachRec m.chans fun i c =>
    let dst := m.rcvr c
    errIf (c.badTypes || (c.fv && m.badFilter c) || (decide (c.ek = 5) && decide (c.sk ≠ 0)) || m.badLink s slice i c ||
      m.badMedia s slice asid o c ||
      (match dst with
       | some b => (decide (g.fs = b) && decide (g.fsp = c.rp)) ||
           (decide (c.rp = 7) && [1, 2, 3].contains (m.actor b).kind && decide (c.rt ≠ 0x3F))
       | none => false) ||
      m.chans.zipIdx.any fun d => decide (d.2 < i) &&
        ((dst.isSome && decide (m.rcvr d.1 = dst) && decide (d.1.rp = c.rp)) ||
          (decide (c.sk = 0) && decide (d.1.sk = 0) && decide (m.outPort d.1 = m.outPort c)) ||
          (decide (c.sk = 2) && decide (d.1.sk = 2) && decide (d.1.snd = c.snd)))) (imageErr 6 3 i i)

/-! ### Reasons 8 and 9: ranges and generators (R124, R126) -/

/-- The range entry a declaration forms from its grant, or none where R124 refuses it. [DEDUCED: notes/assumptions/51.md] -/
def DRec.entry (d : DRec) (g : RangeEntry) (asid : Nat) : Option RangeEntry :=
  let top := d.base.toNat + d.len.toNat
  let lo := va56 d.base.toNat
  let hi := va56 top
  let b := lo / 4096 * 4096
  let e := hi / 4096 * 4096
  let r := d.perm.testBit 0
  let w := d.perm.testBit 1
  let at_ := d.perm.testBit 2
  let fut := d.perm.testBit 3
  if canonical d.base.toNat && canonical top && decide (d.len.toNat < 2 ^ 56) && decide (lo ≤ hi) &&
      !(decide (lo < 2 ^ 55) && decide (2 ^ 55 ≤ hi)) && decide (g.base ≤ lo) && decide (hi < g.last + 4096) &&
      (!r || g.r) && (!w || g.w) && (!at_ || g.at_) && (!fut || g.fut) &&
      (!g.paged || (decide (b % 65536 = 0) && decide ((e + 4096) % 65536 = 0))) then
    some { base := b, last := e, pbase := if g.paged then 0 else g.pbase + (b - g.base), asid := asid, paged := g.paged
           r := r, w := w, at_ := at_, fut := fut, nc := d.perm.testBit 4 }
  else none

/-- Two entries of one ASID overlap without being identical. -/
def RangeEntry.clashes (a b : RangeEntry) : Bool :=
  decide (a.asid = b.asid) && decide (a ≠ b) && decide (a.base < b.last + 4096) && decide (b.base < a.last + 4096)

/-- The entries of an image's declarations, as a die reads the grants: declaration, actor and entry.
[DEDUCED: notes/assumptions/51.md] -/
def Img.entries (m : Img) (s : State) (die asid : Nat) : List (Nat × Nat × RangeEntry) :=
  m.decls.zipIdx.filterMap fun p => ((s.grantAt die asid p.1.grant).bind fun g => p.1.entry g asid).map fun e => (p.2, p.1.act, e)

/-- Two actors of the image lie on one tile. -/
def Img.together (m : Img) (a b : Nat) : Bool := decide ((m.actor a).dx = (m.actor b).dx) && decide ((m.actor a).dy = (m.actor b).dy)

/-- Reason 8: the first declaration that forms no entry, clashes with an earlier one of its tile, or is the tile's 33rd. -/
def Img.reason8 (m : Img) (es : List (Nat × Nat × RangeEntry)) : List LoadErr :=
  eachRec m.decls fun i _ =>
    errIf (match es.find? fun e => decide (e.1 = i) with
      | none => true
      | some (_, a, e) =>
        let tile := (es.filter fun f => decide (f.1 ≤ i) && m.together a f.2.1).map (·.2.2)
        (tile.any fun f => e.clashes f) || decide (32 < tile.eraseDups.length)) (imageErr 8 4 i i)

/-- A memory actor's generator (R300). -/
def Img.memGen (m : Img) (a : ARec) : MemGen :=
  let kb := a.kblk.toNat
  let n := m.fld kb 5 2 + 1
  { indexed := decide (m.fld kb 0 2 = 1), store := dwBit (m.dw kb) 2, sc := BitVec.ofNat 2 (m.fld kb 3 2), size := m.fld kb 7 4
    self := dwBit (m.dw kb) 11, bound := m.fld kb 32 32, base := m.dw (kb + 8)
    counts := [m.fld (kb + 16) 0 32, m.fld (kb + 16) 32 32, m.fld (kb + 24) 0 32, m.fld (kb + 24) 32 32].take n
    strides := ((List.range 4).map fun j => m.dw (kb + 32 + 8 * j)).take n }

/-- The lowest and highest byte that an affine generator touches, none when it touches nothing. -/
def MemGen.reach (g : MemGen) : Option (Int × Int) :=
  if g.counts.contains 0 then none
  else
    let ext := (g.counts.zip g.strides).map fun p => ((p.1 : Int) - 1) * p.2.toInt
    some (g.base.toNat + ext.foldl (fun a e => a + min 0 e) 0,
      g.base.toNat + ext.foldl (fun a e => a + max 0 e) 0 + sizeBytes g.size - 1)

/-- Reason 9: both bounds of an affine generator are canonical and lie in one range entry of its tile (R123, R126). -/
def Img.reason9 (m : Img) (es : List (Nat × Nat × RangeEntry)) : List LoadErr :=
  eachRec m.actors fun i a =>
    if a.kind = 4 then
      let g := m.memGen a
      match (if g.indexed then none else g.reach) with
      | none => []
      | some (lo, hi) =>
        let first := (lo % 2 ^ 64).toNat
        errIf (!(canonical first && canonical (hi % 2 ^ 64).toNat) ||
          !es.any fun e => m.together e.2.1 i && (if g.store then e.2.2.w else e.2.2.r) &&
            decide ((va56 first : Int) + (hi - lo) < e.2.2.last + 4096) && e.2.2.covers (va56 first))
          (imageErr 9 2 i i)
    else []

/-! ### Reason 10 (R20, R62, R64, R118) -/

/-- The port by which a path enters the router at a hop (R64): 0 the tile's own, 1 north, 2 east, 3 south, 4 west. -/
def portInto (path : List Nat) (hop : Nat) : Nat :=
  match path[hop]?, (if hop = 0 then none else path[hop - 1]?) with
  | some t, some u =>
    if tileY u < tileY t then 1 else if tileX t < tileX u then 2 else if tileY t < tileY u then 3 else if tileX u < tileX t then 4 else 0
  | _, _ => 0

/-- The router and port at which a channel's filter entry stands (R65). -/
def filterAt (path : List Nat) (hop : Nat) : Nat × Nat := ((path[hop]?).getD 0, portInto path hop)

/-- The virtual channels whose filter tables placed regions use, once for each entry: router, port and virtual channel (R65). -/
def State.filters (s : State) : List (Nat × Nat × Nat) :=
  s.regions.flatMap fun r => match r.2 with
    | some g => g.chans.filterMap fun c => c.2.bind fun v =>
        if v.filt.isSome then let p := filterAt v.path v.fhop; some (p.1, p.2, v.vcs.getD v.fhop 0) else none
    | none => []

/-- Entries in a virtual channel's filter table, and in those of a port's eight (R64, R65). -/
def vcEntries : Nat := 8
def portEntries : Nat := 64

/-- The virtual channels that the loader gives channel `i`: one for its number, but at the hop of its filter the first whose table
has an entry free (R64, R65). [DESIGN CHOICE: notes/assumptions/97.md] -/
def Chan.withVcs (c : Chan) (used : List (Nat × Nat × Nat)) (i : Nat) : Chan :=
  let p := filterAt c.path c.fhop
  let v := ((List.range 8).find? fun v => decide (used.count (p.1, p.2, v) < vcEntries)).getD 0
  { c with vcs := (List.range c.path.length).map fun k => if decide (k = c.fhop) && c.filt.isSome then v else i % 8 }

/-- The channels of a region with their virtual channels, one after the other. -/
def assignVcs (used : List (Nat × Nat × Nat)) : Sparse (Option Chan) → Sparse (Option Chan)
  | [] => []
  | (i, some c) :: l =>
    let c1 := c.withVcs used i
    let p := filterAt c1.path c1.fhop
    (i, some c1) :: assignVcs (if c1.filt.isSome then (p.1, p.2, c1.vcs.getD c1.fhop 0) :: used else used) l
  | (i, none) :: l => (i, none) :: assignVcs used l

/-- Filter entries of an image at each router and port. -/
def Img.filtersAt (m : Img) : List (Nat × Nat) := m.chans.filterMap fun c => if c.fv then some (filterAt (m.route 0 0 c) c.hop) else none

/-- Depths of an actor record's response ports. -/
def ARec.resp (a : ARec) : List (Nat × Nat) := (maskList (BitVec.ofNat 8 a.rmask)).map fun p => (p, a.rdep.getD p 1)

/-- The depths of an image's response ports on a tile. -/
def respSum (l : List ARec) : Nat := (l.flatMap ARec.resp).foldl (fun n p => n + p.2) 0

/-- Reason 10, judged on the image alone: two actors in one slot, an accumulator allotted twice, response ports deeper than 256
on a tile, more than 512 channels through a router or filter entries than a port's tables hold, or a response port that is a
channel's end. [DESIGN CHOICE: notes/assumptions/97.md] -/
def Img.reason10 (m : Img) (o : Option (Nat × Nat)) : List LoadErr :=
  let (ox, oy) := o.getD (0, 0)
  let as := m.actors
  let routes := m.chans.flatMap (m.route 0 0)
  let at_ (x y : Nat) : List ARec := as.filter fun a => decide (a.dx = x) && decide (a.dy = y)
  (eachRec as fun i a =>
    let grp := at_ a.dx.toNat a.dy.toNat
    errIf ((as.zipIdx.any fun b => decide (b.2 < i) && decide (b.1.dx = a.dx) && decide (b.1.dy = a.dy) &&
        (decide (b.1.slot = a.slot) || decide (Nat.land b.1.acc a.acc ≠ 0))) || decide (256 < respSum grp) ||
        (m.chans.any fun c => decide (m.rcvr c = some i) && a.rmask.testBit c.rp))
      (imageErr 10 2 i (tileFrom ox oy a.dx a.dy))) ++
    eachRec m.chans fun i c =>
      match (m.route 0 0 c).find? fun t => decide (512 < routes.count t) ||
        (List.range 5).any fun p => decide (portEntries < m.filtersAt.count (t, p)) with
      | some t => [imageErr 10 3 i (tileAt (ox + tileX t) (oy + tileY t))]
      | none => []

/-! ### The race check (R162, R163) -/

/-- A controller in the ordering graph; the implicit root's index is that of none. -/
def ctrlNode (k : Nat) : Nat := 2 ^ 20 + k

/-- The children of every controller: parent, and the child as a node of the ordering graph. An image without a root controller
has an implicit one over its counter chains and self-running memory actors (R271). -/
def Img.kidLinks (m : Img) : List (Nat × Nat) :=
  (m.ctrls.zipIdx.flatMap fun k => (m.kidsOf k.1).map fun q => (ctrlNode k.2, if q.2 then ctrlNode q.1 else q.1)) ++
    (if m.region.root = noIndex then
      m.actors.zipIdx.filterMap fun a =>
        if a.1.kind = 6 ∨ (a.1.kind = 4 ∧ (m.memGen a.1).self = true) then some (ctrlNode noIndex, a.2) else none
     else [])

/-- The directed links of ordering paths: channels, enables and dones, and order targets. -/
def Img.orderLinks (m : Img) : List (Nat × Nat) :=
  m.arcs (fun _ => true) ++ m.kidLinks ++ m.kidLinks.map (fun e => (e.2, e.1)) ++
    m.actors.zipIdx.flatMap fun a => (List.range a.1.notl).map fun j => (a.2, bitsAt (bytesAt m (a.1.otl.toNat + 4 * j) 4) 0 20)

/-- The conflicts: pairs of actors with the lowest address on which they conflict. -/
def Img.conflicts (m : Img) : List (Nat × Nat × Nat) :=
  let es := m.orderLinks
  let n := m.actors.length + m.ctrls.length + 2
  let ds := m.decls
  let raw := ds.flatMap fun x => ds.filterMap fun y =>
    let lo := max x.base.toNat y.base.toNat
    if x.act < y.act ∧ lo ≤ min (x.base.toNat + x.len.toNat) (y.base.toNat + y.len.toNat) ∧
        (x.acc.testBit 1 ∨ y.acc.testBit 1) then some (x.act, y.act, lo) else none
  let pairs := (raw.map fun p => (p.1, p.2.1)).eraseDups
  pairs.filterMap fun p =>
    if (reachFrom es n [p.1]).contains p.2 || (reachFrom es n [p.2]).contains p.1 then none
    else some (p.1, p.2, (raw.filter fun q => decide (q.1 = p.1) && decide (q.2.1 = p.2)).foldl (fun m q => min m q.2.2) (2 ^ 64))

/-- Status 6: the conflict of lowest address. [DEDUCED: notes/assumptions/47.md] -/
def raceErr (l : List (Nat × Nat × Nat)) : List LoadErr :=
  let low := l.foldl (fun m q => min m q.2.2) (2 ^ 64)
  match l.find? fun q => decide (q.2.2 = low) with
  | some (a, b, v) => [{ status := 6, d1 := packDw [(a, 0), (b, 20)], d2 := BitVec.ofNat 64 v }]
  | none => []

/-! ### The save area's size (R232, R428) -/

def up64 (n : Nat) : Nat := (n + 63) / 64 * 64

/-- Bits set in a mask of four. -/
def bits4 (n : Nat) : Nat := ((List.range 4).filter n.testBit).length

/-- The largest accumulator area: the accumulators and `n` open batches, each with a descriptor and both operands of a command of
65,536 steps of K in a 16-bit format staged whole (R388, R428). -/
def accTail (acc n : Nat) : Nat := 16384 * bits4 acc + n * (64 + 2 * 8388608)

/-- Matrix actors to which actor `i` may issue commands. -/
def Img.arrays (m : Img) (i : Nat) : Nat :=
  ((m.chans.filterMap fun c => if decide (c.sk = 0) && !c.se && decide (c.snd = i) && decide (c.rp = 7) then m.rcvr c else none).eraseDups.filter
    fun k => decide ((m.actor k).kind = 2)).length

/-- An actor's largest tail. [DEDUCED: notes/assumptions/48.md] -/
def Img.tailMax (m : Img) (i : Nat) (a : ARec) : Nat :=
  if a.kind = 0 then
    ((List.range a.nlive).foldl (fun n j => n + up8 (m.fld (a.live.toNat + 8 * j) 32 18)) 0) + accTail a.acc (m.arrays i)
  else if a.kind = 1 then
    let (ws, _, _, p0, ps) := m.lanesOf a
    0x1480 + ws.foldl (fun n w => n + match decodeLane w with
      | some l => if l.op = 0x10 then 32 * (bitsAt (ps.getD (l.p.toNat - p0) 0).toNat 18 12 + 1) else 0
      | none => 0) 0
  else if a.kind = 2 then accTail a.acc 1
  else if a.kind = 3 then 0x1040 + 256 * 128
  else if a.kind = 4 then
    let n := up8 (sizeBytes (m.memGen a).size)
    0x40 + if (m.memGen a).store then 64 * (32 + n) else max (64 * 32) (32 + 64 * (8 + n))
  else if a.kind = 6 then 0x40
  else if a.kind = 8 then 8
  else 0

/-- The tokens an actor can record. [DEDUCED: notes/assumptions/48.md] -/
def Img.records (m : Img) (i : Nat) (a : ARec) : Nat :=
  let g := m.region
  let drain := (m.chans.filter fun c => decide (1 ≤ c.ek) && decide (c.ek ≤ 3)).foldl (fun n c => n + c.slots) 0
  ((m.chans.filter fun c => decide (m.rcvr c = some i)).foldl (fun n c => n + c.slots) 0) + respSum [a] +
    (if g.fs = i then 64 else 0) + (if g.ing = i then g.depth else 0) + (if a.kind = 2 then 4 else 0) + 64 + drain

/-- Children of a controller. -/
def Img.kidCount (m : Img) (k : Nat) : Nat := (m.kidLinks.filter fun e => decide (e.1 = ctrlNode k)).length

/-- The controllers of an image by index: the implicit root alone where it names none. -/
def Img.ctrlKeys (m : Img) : List Nat :=
  List.range m.ctrls.length ++ if m.region.root = noIndex then [noIndex] else []

/-- Lengths of the save entries: the actors', then the controllers'. -/
def Img.entrySizes (m : Img) : List Nat :=
  (m.actors.zipIdx.map fun a => up64 (512 + up64 (m.tailMax a.2 a.1) + 72 * m.records a.2 a.1)) ++
    m.ctrlKeys.map fun k => up64 (64 + up64 (0x40 + 8 * m.kidCount k) + 72 * 16 * (1 + m.kidCount k))

/-- Offsets and lengths of entries that follow one another. [DEDUCED: notes/assumptions/48.md] -/
def layOut : Nat → List Nat → List (Nat × Nat)
  | _, [] => []
  | o, n :: l => (o, n) :: layOut (o + n) l

/-- The directory: each entry's offset from CTXB and its length. -/
def Img.dir (m : Img) : List (Nat × Nat) := layOut (up64 (0x2000 + 16 * m.entrySizes.length)) m.entrySizes

/-- The save area's size. -/
def Img.need (m : Img) : Nat := up64 (0x2000 + 16 * m.entrySizes.length) + m.entrySizes.foldl (· + ·) 0

/-! ### Room on the tiles (R178) -/

/-- Every tile of the rectangle lies in the package and in the slice, on a tile that can be placed on. -/
def State.rectOk (s : State) (slice ox oy w h : Nat) : Bool :=
  decide (ox + w ≤ 64) && decide (oy + h ≤ 16) &&
    (List.range w).all fun x => (List.range h).all fun y =>
      (s.slice slice).hasDie (dieOf (tileAt (ox + x) (oy + y))) && !(s.tile (tileAt (ox + x) (oy + y))).unplaceable

/-- Channels of placed regions through a tile's router. -/
def State.routesOn (s : State) (t : Nat) : Nat :=
  s.regions.foldl (fun n r => match r.2 with
    | some g => n + (g.chans.filter fun c => match c.2 with | some c => c.path.contains t | none => false).length
    | none => n) 0

/-- Response depth of placed actors. -/
def respOf (l : List Actor) : Nat := l.foldl (fun n x => n + x.inp.foldl (fun m q => m + q.2.resp.getD 0) 0) 0

/-- A parameter word in a resident lane actor's range of another value than a new actor's (R300). -/
def Tile.paramClash (t : Tile) (old : List Actor) (p0 : Nat) (ps : List Word) : Bool :=
  old.any fun o => match o.body with
    | .lane g => ps.zipIdx.any fun w => decide (g.p0 ≤ p0 + w.2) && decide (p0 + w.2 < g.p0 + g.np) &&
        decide (sget 0 t.params (p0 + w.2) ≠ w.1)
    | _ => false

/-- One tile has room for the image's actors, entries and routes at an offset. -/
def Img.roomOn (m : Img) (s : State) (es : List (Nat × Nat × RangeEntry)) (x y t : Nat) : Bool :=
  let new := m.actors.filter fun a => decide (a.dx = (x : Int)) && decide (a.dy = (y : Int))
  let old := s.actorsOn t
  let u := s.tile t
  let ent := (es.filter fun e => decide ((m.actor e.2.1).dx = (x : Int)) && decide ((m.actor e.2.1).dy = (y : Int))).map (·.2.2)
  let routes := ((m.chans.flatMap (m.route 0 0)).filter fun v => decide (v = tileAt x y)).length
  new.all (fun a =>
      (sget none u.slots a.slot).isNone && (old.all fun o => decide (Nat.land o.acc.toNat a.acc = 0)) &&
      !u.meetsHandler a.cb a.cs && !u.meetsHandler a.lb a.ls &&
      (decide (a.kind ≠ 1) ||
        let (_, f, l, _, _) := m.lanesOf a
        old.all fun o => match o.body with
          | .lane g => decide (l < g.first) || decide (g.last < f)
          | _ => true)) &&
    decide ((new.filter fun a => decide (a.kind = 1)).length + (old.filter fun o => match o.body with | .lane _ => true | _ => false).length ≤ 4) &&
    decide (respSum new + respOf old ≤ 256) &&
    ((List.range 5).all fun p => decide ((s.filters.filter fun f => decide (f.1 = t ∧ f.2.1 = p)).length +
      m.filtersAt.count (tileAt x y, p) ≤ portEntries)) && decide (s.routesOn t + routes ≤ 512) &&
    decide ((u.ranges ++ ent).eraseDups.length ≤ 32) && !(ent.any fun e => u.ranges.any e.clashes) &&
    !m.blocks.any fun b => !b.glob && decide (b.dx = (x : Int)) && decide (b.dy = (y : Int)) && u.meetsHandler b.la b.len

/-- A rectangle at an origin fits. -/
def Img.fits (m : Img) (s : State) (es : List (Nat × Nat × RangeEntry)) (slice ox oy : Nat) : Bool :=
  let g := m.region
  s.rectOk slice ox oy g.w g.h &&
    (List.range g.w).all fun x => (List.range g.h).all fun y => m.roomOn s es x y (tileAt (ox + x) (oy + y))

/-- The slice could never offer a rectangle of the region's size. -/
def Img.tooLarge (m : Img) (s : State) (slice : Nat) : Bool :=
  let g := m.region
  !(List.range 16).any fun y => (List.range 64).any fun x => decide (x + g.w ≤ 64) && decide (y + g.h ≤ 16) &&
    (List.range g.w).all fun i => (List.range g.h).all fun j => (s.slice slice).hasDie (dieOf (tileAt (x + i) (y + j)))

/-! ### All checks in their order (R330) -/

/-- Refusals with status 2, reasons in increasing number; those that read records wait until indexes and offsets hold. The origin given is
`o`, and heads are tested as of `heads`. -/
def Img.refusalsAt (m : Img) (s : State) (slice asid va : Nat) (o heads : Option (Nat × Nat)) : List LoadErr :=
  let hdr := m.headerErrs va
  if hdr ≠ [] then hdr
  else
    let ext := m.extentErrs
    if ext ≠ [] then ext
    else
      let r1 := m.reason1
      if r1 ≠ [] then r1
      else
        let r2 := m.reason2
        if r2 ≠ [] then r2
        else
          let es := m.entries s (s.slice slice).firstDie asid
          m.reason3 s o ++ m.reason4 ++ m.reason5 ++ m.reason6 s slice asid heads ++ m.reason7 ++ m.reason8 es ++ m.reason9 es ++
            m.reason10 o ++ m.reason11 ++ m.reason12 ++ m.reason13 ++ m.reason15

/-- The refusals of a load. [DEDUCED: notes/assumptions/47.md] -/
def Img.refusals (m : Img) (s : State) (slice asid va : Nat) (o : Option (Nat × Nat)) : List LoadErr := m.refusalsAt s slice asid va o o

/-- The first refusal: status 2, those among it that show where the image is placed last, then 6 in strict mode, then 3 unless the region
keeps its area. [DEDUCED: notes/assumptions/47.md] -/
def Img.firstErr (m : Img) (s : State) (slice asid va : Nat) (strict restore : Bool) (o : Option (Nat × Nat)) (placed : List LoadErr) :
    Option LoadErr :=
  match m.refusals s slice asid va o ++ placed with
  | e :: _ => some e
  | [] =>
    match (if strict then raceErr m.conflicts else []) with
    | e :: _ => some e
    | [] =>
      if !restore && decide ((s.slice slice).svstride.toNat < m.need) then
        some { status := 3, d1 := BitVec.ofNat 64 m.need, d2 := (s.slice slice).svstride }
      else none

end Sys2Proof.Machine
end

