-- ==== Sys2Proof/Machine/Select.lean ====
section
/-! DEFINITION. From a launch token to a running task, and the end of a launch: the ingress port, the tile's selector, the
start of a selected firing (R21, R25, R38, R165, R174, R184 to R187, R192, R193, R426). -/

namespace Sys2Proof.Machine

/-! ### Launch tokens (R38, R174, R193) -/

/-- The payload of a launch token. -/
def Launch.payload (l : Launch) : List Dw := [l.word, l.arg, l.imm, l.taken]

/-- Doublewords 0 to 10 of a region header in a state (R232); the launch fields are those of the launch under way.
[DESIGN CHOICE: notes/assumptions/91.md] -/
def Region.headerWords (g : Region) (state : Nat) (eqt eqe : Dw) : List Dw :=
  let l : Launch := g.launch.getD { ccap := 0, strict := false }
  [packDw [(0xC7B0, 48), (1, 40), (state, 32), (g.dir.length % 65536, 16)], g.image,
    packDw [(l.ccap.toNat, 42), (l.prio % 256, 34), (g.asid % 16384, 20), (g.ox, 0), (g.oy, 6), (g.w - 1, 10), (g.h - 1, 16)],
    l.word, l.arg, l.imm, l.taken, eqt, eqe, BitVec.ofNat 64 g.need,
    packDw [(g.cuts.toNat, 32), (b2n l.irq, 19), (b2n l.pin, 18), (b2n l.strict, 17), (b2n l.sysc, 16), (l.quantum % 65536, 0)]]

/-- A write to the save area, its fault ignored. -/
def State.areaPut (s : State) (g : Region) (off : Nat) (l : List Byte) : State :=
  match s.areaWrite g off l with
  | .ok s => s
  | .error _ => s

/-- Credits that a token entering a region costs (R193). -/
def tokenCharge (payload : List Dw) : Nat := (8 * payload.length + 255) / 256

/-- The oldest launch token on the ingress channel enters its region and starts a launch (R38): the root controller is
enabled and the ingress actor receives the token. It waits for an earlier launch and for its charge (R193).
[DESIGN CHOICE: notes/assumptions/14.md, notes/assumptions/56.md, notes/assumptions/91.md; DEDUCED: notes/assumptions/37.md] -/
def State.launchArrives (s : State) (r : Nat) : Option State :=
  match s.region r with
  | none => none
  | some g =>
    match g.launch, g.ingressQ with
    | none, l :: rest =>
      if g.cutBy.isSome || decide (min g.credit g.ingCredit < tokenCharge l.payload) then none
      else
        let eqt := (s.die g.die).eqt
        let g1 : Region :=
          { g with
            launch := some { l with started := eqt }, ingressQ := rest, rootDone := false
            credit := g.credit - tokenCharge l.payload, ingCredit := g.ingCredit - tokenCharge l.payload
            net := g.net ++ [.enable (.ctrl g.root) 0 0] }
        let g2 := match g.ingress with
          | none => g1
          | some (a, p) => g1.modActor a fun x =>
            let q := x.port p
            x.setPort p { q with exp := q.exp + 1, q := q.q ++ [{ kind := 7, seq := q.exp, payload := l.payload }] }
        some (((s.setRegion r g2).areaPut g2 0 (dwsBytes (g2.headerWords 0 0 0))).checkEdges r)
    | _, _ => none

/-- LAUNCH_TOKEN_ARRIVAL (R38). -/
def execLaunchTokenArrival (r : Nat) (s : State) : Res := occurIn s r (s.launchArrives r)

/-- INGRESS_CREDIT_WAIT (R193): the token that waited enters once the bucket suffices. -/
def execIngressCreditWait (r : Nat) (s : State) : Res := occurIn s r (s.launchArrives r)

/-! ### The end of a launch (R38, R165) -/

/-- Every sink of a region has received its EOS. -/
def Region.sinksDone (g : Region) : Bool :=
  g.actors.all fun p => match p.2 with
    | some x => x.inp.all fun q => !q.2.sink || q.2.sinkDone
    | none => true

/-- Every store and bank operation of a region has been performed at package scope. -/
def State.writesDone (s : State) (r : Nat) : Bool :=
  s.tiles.all fun t => t.2.port.all fun a => decide (a.region ≠ r) || a.performed 2 ||
    (match a.kind with | .read .. | .futGet => true | _ => false)

/-- Every command of a region has been performed or handed to its link, and with system-scope completion delivered. -/
def State.commandsDone (s : State) (r : Nat) (sysc : Bool) : Bool :=
  s.cmds.all (fun c => decide (c.region ≠ r)) && (!sysc || s.remotes.all fun m => decide (m.region ≠ r))

/-- A command that has been issued and not yet taken stands on a channel or at an input: to a command engine, or to a lane or
abacus actor whose stream is between bursts and that no output holds up (R363). [DEDUCED: notes/assumptions/19.md] -/
def Region.commandsWait (g : Region) : Bool :=
  let cmd (t : Token) : Bool := decide (t.kind = 0)
  g.chans.any fun e => match e.2 with
    | none => false
    | some c =>
      let flying := c.wire.any fun x => cmd x.tok
      match c.dst with
      | .copy .. | .bank _ | .linkEngine _ => flying
      | .actor a 7 => match g.actor a with
        | some x => (match x.body with | .lane l => decide (l.pend = []) | .abacus b => decide (b.outq = []) && decide ((x.port 0).left = 0) | _ => false) &&
            (flying || (x.port 7).q.any cmd)
        | none => false
      | _ => false

/-- A matrix actor can still go on with the commands issued to it (R363): a running batch can take a step or a token comes to
it, or no batch runs and a command stands next. [DEDUCED: notes/assumptions/19.md] -/
def State.matrixGoes (s : State) (r : Nat) (g : Region) (a : Nat) (x : Actor) : Bool :=
  x.isMatrix && decide (x.cut = .run) &&
    (match runBatch x.batches with
     | some _ => (s.matrixElement r a g x).isSome || (s.groupAdd r a).isSome || (s.accRead r a).isSome
     | none => decide (x.follow ≠ []) || (x.port 7).q.any (fun t => decide (t.kind = 0))) ||
    x.isMatrix && decide (x.cut = .run) && g.chans.any fun e => match e.2 with
      | some c => (match c.dst with | .actor b _ => decide (b = a) | _ => false) && (decide (c.wire ≠ []) || decide (c.held ≠ []) && decide (c.lacks = some 0))
      | none => false

/-- A unit still completes commands issued to it (R363): a follow-on is on its way to a queue with room or stands at a unit that
can take it, or a matrix actor goes on. [DEDUCED: notes/assumptions/19.md] -/
def State.unitsGoOn (s : State) (r : Nat) (g : Region) : Bool :=
  (s.follows.any fun f => decide (f.region = r) && ((g.actor f.actor).map fun x => decide (x.follow.length < 4)).getD true) ||
    g.actors.any fun e => match e.2 with
      | some x => s.matrixGoes r g e.1 x || decide (x.follow ≠ []) && decide (x.cut = .run) && (match x.body with
          | .lane l => decide (l.pend = [])
          | .abacus b => decide (b.outq = []) && decide ((x.port 0).left = 0)
          | _ => false)
      | none => false

/-- No firing of a region runs. -/
def State.noneRuns (s : State) (r : Nat) : Bool :=
  s.tiles.all fun t => match t.2.core.firing with
    | some f => decide (f.region ≠ r)
    | none => true

/-- The end of a launch, on its root's done and its sinks' EOS; or, after HALT, once its running tasks have ended and the commands
issued have completed, which discards what is left and frees an unpinned graph that no launch waits for (R363, R419).
[DEDUCED: notes/assumptions/19.md] -/
def State.launchEnds (s : State) (r : Nat) : Option State :=
  match s.region r with
  | none => none
  | some g =>
    match g.launch with
    | none => none
    | some l =>
      if !(s.writesDone r && s.commandsDone r l.sysc && g.cutBy.isNone) then none
      else if g.halted then
        if !s.noneRuns r || g.commandsWait || s.unitsGoOn r g then none
        else
          let s1 := s.endLaunch r true
          some (if g.pinned || decide (g.ingressQ ≠ []) then s1 else s1.unplace r)
      else if g.rootDone && g.sinksDone then some (s.endLaunch r false)
      else none

/-- LAUNCH_END (R38, R165). -/
def execLaunchEnd (r : Nat) (s : State) : Res := occurIn s r (s.launchEnds r)

/-! ### Candidates of a tile (R184, R185) -/

/-- A candidate of a tile's slot: region, actor index, the actor and its selection data. -/
def State.candIn (s : State) (t k : Nat) : Option (Nat × Nat × Actor × Cand) :=
  match sget none (s.tile t).slots k with
  | none => none
  | some (r, a) =>
    match s.actor r a with
    | none => none
    | some x => x.cand.map fun c => (r, a, x, c)

/-- The candidates of a tile in slot order. -/
def State.candsOf (s : State) (t : Nat) : List (Nat × Nat × Actor × Cand) := (List.range 16).filterMap (s.candIn t)

/-- A candidate passed over by a hit (R185). -/
def Cand.passed (k : Cand) : Cand := { k with bypass := k.bypass + 1 }

/-- The candidate with the least age stamp. -/
def oldestOf : List (Nat × Nat × Actor × Cand) → Option (Nat × Nat × Actor × Cand)
  | [] => none
  | c :: l =>
    match oldestOf l with
    | none => some c
    | some d => if d.2.2.2.age < c.2.2.2.age then some d else some c

/-- The class of the rotation's step `n` (R185). -/
def rotationStep (n : Nat) : Nat :=
  match n % 7 with
  | 0 => 3 | 1 => 2 | 2 => 3 | 3 => 1 | 4 => 3 | 5 => 2 | _ => 3

/-- The class the selector serves next: the step's class, else the highest of 1 to 3 with a candidate, else 0. -/
def rotationClass (l : List (Nat × Nat × Actor × Cand)) (rot : Nat) : Nat :=
  let has (c : Nat) : Bool := l.any fun x => decide (x.2.2.1.cls.toNat = c)
  if has (rotationStep rot) then rotationStep rot
  else if has 3 then 3 else if has 2 then 2 else if has 1 then 1 else 0

/-- The candidate picked among those of its class, and the oldest one whose bypass count it raises (R185). -/
def pickOf (l : List (Nat × Nat × Actor × Cand)) (limit : Nat) :
    Option ((Nat × Nat × Actor × Cand) × Option (Nat × Nat)) :=
  match oldestOf l with
  | none => none
  | some o =>
    match oldestOf (l.filter fun c => c.2.2.2.hit) with
    | none => some (o, none)
    | some h => if limit ≤ o.2.2.2.bypass ∨ o.2.2.2.hit then some (o, none) else some (h, some (o.1, o.2.1))

/-! ### The firing of a selected actor (R21, R25, R192, R426) -/

/-- One slot reserved on each output of a list. -/
def Region.reserveOuts (g : Region) (a : Nat) : List Nat → Region
  | [] => g
  | p :: l =>
    match g.chanOf (.actor a p) with
    | some (ci, c) => (g.setChan ci { c with reserved := c.reserved + 1 }).reserveOuts a l
    | none => g.reserveOuts a l

/-- The emission budget reserved in each child's queue. -/
def Region.reserveNodes (g : Region) : List WEdge → Region
  | [] => g
  | e :: l =>
    match g.node e.child with
    | some n => (g.setNode e.child { n with reserved := n.reserved + e.budget }).reserveNodes l
    | none => g.reserveNodes l

/-- Reservations by child node. -/
def budgets (l : List WEdge) : Sparse Nat := l.foldl (fun m e => sset 0 m e.child (sget 0 m e.child + e.budget)) []

/-- A firing of a call: its token has left its queue or its input. A call that names an entry whose valid bit is clear is
diverted (R25). [DEDUCED: notes/assumptions/38.md] -/
def State.selectCall (s : State) (tile r a : Nat) (x : Actor) (t : Token) (chan : Nat) : State :=
  let e := dwAt (t.dw 0) 8 4
  if !x.validEntry e then s.divertCall r a chan t
  else
    let s1 : State := { s with nextId := s.nextId + 1 }
    s1.modTile tile fun u =>
      { u with shadow := u.shadow ++
        [{ id := s.nextId + 1, region := r, actor := a, rule := none, entry := e, call := some t, cls := x.cls }] }

/-- A firing of a rule (R21, R192): triggers copied, outputs and children's queues reserved. With an invalid entry its
triggers are consumed and code 0x07 goes to the fault sink (R25), with doubleword 0 of the first trigger and channel 0xFF.
[DEDUCED: notes/assumptions/38.md] -/
def State.selectRule (s : State) (tile r a : Nat) (g : Region) (x : Actor) (n : Nat) (u : Rule) : State :=
  let ins := maskList u.inMask
  let outs := g.joinedOf a (maskList u.outMask)
  let edges := g.edgesOf a
  if !x.validEntry u.entry.toNat then
    let d := ((ins.filterMap x.head).head?.map (·.dw 0)).getD 0
    (s.modActor r a fun x => x.popPorts ins).divert r a 0xFF u.entry.toNat d
  else
    let trig : List (Nat × Token × Bool) := ins.filterMap fun p => (x.head p).map fun t => (p, t, false)
    let f : Firing :=
      { id := s.nextId + 1, region := r, actor := a, rule := some n, entry := u.entry.toNat, trig := trig
        rsv := outs.foldl (fun m p => sset 0 m p 1) [], wrsv := budgets edges, cls := x.cls }
    let s1 : State := { s with nextId := s.nextId + 1 }
    (s1.setRegion r ((g.reserveOuts a outs).reserveNodes edges)).modTile tile fun v => { v with shadow := v.shadow ++ [f] }

/-- The firing R426 chooses for a selected actor: its oldest waiting call, else its lowest-numbered satisfied rule. -/
def State.selectFor (s : State) (tile r a : Nat) : State :=
  match s.region r with
  | none => s
  | some g =>
    match g.actor a with
    | none => s
    | some x =>
      match x.noteCalls.waits with
      | none :: l =>
        (s.modActor r a fun x => { x with calls := x.calls.drop 1, waits := l }).selectCall tile r a x (x.calls.headD {}) 0xFF
      | some p :: l =>
        (s.modActor r a fun x => { x.popPort p with waits := l }).selectCall tile r a x ((x.head p).getD {})
          (chanField (g.chanTo a p))
      | [] =>
        match g.ruleOf a x with
        | some (n, u) => s.selectRule tile r a g x n u
        | none => s

/-- FIRING_SELECT (R185): one selection of a tile whose shadow slots are not both taken.
[DESIGN CHOICE: notes/assumptions/80.md] -/
def State.select (s : State) (tile : Nat) : Option State :=
  let s := s.refreshSlots tile (List.range 16)
  let t := s.tile tile
  if 2 ≤ t.shadow.length then none
  else
    let l := s.candsOf tile
    let c := rotationClass l t.rot
    match pickOf (l.filter fun x => decide (x.2.2.1.cls.toNat = c)) t.core.bypass.toNat with
    | none => none
    | some ((r, a, _, _), byp) =>
      let s1 := match byp with
        | some (r', a') => s.modActor r' a' fun x => { x with cand := x.cand.map Cand.passed }
        | none => s
      let s2 := if c = 0 then s1 else s1.modTile tile fun t => { t with rot := (t.rot + 1) % 7 }
      let s3 := s2.modActor r a fun x => { x with cand := none }
      some ((s3.selectFor tile r a).refresh r)

def execFiringSelect (tile : Nat) (s : State) : Res := occur s (s.select tile)

/-- RESIDENCY_PROBE (R184): the prefetcher's probe of the line a candidate's probe register names sets its residency bit;
an address that does not translate leaves it clear. -/
def execResidencyProbe (r a : Nat) (present : Bool) (s : State) : Res :=
  occur s (
    match s.actor r a, s.region r with
    | some x, some g =>
      match x.cand, x.probe with
      | some c, some k =>
        let va := (sget 0 x.k k).toNat
        let ok := match s.xlate (dieOf x.tile) g.asid (s.tile x.tile).ranges {} 1 va 1 with
          | .ok _ _ => true
          | _ => false
        some (s.modActor r a fun x => { x with cand := some { c with hit := present && ok } })
      | _, _ => none
    | _, _ => none)

/-! ### The start of a task (R41, R43, R45, R187) -/

/-- The core as a task finds it: its pc at the handler entry, and g1 to g31 zero when the ASID has changed (R45). -/
def Core.begin (c : Core) (asid pc : Nat) (f : Firing) : Core :=
  let c := if c.lastAsid = some asid then c else { c with g := [] }
  { c with sys := false, pc := BitVec.ofNat 32 pc, lastAsid := some asid, firing := some f }

/-- TASK_START (R187): the firing selected first starts when the core is free and its actor holds no error token (R52); the
start receives its trigger tokens (R153). [DEDUCED: notes/assumptions/20.md; DESIGN CHOICE: notes/assumptions/80.md] -/
def State.taskStarts (s : State) (tile : Nat) : Option State :=
  let t := s.tile tile
  match t.core.firing, t.shadow with
  | none, f :: rest =>
    match s.region f.region, s.actor f.region f.actor with
    | some g, some x =>
      if x.holdsNone = false ∨ g.halted = true then none
      else
        let pc := x.codeB + dwAt (sget 0 x.htab f.entry) 0 32
        let deps := f.trig.flatMap (·.2.1.deps) ++ (f.call.map (·.deps)).getD []
        some ((s.modActor f.region f.actor fun x => x.acquire deps).modTile tile fun t =>
          { t with shadow := rest, core := t.core.begin g.asid pc f })
    | _, _ => none
  | _, _ => none

def execTaskStart (tile : Nat) (s : State) : Res := occur s (s.taskStarts tile)

end Sys2Proof.Machine
end

