-- ==== Sys2Proof/Machine/Place.lean ====
section
/-! DEFINITION. Placing a graph: the region an image makes at an origin, elastic replicas, the region header and directory, and
the placement controller's instructions CFGLOAD, PLACE and their events (R37, R124, R178, R180, R232, R297, R301, R329 to R331,
R396, R416). -/

namespace Sys2Proof.Machine

/-! ### The parts of a region (R296 to R302) -/

/-- The initial tokens of a channel, waiting at its last router. -/
def initFlits (n hops : Nat) : List Flit :=
  (List.range n).map fun j => { pos := hops - 1, tok := { kind := 0, seq := BitVec.ofNat 12 j, payload := [BitVec.ofNat 64 j] } }

/-! ### Circuits of bulk channels (R241, R244) -/

/-- One of a list of circuits, by channel index. [DEDUCED: notes/assumptions/61.md] -/
def chosenCircuit (i : Nat) (l : List Nat) : List Nat := (l[i % max 1 l.length]?).toList

/-- Channel `i` with the circuits a bulk channel is bound to for its whole life: a direct one, or one of each edge of its relay
route that has one. [DEDUCED: notes/assumptions/61.md] -/
def State.bound (s : State) (i : Nat) (c : Chan) : Chan :=
  let ds := (c.path.map dieOf).foldr (fun d l => if l.head? = some d then l else d :: l) []
  let direct := s.readyCircuits (ds.headD 0) (ds.getLastD 0)
  if !c.bulk || decide (ds.length < 2) then c
  else if direct ≠ [] then { c with circuits := chosenCircuit i direct }
  else { c with circuits := (ds.zip (ds.drop 1)).flatMap fun p => chosenCircuit i (s.readyCircuits p.1 p.2) }

/-- Channel `i` of an image at an origin, in a slice. -/
def Img.buildChan (m : Img) (n : Slice) (ox oy : Nat) (c : CRec) : Chan :=
  let path := m.route ox oy c
  let t := path.headD 0
  let u := path.getLastD 0
  let d := dieOf u
  { src := if c.sk = 1 then .link (c.snd % 8) c.lch
      else if c.sk = 2 then .enc ((n.rankDie (c.snd / 4)).getD 0) (c.snd % 4)
      else if c.se then .err c.snd else .actor c.snd c.sp
    dst := match c.ek with
      | 0 => .actor ((m.rcvr c).getD 0) c.rp
      | 1 => .copy d c.rs
      | 2 => .bank d
      | 3 => .linkEngine d
      | 4 => .launch
      | 5 => .link c.rs c.lch
      | _ => .head d c.rs
    slots := c.slots, st := c.st, rt := c.rt, blk := c.blk, bulk := c.bulk, init := c.init, fhop := c.hop
    filt := if c.fv then some c.filt else none
    path := path
    scope := if c.ek = 5 ∨ c.sk = 1 then 3 else if c.ek = 6 then (if dieOf t = d then 1 else 2)
      else if c.ek = 4 then 2 else if c.sk = 2 then 2 else tileScope t u
    wire := initFlits c.init path.length }

/-- The body of an actor. -/
def Img.buildBody (m : Img) (a : ARec) : Body :=
  match a.kind with
  | 1 => let (_, f, l, p0, ps) := m.lanesOf a; .lane { first := f, last := l, p0 := p0, np := ps.length }
  | 2 => .matrix []
  | 3 => .abacus {}
  | 4 => .memory (m.memGen a)
  | 5 => .bank
  | 6 => .counter { spec := m.counters a.kblk.toNat }
  | 8 => let (arr, mask) := m.mergeOf a; .merge arr (BitVec.ofNat 8 mask) 0 false
  | _ => .task

/-- A sparse map from a list, by place. -/
def sparseOf {α : Type} [DecidableEq α] (d : α) (l : List α) : Sparse α := l.zipIdx.foldl (fun m v => sset d m v.2 v.1) []

/-- Actor `i` of an image at an origin. -/
def Img.buildActor (m : Img) (ox oy i : Nat) (a : ARec) : Actor :=
  let out (p : Nat) : OutPort :=
    match m.chans.find? fun c => decide (c.sk = 0) && decide (c.snd = i) && (if c.se then decide (a.eport = some p) else decide (c.sp = p)) with
    | some c => { seq := BitVec.ofNat 12 c.init }
    | none => {}
  { tile := tileFrom ox oy a.dx a.dy, slot := a.slot, dx := a.dx, dy := a.dy, cls := BitVec.ofNat 2 a.cls
    nullVis := a.nv, eosVis := a.ev, probe := a.probe, errPort := a.eport, rules := if a.kind = 0 then a.rules else []
    htab := sparseOf 0 a.htab, k := sparseOf 0 a.k
    codeB := a.cb, codeL := a.cb + a.cs, locB := a.lb, locL := a.lb + a.ls
    inp := sparseOf {} ((List.range 8).map fun p =>
      { resp := if a.rmask.testBit p then some (a.rdep.getD p 1) else none, commut := a.comm.testBit p
        sink := m.sinks.contains (i, p), fed := m.feeds i a p })
    out := sparseOf {} ((List.range 8).map out)
    fctl := BitVec.ofNat 4 a.fctl, acc := BitVec.ofNat 4 a.acc, quota := a.quota
    live := (List.range a.nlive).map fun j =>
      let v := m.dw (a.live.toNat + 8 * j)
      (dwAt v 0 18, dwAt v 32 18)
    targets := (List.range a.notl).map fun j => bitsAt (bytesAt m (a.otl.toNat + 4 * j) 4) 0 20
    mesh := if a.kind = 0 then (Sys2Proof.Config.meshLimits ((List.range 40).map fun j => m.dw (a.off + 8 * j))).map fun l =>
      { vmax := l.1.toNat + 1, pmax := min (l.2.1.toNat + 1) 512, port := l.2.2.toNat } else none
    body := if m.stages.any fun k => decide (k.dist = i) || decide (k.coll = i) then .lent else m.buildBody a }

/-- A child-list node. -/
def kidNode (v : Nat) : Node := if 2 ^ 20 ≤ v then .ctrl (v - 2 ^ 20) else .actor v

/-- The controller of an index; that of none is the implicit streaming root (R271). -/
def Img.buildCtrl (m : Img) (k : Nat) : Ctrl :=
  let kids := (m.kidLinks.filter fun e => decide (e.1 = ctrlNode k)).map fun e => kidNode e.2
  if k = noIndex then { sch := 2, kids := kids }
  else
    let r := m.ctrl k
    { sch := r.sch, win := r.win, parent := if r.par = noIndex then none else some r.par, kids := kids
      spec := if r.hasBlk then m.counters r.cblk.toNat else [] }

/-- A stage keeps strict order unless it is partitioned or its collector feeds only commutative inputs (R182). -/
def Img.buildStage (m : Img) (k : SRec) : Stage :=
  let t := m.actor k.tmpl
  let mine := (m.members k).map m.actor
  let part (b : BRec) (base size : Nat) : Option (Nat × List Byte) :=
    let lo := max b.la base
    let hi := min (b.la + b.len) (base + size)
    if lo < hi then some (lo, ((m.drop (b.off + 24)).drop (lo - b.la)).take (hi - lo)) else none
  { dist := k.dist, tmpl := k.tmpl, coll := k.coll, m := k.m, lim := k.lim, hi := k.hi, lo := k.lo, window := k.window, part := k.part
    growth := k.growth.map fun p => (p.1.toNat, p.2.toNat)
    ordered := !k.part && m.chans.any fun c => decide (c.sk = 0) && !c.se && decide (c.snd = k.coll) && decide (c.sp = 0) && !m.commut c
    replicas := [(k.tmpl, 0)], limit := m.admits k
    ks := (m.actors.zipIdx.filter fun a => decide (a.1.dx = t.dx) && decide (a.1.dy = t.dy)).map fun a => (a.2, sparseOf 0 a.1.k)
    bytes := (m.blocks.filter fun b => !b.glob && decide (b.dx = t.dx) && decide (b.dy = t.dy)).flatMap fun b =>
      mine.flatMap fun a => (part b a.cb a.cs).toList ++ (part b a.lb a.ls).toList
    words := (mine.filter fun a => decide (a.kind = 1)).flatMap fun a =>
      let (ws, f, l, _, _) := m.lanesOf a
      (List.range (l + 1 - f)).map fun j => (f + j, ws.getD (f + j) 0) }

/-- The depth of a work-graph node (R191). -/
def nodeDepth (es : List WEdge) : Nat → Nat → Nat
  | 0, _ => 0
  | f + 1, n => (es.filter fun e => decide (e.child = n)).foldl (fun d e => max d (1 + nodeDepth es f e.parent)) 0

/-- Where each node's queue begins in the backing store, in node order (R191). -/
def nodeOffsets : Nat → List (Nat × Nat × Nat) → List Nat
  | _, [] => []
  | o, (_, size, q) :: l => o :: nodeOffsets (o + 64 + q * size) l

/-- The bytes of backing store an image needs. -/
def Img.store (m : Img) : Nat := m.nodes.foldl (fun n x => n + 64 + x.2.2 * x.2.1) 0

/-- The region that an image makes. -/
def Img.build (m : Img) (n : Slice) (slice num asid : Nat) (image ctxb : Dw) (ox oy : Nat) (es : List (Nat × Nat × RangeEntry))
    (races : Nat) : Region :=
  let g := m.region
  { slice := slice, num := num, ox := ox, oy := oy, w := g.w, h := g.h, asid := asid, image := image, ilen := m.len, ctxb := ctxb
    racec := BitVec.ofNat 32 (min races 0xFFFFFFFF), race := decide (races ≠ 0)
    ingress := if g.ing = noIndex then none else some (g.ing, g.ingp), depth := g.depth
    sink := if g.fs = noIndex then none else some (g.fs, g.fsp), heavy := g.heavy, ilv := g.ilv, root := g.root
    chans := sparseOf none (m.chans.map fun c => some (m.buildChan n ox oy c))
    actors := sparseOf none (m.actors.zipIdx.map fun a => some (m.buildActor ox oy a.2 a.1))
    ctrls := m.ctrlKeys.foldl (fun t k => sset none t k (some (m.buildCtrl k))) []
    stages := sparseOf none (m.stages.map fun k => some (m.buildStage k))
    nodes := sparseOf none ((m.nodes.zip (nodeOffsets 0 m.nodes)).zipIdx.map fun p =>
      some { actor := p.1.1.1, size := p.1.1.2.1, qlen := p.1.1.2.2, depth := nodeDepth m.edges m.nodes.length p.2, off := p.1.2 })
    edges := m.edges
    ranges := (es.map fun e => let a := m.actor e.2.1; (tileFrom ox oy a.dx a.dy, e.2.2)).eraseDups
    need := m.need, nact := m.actors.length, dir := m.dir }

/-- A region whose buckets, samples and windows count EQT from now on (R181, R193). -/
def Region.clocked (g : Region) (now : Dw) : Region :=
  { g with
    refilled := now
    stages := smap none (fun _ (t : Option Stage) => t.map fun t => { t with sampled := now, wstart := now }) g.stages }

/-! ### Replicas (R180, R416, R417) -/

/-- A channel's copy for replica `n` of stage `k` on a tile; none where it does not belong to the replica. -/
def Region.copyChan (g : Region) (t : Stage) (k n tile : Nat) (mem : List Nat) (c : Chan) : Option Chan :=
  let b := replicaBase k n
  let own (a : Nat) : Bool := mem.contains a
  let src := match c.src with
    | .actor a p => if own a then some (ChanFrom.actor (b + a) p) else if a = t.dist then some (.actor a (copyPort p n)) else none
    | .err a => if own a then some (.err (b + a)) else none
    | _ => none
  let dst := match c.dst with
    | .actor a p => if own a then some (ChanTo.actor (b + a) p)
        else if a = t.dist ∨ a = t.coll then some (.actor a (copyPort p n)) else some (.actor a p)
    | d => some d
  let mine := (match c.src with | .actor a _ => own a | .err a => own a | _ => false) ||
    (match c.dst with | .actor a _ => own a | _ => false)
  let foreign := match c.dst with | .actor a _ => !own a && decide (a ≠ t.dist) && decide (a ≠ t.coll) | _ => false
  match mine && !foreign, src, dst with
  | true, some f, some d =>
    let at_ (a : Nat) : Nat := if own a then tile else ((g.actor a).map (·.tile)).getD tile
    let s0 := match c.src with | .actor a _ => at_ a | .err a => at_ a | _ => tile
    let d0 := match c.dst with | .actor a _ => at_ a | _ => (c.path.getLast?).getD tile
    let path := pathOf s0 d0
    some { src := f, dst := d, slots := c.slots, st := c.st, rt := c.rt, blk := c.blk, bulk := c.bulk, init := c.init, fhop := c.fhop
           filt := c.filt, path := path, scope := tileScope s0 d0, wire := initFlits c.init path.length }
  | _, _, _ => none

/-- The body of a new replica's actor. -/
def Actor.fresh (x : Actor) (tile : Nat) (dx dy : Int) : Actor :=
  let y := x.discard
  { y with
    tile := tile, dx := dx, dy := dy
    inp := smap {} (fun _ q => { q with commut := q.commut }) y.inp, out := [] }

/-- A tile has room for a replica's actors: their slots, accumulators and lanes free, and no window in its handler range. -/
def State.replicaRoom (s : State) (g : Region) (mem : List Nat) (tile : Nat) : Bool :=
  let t := s.tile tile
  let old := s.actorsOn tile
  !t.unplaceable && mem.all fun a => match g.actor a with
    | none => false
    | some x =>
      (sget none t.slots x.slot).isNone && old.all (fun o => decide (o.acc &&& x.acc = 0)) &&
        !t.meetsHandler x.codeB (x.codeL - x.codeB) && !t.meetsHandler x.locB (x.locL - x.locB) &&
        (match x.body with
         | .lane l =>
           decide ((old.filter fun o => match o.body with | .lane _ => true | _ => false).length < 4) &&
             old.all fun o => match o.body with
               | .lane q => decide (l.last < q.first) || decide (q.last < l.first)
               | _ => true
         | _ => true)

/-- Growth-set tiles in increasing y and then x (R181), with their offsets. -/
def Region.growthTiles (g : Region) (t : Stage) : List (Nat × Nat × Nat) :=
  ((List.range 16).flatMap fun y => (List.range 64).filterMap fun x => if t.growth.contains (x, y) then some (x, y) else none).map
    fun p => (p.1, p.2, tileAt (g.ox + p.1) (g.oy + p.2))

/-- Numbering at both ends of a channel that has been put in place (R14). -/
def Chan.startEnds (v : Chan) (l : Sparse (Option Actor)) : Sparse (Option Actor) :=
  let l1 := match v.src with
    | .actor a p => match sget none l a with
      | some x => sset none l a (some (x.setOut p { seq := BitVec.ofNat 12 v.init }))
      | none => l
    | _ => l
  match v.dst with
  | .actor a p => match sget none l1 a with
    | some x => sset none l1 a (some (x.setPort p (x.port p).restart))
    | none => l1
  | _ => l1

/-- A replica of a stage placed on a tile of its growth set: the bytes the load wrote in its actors' windows on the template's tile, their
lane words, and the k registers that the load gave them; its channels start at number 0 (R180, R182, R416).
[DEDUCED: notes/assumptions/74.md] -/
def State.placeReplica (s : State) (r k n part : Nat) (dx dy tile : Nat) : State :=
  match s.region r with
  | none => s
  | some g =>
    match g.stage k with
    | none => s
    | some t =>
      let mem := g.members t
      let b := replicaBase k n
      let acts := mem.foldl (fun l a => match g.actor a with
        | some x =>
          let y := x.fresh tile dx dy
          sset none l (b + a) (some { y with k := ((t.ks.find? fun e => decide (e.1 = a)).map (·.2)).getD y.k })
        | none => l) g.actors
      let chans := g.chans.foldl (fun l c => match c.2.bind fun v => if c.1 < 2 ^ 20 then g.copyChan t k n tile mem v else none with
        | some v => sset none l (b + c.1) (some ((s.bound c.1 v).withVcs s.filters c.1))
        | none => l) g.chans
      let outs := (chans.filter fun c => decide (b ≤ c.1) && decide (c.1 < b + 2 ^ 20)).foldl (fun l c => match c.2 with
        | some v => v.startEnds l
        | none => l) acts
      let ents := (g.ranges.filter fun e => decide (e.1 = ((g.actor t.tmpl).map (·.tile)).getD 0)).map fun e => (tile, e.2)
      let g1 : Region :=
        { g with
          actors := outs, chans := chans, ranges := (g.ranges ++ ents).eraseDups
          stages := sset none g.stages k (some { t with replicas := t.replicas ++ [(b + t.tmpl, part)] }) }
      let s1 := s.setRegion r g1
      s1.modTile tile fun u =>
        let u := t.bytes.foldl (fun u p => u.setBytes p.1 p.2) u
        let u : Tile := { u with lanes := t.words.foldl (fun m w => sset 0 m w.1 w.2) u.lanes }
        let u := mem.foldl (fun (u : Tile) a => match g.actor a with
          | some x =>
            let u : Tile := { u with slots := sset none u.slots x.slot (some (r, b + a)) }
            match x.body with
            | .lane l => { u with lane := l.lanes.foldl (fun m j => sset {} m j {}) u.lane }
            | _ => u
          | none => u) u
        { u with ranges := s1.rangesOn tile }

/-- The replicas that a stage has from load: replicas 1 to m - 1 on the first tiles of the growth set with room. -/
def State.placeInitial (s : State) (r k : Nat) : Nat → Nat → State
  | 0, _ => s
  | f + 1, n =>
    match (s.region r).bind fun g => (g.stage k).map fun t => (g, t) with
    | none => s
    | some (g, t) =>
      if t.m ≤ n then s
      else
        match (g.growthTiles t).find? fun p => s.replicaRoom g (g.members t) p.2.2 with
        | some (dx, dy, tile) => (s.placeReplica r k n (if t.part then n else 0) dx dy tile).placeInitial r k f (n + 1)
        | none => s

/-! ### Placing (R124, R232, R301) -/

/-- The directory (R232). -/
def Region.dirWords (g : Region) : List Dw :=
  let kind (x : Actor) : Nat := match x.body with
    | .task | .lent => 0 | .lane _ => 1 | .matrix _ => 2 | .abacus _ => 3 | .memory _ => 4 | .bank => 5 | .counter _ => 6 | .merge .. => 8
  let keys := g.ctrls.map (·.1)
  g.dir.zipIdx.flatMap fun e =>
    let d0 := if e.2 < g.nact then
        match g.actor e.2 with
        | some x => packDw [(e.2, 0), (x.slot, 20), (kind x, 24), ((x.dx % 256).toNat, 28), ((x.dy % 256).toNat, 36)]
        | none => 0
      else packDw [(keys.getD (e.2 - g.nact) 0, 0), (7, 24)]
    [d0, packDw [(e.1.1, 0), (e.1.2, 32)]]

/-- A region put on its tiles, its replicas apart: slots, lanes and their words and parameters, range entries and scratchpad
blocks. -/
def State.installBase (s : State) (r : Nat) (g : Region) (m : Img) : State :=
  let s := s.setRegion r g
  let s := g.actors.foldl (fun s p => match p.2 with
    | some x => s.modTile x.tile fun t => { t with slots := sset none t.slots x.slot (some (r, p.1)) }
    | none => s) s
  let s := m.actors.foldl (fun s a =>
    if a.kind = 1 then
      let (ws, f, l, p0, ps) := m.lanesOf a
      s.modTile (tileFrom g.ox g.oy a.dx a.dy) fun t =>
        { t with
          lanes := (List.range (l + 1 - f)).foldl (fun b j => sset 0 b (f + j) (ws.getD (f + j) 0)) t.lanes
          params := ps.zipIdx.foldl (fun b w => sset 0 b (p0 + w.2) w.1) t.params
          lane := (List.range (l + 1 - f)).foldl (fun b j => sset {} b (f + j) {}) t.lane }
    else s) s
  let s := m.blocks.foldl (fun s b =>
    if b.glob then s
    else s.modTile (tileFrom g.ox g.oy b.dx b.dy) fun t => t.setBytes b.la ((m.drop (b.off + 24)).take b.len)) s
  ((g.ranges.map (·.1)).eraseDups).foldl (fun s t => s.modTile t fun u => { u with ranges := s.rangesOn t }) s

/-- A region put on its tiles with the replicas its stages have from load. -/
def State.install (s : State) (r : Nat) (g : Region) (m : Img) : State :=
  g.stages.foldl (fun s k => s.placeInitial r k.1 64 1) (s.installBase r g m)

/-- Region numbers held in a slice: by placed regions and by stopped launches that wait to resume. -/
def State.heldNums (s : State) (slice : Nat) : List Nat :=
  (s.regions.filterMap fun r => if r.1 / 65536 = slice then some (r.1 % 65536) else none) ++
    ((s.slice slice).waiting.filterMap fun w => w.saved.map (·.2)) ++
    s.loads.filterMap fun l => if l.slice = slice then l.held else none

/-- The lowest free region number of a slice. -/
def State.freeNum (s : State) (slice : Nat) : Nat := ((List.range 65536).find? fun n => !(s.heldNums slice).contains n).getD 0

/-- What a placement gives: the state with the region in its slice, its number and its key. -/
structure Placing where
  slice : Nat := 0
  asid : Nat := 0
  va : Dw := 0
  strict : Bool := true
  /-- The number it holds already, and the area it keeps (R232). -/
  held : Option Nat := none
  area : Option Dw := none

/-- An image placed at an origin: its region installed, for a restore without its replicas, and for a load the save area's first 8 KiB and directory written. A
fault on one of those writes refuses the load and places nothing. [DESIGN CHOICE: notes/assumptions/91.md] -/
def State.place (s : State) (m : Img) (q : Placing) (ox oy : Nat) : Except LoadErr (State × Nat) :=
  let n := s.slice q.slice
  let num := q.held.getD (s.freeNum q.slice)
  let r := regionKey q.slice num
  let es := m.entries s n.firstDie q.asid
  let ctxb := q.area.getD (n.svbase + BitVec.ofNat 64 (num * n.svstride.toNat))
  let races := m.conflicts.length
  let g0 := m.build n q.slice num q.asid q.va ctxb ox oy es races
  let g : Region := { g0 with chans := assignVcs s.filters (smap none (fun i (c : Option Chan) => c.map (s.bound i)) g0.chans) }.clocked (s.die g0.die).eqt
  if q.area.isSome then .ok (s.installBase r g m, r)
  else
    let fixed := (dwsBytes (g.headerWords 0 0 0)) ++ List.replicate (0x100 - 88) 0 ++ dwBytes (faultWord g 0) ++
      List.replicate (0x940 - 0x108) 0
    match s.areaWrite g 0 (fixed ++ List.replicate (0x2000 - fixed.length) 0) with
    | .error (c, v) => .error { status := 4, d1 := BitVec.ofNat 64 c, d2 := v }
    | .ok s1 =>
      match s1.areaWrite g 0x2000 (dwsBytes g.dirWords) with
      | .error (c, v) => .error { status := 4, d1 := BitVec.ofNat 64 c, d2 := v }
      | .ok s2 => .ok (s2.install r g m, r)

/-- The stages whose growth set, with the image at an origin, has no tile for a replica that they have from load, or beside those fewer
with their slots free than they may still be granted (R180, R416). -/
def Img.shortStages (m : Img) (s : State) (es : List (Nat × Nat × RangeEntry)) (slice ox oy : Nat) : List Nat :=
  if m.stages = [] then []
  else
    let r := regionKey slice (s.freeNum slice)
    let s1 := s.install r (m.build (s.slice slice) slice (s.freeNum slice) 0 0 0 ox oy es 0) m
    match s1.region r with
    | none => []
    | some g => g.stages.filterMap fun k => match k.2 with
      | none => none
      | some t =>
        let free := (g.growthTiles t).filter fun p =>
          (g.members t).all fun a => match g.actor a with
            | some x => (sget none (s1.tile p.2.2).slots x.slot).isNone
            | none => true
        if t.m ≤ t.replicas.length ∧ t.lim - t.m ≤ free.length then none else some k.1

/-- Refusals with status 2 that show only where the image is placed, in the order of their reasons: a head bound there that does not hold
the ASID (R213), parameter words that a resident lane actor's range gives other values (R300), and a growth set without tiles (R180).
[DEDUCED: notes/assumptions/47.md] -/
def Img.placedErrs (m : Img) (s : State) (slice asid : Nat) (es : List (Nat × Nat × RangeEntry)) (ox oy : Nat) : List LoadErr :=
  (eachRec m.chans fun i c => errIf (m.badHead s asid ox oy c) (imageErr 6 3 i i)) ++
    (eachRec m.actors fun i a =>
      let t := tileFrom ox oy a.dx a.dy
      let (_, _, _, p0, ps) := m.lanesOf a
      errIf (decide (a.kind = 1) && (s.tile t).paramClash (s.actorsOn t) p0 ps) (imageErr 11 2 i i)) ++
    (m.shortStages s es slice ox oy).map fun k => imageErr 12 7 k k

/-- The first origin that fits: increasing y and, within a row, increasing x. [DEDUCED: notes/assumptions/50.md] -/
def Img.search (m : Img) (s : State) (es : List (Nat × Nat × RangeEntry)) (slice : Nat) : Option (Nat × Nat) :=
  (List.range 16).findSome? fun y => (List.range 64).findSome? fun x => if m.fits s es slice x y then some (x, y) else none

/-! ### CFGLOAD (R329 to R331) -/

/-- The response's doublewords. -/
def loadReply (status reason region ox oy : Nat) (d1 d2 : Dw) : List Dw :=
  [packDw [(status % 256, 0), (reason % 256, 8), (region % 65536, 16), (ox % 64, 32), (oy % 16, 38)], d1, d2]

/-- A response of the load controller to the request of an access, if its region still stands. -/
def State.answerReq (s : State) (q : Option (Nat × Nat × Nat × Nat)) (payload : List Dw) : State :=
  match q with
  | some (r, a, p, id) => s.answer r { actor := a, port := p, id := id } payload
  | none => s

/-- The slice of the running firing's region. -/
def State.runSlice (s : State) : Nat := ((s.region s.runner.1).map (·.slice)).getD 0

/-- A CFGLOAD handed to the placement controller. -/
def State.askLoad (s : State) (restore : Bool) (va v : Dw) (o : Owed) : State :=
  let r := s.runner.1
  let strict := ((s.region r).bind fun g => g.launch.map (·.strict)).getD true
  { s with loads := s.loads ++
    [{ restore := restore, va := va, slice := s.runSlice, asid := s.runAsid, strict := strict, any := dwBit v 10
       ox := dwAt v 0 6, oy := dwAt v 6 4, by_ := some (r, o.actor, o.port, o.id) }] }

/-- CFGLOAD (R329). -/
def execCfgload (a b : Reg) (p : Port) (s : State) : Res :=
  engineRequest s p (s.reg a) fun s1 o => s1.askLoad false (s.reg a) (s.reg b) o

/-- CFGLOAD with restore (R234, R329). -/
def execCfgloadRestore (a b : Reg) (p : Port) (s : State) : Res :=
  engineRequest s p (s.reg a) fun s1 o => s1.askLoad true (s.reg a) (s.reg b) o

/-! ### PLACE (R396) -/

/-- The placed graph of an image address under an ASID in a slice. -/
def State.graphAt (s : State) (slice asid : Nat) (va : Dw) : Option (Nat × Region) :=
  match sfind (fun k g => match g with
      | some g => decide (k / 65536 = slice) && decide (g.asid = asid) && decide (g.image = va)
      | none => false) s.regions with
  | some (k, some g) => some (k, g)
  | _ => none

/-- A placed graph has a launch running, or one that the front end holds for it. [DEDUCED: notes/assumptions/90.md] -/
def State.inUse (s : State) (g : Region) : Bool :=
  g.launch.isSome || decide (g.ingressQ ≠ []) || g.cutBy.isSome ||
    ((s.slice g.slice).waiting.any fun w => decide (w.launch.image = g.image) && decide (w.launch.asid = g.asid)) ||
    s.loads.any fun l => match l.launch with
      | some w => decide (l.slice = g.slice) && decide (w.image = g.image) && decide (w.asid = g.asid)
      | none => false

/-- PLACE's effect and response on the graph at an address. [DEDUCED: notes/assumptions/90.md] -/
def State.placeOp (s : State) (va v : Dw) : State × List Dw :=
  let op := dwAt v 0 2
  if dwAt v 2 62 ≠ 0 then (s, [packDw [(5, 0), (op, 8)]])
  else
    match s.graphAt s.runSlice s.runAsid va with
    | none => (s, [packDw [(1, 0), (op, 8)]])
    | some (r, g) =>
      let ok (s : State) (status : Nat) : State × List Dw :=
        (s, [packDw [(status, 0), (op, 8), (g.num % 65536, 16), (g.ox, 32), (g.oy, 38)]])
      match op with
      | 0 => ok s 0
      | 1 => ok (s.setRegion r { g with pinned := true }) 0
      | 2 => ok (s.setRegion r { g with pinned := false }) 0
      | _ => if s.inUse g then ok s 3 else ok (s.unplace r) 0

/-- PLACE (R396). -/
def execPlace (a b : Reg) (p : Port) (s : State) : Res :=
  engineRequest s p (s.reg a) fun s1 o =>
    let (s2, w) := s1.placeOp (s.reg a) (s.reg b)
    s2.answer s.runner.1 o w

/-! ### The placement controller (R176, R178, R331) -/

/-- The image a load places, with the ASID it is read under: its own, or for a restore those that its area's header names. -/
def State.loadVa (s : State) (l : Load) : Except (Nat × Dw) (Dw × Nat) :=
  if l.restore then
    match s.saveRead (s.slice l.slice).firstDie l.asid (l.va.toNat + 8) 16 with
    | .ok b => .ok (BitVec.ofNat 64 (leNat (b.take 8)), bitsAt (leNat (b.drop 8)) 20 14)
    | .error e => .error e
  else .ok (l.va, l.asid)

/-- The marks of the walks by which a load reads its image and, for a restore, its area's header (R127). -/
def State.loadSeen (s : State) (l : Load) : State :=
  let die := (s.slice l.slice).firstDie
  let s1 := if l.restore then s.saveSeen die l.asid (l.va.toNat + 8) 16 else s
  match s.loadVa l with
  | .ok (va, asid) => s1.imageSeen die asid va.toNat
  | .error _ => s1

/-- An unpinned graph of a slice that no launch runs or waits on, least recently launched (R178). -/
def State.evictable (s : State) (slice : Nat) : Option Nat :=
  let c := s.regions.filterMap fun r => match r.2 with
    | some g => if r.1 / 65536 = slice ∧ g.pinned = false ∧ s.inUse g = false then some (r.1, g.lastUsed) else none
    | none => none
  (c.find? fun x => c.all fun y => decide (x.2 ≤ y.2)).map (·.1)

/-- The search for a rectangle, or the trial of a given origin, evicting one graph after another when none fits (R178).
[DEDUCED: notes/assumptions/50.md] -/
def State.searchEvict (s : State) (m : Img) (slice asid : Nat) (o : Option (Nat × Nat)) (evict : Bool) :
    Nat → State × Option (Nat × Nat)
  | 0 => (s, none)
  | f + 1 =>
    let es := m.entries s (s.slice slice).firstDie asid
    match (match o with
      | some (x, y) => if m.fits s es slice x y then some (x, y) else none
      | none => m.search s es slice) with
    | some o => (s, some o)
    | none =>
      if !evict then (s, none)
      else
        match s.evictable slice with
        | some r => (s.unplace r).searchEvict m slice asid o evict f
        | none => (s, none)

/-- A load's entry changed or dropped. -/
def State.setLoad (s : State) (k : Nat) (l : Load) : State := { s with loads := lset s.loads k l }
def State.dropLoad (s : State) (k : Nat) : State := { s with loads := ldrop s.loads k }

/-- A launch the front end holds ends without having run (R175, R176, R191). -/
def State.refuseLaunch (s : State) (slice : Nat) (l : Launch) (status : Nat) (rec_ : Dw) : State := s.report slice l status rec_

/-- The status that ends a launch whose backing store does not serve its image (R173, R191): 2 where the fields are
inconsistent with it, 4 where the store is too small. -/
def Launch.storeStatus (l : Launch) (store : Nat) (ranges : List RangeEntry) : Option Nat :=
  if store = 0 then (if l.wbase = 0 then none else some 2)
  else
    let va := l.wbase.toNat
    if decide (va = 0) || decide (va % 64 ≠ 0) || !canonical va ||
        !(ranges.any fun e => decide (e.asid = l.asid) && e.covers (va56 va) && decide (va56 va + l.wsize ≤ e.last + 4096)) then some 2
    else if l.wsize < store then some 4 else none

/-- The backing store a placed graph needs. -/
def Region.store (g : Region) : Nat :=
  g.nodes.foldl (fun n p => match p.2 with | some w => n + 64 + w.qlen * w.size | none => n) 0

/-- A launch token sent to a placed graph's ingress channel (R176); a graph launched pinned stays pinned. -/
def State.sendLaunch (s : State) (r : Nat) (l : Launch) : State :=
  let s := s.modRegion r fun g =>
    { g with ingressQ := g.ingressQ ++ [l], pinned := g.pinned || l.pin, lastUsed := (s.slice g.slice).stamp + 1 }
  s.modSlice (r / 65536) fun n => { n with stamp := n.stamp + 1 }

/-- A launch of the same priority that comes before a load's waits for a region, so that the load's search waits (R176, R179).
[DEDUCED: notes/assumptions/52.md] -/
def State.searchBehind (s : State) (slice : Nat) (l : Load) : Bool :=
  l.launch.any fun w => s.loads.any fun o => decide (o.slice = slice) && !o.found &&
    o.launch.any fun v => decide (v.prio = w.prio) && decide (v.order < w.order)

/-- The placement controller's search for a launch on the cold path, evicting where it must: the origin found, the launch ended
with status 5 where the slice could never offer the rectangle, with status 2 where a given origin lies outside it (R173), or the
launch waiting on (R178). An image that cannot be read or is refused goes on to its load, which reports it.
[DEDUCED: notes/assumptions/50.md] -/
def State.searchStep (s : State) (slice k : Nat) : Option State :=
  match s.loads[k]? with
  | none => none
  | some l =>
    if l.slice ≠ slice ∨ l.found = true ∨ s.searchBehind slice l = true then none
    else
      match s.loadVa l with
      | .error _ => some (s.setLoad k { l with found := true })
      | .ok (va, asid) =>
        match s.readImage (s.slice slice).firstDie asid va.toNat with
        | .error _ => some (s.setLoad k { l with found := true })
        | .ok m =>
          let given := if l.any then none else some (l.ox, l.oy)
          let outside := !l.any && decide (m.headerErrs va.toNat = []) && !s.rectOk slice l.ox l.oy m.region.w m.region.h
          match (if outside then l.launch else none) with
          | some w => some ((s.dropLoad k).refuseLaunch slice w 2 0)
          | none =>
            if (m.refusals s slice asid va.toNat given) ≠ [] then some (s.setLoad k { l with found := true })
            else
              match l.launch with
              | none =>
                some (s.setLoad k { l with found := true, spot := if l.any then m.search s (m.entries s (s.slice slice).firstDie asid) slice else given })
              | some w =>
                if l.any && m.tooLarge s slice then some ((s.dropLoad k).refuseLaunch slice w 5 0)
                else
                  let (s1, o) := s.searchEvict m slice asid given true (s.regions.length + 1)
                  match o with
                  | some p => some (s1.setLoad k { l with found := true, spot := some p })
                  | none =>
                    if s1.regions.length = s.regions.length ∧ l.tried = true then none
                    else some (s1.setLoad k { l with tried := true })

/-- PLACEMENT_SEARCH (R178). -/
def execPlacementSearch (slice k : Nat) (s : State) : Res := occur s (s.searchStep slice k)

/-- The origin at which a load places its image: the one found, or given, where it still fits; with the choice left open the
search's (R178, R331). -/
def Load.origin (l : Load) (s : State) (m : Img) (es : List (Nat × Nat × RangeEntry)) : Option (Nat × Nat) :=
  let fits (p : Nat × Nat) : Bool := m.fits s es l.slice p.1 p.2
  if l.any then (l.spot.filter fits).orElse fun _ => m.search s es l.slice else (some (l.ox, l.oy)).filter fits

/-- The image's checks and its placement at a load's origin; where the rectangle found is no longer free a search is made
again (R331). [DEDUCED: notes/assumptions/50.md] -/
def State.loadNow (s : State) (l : Load) : Except LoadErr (State × Nat × Img) :=
  let die := (s.slice l.slice).firstDie
  match s.readImage die l.asid l.va.toNat with
  | .error (c, v) => .error { status := 4, d1 := BitVec.ofNat 64 c, d2 := v }
  | .ok m =>
    let es := m.entries s die l.asid
    let given := if l.any then none else some (l.ox, l.oy)
    let spot := if (m.refusals s l.slice l.asid l.va.toNat given) = [] then l.origin s m es else none
    let placed := (spot.map fun p => m.placedErrs s l.slice l.asid es p.1 p.2).getD []
    match m.firstErr s l.slice l.asid l.va.toNat l.strict false given placed with
    | some e => .error e
    | none =>
      match spot with
      | none => .error { status := if l.any then 1 else 5 }
      | some (x, y) =>
        match s.place m { slice := l.slice, asid := l.asid, va := l.va, strict := l.strict, held := l.held } x y with
        | .error e => .error e
        | .ok (s1, r) => .ok (s1, r, m)

/-- A load completes (R331): the response of CFGLOAD, or the launch token of a cold launch; a refusal ends that launch with
status 3 (R176), but where its tiles have been taken meanwhile it searches again (R178, R331); or it ends with status 4 or 2
where the backing store does not serve the image (R191). -/
def State.finishLoad (s : State) (k : Nat) (l : Load) : State :=
  let s0 := (s.dropLoad k).loadSeen l
  match s0.loadNow l with
  | .error e =>
    match l.launch with
    | some w =>
      if e.status = 1 ∨ e.status = 5 then s.setLoad k { l with found := false, spot := none }
      else s0.refuseLaunch l.slice w 3 0
    | none => s0.answerReq l.by_ (loadReply e.status e.reason 0 0 0 e.d1 e.d2)
  | .ok (s1, r, m) =>
    let g := (s1.region r).getD {}
    let s2 := s1.answerReq l.by_ (loadReply 0 0 g.num g.ox g.oy (BitVec.ofNat 64 m.len) 0)
    match l.launch with
    | none => s2
    | some w =>
      match w.storeStatus g.store (g.ranges.map (·.2)) with
      | some st => (s2.unplace r).refuseLaunch l.slice w st 0
      | none => s2.sendLaunch r w

end Sys2Proof.Machine
end

