-- ==== Sys2Proof/Machine/SaveArea.lean ====
section
/-! DEFINITION. The bytes of a save area: the fixed part and the kind-specific tail of an actor's entry, a controller's entry,
recorded tokens and barrier slots, each written and read back (R231 to R233, R428). -/

namespace Sys2Proof.Machine

/-- Doublewords padded with zeros to a multiple of eight. -/
def pad8 (l : List Dw) : List Dw := l ++ List.replicate ((8 - l.length % 8) % 8) 0

/-- Bytes as doublewords, the last padded with zeros. -/
def asDws (l : List Byte) : List Dw := bytesDws ((l.length + 7) / 8) l

/-- 32-bit words as doublewords. -/
def wordsDws (l : List Word) : List Dw := asDws (l.flatMap fun w => leBytes 4 w.toNat)

/-- A list of doublewords brought to a length. -/
def fitDws (n : Nat) (l : List Dw) : List Dw := (l ++ List.replicate n 0).take n

/-! ### Recorded tokens (R233) -/

/-- The input an actor's recorded token names: zero from the control network. -/
def Recorded.words (q : Recorded) : List Dw :=
  packDw [(q.tok.sideband, 0), (if q.control then 0 else q.port % 8, 16), (q.tok.payload.length - 1, 19), (b2n q.response, 22),
    (b2n q.control, 23), (b2n q.followOn, 24)] :: q.tok.payload

/-- A controller's recorded token: its link in [47:32]. -/
def Recorded.linkWords (q : Recorded) : List Dw :=
  packDw [(q.tok.sideband, 0), (q.tok.payload.length - 1, 19), (1, 23), (q.port % 65536, 32)] :: q.tok.payload

/-- Recorded tokens read back; a controller's by their links. -/
def readRecorded (ctrl : Bool) : Nat → List Dw → List Recorded
  | 0, _ => []
  | _, [] => []
  | f + 1, h :: l =>
    let n := dwAt h 19 3 + 1
    { port := if ctrl then dwAt h 32 16 else dwAt h 16 3, response := dwBit h 22, control := dwBit h 23, followOn := dwBit h 24
      tok := { kind := h.extractLsb' 12 4, seq := h.extractLsb' 0 12, payload := l.take n } } :: readRecorded ctrl f (l.drop n)

/-! ### Accumulator area (R222, R428) -/

/-- The accumulators of a mask. -/
def accList (m : BitVec 4) : List Nat := (List.range 4).filter fun i => m.getLsbD i

/-- The words of the accumulators an actor holds. -/
def accWords (t : Tile) (m : BitVec 4) : List Word :=
  (accList m).flatMap fun d => (List.range 4096).map fun i => t.accWord d 0 i

/-- The step of K that a position of an operand stream belongs to. -/
def MatCmd.stepOf (m : MatCmd) (isA : Bool) (pos : Nat) : Nat :=
  if isA then (if m.ac then pos / 64 else pos % m.k) else (if m.bc then pos % m.k else pos / 64)

/-- The operands of an open batch that no group has used: staged for unfinished groups. -/
def Batch.staged (b : Batch) (m : MatCmd) (isA : Bool) : List Operand :=
  ((if isA then b.stageA else b.stageB).zipIdx.filter fun p => decide (b.nextK ≤ m.stepOf isA p.2)).map (·.1)

/-- Their bytes, packed in element order. -/
def Batch.stagedBytes (b : Batch) (isA : Bool) : List Byte :=
  match matCmd b.cmd with
  | none => []
  | some m =>
    let w := ((Fmt.ofCode (if isA then m.af else m.bf)).getD .e4m3).width
    let l := b.staged m isA
    (leBytes ((l.length * w + 7) / 8) (elemsNat w (l.map fun o => o.x.toNat)))

/-- An open batch's descriptor. -/
def Batch.words (b : Batch) : List Dw :=
  [b.cmd.extractLsb' 0 64, b.cmd.extractLsb' 64 64, BitVec.ofNat 64 (b.nextK % 2 ^ 32), b.hdrA.getD 0, b.hdrB.getD 0,
    packDw [((b.stagedBytes true).length, 0), ((b.stagedBytes false).length, 32)], 0, 0]

/-- The accumulator area: held accumulators, a descriptor for each open batch, and the staged operands. -/
def accArea (t : Tile) (m : BitVec 4) (bs : List Batch) : List Dw :=
  wordsDws (accWords t m) ++ bs.flatMap Batch.words ++ bs.flatMap fun b => asDws (b.stagedBytes true) ++ asDws (b.stagedBytes false)

/-- An operand stream rebuilt: the positions up to the last one taken, those of finished steps without content. -/
def restage (m : MatCmd) (isA : Bool) (nextK : Nat) : Nat → Nat → List Nat → List Operand
  | 0, _, _ => []
  | f + 1, pos, es =>
    if nextK ≤ m.stepOf isA pos then
      match es with
      | [] => []
      | e :: l => { x := BitVec.ofNat 32 e } :: restage m isA nextK f (pos + 1) l
    else {} :: restage m isA nextK f (pos + 1) es

/-- An open batch read back from its descriptor and staged bytes; `was` gives what the descriptor has no place for. The scales
of restored operands are those of the latched headers. [DEDUCED: notes/assumptions/40.md] -/
def Batch.reload (was : Batch) (d : List Dw) (sa sb : List Byte) : Batch :=
  let w := (d.getD 1 0) ++ (d.getD 0 0)
  let nk := dwAt (d.getD 2 0) 0 32
  if was.cmd = w ∧ was.nextK = nk ∧ sa = was.stagedBytes true ∧ sb = was.stagedBytes false then was
  else
    let ha := if d.getD 3 0 = 0 then none else some (d.getD 3 0)
    let hb := if d.getD 4 0 = 0 then none else some (d.getD 4 0)
    match matCmd w with
    | none => { was with cmd := w, nextK := nk, hdrA := ha, hdrB := hb }
    | some m =>
      let wa := ((Fmt.ofCode m.af).getD .e4m3).width
      let wb := ((Fmt.ofCode m.bf).getD .e4m3).width
      let scaled (h : Option Dw) (l : List Operand) : List Operand := match h with
        | some v => l.map fun o => { o with scale := BitVec.ofNat 8 (hdrScale v) }
        | none => l
      let ea := elemsOf wa (8 * sa.length / wa) (leNat sa)
      let eb := elemsOf wb (8 * sb.length / wb) (leNat sb)
      let la := scaled ha (restage m true nk (64 * m.k) 0 ea)
      let lb := scaled hb (restage m false nk (64 * m.k) 0 eb)
      { was with cmd := w, nextK := nk, hdrA := ha, hdrB := hb, stageA := la, stageB := lb, takenA := la.length, takenB := lb.length
                 fromA := if was.cmd = w then min was.fromA la.length else la.length
                 fromB := if was.cmd = w then min was.fromB lb.length else lb.length }

/-- The batches of an accumulator area read back, in order. -/
def readBatches : List Batch → List Dw → Nat → List Dw → List Batch
  | _, _, 0, _ => []
  | was, ds, n + 1, stage =>
    let d := ds.take 8
    let na := dwAt (d.getD 5 0) 0 32
    let nb := dwAt (d.getD 5 0) 32 32
    let a := (dwsBytes (stage.take ((na + 7) / 8))).take na
    let b := (dwsBytes ((stage.drop ((na + 7) / 8)).take ((nb + 7) / 8))).take nb
    (was.headD {}).reload d a b :: readBatches (was.drop 1) (ds.drop 8) n (stage.drop ((na + 7) / 8 + (nb + 7) / 8))

/-- The number of open batches whose descriptors and staged operands fill an accumulator area behind the accumulators: the least that
gives its length, padded to 64 bytes. The first argument bounds the search. -/
def batchCount (ds : List Dw) : Nat → Nat → Nat → Nat
  | 0, n, _ => n
  | f + 1, n, staged =>
    if (8 * n + staged + 7) / 8 * 8 = (ds.length + 7) / 8 * 8 then n
    else
      let v := ds.getD (8 * n + 5) 0
      batchCount ds f (n + 1) (staged + (dwAt v 0 32 + 7) / 8 + (dwAt v 32 32 + 7) / 8)

/-- Accumulators read back into a tile. -/
def Tile.loadAcc (t : Tile) (m : BitVec 4) (bytes : List Byte) : Tile :=
  (accList m).zipIdx.foldl (fun t p =>
    (List.range 4096).foldl (fun (t : Tile) i => t.setAccWord p.1 i (BitVec.ofNat 32 (leNat ((bytes.drop (16384 * p.2 + 4 * i)).take 4)))) t) t

/-! ### Lane tails -/

/-- The element width at a lane of an actor's segment, from its input channel's type. -/
def laneWidth (g : Region) (a : Nat) (t : Tile) (l : LaneSeg) (j : Nat) : Nat :=
  let ty := match g.chanTo a 0 with | some _ => g.inType a 0 | none => g.inType a 1
  (t.fmtIn l.first ((typeFmt ty).getD .fp32) (j - l.first)).width

/-- A lane's 64 bytes. -/
def laneState (g : Region) (a : Nat) (t : Tile) (l : LaneSeg) (j : Nat) : List Dw :=
  let q := t.laneSt j
  if l.first ≤ j ∧ j ≤ l.last then
    match (t.laneWord j).op with
    | 17 => fitDws 8 [packDw [(q.m.toNat, 0), (q.s.toNat, 32)], packDw [(q.idx % 4096, 0)]]
    | 19 => fitDws 8 (fitDws 4 (asDws (leBytes 32 (elemsNat (laneWidth g a t l j) (q.acc.map (·.toNat))))) ++ [packDw [(q.cnt % 4096, 0)]])
    | 20 => fitDws 8 [q.part.setWidth 64, 0, 0, 0, packDw [(q.cnt % 4096, 0)]]
    | 16 => fitDws 8 [0, 0, 0, 0, packDw [(q.cnt % 4096, 0), (q.idx % 4096, 16)]]
    | _ => fitDws 8 []
  else fitDws 8 []

/-- A lane's state read back. -/
def readLaneState (g : Region) (a : Nat) (t : Tile) (l : LaneSeg) (j : Nat) (d : List Dw) : LaneSt :=
  let q := t.laneSt j
  let cnt := dwAt (d.getD 4 0) 0 12
  match (t.laneWord j).op with
  | 17 => { q with m := (d.getD 0 0).setWidth 32, s := (d.getD 0 0).extractLsb' 32 32, idx := dwAt (d.getD 1 0) 0 12 }
  | 19 =>
    let w := laneWidth g a t l j
    { q with acc := if cnt = 0 then [] else (elemsOf w (256 / w) (leNat (dwsBytes (d.take 4)))).map (BitVec.ofNat 32 ·), cnt := cnt }
  | 20 => { q with part := (d.getD 0 0).setWidth 32, cnt := cnt }
  | 16 => { q with cnt := cnt, idx := dwAt (d.getD 4 0) 16 12 }
  | _ => q

/-- The delay buffers of a segment: local address and bytes, in lane order. -/
def delayBuffers (t : Tile) (l : LaneSeg) : List (Nat × Nat) :=
  (l.lanes.filter fun j => decide ((t.laneWord j).op = 16)).map fun j =>
    let p := t.param (t.laneWord j)
    (p % 2 ^ 18, 32 * (bitsAt p 18 12 + 1))

/-- The header that a lane segment has latched. -/
def Actor.laneHdr (x : Actor) : Option Dw :=
  match (x.port 0).hdr with
  | some h => if (x.port 0).left ≠ 0 then some h else none
  | none => if (x.port 1).left ≠ 0 then (x.port 1).hdr else none

/-- A lane actor's tail, its segment the row's `num`th. -/
def laneTail (g : Region) (a : Nat) (x : Actor) (t : Tile) (l : LaneSeg) (num : Nat) : List Dw :=
  wordsDws ((List.range 16).map fun j => if l.first ≤ j ∧ j ≤ l.last then sget 0 t.lanes j else 0) ++
    wordsDws ((List.range 1024).map fun j => sget 0 t.params j) ++
    (List.range 16).flatMap (laneState g a t l) ++
    fitDws 8 (List.replicate (2 * num) 0 ++ [x.laneHdr.getD 0, packDw [(b2n x.laneHdr.isSome, 0)]]) ++
    asDws ((delayBuffers t l).flatMap fun p => t.bytes p.1 p.2)

/-! ### Abacus, memory, counter-chain and merge tails -/

/-- 2,048 sticky bits a frame. -/
def stickyWords (p : Plane) : List Dw :=
  (List.range p.reck.frames.length).flatMap fun f => (List.range 32).map fun i =>
    packDw (((List.range 64).filter fun b => p.sticky.contains (f, 64 * i + b)).map fun b => (1, b))

/-- An abacus actor's tail. -/
def abacusTail (x : Actor) (b : Abacus) : List Dw :=
  let i0 := x.port 0
  let isOpen := decide (i0.left ≠ 0)
  let owed (o : Option Owed) : Dw := match o with
    | some o => packDw [(o.actor % 2 ^ 20, 0), (o.port % 8, 20)]
    | none => 0
  [packDw [(b.activeCode, 0), (b.shState.code, 4), (b2n (decide (b.shState = .swapPending)), 8), (b2n isOpen, 9),
      (if isOpen then i0.seen % 512 else 0, 10), (b2n b.owedLoad.isSome, 19), (b2n b.owedSwap.isSome, 20)],
    (b.active.map (·.va)).getD 0, (b.shadow.map (·.va)).getD 0, if isOpen then i0.hdr.getD 0 else 0, owed b.owedLoad, owed b.owedSwap, 0, 0] ++
    fitDws 512 (if isOpen then b.part.flatten else []) ++
    ((b.active.map stickyWords).getD []) ++ ((b.shadow.map stickyWords).getD [])

/-- The spilled elements of a memory actor at its port. -/
def Tile.spilledOf (t : Tile) (r a : Nat) : List Access :=
  t.port.filter fun q => decide (q.region = r) && decide (q.actor = a) && q.elem.isSome && q.spilled.isSome

/-- The index of each dimension at a generator's position. The last one goes on past its count, so that a finished sequence, or a later
iteration of it, is told from its beginning. [DESIGN CHOICE: notes/assumptions/106.md] -/
def genIndex : List Nat → Nat → List Nat
  | [], _ => []
  | [_], p => [p]
  | c :: l, p => p % max c 1 :: genIndex l (p / max c 1)

/-- The position of indices. -/
def genPos (counts : List Nat) (ix : List Nat) : Nat :=
  ((counts.zip ix).foldl (fun (s : Nat × Nat) p => (s.1 + s.2 * p.2, s.2 * max p.1 1)) (0, 1)).1

/-- A memory actor's tail: position, spill entries and held elements. A pass is in progress until its EOS has left.
[DESIGN CHOICE: notes/assumptions/106.md] -/
def memoryTail (r a : Nat) (t : Tile) (m : MemGen) : List Dw :=
  let sp := t.spilledOf r a
  let spill (q : Access) : List Dw :=
    [BitVec.ofNat 64 (q.elem.getD 0), q.va, q.spilled.getD 0, packDw [(q.kind.code % 16, 0), (q.kind.bytes - 1, 8)]] ++
      (if m.store then asDws q.data else [])
  let held (h : HeldElem) : List Dw := packDw [(h.pos % 2 ^ 32, 0), (m.bytes - 1, 32)] :: fitDws ((m.bytes + 7) / 8) h.tok.payload
  fitDws 4 (if m.indexed then [BitVec.ofNat 64 m.pos] else (genIndex m.counts m.pos).map (BitVec.ofNat 64)) ++
    [packDw [(sp.length % 65536, 0), (m.held.length % 65536, 16), (b2n (m.pass || (m.eos.isSome && !m.store && !m.indexed)), 32)], 0, 0, 0] ++
    sp.flatMap spill ++ m.held.flatMap held

/-- The next index of each counter, from the index tokens emitted. -/
def nextIndex (l : List CounterSpec) (n : Nat) : List Dw :=
  ((l.zip (places l n)).map fun p => BitVec.ofInt 64 (p.1.start.toInt + p.2 * p.1.step.toInt))

/-- A counter chain's tail. -/
def counterTail (c : Counter) : List Dw :=
  fitDws 4 (nextIndex c.spec (c.emitted % max 1 (chainSize c.spec))) ++
    [packDw [(b2n c.enabled, 0), (b2n c.eosSent, 1)], packDw [(c.first % 2 ^ 32, 0), (c.span % 65536, 32)],
      packDw [(c.emitted % 2 ^ 32, 0)], 0]

/-- An actor's kind code (R232). -/
def Actor.kindCode (x : Actor) : Nat :=
  match x.body with
  | .task | .lent => 0 | .lane _ => 1 | .matrix _ => 2 | .abacus _ => 3 | .memory _ => 4 | .bank => 5 | .counter _ => 6 | .merge .. => 8

/-- The batches that stand in an actor's accumulator area (R222, R231): a matrix actor's own. -/
def Actor.tailBatches (x : Actor) : List Batch := x.batches.filter fun b => !b.failed

/-- An actor's kind-specific tail, padded to 64 bytes. -/
def State.tailOf (s : State) (r : Nat) (g : Region) (a : Nat) (x : Actor) : List Dw :=
  let t := s.tile x.tile
  let acc := if x.acc ≠ 0 ∨ x.batches ≠ [] then accArea t x.acc x.tailBatches else []
  pad8 (match x.body with
    | .task => x.live.flatMap (fun p => asDws (t.bytes p.1 p.2)) ++ acc
    | .lane l => laneTail g a x t l (s.segNumber x.tile l)
    | .matrix _ => acc
    | .abacus b => abacusTail x b
    | .memory m => memoryTail r a t m
    | .bank | .lent => []
    | .counter c => counterTail c
    | .merge arr _ eos _ => if arr then [packDw [(eos.toNat, 0)]] else [])

/-! ### Fixed part (R233) -/

/-- The bytes an entry holds before its recorded tokens: from its length in the directory, a tail that does not fit is cut off. -/
def entryTail (len : Nat) (tail : List Dw) : List Dw := tail.take ((len - 512) / 8)

/-- The expectation before the tokens that stand at an input. -/
def InPort.firstSeq (q : InPort) : BitVec 12 := match q.q with | t :: _ => t.seq | [] => q.exp

/-- An input's doubleword, with the tokens recorded of it. -/
def InPort.saveWord (q : InPort) (seq : BitVec 12) (n : Nat) : Dw :=
  packDw [(seq.toNat, 0), (b2n (q.sink && q.sinkDone), 12), (n % 4096, 16), (b2n q.resp.isSome, 31), (q.credits % 65536, 32)]

/-- A window's doubleword: base and limit, each modulo 2^18. [DESIGN CHOICE: notes/assumptions/103.md] -/
def winWord (base limit : Nat) : Dw := packDw [(base % 2 ^ 18, 0), (limit % 2 ^ 18, 32)]

/-- The 64 doublewords of the fixed part; `seqs` are the inputs' expectations before their recorded tokens. -/
def Actor.fixedWords (x : Actor) (g : Region) (seqs : List (BitVec 12)) (tail recd : Nat) : List Dw :=
  let count (p : Nat) : Nat := (x.recd.filter fun q => decide (q.port = p) && !q.control).length
  let drops := (List.range 8).filter fun p => (x.port p).drop
  [packDw [(x.kindCode, 0), (x.cls.toNat, 4), (g.num % 65536, 8), (g.asid % 16384, 24)]] ++
    (fitDws 4 (x.rules.map fun u => packDw [(u.entry.toNat, 16), (u.outMask.toNat, 8), (u.inMask.toNat, 0)])) ++
    [packDw [(x.fctl.toNat, 0), (x.fflags.toNat, 8), (x.acc.toNat, 16)], winWord x.codeB x.codeL, winWord x.locB x.locL] ++
    (List.range 16).map (fun j => sget 0 x.htab j) ++ (List.range 16).map (fun j => sget 0 x.k j) ++
    (List.range 8).map (fun p => (x.port p).saveWord (seqs.getD p 0) (count p)) ++
    (List.range 8).map (fun p => packDw [((x.outp p).seq.toNat, 0), ((x.outp p).count.toNat, 32)]) ++
    [packDw [(512, 0), (tail, 32)], packDw [(512 + tail, 0), (recd, 32)], packDw (drops.map fun p => (1, p)), 0, 0, 0, 0, 0]

/-! ### Controllers (R232, R428) -/

/-- A controller's head and tail; `recd` is the length of its recorded tokens. -/
def Ctrl.words (c : Ctrl) (g : Region) (recd : Nat) : List Dw :=
  let n := c.kids.length
  let doneOf (k : Nat) : Nat := sget 0 c.kidDone k
  let enOf (k : Nat) : Nat := sget 0 c.kidEn k
  let low := (List.range n).foldl (fun m k => min m (doneOf k)) (if n = 0 then 0 else doneOf 0)
  let next := (List.range n).foldl (fun m k => max m (enOf k)) 0
  let tail := pad8 (fitDws 4 (nextIndex c.spec (next % max 1 (chainSize c.spec))) ++
    [packDw [(next % 2 ^ 32, 0), (low % 2 ^ 32, 32)], packDw [(c.first % 2 ^ 32, 0), (c.span % 65536, 32)],
      packDw [(b2n c.enabled, 0), (b2n c.doneSent, 1)], 0] ++
    (List.range n).map fun k => packDw [(doneOf k % 2 ^ 32, 0), (enOf k % 2 ^ 32, 32)])
  fitDws 8 [packDw [(7, 0), (g.num % 65536, 8)], packDw [(64, 0), (8 * tail.length, 32)], packDw [(64 + 8 * tail.length, 0), (recd, 32)]] ++
    tail

/-- A controller read back from its entry. -/
def Ctrl.reload (c : Ctrl) (d : List Dw) : Ctrl :=
  let t := d.drop (dwAt (d.getD 1 0) 0 32 / 8)
  let kid (k : Nat) : Dw := t.getD (8 + k) 0
  let n := c.kids.length
  { c with
    enabled := dwBit (t.getD 6 0) 0, doneSent := dwBit (t.getD 6 0) 1
    first := dwAt (t.getD 5 0) 0 32, span := dwAt (t.getD 5 0) 32 16
    kidDone := sparseOf 0 ((List.range n).map fun k => dwAt (kid k) 0 32)
    kidEn := sparseOf 0 ((List.range n).map fun k => dwAt (kid k) 32 32)
    cut := .run, recd := [], closed := [] }

/-! ### Barrier slots (R231, R232) -/

/-- A barrier slot's record. -/
def Barrier.words (b : Barrier) : List Dw :=
  [b.pending, b.written,
    packDw [(b2n b.armed, 56), (b.code.toNat, 48), (b2n b.err, 45), (b2n b.overcount, 46), (b2n b.abandoned, 47), (b.cls.toNat, 43),
      (b.entry.toNat, 39), (b.target % 2 ^ 20, 19), (b.phase.toNat, 0)], 0]

/-- A barrier slot read back. -/
def barrierOf (d : List Dw) : Barrier :=
  let v := d.getD 2 0
  { armed := dwBit v 56, pending := d.getD 0 0, written := d.getD 1 0, target := dwAt v 19 20, entry := v.extractLsb' 39 4
    cls := v.extractLsb' 43 2, phase := v.extractLsb' 0 16, err := dwBit v 45, overcount := dwBit v 46, abandoned := dwBit v 47
    code := v.extractLsb' 48 8 }

end Sys2Proof.Machine
end

