-- ==== Sys2Proof/Machine/Streams.lean ====
section
/-! DEFINITION. The commands of the copy, bank and link engines, and what completed commands deliver (R140, R159, R190, R323,
R324, R337 to R342, R362, R401, R404). -/

namespace Sys2Proof.Machine

/-! ### CPY, GATH and SCAT -/

/-- A move of elements: the op, source and destination descriptors, transposition and the extension block. -/
structure Move where
  op : Nat := 1
  tr : Bool := false
  src : Tensor := {}
  dst : Tensor := {}
  ext : Ext := {}
  deriving DecidableEq, Repr

/-- Elements in a row of the move, its total of destination bytes, and elements and bytes of its smallest whole unit. -/
def Move.rowLen (m : Move) : Nat := if m.op = 3 then m.src.n0 else m.dst.n0
def Move.total (m : Move) : Nat := if m.op = 3 then (m.ext.icnt + 1) * (m.dst.n0 * m.dst.width / 8) else m.dst.bytes
def Move.unitElems (m : Move) : Nat := if m.dst.width = 4 then 2 else if m.dst.width = 6 then 4 else 1
def Move.unitBytes (m : Move) : Nat := m.unitElems * m.dst.width / 8
def Move.units (m : Move) : Nat := m.total / m.unitBytes

/-- The source and the destination index of the element at a linear index; the row's index where it is outside the bound. -/
def Move.at_ (m : Move) (t : Tile) (e : Nat) : Except Nat ((Nat × Nat × Nat) × (Nat × Nat × Nat)) :=
  let k := e / m.rowLen
  let i0 := e % m.rowLen
  let row (d : Tensor) (j : Nat) : Nat × Nat × Nat := (i0, j % d.n1, j / d.n1)
  let j := m.ext.index t k
  if m.op = 1 then
    let i := m.dst.split e
    .ok (if m.tr then (i.2.1, i.1, i.2.2) else i, i)
  else if m.op = 2 then
    if m.ext.badIndex (m.src.n1 * m.src.n2) j then .error j else .ok (row m.src j, row m.dst k)
  else if m.ext.badIndex (m.dst.n1 * m.dst.n2) j then .error j else .ok (row m.src k, row m.dst j)

/-- The follow-on command that a CPY names: 128 bits at a local address. -/
def Tile.localCmd (t : Tile) (la : Nat) : BitVec 128 := t.localDw (la + 8) ++ t.localDw la

/-- Formats agree, or the block converts; the scale can be chosen where that is asked (R337, R339). -/
def Move.formats (m : Move) : Option Nat :=
  if !m.ext.cv && decide (m.src.fmt ≠ m.dst.fmt) then some 0x21
  else if m.ext.cv && m.ext.auto && !autoFmt m.dst.fmt then some 0x23 else none

/-- The shapes of a move agree (R337, R362, R404): rows of whole bytes, and in GATH and SCAT without cv 8 bits or wider.
[DEDUCED: notes/assumptions/102.md] -/
def Move.shapes (m : Move) : Bool :=
  let s := m.src
  let d := m.dst
  let rows : Bool := s.wholeRows && d.wholeRows && (m.ext.cv || (decide (8 ≤ s.width) && decide (8 ≤ d.width))) && decide (d.n0 = s.n0)
  if m.op = 1 then
    s.wholeRows && d.wholeRows && d.unbounded && decide (s.n2 = d.n2) &&
      (if m.tr then decide (s.n0 = d.n1) && decide (s.n1 = d.n0) else decide (s.n0 = d.n0) && decide (s.n1 = d.n1))
  else if m.op = 2 then rows && d.unbounded && decide (d.n1 * d.n2 = m.ext.icnt + 1)
  else rows && d.unbounded && decide (s.n1 * s.n2 = m.ext.icnt + 1)

/-- The move a command asks for, or the code that refuses it. -/
def moveOf (x : Actor) (t : Tile) (c : Command) : Except Nat Move :=
  let made (m : Move) : Except Nat Move :=
    if !m.shapes then .error 0x21
    else match m.formats with
      | some code => .error code
      | none => .ok m
  match c with
  | .cpy tr fo s d e =>
    let fok (y : Ext) : Bool := !fo || x.owns y.fcmd 16 16
    if x.tensorOk t s.toNat && x.tensorOk t d.toNat && (match e with | some a => x.extOk t a.toNat (fun _ => false) | none => true) &&
        fok (extOf t e) then
      made { op := 1, tr := tr, src := (tensorAt t s.toNat).1, dst := (tensorAt t d.toNat).1, ext := extOf t e }
    else .error 0x20
  | .gath s d e =>
    if x.tensorOk t s.toNat && x.tensorOk t d.toNat && x.extOk t e.toNat (fun _ => true) then
      made { op := 2, src := (tensorAt t s.toNat).1, dst := (tensorAt t d.toNat).1, ext := extOf t (some e) }
    else .error 0x20
  | .scat s d e =>
    if x.tensorOk t s.toNat && x.tensorOk t d.toNat && x.extOk t e.toNat (fun _ => true) then
      made { op := 3, src := (tensorAt t s.toNat).1, dst := (tensorAt t d.toNat).1, ext := extOf t (some e) }
    else .error 0x20
  | _ => .error 0x20

/-- The bytes of the access by which an element of the source is read. -/
def Move.srcBytes (m : Move) : Nat := (m.src.width + 7) / 8

/-- The bytes of a move's failing access: of its source, or of its destination. -/
def Move.sizeOf (m : Move) (kind : Nat) : Nat := if kind = 4 then m.srcBytes else m.unitBytes

/-- A unit of a move as gathered: its address and keys, the bytes to put with their rows, the address of its first poisoned source
element, the leaves of its destination, its first INVALID element; or, where its row is skipped, that with the index at the row's start. -/
structure MoveUnit where
  va : Nat := 0
  keys : List Nat := []
  puts : List (Nat × Nat × Byte) := []
  poison : Option Nat := none
  marks : List Nat := []
  inval : Option Nat := none
  skipped : Bool := false
  index : Option Nat := none
  deriving DecidableEq, Repr

/-- How units of a move are gathered: each of them, or how they fail. -/
inductive Gathered where
  | done (l : List MoveUnit)
  | fail (kind code : Nat) (detail : Dw)
  | page (kind va : Nat)
  deriving DecidableEq, Repr

/-- The results of a unit's elements, an INVALID one as zero, and the first that was. -/
def Move.results (m : Move) (scale : Nat) (l : List (Nat × Bool)) : List Nat × Option Nat :=
  let ys := l.map fun p => m.ext.conv m.src.f m.dst.f scale p.1
  (ys.map fun y => y.getD 0, (lfind Option.isNone ys 0).map (·.1))

/-- `n` units gathered from unit `u` on: every element read and converted, every destination translated. -/
def State.gather (s : State) (e : Via) (m : Move) (before : Sparse (Option Byte)) (scale : Nat) :
    Nat → Nat → List MoveUnit → State × Gathered
  | 0, _, g => (s, .done g)
  | n + 1, u, g =>
    let e0 := u * m.unitElems
    match m.at_ (s.tile e.tile) e0 with
    | .error j =>
      s.gather e m before scale n (u + 1) (g ++ [{ skipped := true, index := if e0 % m.rowLen = 0 then some j else none }])
    | .ok (_, dj) =>
      let js := (List.range m.unitElems).filterMap fun i =>
        match m.at_ (s.tile e.tile) (e0 + i) with
        | .ok (sj, _) => some sj
        | .error _ => none
      match s.readElems e before m.src js with
      | (s1, .fail c d) => (s1, .fail 4 c d)
      | (s1, .page v) => (s1, .page 4 v)
      | (s1, .ok l) =>
        let (ys, bad) := m.results scale l
        let (va, _) := m.dst.place dj
        match s1.viaXl e m.dst.loc { w := true } 1 va m.unitBytes with
        | .fail c d => (s1.viaSeen e m.dst.loc { w := true } 1 va m.unitBytes, .fail 5 c d)
        | .page v => (s1, .page 5 v)
        | .ok ks ms =>
          let poison := (lfind (·.2) l 0).map fun p => (m.src.place (js.getD p.1 (0, 0, 0))).1
          let data := leBytes m.unitBytes (elemsNat m.dst.width ys)
          s1.gather e m before scale n (u + 1) (g ++
            [{ va := va, keys := ks, poison := poison, marks := ms, inval := bad.map (e0 + ·)
               puts := if poison.isSome then [] else (ks.zip data).map fun p => (e0 / m.rowLen, p.1, p.2) }])

/-- The greatest magnitude of a move's source, read whole (R339). -/
def State.greatest (s : State) (e : Via) (m : Move) (before : Sparse (Option Byte)) : Nat → Nat → Val → State × Except (Nat × Dw ⊕ Nat) Val
  | 0, _, v => (s, .ok v)
  | n + 1, i, v =>
    match m.at_ (s.tile e.tile) i with
    | .error _ => s.greatest e m before n (i + 1) v
    | .ok (sj, _) =>
      match s.readElems e before m.src [sj] with
      | (s1, .fail c d) => (s1, .error (.inl (c, d)))
      | (s1, .page va) => (s1, .error (.inr va))
      | (s1, .ok l) => s1.greatest e m before n (i + 1) (maxMag (v :: l.map fun p => m.src.f.value p.1))

/-- The first of gathered units whose destination is poisoned and not covered whole: a partial write that is not performed
(R146). [DEDUCED: notes/assumptions/44.md] -/
def State.partialPoison (s : State) (g : List MoveUnit) : Option Nat :=
  let whole := wholeLines (g.flatMap (·.keys))
  (g.find? fun u => u.keys.any fun k => s.poisoned k && !whole.contains (lineOf k)).map (·.va)

/-- The keys of `n` units' destinations from unit `u` on, none for one that is skipped or does not translate. -/
def State.destKeys (s : State) (e : Via) (m : Move) (u n : Nat) : List (List Nat) :=
  (List.range n).map fun i =>
    match m.at_ (s.tile e.tile) ((u + i) * m.unitElems) with
    | .error _ => []
    | .ok (_, dj) => match s.viaXl e m.dst.loc { w := true } 1 (m.dst.place dj).1 m.unitBytes with
      | .ok ks _ => ks
      | _ => []

/-- No line that the units cover whole is cut behind the first `n` of them. -/
def uncut (l : List (List Nat)) (n : Nat) : Bool :=
  let lines (k : List (List Nat)) : List Nat := linesOf k.flatten
  (wholeLines l.flatten).all fun i => !((lines (l.take n)).contains i && (lines (l.drop n)).contains i)

/-- How many units one event moves of those left of a transfer: as many as a free value says, and those that end a line begun in it, so that
a line the transfer covers is written whole (R146, R338). [DESIGN CHOICE: notes/assumptions/43.md] -/
def chunkLen (l : List (List Nat)) (v : Nat) : Nat :=
  ((List.range (l.length + 1)).find? fun n => decide (v % max 1 l.length < n) && uncut l n).getD l.length

/-- The sources of a move's elements, `n` from element `i` on, can be read now (R244). -/
def State.moveReach (s : State) (e : Via) (m : Move) (i n : Nat) : Bool :=
  s.readsReach e m.src ((List.range n).filterMap fun j =>
    match m.at_ (s.tile e.tile) (i + j) with
    | .ok (sj, _) => some sj
    | .error _ => none)

/-- A transfer performed: bytes put, whole lines cleared of poison, units of poisoned sources written poisoned, bytes counted
and codes reported. [DEDUCED: notes/assumptions/44.md] -/
def State.performMove (s : State) (e : Via) (k : Nat) (c : Cmd) (m : Move) (g : List MoveUnit) : State :=
  let keys := g.flatMap (·.keys)
  let badKeys := (g.filter fun u => u.poison.isSome).flatMap (·.keys)
  let puts := g.flatMap (·.puts)
  let inval := g.findSome? (·.inval)
  let s0 := s.mark true (g.flatMap (·.marks)).eraseDups
  let (s1, before, choice) := s0.putAll e c.before puts c.choice
  let s2 := (wholeLines (keys.filter fun q => decide (q < localKey))).foldl (fun s q => s.setPoison q false) s1
  let s3 := s2.poisonKeys e badKeys
  let good := puts.length
  let bad := badKeys.length
  let lost := (g.filter (·.skipped)).length * m.unitBytes
  let s4 := (if good = 0 then s3 else s3.count c good false 0)
  let s5 := if bad = 0 then s4 else s4.count c bad true 0x16
  let s6 := if lost = 0 then s5 else s5.count c lost true 0x14
  let s7 := (g.filterMap (·.index)).foldl (fun s j => s.tellIssuer c (memInfo (if m.op = 3 then 5 else 4) 0 m.unitBytes) 0x14
    (BitVec.ofNat 64 j)) s6
  let tell16 := decide (bad ≠ 0) && !c.told.contains 0x16
  let s8 := if tell16 then
      s7.tellIssuer c (memInfo 4 0 m.srcBytes) 0x16 (BitVec.ofNat 64 ((g.findSome? (·.poison)).getD 0))
    else s7
  let tell24 := inval.isSome && !c.told.contains 0x24
  let s9 := if tell24 then s8.tellIssuer c m.op 0x24 (BitVec.ofNat 64 (inval.getD 0)) else s8
  let c1 := if lost = 0 then c else c.note 0x14 true
  let c2 := if bad = 0 then c1 else c1.note 0x16 true
  let c3 := if inval.isSome then c2.note 0x24 false else c2
  s9.setCmd k { c3 with
    pos := c.pos + g.length, written := c.written + good, counted := c.counted + g.length * m.unitBytes, moved := c.moved + good + bad
    left := if c.leftAfter (g.length * m.unitBytes) < m.unitBytes then 0 else c.leftAfter (g.length * m.unitBytes)
    before := before, choice := choice, fault := none
    told := (if tell16 then [0x16] else []) ++ (if tell24 then [0x24] else []) ++ c.told }

/-- The tile scale a move reports: a CPY's that converts (R305). -/
def Move.reported (m : Move) (c : Cmd) : Nat :=
  if !m.ext.cv || decide (m.op ≠ 1) then 0 else if c.told.contains 0x24 then 0xFF else c.scale.getD m.ext.scale

/-- A CPY's follow-on read as the command is accepted (R340): refused with code 0x25, the copy standing. -/
def State.startMove (s : State) (k : Nat) (c : Cmd) (g : Region) (t : Tile) (fo : Bool) (m : Move) : State :=
  let c1 := { c with started := true, scale := if m.ext.cv && m.ext.auto then none else some m.ext.scale }
  if !fo then s.setCmd k c1
  else
    let w := t.localCmd m.ext.fcmd
    let isMat := ((g.actor m.ext.fact).map Actor.isMatrix).getD false
    if (opOf w = 5 ∨ opOf w = 6) ∧ isMat then s.setCmd k { c1 with follow := some (w, m.ext.fact) }
    else (s.tellIssuer c (opOf w) 0x25 (BitVec.ofNat 64 m.ext.fact)).setCmd k (c1.note 0x25 false)

/-- The units left of the 4 KiB transfer under way, or of the next (R190). -/
def Move.unitsLeft (m : Move) (c : Cmd) : Nat := min ((if c.left = 0 then 4096 else c.left) / m.unitBytes) (m.units - c.pos)

/-- The units that a move's next event moves, as a free value says. -/
def State.moveChunk (s : State) (e : Via) (m : Move) (c : Cmd) : Nat :=
  chunkLen (s.destKeys e m c.pos (m.unitsLeft c)) (s.free.1).toNat

/-- One turn of a move (R338, R190): its start, the choice of its scale, some units of a transfer of at most 4 KiB, or its end; they are
charged once they can be moved (R193). [DESIGN CHOICE: notes/assumptions/43.md] -/
def State.turnMove (s : State) (die k : Nat) (c : Cmd) (g : Region) (t : Tile) (fo : Bool) (m : Move) : Option State :=
  let e := s.viaOf c die
  if !c.started then some (s.startMove k c g t fo m)
  else
    match c.scale with
    | none =>
      if !s.moveReach e m 0 (m.units * m.unitElems) then none else
      match s.greatest e m c.before (m.units * m.unitElems) 0 .zero with
      | (s1, .ok v) =>
        some (s1.setCmd k { c with scale := some (max 0 (min 254 (scaleFor m.dst.f v))).toNat, fault := none })
      | (s1, .error (.inl (code, d))) => some (s1.failCmd k c m.ext 0 m.total 4 m.srcBytes code d)
      | (s1, .error (.inr va)) => some (s1.pageCmd e k c m.ext 0 m.total 4 m.srcBytes va)
    | some scale =>
      if m.units ≤ c.pos then some (s.finishCmd k c m.ext (m.reported c))
      else
        let n := s.moveChunk e m c
        if !s.moveReach e m (c.pos * m.unitElems) (n * m.unitElems) then none else
        match (s.free.2).gather e m c.before scale n c.pos [] with
        | (s1, .fail kind code d) => some (s1.failCmd k c m.ext (m.reported c) m.total kind (m.sizeOf kind) code d)
        | (s1, .page kind va) => some (s1.pageCmd e k c m.ext (m.reported c) m.total kind (m.sizeOf kind) va)
        | (s1, .done gt) =>
          match s1.partialPoison gt with
          | some va =>
            some ((s1.mark true (gt.flatMap (·.marks)).eraseDups).failCmd k c m.ext (m.reported c) m.total 5 m.unitBytes 0x16 (BitVec.ofNat 64 va))
          | none =>
            (s1.chargeBytes c.region c.moved (gt.flatMap (·.keys)).length).bind fun s2 =>
              s.writeFree e.die (gt.flatMap (·.keys)) (some (s2.performMove e k c m gt))

/-- The command an engine serves, for an event of op `op`: one that the engine does not accept or that does not decode is
refused with code 0x20 (R291, R304). -/
def State.withEngine (s : State) (eng : Engine) (op : Nat) (accepts : Nat → Bool)
    (run : Nat → Cmd → Region → Actor → Tile → CmdHead → Command → Option State) : Option State :=
  match s.engineCmd eng with
  | none => none
  | some (k, c) =>
    match s.region c.region with
    | none => some (s.dropCmd k)
    | some g =>
      match g.actor c.actor with
      | none => some (s.dropCmd k)
      | some x =>
        let t := s.tile x.tile
        let detail : Dw := c.w.extractLsb' 0 64
        if c.bad then some ((s.tellIssuer c (opOf c.w) 0x20 detail).dropCmd k)
        else
          match decodeCommand c.w with
          | none => some (s.refuseCmd k c 0x20 (opOf c.w) detail (s.refusedCount g c.actor c.w) {})
          | some (h, d) =>
            if !accepts (opOf c.w) then some (s.refuseCmd k c 0x20 (opOf c.w) detail (refusedBytes x t d) {})
            else if opOf c.w ≠ op || s.cmdWaits c then none
            else run k c g x t h d

/-- A move refused (R306): 0x23 names the formats. -/
def State.refuseMove (s : State) (k : Nat) (c : Cmd) (x : Actor) (t : Tile) (d : Command) (code : Nat) (sf df : Nat)
    (e : Ext) : State :=
  s.refuseCmd k c code (if code = 0x23 then sf + 256 * df else opOf c.w) (c.w.extractLsb' 0 64) (refusedBytes x t d) e

/-- The ops a copy engine accepts (R288). -/
def copyAccepts (op : Nat) : Bool := decide (1 ≤ op) && decide (op ≤ 3)

/-- A turn of a copy engine on a command of op `op`. -/
def State.copyTurn (s : State) (die n op : Nat) : Option State :=
  s.withEngine (.copy die n) op copyAccepts fun k c g x t _ d =>
    let fo := match d with | .cpy _ fo .. => fo | _ => false
    let ext := match d with | .cpy _ _ _ _ e => extOf t e | .gath _ _ e => extOf t (some e) | .scat _ _ e => extOf t (some e) | _ => {}
    let src := match d with | .cpy _ _ a _ _ => a | .gath a _ _ => a | .scat a _ _ => a | _ => 0
    let dst := match d with | .cpy _ _ _ a _ => a | .gath _ a _ => a | .scat _ a _ => a | _ => 0
    match moveOf x t d with
    | .error code =>
      some (s.refuseMove k c x t d code (tensorAt t src.toNat).1.fmt (tensorAt t dst.toNat).1.fmt ext)
    | .ok m => s.turnMove die k c g t fo m

/-- The region of the command an engine serves. -/
def State.engineRegion (s : State) (e : Engine) : Nat := ((s.engineCmd e).map fun p => p.2.region).getD 0

/-- CPY (R337 to R342). -/
def execCpy (die eng : Nat) (s : State) : Res := occurIn s (s.engineRegion (.copy die eng)) (s.copyTurn die eng 1)

/-- GATH (R362). -/
def execGath (die eng : Nat) (s : State) : Res := occurIn s (s.engineRegion (.copy die eng)) (s.copyTurn die eng 2)

/-- SCAT (R404). -/
def execScat (die eng : Nat) (s : State) : Res := occurIn s (s.engineRegion (.copy die eng)) (s.copyTurn die eng 3)

/-! ### BRED (R323, R324) -/

/-- A reduction: the operation, value and target descriptors and the extension block. -/
structure Reduce where
  op : Nat := 0
  val : Tensor := {}
  tgt : Tensor := {}
  ext : Ext := {}
  deriving DecidableEq, Repr

def Reduce.size (m : Reduce) : Nat := if m.op = 9 then 4 else 8
def Reduce.total (m : Reduce) : Nat := m.val.count * m.size

/-- The shapes, formats and operation agree (R323). -/
def Reduce.ok (m : Reduce) : Bool :=
  let isFloat := m.val.f.float.isSome
  decide (m.op ≤ 10) &&
    (if m.op = 9 then decide (m.tgt.fmt = 0) && (if m.ext.cv then isFloat && m.val.wholeRows else decide (m.val.fmt = 0))
     else decide (m.val.fmt = 1) && decide (m.tgt.fmt = 1)) &&
    m.tgt.unbounded &&
    (if m.ext.lists then decide (m.val.count = m.ext.icnt + 1)
     else decide (m.val.n0 = m.tgt.n0) && decide (m.val.n1 = m.tgt.n1) && decide (m.val.n2 = m.tgt.n2))

/-- How one element of a reduction ends. -/
inductive Reduced where
  | done (keys : List Nat) (s : State)
  | skip (j : Nat)
  | fail (s : State) (kind code : Nat) (detail : Dw)
  | page (s : State) (kind va : Nat)

/-- Element `i` of a reduction: its value read and its target changed at the home bank. -/
def State.reduceOne (s : State) (e : Via) (m : Reduce) (i : Nat) : Reduced :=
  let j := if m.ext.lists then m.ext.index (s.tile e.tile) i else i
  if m.ext.lists && m.ext.badIndex m.tgt.count j then .skip j
  else
    match s.readElems e [] m.val [m.val.split i] with
    | (s1, .fail c d) => .fail s1 4 c d
    | (s1, .page v) => .page s1 4 v
    | (s1, .ok l) =>
      let (va, _) := m.tgt.place (m.tgt.split j)
      if l.any (·.2) then .fail s1 4 0x16 (BitVec.ofNat 64 (m.val.place (m.val.split i)).1)
      else
        let s2 := s1.viaSeen e m.tgt.loc { at_ := true } m.size va m.size
        match s1.viaXl e m.tgt.loc { at_ := true } m.size va m.size with
        | .fail c d => .fail s2 5 c d
        | .page v => .page s1 5 v
        | .ok ks _ =>
          if s1.anyPoison ks then .fail s2 5 0x16 (BitVec.ofNat 64 va)
          else
            let x := (l.map (·.1)).headD 0
            let v := if m.op = 9 ∧ m.ext.cv then (toFormat (m.val.f.value x) .fp32 m.ext.pol m.ext.rnd).getD 0 else x
            let home : Via := { e with sc := 2 }
            let old := BitVec.ofNat 64 (leNat (ks.map (s1.viaByte home)))
            let new := leBytes m.size (bankOp m.op old (BitVec.ofNat 64 v)).toNat
            .done ks ((ks.zip new).foldl (fun s p => s.viaPut e p.1 p.2) s2)

/-- The bytes of a reduction's failing access: of its value, or of its target. -/
def Reduce.sizeOf (m : Reduce) (kind : Nat) : Nat := if kind = 4 then (m.val.width + 7) / 8 else m.size

/-- A turn of a reduction: one element in value order, or its end. Its errors name access kinds 4 and 5 (R306). -/
def State.turnReduce (s : State) (die k : Nat) (c : Cmd) (m : Reduce) : Option State :=
  let e := s.viaOf c die
  if m.val.count ≤ c.pos then some (s.finishCmd k c m.ext 0)
  else
    if !s.readsReach e m.val [m.val.split c.pos] then none else
    let c1 := { c with pos := c.pos + 1, left := c.leftAfter m.size, counted := c.counted + m.size, fault := none }
    match s.reduceOne e m c.pos with
    | .done ks s1 =>
      (s1.chargeBytes c.region c.moved m.size).bind fun s2 =>
        s.writeFree e.die ks (some
          ((s2.count c m.size false 0).setCmd k { c1 with written := c.written + m.size, moved := c.moved + m.size }))
    | .skip j =>
      some (((s.tellIssuer c (memInfo 5 0 m.size) 0x14 (BitVec.ofNat 64 j)).count c m.size true 0x14).setCmd k (c1.note 0x14 true))
    | .fail s1 kind code d => some (s1.failCmd k c m.ext 0 m.total kind (m.sizeOf kind) code d)
    | .page s1 kind va => some (s1.pageCmd e k c m.ext 0 m.total kind (m.sizeOf kind) va)

/-- A turn of a bank engine. -/
def State.bankTurn (s : State) (die : Nat) : Option State :=
  s.withEngine (.bank die) 4 (fun op => decide (op = 4)) fun k c _ x t _ d =>
    match d with
    | .bred op v g e =>
      let extOk := match e with | some a => x.extOk t a.toNat (·.lists) | none => true
      let m : Reduce := { op := op.toNat, val := (tensorAt t v.toNat).1, tgt := (tensorAt t g.toNat).1, ext := extOf t e }
      if !(x.tensorOk t v.toNat && x.tensorOk t g.toNat && extOk) then some (s.refuseMove k c x t d 0x20 0 0 m.ext)
      else if !m.ok then some (s.refuseMove k c x t d 0x21 0 0 m.ext)
      else s.turnReduce die k c m
    | _ => none

/-- BRED (R323, R324). -/
def execBred (die : Nat) (s : State) : Res := occurIn s (s.engineRegion (.bank die)) (s.bankTurn die)

/-! ### RSEND (R401) -/

/-- The sister link can carry a slice's commands (R249, R385). -/
def State.linkServes (s : State) (slice k : Nat) : Bool :=
  let l := s.link k
  l.live && !l.pkg && decide (l.owner = slice)

/-- The bytes of a transfer's units, from unit `u` on and of `g` elements each, with their addresses in the peer's device memory.
-/
def remoteUnits (r : Tensor) (u g : Nat) (ys : List (List Nat)) : List (Nat × Byte) :=
  ys.zipIdx.flatMap fun y =>
    let (va, _) := r.place (r.split ((u + y.2) * g))
    ((leBytes (g * r.width / 8) (elemsNat r.width y.1)).zipIdx).map fun p => (va + p.2, p.1)

/-- A transfer of an RSEND of `n` units: the source read and queued on the link. -/
def State.sendPart (s : State) (e : Via) (k : Nat) (c : Cmd) (m : Move) (link n : Nat) : Option State :=
  let g := m.unitElems
  let js := (List.range (n * g)).map fun i => m.src.split (c.pos * g + i)
  match s.readElems e [] m.src js with
  | (s1, .fail code d) => some (s1.failCmd k c m.ext 0 m.total 4 m.srcBytes code d)
  | (s1, .page va) => some (s1.pageCmd e k c m.ext 0 m.total 4 m.srcBytes va)
  | (s1, .ok l) =>
    if !s.linkServes (((s.region c.region).map (·.slice)).getD 0) link then
      some (s1.failCmd k c m.ext 0 m.total 5 m.unitBytes 0x18 (BitVec.ofNat 64 m.dst.base))
    else if l.any (·.2) then
      let first := ((lfind (·.2) l 0).map (·.1)).getD 0
      some (s1.failCmd k c m.ext 0 m.total 4 m.srcBytes 0x16 (BitVec.ofNat 64 (m.src.place (m.src.split (c.pos * g + first))).1))
    else
      let ys := chunksOf g l.length (l.map (·.1))
      let part : Remote := { region := c.region, actor := c.actor, link := link, w := c.w, barrier := c.slot
                             cells := remoteUnits m.dst c.pos g ys }
      let b := n * m.unitBytes
      (s1.chargeBytes c.region c.moved b).map fun s2 =>
        { s2 with remotes := s2.remotes ++ [part] }.setCmd k
          { c with pos := c.pos + n, left := c.leftAfter b, counted := c.counted + b, moved := c.moved + b, fault := none }

/-- A turn of a link engine. -/
def State.linkTurn (s : State) (die : Nat) : Option State :=
  s.withEngine (.link die) 10 (fun op => decide (op = 10)) fun k c g x t _ d =>
    match d with
    | .rsend l a b e =>
      let extOk := match e with | some y => x.extOk t y.toNat (fun _ => false) | none => true
      let m : Move := { op := 1, src := (tensorAt t a.toNat).1, dst := (tensorAt t b.toNat).1, ext := extOf t e }
      if !(x.tensorOk t a.toNat && x.tensorOk t b.toNat && extOk) then some (s.refuseMove k c x t d 0x20 0 0 m.ext)
      else if m.dst.loc || m.ext.cv || decide (m.src.fmt ≠ m.dst.fmt) || !m.shapes then
        some (s.refuseMove k c x t d 0x21 0 0 m.ext)
      else if !c.started then
        if s.linkServes g.slice l.toNat then some (s.setCmd k { c with started := true, scale := some 127 })
        else some (s.refuseCmd k c 0x26 l.toNat (c.w.extractLsb' 0 64) m.total m.ext)
      else if m.units ≤ c.pos then some (s.finishCmd k c m.ext 0)
      else
        let n := min (256 / m.unitBytes) (m.units - c.pos)
        let es := (List.range (n * m.unitElems)).map fun i => m.src.split (c.pos * m.unitElems + i)
        if !s.readsReach (s.viaOf c die) m.src es then none else
        s.sendPart (s.viaOf c die) k c m l.toNat n
    | _ => none

/-- RSEND (R401). -/
def execRsend (die : Nat) (s : State) : Res := occurIn s (s.engineRegion (.link die)) (s.linkTurn die)

/-- The address at which this model keeps a byte of a sister package's device memory (R130).
[DESIGN CHOICE: notes/assumptions/46.md] -/
def sisterPa (link a : Nat) : Nat := 2 ^ 51 + 2 ^ 48 * link + a

/-- The part that ends the RSEND of a part, if it has been handed off. -/
def Remote.ends (m : Remote) (q : Remote) : Bool :=
  q.comp.isSome && decide (q.link = m.link) && decide (q.region = m.region) && decide (q.actor = m.actor) && decide (q.w = m.w)

/-- A completion amended for bytes the peer did not take. -/
def Completion.lose (c : Completion) (n : Nat) : Completion :=
  { c with bytes := c.bytes - n, status := if dwAt c.status 0 8 = 0 then c.status ||| 0x10018 else c.status ||| 0x10000 }

/-- Bytes of an RSEND fail at the peer with code 0x18: the issuer is told, the barrier settled, and its completion or the
command still at its engine notes it. -/
def State.remoteLost (s : State) (m : Remote) (sub : State → State) : State :=
  let n := m.cells.length
  let s1 := sub (s.errorAt m.region m.actor 0xFF (memInfo 5 0 n) 0x18 (BitVec.ofNat 64 ((m.cells.map (·.1)).headD 0)))
  match lfind m.ends s1.remotes 0 with
  | some (i, q) => { s1 with remotes := lset s1.remotes i { q with comp := q.comp.map fun y => y.lose n } }
  | none =>
    match lfind (fun c => decide (c.region = m.region) && decide (c.actor = m.actor) && decide (c.w = m.w) && c.started) s1.cmds 0 with
    | some (i, c) => s1.setCmd i { c.note 0x18 true with written := c.written + n }
    | none => s1

/-- RSEND_REMOTE_DELIVERY (R401): the first part queued on a link is performed at the peer's home bank, refused by the peer's
window, which only the peer knows, or lost with the link. [DESIGN CHOICE: notes/assumptions/46.md] -/
def State.remoteDelivered (s : State) (k : Nat) : Option State :=
  match s.remotes[k]? with
  | none => none
  | some m =>
    if (s.remotes.take k).any fun q => decide (q.link = m.link) then none
    else
      let s1 := { s with remotes := ldrop s.remotes k }
      match m.comp with
      | some q => some { s1 with comps := s1.comps ++ [q] }
      | none =>
        let sub (failed : Bool) (code : Byte) (s : State) : State := match m.barrier with
          | some b => { s with subs := s.subs ++
              [{ region := m.region, slot := b, bytes := m.cells.length, failed := failed, code := code }] }
          | none => s
        if !(s.link m.link).live || m.cells.any (fun p => decide (2 ^ 40 ≤ p.1)) then some (s1.remoteLost m (sub true 0x18))
        else
          let (v, s2) := s1.free
          if dwBit v 0 then some (s2.remoteLost m (sub true 0x18))
          else some (sub false 0 (m.cells.foldl (fun s p => s.wrByte (sisterPa m.link p.1) p.2) s2))

def execRsendRemoteDelivery (k : Nat) (s : State) : Res :=
  occurIn s ((s.remotes[k]?.map (·.region)).getD 0) (s.remoteDelivered k)

/-! ### What completed commands deliver -/

/-- FOLLOW_ON_DELIVERY (R341): into the actor's queue of four, or recorded once the actor has left RUN. Follow-ons of one
engine's actor keep their order. -/
def State.followDelivered (s : State) (k : Nat) : Option State :=
  match s.follows[k]? with
  | none => none
  | some f =>
    if (s.follows.take k).any fun q => decide (q.region = f.region) && decide (q.actor = f.actor) then none
    else
      let s1 := { s with follows := ldrop s.follows k }
      match s.actor f.region f.actor with
      | none => some s1
      | some x =>
        if x.cut ≠ .run then
          let t : Token := { payload := [f.w.extractLsb' 0 64, f.w.extractLsb' 64 64] }
          some (s1.modActor f.region f.actor fun x =>
            { x with recd := x.recd ++ [{ port := 7, followOn := true, issuer := f.issuer, tok := t }] })
        else if 4 ≤ x.follow.length then none
        else
          some (s1.modActor f.region f.actor fun x =>
            { x with follow := x.follow ++ [{ ahead := (x.port 7).q.length, issuer := f.issuer, by_ := f.by_, w := f.w }] })

def execFollowOnDelivery (k : Nat) (s : State) : Res :=
  occurIn s ((s.follows[k]?.map (·.region)).getD 0) (s.followDelivered k)

/-- COMPLETION_TOKEN (R140), which the narrow plane carries from the engine's die (R161, R242). -/
def execCompletionToken (k : Nat) (s : State) : Res :=
  match s.comps[k]? with
  | none => .next s
  | some c =>
    let reach := match s.region c.region with
      | some g => s.narrowWay c.die g.die
      | none => true
    occurIn s c.region (if !reach then none else
      some ({ s with comps := ldrop s.comps k }.netCall c.region c.actor c.entry (BitVec.ofNat 64 c.bytes) c.status))

/-- How many bytes of those that wait are subtracted at once: bytes are performed one by one, so any number of them (R159).
[DESIGN CHOICE: notes/assumptions/43.md] -/
def State.subLen (s : State) (b : BarSub) : Nat := if b.bytes = 0 then 0 else 1 + (s.free.1).toNat % b.bytes

/-- A subtraction taken from those that wait: the bytes not yet subtracted stay. -/
def State.takeSub (s : State) (k : Nat) (b : BarSub) (n : Nat) : State :=
  { s with subs := if b.bytes ≤ n then ldrop s.subs k else lset s.subs k { b with bytes := b.bytes - n } }

/-- BARRIER_SUBTRACT (R159). -/
def execBarrierSubtract (k : Nat) (s : State) : Res :=
  match s.subs[k]? with
  | none => .next s
  | some b =>
    let n := s.subLen b
    occurIn s b.region (some (((s.free.2).takeSub k b n).barSub b.region b.slot n b.failed b.code))

end Sys2Proof.Machine
end

