-- ==== Sys2Proof/Machine/TokenOps.lean ====
section
/-! DEFINITION. Token instructions: receiving, sending, reserving, forwarding, the port snapshot, headers, and the work
graph's WEMIT and WRSV (R22, R23, R283, R332, R333, R361, R364, R395, R402, R406, R410, R411). In system mode they act on the
interrupted actor, which is the running firing's. -/

namespace Sys2Proof.Machine

/-! ### Receiving (R395) -/

/-- The token that RECV or PEEK reads: the firing's call token in the call form, else the head of the input; a solstice is
not visible. -/
def State.readable (s : State) (p : Port) (call : Bool) : Option Token :=
  let t := if call then (s.firing.bind fun f => f.call) else (s.runActor.bind fun x => x.head p.toNat)
  t.filter fun t => decide (t.kind ≠ 6)

/-- The values RECV and PEEK write: n payload doublewords from `first`, then the sideband with sb; zeros and 0xF000 where
there is no token. -/
def recvValues (t : Option Token) (n first : Nat) (sb : Bool) : List Dw :=
  match t with
  | none => List.replicate n 0 ++ (if sb then [0xF000] else [])
  | some t => (List.range n).map (fun j => t.dw (first + j)) ++ (if sb then [BitVec.ofNat 64 t.sideband] else [])

/-- The first trigger of a port not yet dequeued is marked dequeued (R22). -/
def markTrigger (p : Nat) : List (Nat × Token × Bool) → List (Nat × Token × Bool)
  | [] => []
  | (q, t, gone) :: l => if decide (q = p) && !gone then (q, t, true) :: l else (q, t, gone) :: markTrigger p l

/-- The head of an input of the running actor dequeued (R22, R119); the slot it frees may make another actor a candidate
(R184). -/
def State.dequeue (s : State) (p : Nat) : State :=
  ((s.modActor s.runner.1 s.runner.2 fun x => x.popPort p).modFiring fun f => { f with trig := markTrigger p f.trig }).refresh
    s.runner.1

/-- RECV (R395): the head is dequeued; the call form dequeues nothing. -/
def execRecv (g : Reg) (p : Port) (n : BitVec 3) (c sb : Bool) (f : BitVec 3) (s : State) : Res :=
  let t := s.readable p c
  let s1 := if t.isSome && !c then s.dequeue p.toNat else s
  .next (s1.setCore (s1.core.setRegs g.toNat (recvValues t (n.toNat + 1) f.toNat sb)).step4)

/-- PEEK (R395): as RECV, without dequeuing; what it reads is received (R153). -/
def execPeek (g : Reg) (p : Port) (n : BitVec 3) (c sb : Bool) (f : BitVec 3) (s : State) : Res :=
  let t := s.readable p c
  let s1 := s.modActor s.runner.1 s.runner.2 fun x => x.acquire ((t.map (·.deps)).getD [])
  .next (s1.setCore (s1.core.setRegs g.toNat (recvValues t (n.toNat + 1) f.toNat sb)).step4)

/-! ### Sending (R23, R406) -/

/-- Reservations of the running firing on an output. -/
def State.reserved (s : State) (p : Nat) : Nat := (s.firing.map fun f => sget 0 f.rsv p).getD 0

/-- One reservation on an output used. -/
def State.useReserved (s : State) (p : Nat) : State :=
  let s1 := s.modFiring fun f => { f with rsv := sset 0 f.rsv p (sget 0 f.rsv p - 1) }
  s1.modRegion s.runner.1 fun g =>
    match g.chanOf (.actor s.runner.2 p) with
    | some (ci, c) => g.setChan ci { c with reserved := c.reserved - 1 }
    | none => g

/-- The index of the channel that leaves an output of the running actor (R13). -/
def State.outChan (s : State) (p : Nat) : Nat :=
  chanField ((s.region s.runner.1).bind fun g => g.chanOf (.actor s.runner.2 p))

/-- A send without a reservation: discarded, with code 0x04 (R13, R23). -/
def State.noReservation (s : State) (info ch : Nat) (d : Dw) : State :=
  s.errorAt s.runner.1 s.runner.2 ch info 0x04 d

/-- What a mesh output port does with a token (R196); `pass` on any other port. -/
inductive MeshStep where
  | pass | vertex | prim | vdrop | pdrop | pcull
  deriving DecidableEq, Repr

/-- A data token at the mesh output port of the running firing judged (R196): by the limits and the vertices passed so far; the
reserved identifier and an index beyond those cull a primitive. [DESIGN CHOICE: notes/assumptions/98.md] -/
def State.meshStep (s : State) (p : Nat) (kind : BitVec 4) (payload : List Dw) : MeshStep :=
  match s.runActor.bind (·.mesh), s.firing with
  | some m, some f =>
    if kind ≠ 0 ∨ m.port ≠ p then .pass
    else
      match Sys2Proof.Config.meshIndexes payload with
      | none => if f.verts < m.vmax then .vertex else .vdrop
      | some l =>
        if dwAt (payload.getD 4 0) 32 32 = 0xFFFFFFFF || l.any fun i => decide (f.verts ≤ i) then .pcull
        else if f.prims < m.pmax then .prim else .pdrop
  | _, _ => .pass

/-- A count of the region's, reported in its fault record. -/
def State.countMesh (s : State) (r : Nat) (f : Region → Region) : State := (s.modRegion r f).reportMesh r

/-- A send of the running firing (R23): one reservation and one token, or code 0x04 and the task goes on. A mesh output port counts
what it passes, and what it drops or culls it does not send (R196). -/
def State.sendHere (s : State) (p : Nat) (kind : BitVec 4) (payload : List Dw) : State :=
  if s.reserved p = 0 then s.noReservation p (s.outChan p) (payload.headD 0)
  else
    let s1 := s.useReserved p
    let send (u : State) : State := u.sendOn s.runner.1 s.runner.2 p kind payload
    match s.meshStep p kind payload with
    | .pass => send s1
    | .vertex => send (s1.modFiring fun f => { f with verts := f.verts + 1 })
    | .prim => send (s1.modFiring fun f => { f with prims := f.prims + 1 })
    | .vdrop => s1.countMesh s.runner.1 fun g => { g with vdrop := satInc g.vdrop }
    | .pdrop => s1.countMesh s.runner.1 fun g => { g with pdrop := satInc g.pdrop }
    | .pcull => s1.countMesh s.runner.1 fun g => { g with pcull := satInc g.pcull }

/-- SEND (R406): a data or control token of n registers. -/
def execSend (g : Reg) (p : Port) (n : BitVec 3) (c : Bool) (s : State) : Res :=
  .next (s.sendHere p.toNat (if c then 5 else 0) (s.core.regs g.toNat (n.toNat + 1))).advance

/-- SENDN (R406): a null. -/
def execSendn (p : Port) (s : State) : Res := .next (s.sendHere p.toNat 1 [0]).advance

/-- SENDE (R406): an EOS with the error mark and the stream count, which it resets. -/
def execSende (p : Port) (e : Bool) (s : State) : Res :=
  let n := (s.runActor.map fun x => (x.outp p.toNat).count).getD 0
  .next (s.sendHere p.toNat 2 [packDw [(b2n e, 0), (n.toNat, 32)]]).advance

/-- SENDERR (R406): an error token from two registers, its place fields the issuer's. -/
def execSenderr (g : Reg) (p : Port) (s : State) : Res :=
  let d := s.reg g
  let slot := (s.runActor.map (·.slot)).getD 0
  let place := packDw [(s.runAsid % 16384, 46), (s.outChan p.toNat, 38), (tileX s.focus, 32), (tileY s.focus, 28),
    (slot % 16, 24)]
  let keep : Dw := 0xF000000000FFFFFF
  .next (s.sendHere p.toNat 4 [(d &&& keep) ||| place, s.reg (g + 1)]).advance

/-- HDR (R364): a burst-header token whose payload is gs. -/
def execHdr (g : Reg) (p : Port) (s : State) : Res := .next (s.sendHere p.toNat 3 [s.reg g]).advance

/-- FWD (R361): the head of an input moved to an output unread; nothing for an empty input or a solstice. -/
def execFwd (i p : Port) (s : State) : Res :=
  match s.readable i false with
  | none => .next s.advance
  | some t => .next ((s.dequeue i.toNat).sendHere p.toNat t.kind t.payload).advance

/-- RSV (R402): n slots reserved and 1, or nothing and 0. -/
def execRsv (g : Reg) (p : Port) (n : BitVec 3) (s : State) : Res :=
  let k := n.toNat + 1
  let (r, a) := s.runner
  match s.region r with
  | none => retire s g 0
  | some gr =>
    match gr.chanOf (.actor a p.toNat) with
    | none => retire s g 0
    | some (ci, c) =>
      if k ≤ gr.freeSlots c ∧ s.reserved p.toNat + k ≤ 256 then
        let s1 := s.setRegion r (gr.setChan ci { c with reserved := c.reserved + k })
        let s2 := s1.modFiring fun f => { f with rsv := sset 0 f.rsv p.toNat (sget 0 f.rsv p.toNat + k) }
        retire s2 g 1
      else retire s g 0

/-! ### The port snapshot (R332, R333) -/

/-- CHQ of an input. -/
def State.chqInput (s : State) (p : Nat) : Dw :=
  match s.runActor with
  | none => 0
  | some x =>
    let q := (x.port p).q.filter fun t => decide (t.kind ≠ 6)
    match q.head? with
    | none => packDw [(0xF, 12)]
    | some t =>
      let trig := (s.firing.map fun f => f.trig.any fun u => decide (u.1 = p) && !u.2.2).getD false
      packDw [(b2n trig, 31), (t.payload.length - 1, 28), (t.seq.toNat, 16), (t.kind.toNat, 12), (q.length, 0)]

/-- CHQ of an output. -/
def State.chqOutput (s : State) (p : Nat) : Dw :=
  let (r, a) := s.runner
  let free := ((s.region r).map fun g => g.outFree a p).getD 0
  let seq := (s.runActor.map fun x => (x.outp p).seq.toNat).getD 0
  packDw [(seq, 18), (s.reserved p, 9), (free, 0)]

/-- CHQ of credits and quota. -/
def State.chqQuota (s : State) : Dw :=
  match s.runActor with
  | none => 0
  | some x =>
    packDw ((x.quota - x.quotaUsed, 56) :: (List.range 8).map fun j => ((x.port j).freeCredits, 7 * j))

/-- CHQ (R333): form 0 input, 1 output, 2 credits and quota. -/
def execChq (g : Reg) (p : Port) (f : BitVec 2) (s : State) : Res :=
  retire s g (if f = 0 then s.chqInput p.toNat else if f = 1 then s.chqOutput p.toNat else s.chqQuota)

/-! ### Work graphs (R192, R410, R411) -/

/-- The edge of the running actor's node with a number, and its child node. -/
def State.edgeHere (s : State) (e : BitVec 3) : Option (Nat × WNode) :=
  (s.region s.runner.1).bind fun g =>
    ((g.edgesOf s.runner.2).find? fun d => decide (d.num = e.toNat)).bind fun d =>
      (g.node d.child).map fun n => (d.child, n)

/-- WEMIT (R411): one reserved slot and one record of the child's queue; trap 0x01 for a bad edge or length (R410); code 0x04
with info 8 + N without a slot; the record stands in its slot of the backing store (R191). It releases at the scope that covers both
actors. [DESIGN CHOICE: notes/assumptions/81.md] -/
def execWemit (g : Reg) (e n : BitVec 3) (s : State) : Res :=
  match s.edgeHere e with
  | none => illegal s
  | some (k, w) =>
    if w.size ≠ 8 * (n.toNat + 1) then illegal s
    else
      let data := s.core.regs g.toNat (n.toNat + 1)
      let held := (s.firing.map fun f => sget 0 f.wrsv k).getD 0
      if held = 0 then .next (s.noReservation (8 + e.toNat) 0xFF (data.headD 0)).advance
      else
        let s0 := match s.region s.runner.1 with
          | some gr => s.storeRecord gr w data
          | none => s
        let s1 := s0.modFiring fun f => { f with wrsv := sset 0 f.wrsv k (held - 1) }
        let x := s.runActor.getD {}
        let child := ((s.region s.runner.1).bind fun gr => gr.actor w.actor).getD {}
        let sc := (tileScope x.tile child.tile).toNat
        let rec_ : Flit :=
          { tok := { payload := data }
            after := (s.pendingOf x.tile s.runner.1 s.runner.2 ++ s.carried x).map fun p => { tile := p.1, id := p.2, sc := sc } }
        .next (s1.modRegion s.runner.1 fun gr =>
          gr.setNode k { w with recs := w.recs ++ [rec_], reserved := w.reserved - 1 }).advance

/-- WRSV (R411): n further slots reserved and 1, or nothing and 0. -/
def execWrsv (g : Reg) (e : BitVec 3) (n : BitVec 8) (s : State) : Res :=
  match s.edgeHere e with
  | none => illegal s
  | some (k, w) =>
    let c := n.toNat + 1
    if c ≤ (((s.region s.runner.1).map fun g => g.nodeFree w).getD 0) then
      let s1 := s.modFiring fun f => { f with wrsv := sset 0 f.wrsv k (sget 0 f.wrsv k + c) }
      retire (s1.modRegion s.runner.1 fun gr => gr.setNode k { w with reserved := w.reserved + c }) g 1
    else retire s g 0

end Sys2Proof.Machine
end

