-- ==== Sys2Proof/Machine/System.lean ====
section
/-! DEFINITION. System instructions: control and status registers, k registers, TIME, traps and their return, HALT, power
credits, PRIO, the task and handler limits, and ISSUE (R50, R169, R189, R194, R218 to R221, R325, R344, R349, R363, R365,
R397, R398). -/

namespace Sys2Proof.Machine

/-! ### Registers (R343, R344) -/

/-- CSRR (R344). -/
def execCsrr (g : Reg) (c : BitVec 12) (s : State) : Res :=
  match csrTrap s.core.sys false c.toNat with
  | some t => trapNow s t s.wordHere
  | none => retire s g (s.csrRead c.toNat)

/-- CSRW (R344). -/
def execCsrw (a : Reg) (c : BitVec 12) (s : State) : Res :=
  match csrTrap s.core.sys true c.toNat with
  | some t => trapNow s t s.wordHere
  | none => .next (s.csrWrite c.toNat (s.reg a)).advance

/-- CSRX (R344): the old value to gd and ga to the register, in one step. -/
def execCsrx (g a : Reg) (c : BitVec 12) (s : State) : Res :=
  match csrTrap s.core.sys true c.toNat with
  | some t => trapNow s t s.wordHere
  | none => retire (s.csrWrite c.toNat (s.reg a)) g (s.csrRead c.toNat)

/-- KRD (R47, R344). -/
def execKrd (g : Reg) (k : BitVec 4) (s : State) : Res :=
  retire s g ((s.runActor.map fun x => sget 0 x.k k.toNat).getD 0)

/-- KWR (R47, R344). -/
def execKwr (a : Reg) (k : BitVec 4) (s : State) : Res :=
  .next (s.modActor s.runner.1 s.runner.2 fun x => { x with k := sset 0 x.k k.toNat (s.reg a) }).advance

/-- TIME (R169): EQT and EQE of the tile's die, of one instant. -/
def execTime (g : Reg) (s : State) : Res :=
  let d := s.die (dieOf s.focus)
  .next (s.setCore (s.core.setRegs g.toNat [d.eqt, d.eqe]).step4)

/-! ### Traps (R217 to R222, R325, R349) -/

/-- TRAP (R325): trap 0x09 with the code. -/
def execTrap (c : BitVec 12) (s : State) : Res := trapNow s 9 (c.setWidth 64)

/-- BRK (R325): trap 0x08. -/
def execBrk (s : State) : Res := trapNow s 8 0

/-- ERET (R219, R222, R349): trap 0x02 in graph mode; record 0x53 on a return to graph mode with matrix state saved. -/
def execEret (s : State) : Res :=
  let c := s.core
  if !c.sys then privileged s
  else if !c.tMode && c.mxSaved then .next (s.fatalHere 0x53 0 0)
  else .next (s.setCore c.leave)

/-- HALT (R220, R363): in a handler record 0x54; in graph mode the firing retires as under END and the region starts no
further firing or element step; after a cut of the region has begun it acts as END and the launch ends at the snapshot. -/
def execHalt (s : State) : Res :=
  if s.core.sys then .next (s.fatalHere 0x54 0 0)
  else
    let r := s.runner.1
    let s1 := s.retireRunning true
    .next (s1.modRegion r fun g =>
      if g.cutBy.isSome then { g with haltInCut := true } else { g with halted := true })

/-- TASK_LENGTH_EXCEEDED (R22, R217): trap 0x06, TVAL 4,096. -/
def execTaskLengthExceeded (s : State) : Res := trapNow s 6 4096

/-- HANDLER_LIMIT_EXCEEDED (R218, R225): record 0x59 with the pc and the handler instructions issued. -/
def execHandlerLimitExceeded (s : State) : Res :=
  .next (s.fatalHere 0x59 s.core.pcDw (BitVec.ofNat 64 ((s.firing.map (·.hcount)).getD 0)))

/-! ### Power and class (R189, R194, R397, R398) -/

/-- PWREQ (R194): credits moved from the region's bucket to the firing's grant, or refused. -/
def execPwreq (d a : Reg) (s : State) : Res :=
  let n := (s.reg a).toNat
  let r := s.runner.1
  match s.region r with
  | none => retire s d 0
  | some g =>
    if n ≤ g.credit then
      let s1 := s.setRegion r { g with credit := g.credit - n }
      retire (s1.modFiring fun f => { f with grant := f.grant + n }) d 1
    else retire (s.setRegion r { g with refusals := g.refusals + 1 }) d 0

/-- PWREL (R398): the firing's unused grant returned to the bucket. -/
def execPwrel (s : State) : Res :=
  let n := (s.firing.map (·.grant)).getD 0
  let s1 := s.modRegion s.runner.1 fun g => g.refund n
  .next (s1.modFiring fun f => { f with grant := 0 }).advance

/-- PRIO (R189, R397): the class of future firings, at most the launch's class cap. -/
def execPrio (c : BitVec 2) (s : State) : Res :=
  let (r, a) := s.runner
  let cap := (((s.region r).bind (·.launch)).map (·.ccap)).getD 3
  .next (s.modActor r a fun x => { x with cls := if c.ule cap then c else cap }).advance

/-! ### ISSUE (R221, R284, R365) -/

/-- Matrix use refused in a handler (R221): the first time TSTAT[5] is set and the core continues at TVEC; the second time
the launch ends with record 0x52. [DEDUCED: notes/assumptions/73.md] -/
def State.refuseMatrix (s : State) : State :=
  let c := s.core
  if c.mxRefused then s.fatalHere 0x52 s.wordHere 0
  else s.setCore { c with tstat := c.tstat ||| 0x20, pc := c.tvec }

/-- Matrix use is refused here: system mode, TSTAT[3] set and TSTAT[4] clear. -/
def Core.mxBarred (c : Core) : Bool := c.sys && c.inHandler && !c.mxSaved

/-- The words of a pool entry with the patched ones replaced by registers (R365). -/
def patchedWords (c : Core) (t : Tile) (la : Nat) (m : BitVec 4) (p : BitVec 5) : List Word :=
  (List.range 4).map fun i =>
    if m.getLsbD i then (c.reg (p + BitVec.ofNat 5 i)).setWidth 32 else BitVec.ofNat 32 (t.load (la + 4 * i) 4)

/-- Two words as a doubleword, the first the low half. -/
def wordPair (l : List Word) (i : Nat) : Dw := (l.getD (i + 1) 0) ++ (l.getD i 0)

/-- ISSUE (R365): the patched pool entry sent as two doublewords. -/
def execIssue (o : BitVec 3) (e : BitVec 11) (m : BitVec 4) (p : BitVec 5) (s : State) : Res :=
  let la := 16 * e.toNat
  if !s.localOk la 16 then trapNow s 3 (BitVec.ofNat 64 la)
  else
    let w := patchedWords s.core (s.tile s.focus) la m p
    let op := (w.getD 0 0).toNat / 2 ^ 24
    if s.core.mxBarred && (decide (op = 5) || decide (op = 6) || decide (op = 7)) then .next s.refuseMatrix
    else .next (s.sendHere o.toNat 0 [wordPair w 0, wordPair w 2]).advance

end Sys2Proof.Machine
end

