-- ==== Sys2Proof/Machine/Cut.lean ====
section
/-! DEFINITION. Solstice cuts: how one begins, the states of actors and controllers, recording, the snapshot, and the matrix
state of a handler (R115, R139, R222, R227 to R231, R253, R386, R392, R425). -/

namespace Sys2Proof.Machine

/-! ### Beginning a cut (R227, R386) -/

/-- The number by which a cut's events name a controller. -/
def ctrlId (c : Nat) : Nat := 2 ^ 40 + c

/-- Ports by which a cut's events name a source's extra input and an actor's enable link. -/
def extraPort : Nat := 2 ^ 16
def enablePort : Nat := 2 ^ 16 + 1

/-- An elastic membership change is in progress (R181). -/
def Region.changing (g : Region) : Bool :=
  g.stages.any fun k => match k.2 with
    | some t => t.change.isSome || t.retiring.isSome
    | none => false

/-- An actor is a source: a counter chain, a memory actor that runs its own sequence, or one that no channel, ingress or link port
feeds (R227). -/
def Region.isSource (g : Region) (a : Nat) (x : Actor) : Bool :=
  (match x.body with
    | .counter _ => true
    | .memory m => m.self
    | _ => false) ||
    !((g.chans.any fun c => (c.2.bind Chan.toActor) = some a) || (g.ingress.map (·.1)) = some a)

/-- A save-area fault during a cut, MXSAVE, MXREST or a restore (R222, R230): a cut fails, and the launch ends with a fatal
record 0x58. -/
def State.saveFault (s : State) (r a : Nat) (e : Nat × Dw) : State :=
  let x := (s.actor r a).getD {}
  (s.failCut r).fatalIn r { code := 0x58, tile := x.tile, slot := x.slot, d1 := e.2, d2 := BitVec.ofNat 64 e.1 }

/-- A solstice placed on the receiving half of a link channel, behind the tokens delivered so far (R227, R251). -/
def Region.linkSolstice (g : Region) (c : Chan) : Chan :=
  let exp := match c.dst with
    | .actor a p => ((g.actor a).map fun x => (x.port p).exp).getD 0
    | _ => 0
  let n := match c.wire.getLast? with
    | some f => f.tok.seq + 1
    | none => exp
  { c with wire := c.wire ++ [{ pos := c.path.length - 1, tok := { kind := 6, seq := n, payload := [0] } }] }

/-- The ingress port given its solstice. -/
def Region.ingressSolstice (g : Region) : Region :=
  match g.ingress with
  | some (a, p) => g.modActor a fun x =>
    let q := x.port p
    x.setPort p { q with exp := q.exp + 1, q := q.q ++ [{ kind := 6, seq := q.exp, payload := [0] }] }
  | none => g

/-- Solstices given to the sources, the receiving halves of link channels, the root controller and the ingress port (R227). -/
def Region.giveSolstices (g : Region) : Region :=
  let chan (c : Chan) : Chan := match c.src with
    | .link .. => g.linkSolstice c
    | _ => c
  let g1 : Region :=
    { g with
      actors := smap none (fun a (x : Option Actor) => x.map fun x => { x with srcCut := g.isSource a x }) g.actors
      chans := smap none (fun _ (c : Option Chan) => c.map chan) g.chans
      net := g.net ++ [.sol (.ctrl g.root) 0] }
  g1.ingressSolstice

/-- Sessions that code no frame place their solstice at once; another's follows the frame it is coding (R215). -/
def State.encSolstices (s : State) (r : Nat) : State :=
  let one (g : Region) (c : Chan) : Chan := match c.src with
    | .enc d k => if ((s.die d).session k).coding then c else g.linkSolstice c
    | _ => c
  s.modRegion r fun g => { g with chans := smap none (fun _ (c : Option Chan) => c.map (one g)) g.chans }

/-- A cut begins: heads and sessions start no further frame, deferred gets are withdrawn, every source and the ingress port is
given its solstice, and the header says so; a MARK of the issuer's own region is answered as it begins (R386).
[DEDUCED: notes/assumptions/72.md] -/
def State.beginCut (s : State) (r : Nat) (by_ : CutBy) : State :=
  match s.region r with
  | none => s
  | some g =>
    if g.changing then s.setRegion r { g with cutWait := some by_ }
    else
      let s := match by_ with
        | .own (some (a, p, id)) => s.answer r { actor := a, port := p, id := id } (markReply 3 g.num)
        | _ => s
      let by_ := match by_ with
        | .own _ => .own none
        | b => b
      let s0 := ((s.withdraw r).modRegion r Region.giveSolstices).modRegion r fun g => { g with cutBy := some by_, cutWait := none }
      let s1 := (s0.stopDisplay r g).encSolstices r
      match s1.areaWrite g 4 [1] with
      | .ok s2 => s2
      | .error e => s1.saveFault r 0xFFFFF e

/-- MARK's effect (R386). -/
def State.markRegion (s : State) (v : Dw) (o : Owed) : State :=
  let me := s.runner.1
  let num := dwAt v 0 16
  let r := regionKey s.runSlice num
  let now (s : State) (st : Nat) : State := s.answer me o (markReply st num)
  if dwAt v 16 48 ≠ 0 then now s 5
  else
    match s.region r with
    | none => now s 5
    | some g =>
      if g.launch.isNone then now s 4
      else if g.cutBy.isSome || g.cutWait.isSome then now s 1
      else if r = me then
        let s1 := s.modSlice g.slice fun n => { n with cutstat := BitVec.ofNat 32 (65536 * num + 1) }
        s1.beginCut r (.own (some (o.actor, o.port, o.id)))
      else s.beginCut r (.mark me o.actor o.port o.id)

/-- MARK (R386). -/
def execMark (a : Reg) (p : Port) (s : State) : Res := engineRequest s p 0 fun s1 o => s1.markRegion (s.reg a) o

/-- CUTREQ_WRITE (R227, R253): ignored while CUTSTAT says that a cut is in progress; a region that holds no running launch cannot
be cut, which CUTSTAT shows as failed. [DEDUCED: notes/assumptions/72.md] -/
def State.cutRequest (s : State) (slice : Nat) (v : Word) : State :=
  let n := s.slice slice
  if n.cutstat.toNat % 4 = 1 then s
  else
    let num := v.toNat % 65536
    let r := regionKey slice num
    let set (st : Nat) : State := s.setSlice slice { n with cutreq := v, cutstat := BitVec.ofNat 32 (65536 * num + st) }
    match s.region r with
    | none => set 3
    | some g =>
      if g.launch.isNone then set 3
      else if g.cutBy.isSome || g.cutWait.isSome then set 1
      else (set 1).beginCut r (.host slice)

def execCutreqWrite (slice : Nat) (v : Word) (s : State) : Res :=
  .next (if s.pageAdmits slice then s.cutRequest slice v else s)

/-! ### FINISH (R229) -/

/-- A firing held in a shadow slot is dropped: its triggers stay and its reservations are released. -/
def State.dropShadow (s : State) (r a : Nat) : State :=
  match s.actor r a with
  | none => s
  | some x =>
    let mine (f : Firing) : Bool := decide (f.region = r) && decide (f.actor = a)
    let s1 := ((s.tile x.tile).shadow.filter mine).foldl (fun s f => s.modRegion r fun g => g.retireFiring f false) s
    s1.modTile x.tile fun t => { t with shadow := t.shadow.filter fun f => !mine f }

/-- An actor leaves RUN. -/
def State.enterFinish (s : State) (r a : Nat) : State :=
  match s.actor r a with
  | some x => if x.cut = .run then (s.dropShadow r a).modActor r a fun x => { x with cut := .finish } else s
  | none => s

/-- No group of a matrix actor's operands stands whole. -/
def Actor.groupsDone (x : Actor) : Bool :=
  match runBatch x.batches with
  | none => true
  | some (_, b) => match matCmd b.cmd with
    | none => true
    | some m => b.failed || (b.groupEnd m 16 b.nextK).isNone

/-- Every element that a load memory actor holds waits behind a spilled one: what it has fetched and may send has left, so that its
position is that of the next element it will send but for those (R231, R421). [DESIGN CHOICE: notes/assumptions/106.md] -/
def Tile.heldBehind (t : Tile) (r a : Nat) (m : MemGen) : Bool :=
  m.held.all fun h => (t.spilledOf r a).any fun q => match q.elem with | some p => decide (p < h.pos) | none => false

/-- Nothing of an actor is in progress: its task has ended, its pipeline has drained, its groups are complete, its element
accesses are performed, accepted or spilled, and no element it holds may leave. -/
def State.idle (s : State) (r a : Nat) (x : Actor) : Bool :=
  let t := s.tile x.tile
  x.holdsNone && !s.unitBusy r a &&
    (match x.body with
     | .task => !t.busyWith r a
     | .lane l => t.drained l
     | .matrix _ => x.groupsDone
     | .abacus b => decide (b.outq = [])
     | .memory m => (t.port.all fun q => !(decide (q.region = r) && decide (q.actor = a) && q.elem.isSome) || q.spilled.isSome ||
         (m.store && decide (q.st ≠ .issued))) && t.heldBehind r a m
     | .bank => (s.bankAt x).isNone
     | _ => true)

/-! ### SAVE and FORWARD (R229, R233) -/

/-- An entry's offset and length; a replica's actors have none. [DEDUCED: notes/assumptions/48.md] -/
def Region.entryOf (g : Region) (a : Nat) : Option (Nat × Nat) := if a < g.nact then g.dir[a]? else none

/-- A controller's entry. -/
def Region.ctrlEntry (g : Region) (c : Nat) : Option (Nat × Nat) := g.dir[g.nact + (g.ctrls.findIdx fun p => decide (p.1 = c))]?

/-- An actor's entry written: the fixed part and the tail. -/
def State.writeEntry (s : State) (r : Nat) (g : Region) (a : Nat) (x : Actor) : Except (Nat × Dw) State :=
  match g.entryOf a with
  | none => .ok s
  | some (off, len) =>
    let tail := entryTail len (s.tailOf r g a x)
    let seqs := (List.range 8).map fun p => (x.port p).firstSeq
    s.areaWrite g off (dwsBytes (x.fixedWords g seqs (8 * tail.length) 0 ++ tail))

/-- A solstice on every output, on the error port and on each controller link. -/
def State.forward (s : State) (r a : Nat) : State :=
  match s.region r with
  | none => s
  | some g =>
    let outs := g.chans.filterMap fun c => c.2.bind fun v => match v.src with
      | .actor b p => if b = a then some p else none
      | _ => none
    let s1 := outs.foldl (fun s p => s.sendOn r a p 6 [0]) s
    s1.modRegion r fun g =>
      let g := match g.chanOf (.err a), g.actor a with
        | some (ci, c), some x =>
          match x.errPort with
          | some p =>
            (g.setChan ci (c.put { kind := 6, seq := (x.outp p).seq, payload := [0] } [] 1)).setActor a
              (x.setOut p { x.outp p with seq := (x.outp p).seq + 1 })
          | none => g.setChan ci (c.put { kind := 6, payload := [0] } [] 1)
        | _, _ => g
      match g.parentOf (.actor a) with
      | some (k, _, j) => { g with net := g.net ++ [.sol (.ctrl k) (1 + j)] }
      | none => g

/-- Configuration tokens that an abacus actor took inside its open burst and has not applied, as it hands them back at a cut: in order,
numbered as the tokens before those that stand at i0. -/
def Actor.configTokens (x : Actor) : List Token :=
  match x.abacus with
  | none => []
  | some b => b.config.zipIdx.map fun c =>
      { kind := 5, seq := (x.port 0).firstSeq - BitVec.ofNat 12 (b.config.length - c.2), payload := c.1 }

/-- An abacus actor's state as a cut saves it: no configuration token is held, and the load of one, which stands unapplied, is dropped
(R113, R115). -/
def Actor.dropConfig (x : Actor) : Actor :=
  match x.body with
  | .abacus b =>
    let b1 := { b with config := [], cfgLoad := false }
    { x with body := .abacus (if b.cfgLoad then { b1 with shadow := none, shState := .empty, fault := none } else b1) }
  | _ => x

/-- Calls and follow-on commands that wait as an actor enters RECORD are recorded first, and so are the configuration tokens it hands
back. -/
def Actor.recordWaiting (x : Actor) : Actor :=
  let cfg := x.configTokens
  { x.dropConfig with
    recd := cfg.map (fun t => { tok := t }) ++ x.calls.map (fun t => { control := true, tok := t }) ++
      x.follow.map (fun f => { port := 7, followOn := true, issuer := f.issuer, tok := { payload := [f.w.extractLsb' 0 64, f.w.extractLsb' 64 64] } }) ++ x.recd
    calls := [], follow := []
    inp := smap {} (fun p q => { q with saved := q.firstSeq - BitVec.ofNat 12 (if p = 0 then cfg.length else 0) }) x.inp }

/-! ### RECORD and CUT (R229, R425) -/

/-- The inputs of an actor that a solstice closes: those that a channel or the ingress feeds. -/
def Region.closing (g : Region) (a : Nat) : List Nat :=
  (g.chans.filterMap fun c => c.2.bind fun v => match v.dst with
    | .actor b p => if b = a then some p else none
    | _ => none) ++ (match g.ingress with
      | some (b, p) => if b = a then [p] else []
      | none => [])

/-- Shadow-plane responses that abacus actors of a region owe to a port of an actor (R115). -/
def Region.owedTo (g : Region) (a p : Nat) : Nat :=
  let one (o : Option Owed) : Nat := match o with
    | some o => if o.actor = a ∧ o.port = p then 1 else 0
    | none => 0
  g.actors.foldl (fun n y => match y.2.bind Actor.abacus with
    | some b => n + one b.owedLoad + one b.owedSwap
    | none => n) 0

/-- Every input of an actor in RECORD has delivered its solstice, every work record delivered to it is recorded (R231) and no request of
it is outstanding, the fault-sink input apart. -/
def Region.recorded (g : Region) (a : Nat) (x : Actor) : Bool :=
  decide (x.cut = .record) && (g.nodes.all fun n => ((n.2.map (·.actor)) != some a) || decide ((x.port x.recordPort).q = [])) && ((g.closing a).all fun p => (x.port p).closed) && ((g.parentOf (.actor a)).isNone || x.enClosed) &&
    x.inp.all fun q => q.2.resp.isNone || (decide (q.2.credits ≤ g.owedTo a q.1) && decide (q.2.q = []))

/-- Every link of a controller in RECORD has delivered its solstice. -/
def Ctrl.recorded (c : Ctrl) : Bool :=
  decide (c.cut = .record) && (List.range (c.kids.length + 1)).all fun l => sget false c.closed l

/-- The actors and controllers that may report CUT do so: the fault sink last, with its feed empty (R425). -/
def Region.settleCut (g : Region) : Region :=
  let sink := g.sink.map (·.1)
  let g1 : Region :=
    { g with
      actors := smap none (fun a x => x.map fun x => if sink ≠ some a ∧ g.recorded a x = true then { x with cut := .cut } else x) g.actors
      ctrls := smap none (fun _ c => c.map fun c => if c.recorded then { c with cut := .cut } else c) g.ctrls }
  match g.sink with
  | none => g1
  | some (a, p) =>
    let rest := (g1.actors.all fun y => decide (y.1 = a) || (match y.2 with | some y => decide (y.cut = .cut) | none => true)) &&
      g1.ctrls.all fun c => match c.2 with | some c => decide (c.cut = .cut) | none => true
    g1.modActor a fun x => if rest && g1.recorded a x && decide ((x.port p).q = []) then { x with cut := .cut } else x

/-- The recorded tokens of an actor written to its entry, with the counts of its inputs; its outputs stand there as they were
before their solstices (R233). -/
def State.writeRecorded (s : State) (g : Region) (a : Nat) (x : Actor) : Except (Nat × Dw) State :=
  match g.entryOf a with
  | none => .ok s
  | some (off, _) =>
    match s.areaRead g (off + 0x1C0) 8 with
    | .error e => .error e
    | .ok l =>
      let tail := leNat (l.drop 4)
      let rec_ := x.recd.flatMap Recorded.words
      let seqs := (List.range 8).map fun p => (x.port p).saved
      let fix := x.fixedWords g seqs tail (8 * rec_.length)
      match s.areaWrite g (off + 0x140) (dwsBytes ((fix.drop 40).take 8)) with
      | .error e => .error e
      | .ok s1 =>
        match s1.areaWrite g (off + 0x1C8) (dwsBytes ((fix.drop 57).take 1)) with
        | .error e => .error e
        | .ok s2 => s2.areaWrite g (off + 512 + tail) (dwsBytes rec_)

/-- A controller's entry written. -/
def State.writeCtrl (s : State) (g : Region) (k : Nat) (c : Ctrl) : Except (Nat × Dw) State :=
  match g.ctrlEntry k with
  | none => .ok s
  | some (off, _) =>
    let rec_ := c.recd.flatMap Recorded.linkWords
    s.areaWrite g off (dwsBytes (c.words g (8 * rec_.length) ++ rec_))

/-- A write of an entry, whose fault ends the cut. -/
def State.orFault (s : State) (r a : Nat) (w : Except (Nat × Dw) State) : State :=
  match w with
  | .ok s1 => s1
  | .error e => s.saveFault r a e

/-- A change of a region in a cut: the reports of CUT it brings. -/
def State.settleCut (s : State) (r : Nat) : State := s.modRegion r fun g => if g.cutBy.isSome then g.settleCut else g

/-- The message of a network that a link carries. -/
def NetMsg.onLink (n : Node) (link : Nat) : NetMsg → Bool
  | .enable d _ _ => decide (link = 0) && decide (d = n)
  | .done c j _ => decide (link = 1 + j) && decide (n = .ctrl c)
  | .sol d l => decide (d = n) && decide (l = link)
  | .call .. => false

/-- A control-network token as it is recorded (R35). -/
def NetMsg.token : NetMsg → Token
  | .enable _ f n => { kind := 5, payload := [1, packDw [(f % 2 ^ 32, 0), (n % 65536, 32)]] }
  | .done _ _ i => { kind := 5, payload := [2, packDw [(i % 2 ^ 32, 0)]] }
  | .call _ t => t
  | .sol .. => { kind := 6, payload := [0] }

/-- The oldest message on a link. -/
def Region.linkHead (g : Region) (n : Node) (link : Nat) : Option (Nat × NetMsg) := lfind (NetMsg.onLink n link) g.net 0

/-- A solstice on a controller link taken: the link closes, and a controller in RUN saves and forwards at once. -/
def State.ctrlSolstice (s : State) (r k link : Nat) : Option State :=
  match s.region r with
  | none => none
  | some g =>
    match g.ctrl k, g.linkHead (.ctrl k) link with
    | some c, some (i, .sol ..) =>
      if g.cutBy.isNone || !(if link = 0 then true else s.kidReaches g k (link - 1)) then none
      else
        let c1 := { c with closed := sset false c.closed link true, cut := .record }
        let g1 := { g with net := ldrop g.net i }.setCtrl k c1
        if c.cut ≠ .run then some ((s.setRegion r g1).settleCut r)
        else
          let up := match g.parentOf (.ctrl k) with
            | some (p, _, j) => [NetMsg.sol (.ctrl p) (1 + j)]
            | none => []
          let g2 := { g1 with net := g1.net ++ up ++ c.kids.map fun n => .sol n 0 }
          let s1 := s.setRegion r g2
          some ((s1.orFault r 0xFFFFF (s1.writeCtrl g k c1)).settleCut r)
    | _, _ => none

/-- The tokens of launches that wait on the ingress channel ahead of its solstice, as the ingress actor records them.
[DEDUCED: notes/assumptions/72.md] -/
def launchTokens (p : Nat) (seq : BitVec 12) : List Launch → List Recorded
  | [] => []
  | l :: ls => { port := p, tok := { kind := 7, seq := seq, payload := l.payload } } :: launchTokens p (seq + 1) ls

/-- SOLSTICE_ARRIVAL (R229): a solstice at the head of an input, on an actor's enable link, or given to a source closes that input
and takes an actor in RUN to FINISH. [DEDUCED: notes/assumptions/72.md] -/
def State.solstice (s : State) (r a port : Nat) : Option State :=
  if 2 ^ 40 ≤ a then s.ctrlSolstice r (a - 2 ^ 40) port
  else
    match s.region r with
    | none => none
    | some g =>
      match g.actor a with
      | none => none
      | some x =>
        if g.cutBy.isNone then none
        else if port = extraPort then
          if x.srcCut && decide (x.cut = .run) then some (s.enterFinish r a) else none
        else if port = enablePort then
          match g.linkHead (.actor a) 0 with
          | some (i, .sol ..) =>
            if !s.netReaches g (.actor a) then none else
            some (((s.setRegion r ({ g with net := ldrop g.net i }.modActor a fun x => { x with enClosed := true })).enterFinish r a).settleCut r)
          | _ => none
        else
          match x.head port with
          | none => none
          | some t =>
            if t.kind ≠ 6 || (decide (port = 0) && ((x.abacus.bind x.configNext).isSome)) then none
            else
              let queued := if g.ingress = some (a, port) then launchTokens port t.seq g.ingressQ else []
              let s1 := s.modActor r a fun x =>
                let q := x.port port
                { x.setPort port { q with q := q.q.drop 1, closed := true, exp := t.seq } with recd := x.recd ++ queued }
              some ((s1.enterFinish r a).settleCut r)

def execSolsticeArrival (r a port : Nat) (s : State) : Res := occurIn s r (s.solstice r a port)

/-- ACTOR_SAVE (R229): an actor in FINISH with nothing in progress writes its entry, forwards solstices and goes to RECORD. -/
def State.saveActor (s : State) (r a : Nat) : Option State :=
  match s.region r with
  | none => none
  | some g =>
    match g.actor a with
    | none => none
    | some x =>
      if x.cut ≠ .finish ∨ !s.idle r a x then none
      else
        let y := { x.recordWaiting with cut := .record }
        match s.writeEntry r g a y with
        | .error e => some (s.saveFault r a e)
        | .ok s1 =>
          let s2 := (s1.forward r a).modActor r a fun x => { x.recordWaiting with cut := .record }
          some ((if y.recd = [] then s2 else s2.orFault r a (s2.writeRecorded g a y)).settleCut r)

def execActorSave (r a : Nat) (s : State) : Res := occurIn s r (s.saveActor r a)

/-- RECORD_TOKEN (R229): an actor or controller in RECORD takes the next token of an input that is not closed, or a response, into
its entry. -/
def State.record (s : State) (r a port : Nat) : Option State :=
  match s.region r with
  | none => none
  | some g =>
    let onNet (n : Node) (link : Nat) : Option (Region × Recorded) :=
      match g.linkHead n link with
      | some (_, .sol ..) => none
      | some (i, m) => some ({ g with net := ldrop g.net i }, { port := link, control := true, tok := m.token })
      | none => none
    if 2 ^ 40 ≤ a then
      let k := a - 2 ^ 40
      match g.ctrl k, onNet (.ctrl k) port with
      | some c, some (g1, e) =>
        if c.cut ≠ .record then none
        else
          let c1 := { c with recd := c.recd ++ [e] }
          let s1 := s.setRegion r (g1.setCtrl k c1)
          some ((s1.orFault r 0xFFFFF (s1.writeCtrl g k c1)).settleCut r)
      | _, _ => none
    else
      match g.actor a with
      | none => none
      | some x =>
        if x.cut ≠ .record then none
        else
          let done (s : State) (x : Actor) : State :=
            let s1 := s.modActor r a fun _ => x
            (s1.orFault r a (s1.writeRecorded g a x)).settleCut r
          if port = enablePort then
            match onNet (.actor a) 0 with
            | some (g1, e) => some (done (s.setRegion r g1) { x with recd := x.recd ++ [{ e with port := 0 }] })
            | none => none
          else
            let q := x.port port
            match q.q with
            | [] => none
            | t :: l =>
              if t.kind = 6 ∨ q.closed = true then none
              else
                let y := x.setPort port { q with q := l, credits := if q.resp.isSome then q.credits - 1 else q.credits }
                some (done s { y with recd := y.recd ++ [{ port := port, response := q.resp.isSome, tok := t }] })

def execRecordToken (r a port : Nat) (s : State) : Res := occurIn s r (s.record r a port)

/-! ### The snapshot (R230, R363, R386) -/

/-- Every actor and controller of a region has reported CUT. -/
def Region.allCut (g : Region) : Bool :=
  (g.actors.all fun y => match y.2 with | some y => decide (y.cut = .cut) | none => true) &&
    g.ctrls.all fun c => match c.2 with | some c => decide (c.cut = .cut) | none => true

/-- Every command of a region has completed, its tokens have been recorded and its barrier counters are up to date. -/
def State.commandsRecorded (s : State) (r : Nat) (g : Region) : Bool :=
  s.cmds.all (fun c => decide (c.region ≠ r)) && s.subs.all (fun c => decide (c.region ≠ r)) &&
    s.comps.all (fun c => decide (c.region ≠ r)) && s.follows.all (fun c => decide (c.region ≠ r)) &&
    s.remotes.all (fun c => decide (c.region ≠ r)) && decide (g.net = []) && g.chans.all fun c => match c.2 with
      | some c => match c.dst with
        | .copy .. | .bank _ | .linkEngine _ | .launch => decide (c.wire = []) && decide (c.q = [])
        | _ => true
      | none => true

/-- Every posted store of a region has been performed at package scope, spilled ones apart. -/
def State.storesDone (s : State) (r : Nat) : Bool :=
  s.tiles.all fun t => t.2.port.all fun q => decide (q.region ≠ r) || q.spilled.isSome || q.performed 2

/-- Every entry's recorded tokens, the barrier slots and the header of a complete snapshot written. -/
def State.writeSnapshot (s : State) (g : Region) : Except (Nat × Dw) State :=
  let rs := g.actors.foldl (fun (e : Except (Nat × Dw) State) y => match e, y.2 with
    | .ok s, some y' => s.writeRecorded g y.1 y'
    | e, _ => e) (.ok s)
  let cs := g.ctrls.foldl (fun (e : Except (Nat × Dw) State) c => match e, c.2 with
    | .ok s, some c' => s.writeCtrl g c.1 c'
    | e, _ => e) rs
  match cs with
  | .error e => .error e
  | .ok s1 =>
    match s1.areaWrite g 0x140 (dwsBytes ((List.range 64).flatMap fun b => (g.barrier b).words)) with
    | .error e => .error e
    | .ok s2 =>
      let d := s.die g.die
      s2.areaWrite g 0 (dwsBytes (g.headerWords 2 d.eqt d.eqe))

/-- What the save area has no place for. [DESIGN CHOICE: notes/assumptions/70.md] -/
def State.keep (s : State) (r : Nat) (g : Region) : State :=
  match s.saveXl g.die g.asid g.ctxb.toNat 8 with
  | .error _ => s
  | .ok ps =>
    let pa := ps.1.headD 0
    let lanes := g.actors.flatMap fun y => match y.2 with
      | some x => match x.body with
        | .lane l => l.lanes.map fun j => (y.1, j, (s.tile x.tile).laneSt j)
        | _ => []
      | none => []
    let reps := g.actors.filterMap fun y => if 2 ^ 20 ≤ y.1 then y.2.map fun x => (y.1, x) else none
    let words := reps.flatMap fun y => match y.2.body with
      | .lane l => l.lanes.map fun j => (y.1, j, sget 0 (s.tile y.2.tile).lanes j)
      | _ => []
    let pads := reps.flatMap fun y => y.2.live.map fun p => (y.1, p.1, (s.tile y.2.tile).bytes p.1 p.2)
    let port := s.tiles.flatMap fun t => t.2.port.filterMap fun q =>
      if q.region = r ∧ q.spilled.isSome ∧ q.elem.isNone then some q else none
    let stopped {α : Type} (l : Die → Sparse α) (cut : α → Option Nat) : List (Nat × Nat × α) :=
      s.dies.flatMap fun d => ((l d.2).filter fun e => decide (cut e.2 = some r)).map fun e => (d.1, e.1, e.2)
    let k : Kept :=
      { pa := pa, g := g, lanes := lanes, port := port, words := words, pads := pads
        dies := (List.range 8).filter (s.slice g.slice).hasDie, heads := stopped (·.heads) (·.cut), sess := stopped (·.sess) (·.cut) }
    { s with kept := k :: s.kept.filter fun o => decide (o.pa ≠ pa) }

/-- The port accesses of a region withdrawn: its spilled ones are saved. -/
def State.dropPorts (s : State) (r : Nat) : State :=
  { s with tiles := smap {} (fun _ t => { t with port := t.port.filter fun q => decide (q.region ≠ r) }) s.tiles }

/-- SNAPSHOT_COMPLETE (R230): the header gets state 2, the requester its answer, and the front end frees the region, whose launch
waits to resume; after a HALT in the cut the launch ends instead, and a pinned graph stays placed (R363). -/
def State.snapshot (s : State) (r : Nat) : Option State :=
  match s.region r with
  | none => none
  | some g0 =>
    if g0.cutBy.isNone || !s.displayDone r || !g0.allCut || !s.commandsRecorded r g0 || !s.storesDone r then none
    else
      let g := { g0 with cuts := g0.cuts + 1 }
      match s.writeSnapshot g with
      | .error e => some (s.saveFault r 0xFFFFF e)
      | .ok s1 =>
        let s2 := (s1.setRegion r { g with cutBy := none }).cutOver g true
        if g.haltInCut then
          let s3 := ((s2.resumeDisplay r).dropPorts r).endLaunch r true
          some (if g.pinned || decide (g.ingressQ ≠ []) then s3 else s3.unplace r)
        else
          let s3 := ((s2.keep r { g with cutBy := none }).dropPorts r).unplace r
          match g.launch with
          | none => some s3
          | some l => some (s3.modSlice g.slice fun n =>
              { n with waiting := n.waiting ++ [{ launch := l, saved := some (g.ctxb, g.num), stamp := l.order }] })

def execSnapshotComplete (r : Nat) (s : State) : Res := occurIn s r (s.snapshot r)

/-! ### Matrix state in a handler (R222, R392) -/

/-- The batches of a region that an actor issued and MXSAVE has not put aside, or has. -/
def Region.batchesOf (g : Region) (a : Nat) (held : Bool) : List Batch :=
  g.actors.flatMap fun y => match y.2 with
    | some x => x.batches.filter fun b => decide (b.issuer = a) && decide (b.held = held)
    | none => []

/-- Where an actor's accumulator area begins in its region's save area. -/
def Region.accOffset (g : Region) (a : Nat) (x : Actor) : Nat :=
  ((g.dir[baseKey a]?).map (·.1)).getD 0 + 512 + (match x.body with | .task => x.live.foldl (fun n p => n + up8 p.2) 0 | _ => 0)

/-- The batches of an issuer changed. -/
def State.modIssued (s : State) (r a : Nat) (f : Batch → Batch) : State :=
  let one (x : Actor) : Actor := match x.body with
    | .matrix l => { x with body := .matrix (l.map fun b => if b.issuer = a then f b else b) }
    | _ => x
  s.modRegion r fun g => { g with actors := smap none (fun _ (x : Option Actor) => x.map one) g.actors }

/-- MXSAVE (R222, R392). -/
def execMxsave (s : State) : Res :=
  let c := s.core
  if !c.sys then privileged s
  else if c.mxSaved then .next s.advance
  else
    let (r, a) := s.runner
    let saved (s : State) : State := (s.setCore { s.core with tstat := s.core.tstat ||| 0x10 }).advance
    match s.region r, s.actor r a with
    | some g, some x =>
      let bs := g.batchesOf a false
      if x.acc = 0 ∧ bs = [] then .next (saved s)
      else
        match s.areaWrite g (g.accOffset a x) (dwsBytes (accArea (s.tile x.tile) x.acc bs)) with
        | .error e => .next (s.fatalHere 0x58 e.2 (BitVec.ofNat 64 e.1))
        | .ok s1 => .next (saved (s1.modIssued r a fun b => { b with held := true }))
    | _, _ => .next (saved s)

/-- Commands of an actor still on their way to matrix actors, follow-ons at their command inputs (R341), or batches taken and not
put aside. -/
def Region.matrixBusy (g : Region) (a : Nat) : Bool :=
  decide (g.batchesOf a false ≠ []) ||
  (g.actors.any fun e => match e.2 with
    | some x => x.isMatrix && x.follow.any fun f => decide (f.issuer = a)
    | none => false) ||
  g.chans.any fun c => match c.2 with
    | some c => decide (c.fromActor = some a) && (match c.dst with
      | .actor b 7 => decide (c.wire ≠ []) || ((g.actor b).map fun x => decide ((x.port 7).q ≠ [])).getD false
      | _ => false)
    | none => false

/-- MXREST (R222, R392): it waits, without counting against a limit, for the command input to be idle.
[DEDUCED: notes/assumptions/73.md] -/
def execMxrest (s : State) : Res :=
  let c := s.core
  if !c.sys then privileged s
  else if !c.mxSaved then .next s.refuseMatrix
  else
    let (r, a) := s.runner
    let clear (s : State) : State := (s.setCore { s.core with tstat := s.core.tstat &&& 0x2F }).advance
    match s.region r, s.actor r a with
    | some g, some x =>
      if g.matrixBusy a || s.follows.any (fun f => decide (f.region = r) && decide (f.issuer = a) &&
          ((g.actor f.actor).map (·.isMatrix)).getD false) then
        .next (s.modFiring fun f => { f with hcount := f.hcount - 1 })
      else
        let bs := g.batchesOf a true
        if x.acc = 0 ∧ bs = [] then .next (clear s)
        else
          let size := 16384 * (accList x.acc).length + 64 * bs.length
          match s.areaRead g (g.accOffset a x) size with
          | .error e => .next (s.fatalHere 0x58 e.2 (BitVec.ofNat 64 e.1))
          | .ok bytes =>
            let ds := bytesDws (8 * bs.length) (bytes.drop (16384 * (accList x.acc).length))
            let staged := (List.range bs.length).foldl (fun n i =>
              n + (dwAt (ds.getD (8 * i + 5) 0) 0 32 + 7) / 8 + (dwAt (ds.getD (8 * i + 5) 0) 32 32 + 7) / 8) 0
            match s.areaRead g (g.accOffset a x + size) (8 * staged) with
            | .error e => .next (s.fatalHere 0x58 e.2 (BitVec.ofNat 64 e.1))
            | .ok st =>
              let new := readBatches bs ds bs.length (bytesDws staged st)
              let s1 := s.modTile x.tile fun t => t.loadAcc x.acc bytes
              let s2 := s1.modIssued r a fun b =>
                if b.held then
                  let i := bs.findIdx fun o => decide (o = b)
                  { (new[i]?).getD b with held := false, issuer := b.issuer }
                else b
              .next (clear s2)
    | _, _ => .next (clear s)

end Sys2Proof.Machine
end

