-- ==== Sys2Proof/Machine/Restore.lean ====
section
/-! DEFINITION. Restoring a region from its save area, and the completion of every load (R115, R231 to R234, R329 to R331,
R428). -/

namespace Sys2Proof.Machine

/-! ### The header (R232, R234) -/

/-- A save area in state 2. -/
def headerOk (d : List Dw) : Bool :=
  decide (dwAt (d.getD 0 0) 48 16 = 0xC7B0) && decide (dwAt (d.getD 0 0) 40 8 = 1) && decide (dwAt (d.getD 0 0) 32 8 = 2)

/-- The launch that a header describes; `was` gives what the header has no place for, if it is the same launch. -/
def headerLaunch (d : List Dw) (was : Option Launch) : Launch :=
  let w := d.getD 3 0
  let v := d.getD 2 0
  let z := d.getD 10 0
  let idx := dwAt w 32 32
  let mine : Launch :=
    { src := if dwBit w 22 then .fabric idx none else .queue (dwAt w 16 6) idx
      asid := dwAt v 20 14, prio := dwAt v 34 8, ccap := v.extractLsb' 42 2, strict := dwBit z 17, sysc := dwBit z 16
      pin := dwBit z 18, irq := dwBit z 19, quantum := dwAt z 0 16, tag := w.extractLsb' 0 16, image := d.getD 1 0
      arg := d.getD 4 0, imm := d.getD 5 0, taken := d.getD 6 0 }
  match was with
  | some l => if l.word = w ∧ l.image = mine.image then l else mine
  | none => mine

/-- What was kept of the region whose snapshot stands at an address, if the header is still that snapshot's.
[DESIGN CHOICE: notes/assumptions/70.md] -/
def State.keptFor (s : State) (die asid : Nat) (va : Dw) (d : List Dw) : Option Kept :=
  match s.saveXl die asid va.toNat 8 with
  | .error _ => none
  | .ok ps =>
    let pa := ps.1.headD 0
    match s.kept.find? fun k => decide (k.pa = pa) with
    | none => none
    | some k => if k.g.headerWords 2 (d.getD 7 0) (d.getD 8 0) = d then some k else none

/-- Why a restore cannot proceed: a reason of record 0x57 with its actor, or a save-area fault, record 0x58. -/
inductive RestErr where
  | refused (reason actor : Nat)
  | fault (code : Nat) (va : Dw)
  /-- It waits for a page that an abacus actor's reload found absent (R111): its region, tile, slot and number, and the address. -/
  | page (region tile slot actor va : Nat)
  deriving DecidableEq, Repr

/-! ### Actors read back (R233, R428) -/

/-- A window's bound as its saved field gives it back: one of the image's record that agrees with its 18 bits is that bound, so that
0x40000, which R43 allows, comes back whole. [DESIGN CHOICE: notes/assumptions/103.md] -/
def winBack (old v : Nat) : Nat := if old % 2 ^ 18 = v then old else v

/-- The fixed part of an entry laid over an actor; its inputs are empty and expect their saved numbers. -/
def Actor.readFixed (x : Actor) (sinkPort : Option Nat) (d : List Dw) : Actor :=
  let w (i : Nat) : Dw := d.getD i 0
  let inp (p : Nat) : InPort :=
    let v := w (40 + p)
    let q := x.port p
    { q with
      q := [], exp := v.extractLsb' 0 12, sinkDone := q.sink && dwBit v 12, closed := false, saved := 0
      credits := dwAt v 32 16, drop := (w 58).getLsbD p, fed := q.fed || decide (sinkPort = some p) }
  let out (p : Nat) : OutPort :=
    let v := w (48 + p)
    { x.outp p with seq := v.extractLsb' 0 12, count := v.extractLsb' 32 32 }
  { x with
    cls := (w 0).extractLsb' 4 2
    rules := x.rules.zipIdx.map fun u =>
      let v := w (1 + u.2)
      { inMask := v.extractLsb' 0 8, outMask := v.extractLsb' 8 8, entry := v.extractLsb' 16 4 }
    fctl := (w 5).extractLsb' 0 4, fflags := (w 5).extractLsb' 8 5, acc := (w 5).extractLsb' 16 4
    codeB := winBack x.codeB (dwAt (w 6) 0 18), codeL := winBack x.codeL (dwAt (w 6) 32 18)
    locB := winBack x.locB (dwAt (w 7) 0 18), locL := winBack x.locL (dwAt (w 7) 32 18)
    htab := sparseOf 0 ((List.range 16).map fun j => w (8 + j)), k := sparseOf 0 ((List.range 16).map fun j => w (24 + j))
    inp := (List.range 8).foldl (fun m p => sset {} m p (inp p))
      (smap {} (fun _ (q : InPort) => { q with q := [], closed := false, saved := 0 }) x.inp)
    out := (List.range 8).foldl (fun m p => sset {} m p (out p)) x.out
    cut := .run, recd := [], srcCut := false, enClosed := false, cand := none }

/-- The expected kind of an entry and its ASID agree with the image and the header. -/
def entryOk (x : Actor) (asid : Nat) (d : List Dw) : Bool :=
  decide (dwAt (d.getD 0 0) 0 4 = x.kindCode) && decide (dwAt (d.getD 0 0) 24 14 = asid)

/-- A memory actor's spill entries and held elements. -/
def readSpills (m : MemGen) (r a asid id : Nat) : Nat → List Dw → List Access × List Dw
  | 0, d => ([], d)
  | n + 1, d =>
    let size := dwAt (d.getD 3 0) 8 6 + 1
    let words := if m.store then (size + 7) / 8 else 0
    let one : Access :=
      { id := id, region := r, actor := a, asid := asid
        kind := if m.store then .write size else .read size (decide (8 ≤ m.size)), va := d.getD 1 0
        data := if m.store then (dwsBytes ((d.drop 4).take words)).take size else [], sc := m.sc
        elem := some (dwAt (d.getD 0 0) 0 64), spilled := some (d.getD 2 0) }
    let (l, rest) := readSpills m r a asid (id + 1) n (d.drop (4 + words))
    (one :: l, rest)

def readHeld (m : MemGen) : Nat → List Dw → List HeldElem
  | 0, _ => []
  | n + 1, d =>
    let words := (m.bytes + 7) / 8
    { pos := dwAt (d.getD 0 0) 0 32, tok := { payload := (d.drop 1).take words } } :: readHeld m n (d.drop (1 + words))

/-- A generator with its position; a load that runs its own sequence is enabled while a pass is in progress.
[DESIGN CHOICE: notes/assumptions/106.md] -/
def MemGen.reload (m : MemGen) (d : List Dw) : MemGen :=
  let pass := dwBit (d.getD 4 0) 32
  { m with
    pos := if m.indexed then (d.getD 0 0).toNat else genPos m.counts ((d.take 4).map BitVec.toNat)
    pass := pass, enabled := if m.self then pass else m.enabled }

/-- A counter chain from its tail. -/
def Counter.reload (c : Counter) (d : List Dw) : Counter :=
  { c with
    enabled := dwBit (d.getD 4 0) 0, eosSent := dwBit (d.getD 4 0) 1, first := dwAt (d.getD 5 0) 0 32, span := dwAt (d.getD 5 0) 32 16
    emitted := dwAt (d.getD 6 0) 0 32 }

/-- The sticky beads that a tail's flags name. -/
def readSticky (frames : Nat) (d : List Dw) : List (Nat × Nat) :=
  (List.range frames).flatMap fun f => (List.range 2048).filterMap fun b =>
    if (d.getD (32 * f + b / 64) 0).getLsbD (b % 64) then some (f, b) else none

/-- A plane reloaded from its image address at the new origin (R115): any refusal is the restore's, and a page fault delays it. -/
def State.reloadPlane (s : State) (r a : Nat) (va : Dw) : Except RestErr (State × Plane) :=
  match s.region r, s.actor r a with
  | some g, some x => match s.loadImage r a g x va.toNat with
    | (s1, .loaded p) => .ok (s1, p)
    | (_, .page v) => .error (.page r x.tile x.slot a v)
    | (_, .refused ..) => .error (.refused 1 a)
  | _, _ => .error (.refused 1 a)

/-- An abacus actor from its tail: the planes reloaded, a load recorded as loading left to be made again. -/
def State.reloadAbacus (s : State) (r a : Nat) (d : List Dw) : Except RestErr State :=
  let v := d.getD 0 0
  let act := dwAt v 0 4
  let sh := dwAt v 4 4
  let was : Abacus := ((s.actor r a).bind Actor.abacus).getD {}
  let owed (flag : Bool) (w : Dw) (k : Option Owed) : Option Owed :=
    if flag then some { actor := dwAt w 0 20, port := dwAt w 20 3, id := (k.map (·.id)).getD 0 } else none
  let base : Abacus :=
    { was with
      active := none, shadow := none, shState := .empty
      owedLoad := owed (dwBit v 19) (d.getD 4 0) was.owedLoad, owedSwap := owed (dwBit v 20) (d.getD 5 0) was.owedSwap
      part := if dwBit v 9 then (List.range (dwAt v 10 9)).map fun i => ((d.drop (8 + 8 * i)).take 8) else [], fault := none }
  let s0 := (s.modAbacus r a fun _ => base).modActor r a fun x =>
    let q := x.port 0
    if dwBit v 9 && decide (q.left = 0) then
      x.setPort 0 { q with hdr := some (d.getD 3 0), seen := dwAt v 10 9, left := hdrLen (d.getD 3 0) - dwAt v 10 9 }
    else x
  let first : Except RestErr (State × Option Plane) :=
    if act = 0 then .ok (s0, none) else (s0.reloadPlane r a (d.getD 1 0)).map fun p => (p.1, some p.2)
  match first with
  | .error e => .error e
  | .ok (sa, pa) =>
    let s1 := sa.modAbacus r a fun b => { b with active := pa }
    let second : Except RestErr (State × Option Plane × ShadowState) :=
      if sh = 0 then .ok (s1, none, .empty)
      else if sh = 1 then .ok (s1, some { va := d.getD 2 0 }, .loading)
      else if dwBit v 8 && decide (d.getD 2 0 = 0) then .ok (s1, none, .swapPending)
      else (s1.reloadPlane r a (d.getD 2 0)).map fun p => (p.1, some p.2, if dwBit v 8 then .swapPending else .loaded)
    match second with
    | .error e => .error e
    | .ok (sb, ps, st) =>
      let fa := (pa.map fun p => p.reck.frames.length).getD 0
      let flags := d.drop 520
      .ok (sb.modAbacus r a fun b =>
        { b with
          active := pa.map fun p => { p with sticky := readSticky fa flags }
          shadow := ps.map fun p => { p with sticky := readSticky p.reck.frames.length (flags.drop (32 * fa)) }
          shState := st })

/-- The accumulator area read back into a tile and an actor's open batches, the command in the middle of an ACCRD among them (R311); `d`
is the area. The issuer of a batch of which nothing was kept is the sender on the command input (R304). -/
def State.reloadAcc (s : State) (r a : Nat) (x : Actor) (d : List Dw) : State :=
  let n := 2048 * (accList x.acc).length
  let s1 := s.modTile x.tile fun t => t.loadAcc x.acc (dwsBytes (d.take n))
  match x.body with
  | .matrix l =>
    let issuer := ((s.region r).map fun g => g.issuerOn a 7).getD 0
    let live := l.filter fun b => !b.failed
    let k := batchCount (d.drop n) 64 0 0
    let was := if live.length = k then live else List.replicate k { issuer := issuer }
    let new := readBatches was (d.drop n) k (d.drop (n + 8 * k))
    s1.modActor r a fun y => { y with body := .matrix (new ++ l.filter (·.failed)) }
  | _ => s1

/-- The tail of a lane actor read back: its lanes' words, state and delay buffers and its parameters. -/
def State.reloadLanes (s : State) (r a : Nat) (g : Region) (x : Actor) (l : LaneSeg) (p0 pn : Nat) (kept : List (Nat × Nat × LaneSt))
    (d : List Dw) : State :=
  let word (i : Nat) : Word := (d.getD (i / 2) 0).extractLsb' (32 * (i % 2)) 32
  let s1 := s.modTile x.tile fun t =>
    let t : Tile :=
      { t with
        lanes := l.lanes.foldl (fun m j => sset 0 m j (word j)) t.lanes
        params := (List.range pn).foldl (fun m i => sset 0 m (p0 + i) (word (16 + p0 + i))) t.params
        lane := l.lanes.foldl (fun m j =>
          sset {} m j (((kept.find? fun e => decide (e.1 = a) && decide (e.2.1 = j)).map (·.2.2)).getD {})) t.lane }
    let t : Tile := { t with lane := l.lanes.foldl (fun m j => sset {} m j (readLaneState g a t l j ((d.drop (520 + 8 * j)).take 8))) t.lane }
    ((delayBuffers t l).foldl (fun (u : Tile × List Dw) p =>
      (u.1.setBytes p.1 (dwsBytes (u.2.take (p.2 / 8))), u.2.drop (p.2 / 8))) (t, d.drop 656)).1
  let hdr := ((List.range 4).find? fun j => dwBit (d.getD (649 + 2 * j) 0) 0).map fun j => d.getD (648 + 2 * j) 0
  s1.modActor r a fun x =>
    let p := if (x.port 0).fed then 0 else 1
    let q := x.port p
    x.setPort p (if q.hdr = none then { q with hdr := hdr } else q)

/-- An actor's tail read back. -/
def State.readTail (s : State) (r a : Nat) (m : Img) (k : Option Kept) (d : List Dw) : Except RestErr State :=
  match s.region r, s.actor r a with
  | some g, some x =>
    match x.body with
    | .task =>
      let s1 := (x.live.foldl (fun (u : State × List Dw) p =>
        (u.1.modTile x.tile fun t => t.setBytes p.1 ((dwsBytes (u.2.take ((p.2 + 7) / 8))).take p.2), u.2.drop ((p.2 + 7) / 8))) (s, d))
      .ok (s1.1.reloadAcc r a x s1.2)
    | .lane l =>
      let (_, _, _, p0, ps) := m.lanesOf (m.actor a)
      .ok (s.reloadLanes r a g x l p0 ps.length ((k.map (·.lanes)).getD []) d)
    | .matrix _ => .ok (s.reloadAcc r a x d)
    | .abacus _ => s.reloadAbacus r a d
    | .memory v =>
      let (sp, rest) := readSpills v r a g.asid s.nextId (dwAt (d.getD 4 0) 0 16) (d.drop 8)
      let v1 := { v.reload d with held := readHeld v (dwAt (d.getD 4 0) 16 16) rest }
      let s1 : State := { s with nextId := s.nextId + sp.length }
      .ok ((s1.modTile x.tile fun t => { t with port := t.port ++ sp }).modActor r a fun x => { x with body := .memory v1 })
    | .bank | .lent => .ok s
    | .counter c => .ok (s.modActor r a fun x => { x with body := .counter (c.reload d) })
    | .merge arr mask _ e =>
      .ok (s.modActor r a fun x => { x with body := .merge arr mask (if arr then (d.getD 0 0).extractLsb' 0 8 else 0) e })
  | _, _ => .ok s

/-! ### Recorded tokens replayed (R26, R341, R426) -/

/-- The message of a control-network token recorded at a node. -/
def replayNet (n : Node) (q : Recorded) : Option NetMsg :=
  match q.tok.subtype with
  | 1 => some (.enable n (dwAt (q.tok.dw 1) 0 32) (dwAt (q.tok.dw 1) 32 16))
  | 2 => match n with
    | .ctrl k => some (.done k (q.port - 1) (dwAt (q.tok.dw 1) 0 32))
    | .actor _ => none
  | _ => none

/-- One recorded token given back to its actor; `now` is doubleword 0 of the launch under way, and launch tokens of later
launches go back to the ingress channel. -/
def Region.replay (g : Region) (a : Nat) (now : Dw) (queued : List Launch) (q : Recorded) : Region :=
  if q.followOn then
    g.modActor a fun x => { x with follow := x.follow ++ [{ issuer := q.issuer, w := q.tok.dw 1 ++ q.tok.dw 0 }] }
  else if q.control then
    match replayNet (.actor a) q with
    | some m => { g with net := g.net ++ [m] }
    | none => g.modActor a fun x => { x with calls := x.calls ++ [q.tok] }
  else if q.tok.kind = 7 ∧ g.ingress = some (a, q.port) ∧ q.tok.dw 0 ≠ now then
    let d := [0, g.image, packDw [(g.asid % 16384, 20)], q.tok.dw 0, q.tok.dw 1, q.tok.dw 2, q.tok.dw 3]
    { g with ingressQ := g.ingressQ ++ [headerLaunch d (queued.find? fun l => decide (l.word = q.tok.dw 0))] }
  else
    g.modActor a fun x =>
      let i := x.port q.port
      x.setPort q.port
        { i with
          q := i.q ++ [q.tok], exp := if q.response then i.exp else q.tok.seq + 1, credits := if q.response then i.credits + 1 else i.credits }

/-- A controller's recorded tokens back on its links. -/
def Region.replayCtrl (g : Region) (k : Nat) (q : Recorded) : Region :=
  match replayNet (.ctrl k) q with
  | some m => { g with net := g.net ++ [m] }
  | none => g

/-! ### The region (R234) -/

/-- An actor of a region that was cut as it stood at its save point: its inputs expect their saved numbers, and its outputs stand before
their solstices (R229, R233). [DESIGN CHOICE: notes/assumptions/70.md] -/
def Region.uncut (w : Region) (a : Nat) (x : Actor) : Actor :=
  let y := { x with inp := smap {} (fun _ q => { q with q := [], exp := q.saved, closed := false, saved := 0 }) x.inp }
  let back (y : Actor) (p : Nat) : Actor := y.setOut p { y.outp p with seq := (y.outp p).seq - 1 }
  w.chans.foldl (fun y c => match c.2 with
    | some v => match v.src with
      | .actor b p => if b = a then back y p else y
      | .err b => match (if b = a then y.errPort else none) with
        | some p => back y p
        | none => y
      | _ => y
    | none => y) y

/-- An actor of a placed region as the cut left it, where that is kept, in its new place. -/
def Actor.asKept (fresh : Actor) (k : Option Actor) : Actor :=
  match k with
  | none => fresh
  | some x => { x with tile := fresh.tile, slot := fresh.slot, cut := .run, recd := [], srcCut := false, enClosed := false, cand := none }

/-- Channel state that a save area has no place for, in its new place. -/
def Chan.asKept (fresh : Chan) (k : Option Chan) : Chan :=
  match k with
  | none => { fresh with wire := [] }
  | some c => { fresh with wire := [], zpos := c.zpos, zcount := c.zcount, zseq := c.zseq, zbad := c.zbad }

/-- One actor restored from its entry: the fixed part, the tail and the recorded tokens. -/
def State.restoreActor (s : State) (r a : Nat) (l : Load) (m : Img) (k : Option Kept) (now : Dw) (asid : Nat) :
    Except RestErr State :=
  match s.region r, s.actor r a with
  | some g, some x =>
    match g.entryOf a with
    | none => .ok s
    | some (off, len) =>
      match s.saveRead (s.slice l.slice).firstDie l.asid (l.va.toNat + off) len with
      | .error e => .error (.fault e.1 e.2)
      | .ok bytes =>
        let d := bytesDws (len / 8) bytes
        if !entryOk x asid d then .error (.refused 2 a)
        else
          let was := k.bind fun k => (k.g.actor a).map (k.g.uncut a)
          let sinkPort := match g.sink with | some (b, p) => if b = a then some p else none | none => none
          let s1 := s.modActor r a fun _ => (x.asKept was).readFixed sinkPort d
          let to_ := dwAt (d.getD 56 0) 0 32 / 8
          let tl := dwAt (d.getD 56 0) 32 32 / 8
          let ro := dwAt (d.getD 57 0) 0 32 / 8
          let rl := dwAt (d.getD 57 0) 32 32 / 8
          match s1.readTail r a m k ((d.drop to_).take tl) with
          | .error e => .error e
          | .ok s2 =>
            let words := (d.drop ro).take rl
            let kd := ((was.map (·.recd)).getD [])
            let rs := if kd.flatMap Recorded.words = words then kd else readRecorded false rl words
            let queued := (k.map (·.g.ingressQ)).getD []
            .ok (s2.modRegion r fun g => rs.foldl (fun g q => g.replay a now queued q) g)
  | _, _ => .ok s

/-- One controller restored from its entry. -/
def State.restoreCtrl (s : State) (r c : Nat) (l : Load) : Except RestErr State :=
  match s.region r with
  | none => .ok s
  | some g =>
    match g.ctrlEntry c, g.ctrl c with
    | some (off, len), some y =>
      match s.saveRead (s.slice l.slice).firstDie l.asid (l.va.toNat + off) len with
      | .error e => .error (.fault e.1 e.2)
      | .ok bytes =>
        let d := bytesDws (len / 8) bytes
        if dwAt (d.getD 0 0) 0 4 ≠ 7 then .error (.refused 2 0xFFFFF)
        else
          let rs := readRecorded true len ((d.drop (dwAt (d.getD 2 0) 0 32 / 8)).take (dwAt (d.getD 2 0) 32 32 / 8))
          .ok (s.modRegion r fun g => rs.foldl (fun g q => g.replayCtrl c q) (g.setCtrl c (y.reload d)))
    | _, _ => .ok s

/-- A fold that stops at the first refusal. -/
def restFold {α : Type} (f : State → α → Except RestErr State) : State → List α → Except RestErr State
  | s, [] => .ok s
  | s, x :: l => match f s x with
    | .error e => .error e
    | .ok s1 => restFold f s1 l

/-- A stage with the replicas it had when the region was cut, each at its place relative to the origin. -/
def State.restoreStage (s : State) (r k : Nat) (was : Region) (t : Stage) : Except RestErr State :=
  let reps := t.replicas.filter fun p => decide (2 ^ 20 ≤ p.1)
  let placed := restFold (fun s p =>
    let n := p.1 / 2 ^ 20 - 64 * k
    match s.region r, was.actor p.1 with
    | some g, some x =>
      let tile := tileFrom g.ox g.oy x.dx x.dy
      if s.replicaRoom g (g.members t) tile then .ok (s.placeReplica r k n p.2 x.dx.toNat x.dy.toNat tile) else .error (.refused 3 t.tmpl)
    | _, _ => .ok s) s reps
  match placed with
  | .error e => .error e
  | .ok s1 => .ok (s1.modRegion r fun g => g.setStage k t)

/-- Every stage of a placed region: as it was where that is kept, else with the replicas it has from load. -/
def State.restoreStages (s : State) (r : Nat) (k : Option Kept) : Except RestErr State :=
  match s.region r with
  | none => .ok s
  | some g =>
    match k with
    | none => .ok (g.stages.foldl (fun s e => s.placeInitial r e.1 64 1) s)
    | some k => restFold (fun s (e : Nat × Option Stage) => match e.2 with
      | some t => s.restoreStage r e.1 k.g t
      | none => .ok s) s k.g.stages

/-- The replicas' actors as they were kept. -/
def Region.keptReplicas (g : Region) (was : Region) : Region :=
  { g with
    actors := smap none (fun a (x : Option Actor) => x.map fun x => if 2 ^ 20 ≤ a then x.asKept ((was.actor a).map (was.uncut a)) else x) g.actors
    chans := smap none (fun c (x : Option Chan) => x.map fun x => x.asKept (was.chan c)) g.chans }

/-- A restore's region: what the save area has no place for taken from what was kept. [DESIGN CHOICE: notes/assumptions/70.md] -/
def Region.asKept (g : Region) (k : Option Kept) (d : List Dw) (n : Nat) (launch : Launch) : Region :=
  let g1 : Region := { g with launch := some launch, records := n, fatal := false, cuts := (d.getD 10 0).extractLsb' 32 32 }
  match k with
  | none => { g1 with chans := smap none (fun _ (x : Option Chan) => x.map fun c => c.asKept none) g.chans }
  | some k =>
    let w := k.g
    let nodes := smap none (fun i (x : Option WNode) => match w.node i with | some o => some o | none => x) g.nodes
    { g1.keptReplicas w with
      rootDone := w.rootDone, lostRecord := w.lostRecord, fatal := w.fatal, credit := w.credit, ingCredit := w.ingCredit, bdepth := w.bdepth
      rate := w.rate, refusals := w.refusals, nodes := nodes, feedHeld := w.feedHeld, halted := w.halted }

/-- What the replicas of a region had in their tiles, put back, and the tokens recorded at them given back (R234, R416).
[DESIGN CHOICE: notes/assumptions/70.md] -/
def State.refillReplicas (s : State) (r : Nat) (k : Option Kept) (now : Dw) : State :=
  match k with
  | none => s
  | some k =>
    let on_ (s : State) (a : Nat) (f : Tile → Tile) : State := match s.actor r a with
      | some x => if 2 ^ 20 ≤ a then s.modTile x.tile f else s
      | none => s
    let s1 := k.words.foldl (fun s w => on_ s w.1 fun t => { t with lanes := sset 0 t.lanes w.2.1 w.2.2 }) s
    let s2 := k.lanes.foldl (fun s w => on_ s w.1 fun t => { t with lane := sset {} t.lane w.2.1 w.2.2 }) s1
    let s3 := k.pads.foldl (fun s w => on_ s w.1 fun t => t.setBytes w.2.1 w.2.2) s2
    k.g.actors.foldl (fun s y => match y.2 with
      | some x => if 2 ^ 20 ≤ y.1 then s.modRegion r fun g => x.recd.foldl (fun g q => g.replay y.1 now k.g.ingressQ q) g else s
      | none => s) s3

/-- Tasks' spilled requests put back in their ports. -/
def State.respill (s : State) (r : Nat) (k : Option Kept) : State :=
  match k with
  | none => s
  | some k => k.port.foldl (fun s q => match s.actor r q.actor with
    | some x => s.modTile x.tile fun t => { t with port := t.port ++ [{ q with region := r, after := [], behind := [], relDeps := [] }] }
    | none => s) s

/-- The directory of an area agrees with the image. -/
def State.dirOk (s : State) (l : Load) (g : Region) : Except RestErr Bool :=
  match s.saveRead (s.slice l.slice).firstDie l.asid (l.va.toNat + 0x2000) (16 * g.dir.length) with
  | .error e => .error (.fault e.1 e.2)
  | .ok b => .ok (decide (bytesDws (2 * g.dir.length) b = g.dirWords))

/-- A region placed and loaded from its save area. -/
def State.restoreInto (s : State) (r : Nat) (l : Load) (m : Img) (d : List Dw) (k : Option Kept) (launch : Launch) (asid : Nat) :
    Except RestErr State :=
  match s.region r with
  | none => .ok s
  | some g =>
    match s.dirOk l g with
    | .error e => .error e
    | .ok false => .error (.refused 2 0xFFFFF)
    | .ok true =>
      match s.restoreStages r k with
      | .error e => .error e
      | .ok s1 =>
        let n := s1.recordCount g
        let s2 := (s1.modRegion r fun g => g.asKept k d n launch).refillReplicas r k (d.getD 3 0)
        match restFold (fun s a => s.restoreActor r a l m k (d.getD 3 0) asid) s2 (List.range g.nact) with
        | .error e => .error e
        | .ok s3 =>
          match restFold (fun s c => s.restoreCtrl r c l) s3 (g.ctrls.map (·.1)) with
          | .error e => .error e
          | .ok s4 =>
            match s4.saveRead (s.slice l.slice).firstDie l.asid (l.va.toNat + 0x140) 2048 with
            | .error e => .error (.fault e.1 e.2)
            | .ok b =>
              let ds := bytesDws 256 b
              let s5 := s4.modRegion r fun g =>
                { g with barriers := sparseOf {} ((List.range 64).map fun i => barrierOf ((ds.drop (4 * i)).take 4)) }
              match ((s5.readMesh r).respill r k).areaWrite g 4 [3] with
              | .error e => .error (.fault e.1 e.2)
              | .ok s6 => .ok s6

/-- A restore from a header in state 2, its launch running again. [DEDUCED: notes/assumptions/71.md] -/
def State.restoreNow (s : State) (l : Load) (d : List Dw) : Except RestErr (State × Nat × Nat) :=
  let n := s.slice l.slice
  let asid := dwAt (d.getD 2 0) 20 14
  let va := d.getD 1 0
  let o := if l.any then none else some (l.ox, l.oy)
  if !n.hasAsid asid then .error (.refused 2 0xFFFFF)
  else
    match s.readImage n.firstDie asid va.toNat with
    | .error _ => .error (.refused 2 0xFFFFF)
    | .ok m =>
      let z := d.getD 2 0
      let k := s.keptFor n.firstDie l.asid l.va d
      let back (s : State) (moved : Kept → Nat → Nat → Option Nat) : State := match k with
        | some k => s.restoreDisplay l.slice k (moved k)
        | none => s
      let s0 := back s fun _ _ _ => none
      if (m.refusalsAt s0 l.slice asid va.toNat none none) ≠ [] ∨ dwAt z 10 6 ≠ m.region.w - 1 ∨ dwAt z 16 4 ≠ m.region.h - 1 ∨
          dwAt (d.getD 0 0) 16 16 ≠ m.dir.length then .error (.refused 2 0xFFFFF)
      else
        let es := m.entries s n.firstDie asid
        match (if (m.refusalsAt s0 l.slice asid va.toNat o none) = [] then l.origin s m es else none) with
        | none => .error (.refused 3 0xFFFFF)
        | some (x, y) =>
          let moved (k : Kept) (die h : Nat) : Option Nat := m.chans.zipIdx.findSome? fun c =>
            if c.1.ek = 6 ∧ (k.g.chan c.2).map (·.dst) = some (.head die h) then some (m.headDie x y c.1) else none
          if (m.placedErrs (back s moved) l.slice asid es x y) ≠ [] then .error (.refused 2 0xFFFFF) else
          let start := (s.die n.firstDie).eqt
          let launch := { headerLaunch d (l.launch.orElse fun _ => k.bind fun k => k.g.launch) with started := start }
          match s.place m { slice := l.slice, asid := asid, va := va, strict := launch.strict, held := l.held, area := some l.va } x y with
          | .error _ => .error (.refused 2 0xFFFFF)
          | .ok (s1, r) =>
            match s1.restoreInto r l m d k launch asid with
            | .error e => .error e
            | .ok s2 =>
              let s3 := back s2 moved
              .ok ({ s3 with kept := s3.kept.filter fun o => decide (some o.pa ≠ k.map (·.pa)) }, r, m.len)

/-! ### Completion (R234, R331, R407) -/

/-- Launch completions held for a region that has resumed (R407). -/
def State.sendHeld (s : State) (r : Nat) : State :=
  let s1 := s.modRegion r fun g =>
    { g with net := g.net ++ (s.heldDone.filter fun h => decide (h.1 = r)).map fun h => NetMsg.call h.2.1 h.2.2 }
  { s1 with heldDone := s1.heldDone.filter fun h => decide (h.1 ≠ r) }

/-- The fatal record of a refused restore written in the area that was read, as a record of a region there, and header state
4: the state, and the record's address or zero. [DEDUCED: notes/assumptions/71.md] -/
def State.restoreRecord (s : State) (l : Load) (d : List Dw) (e : RestErr) : State × Dw :=
  let n := s.slice l.slice
  let asid := dwAt (d.getD 2 0) 20 14
  let t := tileInDie n.firstDie 0
  let tmp : Region :=
    { slice := l.slice, ox := tileX t, oy := tileY t, asid := if n.hasAsid asid then asid else l.asid, ctxb := l.va
      launch := some (headerLaunch d l.launch) }
  let key := 2 ^ 40
  let s1 := s.setRegion key tmp
  let i := s1.recordCount tmp
  let rec_ : ErrRec := match e with
    | .refused why a => { code := 0x57, tile := t, d1 := BitVec.ofNat 64 why, d2 := BitVec.ofNat 64 a }
    | .fault c v => { code := 0x58, tile := t, d1 := v, d2 := BitVec.ofNat 64 c }
    | .page _ t _ a _ => { code := 0x57, tile := t, d1 := 1, d2 := BitVec.ofNat 64 a }
  let s2 := s1.writeRecord key rec_
  let lost := ((s2.region key).map (·.lostRecord)).getD true
  let s3 := match s2.areaWrite tmp 4 [4] with
    | .ok s => s
    | .error _ => s2
  (s3.dropRegion key, if lost || decide (64 ≤ i) then 0 else l.va + BitVec.ofNat 64 (0x1000 + 64 * i))

/-- The parts of an area that a restore reads after its header: the barriers, the directory and the entries it names. -/
def State.areaParts (s : State) (die asid va : Nat) (d : List Dw) : List (Nat × Nat) :=
  let n := dwAt (d.getD 0 0) 16 16
  let dir := match s.saveRead die asid (va + 0x2000) (16 * n) with
    | .ok b => bytesDws (2 * n) b
    | .error _ => []
  (va + 0x140, 2048) :: (va + 0x2000, 16 * n) ::
    (List.range (dir.length / 2)).map fun i => (va + dwAt (dir.getD (2 * i + 1) 0) 0 32, dwAt (dir.getD (2 * i + 1) 0) 32 32)

/-- The marks of the walks by which a restore reads its area, up to a part that cannot be read (R127).
[DESIGN CHOICE: notes/assumptions/83.md] -/
def State.areaSeen (s : State) (die asid : Nat) : List (Nat × Nat) → State
  | [] => s
  | (va, n) :: l => match s.saveRead die asid va n with
    | .ok _ => (s.saveSeen die asid va n).areaSeen die asid l
    | .error _ => s

/-- A restore completes (R234): its response, and a resumed launch that runs on or ends with status 6; where its tiles have been taken
meanwhile the launch searches again (R178). [DEDUCED: notes/assumptions/71.md] -/
def State.finishRestore (s : State) (k : Nat) (l : Load) : State :=
  let die := (s.slice l.slice).firstDie
  let s0 := (s.dropLoad k).areaSeen die l.asid [(l.va.toNat, 88)]
  let fail (s : State) (status : Nat) (d1 d2 adr : Dw) : State :=
    let s1 := s.answerReq l.by_ (loadReply status 0 0 0 0 d1 d2)
    match l.launch with
    | some w => s1.refuseLaunch l.slice w 6 adr
    | none => s1
  match s0.saveRead (s0.slice l.slice).firstDie l.asid l.va.toNat 88 with
  | .error _ => fail s0 7 4 0xFFFFF 0
  | .ok b =>
    let d := bytesDws 11 b
    if !headerOk d then fail s0 7 4 0xFFFFF 0
    else
      let s0 := s0.areaSeen die l.asid (s0.areaParts die l.asid l.va.toNat d)
      match s0.restoreNow l d with
      | .error (.refused 3 a) =>
        if l.launch.isSome then s.setLoad k { l with found := false, spot := none }
        else
          let (s1, adr) := s0.restoreRecord l d (.refused 3 a)
          fail s1 7 3 (BitVec.ofNat 64 a) adr
      | .error (.page r t slot a v) =>
        let (s1, err, since) := s.engineFault (dieOf t) t (dwAt (d.getD 2 0) 20 14) r slot 0 l.fault v
        if err.isNone then s1.setLoad k { l with fault := since }
        else
          let (s2, adr) := (s1.dropLoad k).restoreRecord l d (.refused 1 a)
          fail s2 7 1 (BitVec.ofNat 64 a) adr
      | .error (.fault c v) =>
        let (s1, adr) := s0.restoreRecord l d (.fault c v)
        fail s1 4 (BitVec.ofNat 64 c) v adr
      | .error (.refused why a) =>
        let (s1, adr) := s0.restoreRecord l d (.refused why a)
        fail s1 7 (BitVec.ofNat 64 why) (BitVec.ofNat 64 a) adr
      | .ok (s1, r, len) =>
        let g := (s1.region r).getD {}
        ((s1.answerReq l.by_ (loadReply 0 0 g.num g.ox g.oy (BitVec.ofNat 64 len) 0)).sendHeld r).checkEdges r

/-- CFGLOAD_LOAD_COMPLETE (R331): the load or restore whose search is over completes. -/
def State.loadDone (s : State) (k : Nat) : Option State :=
  match s.loads[k]? with
  | none => none
  | some l => if !l.found then none else some (if l.restore then s.finishRestore k l else s.finishLoad k l)

def execCfgloadLoadComplete (k : Nat) (s : State) : Res := occur s (s.loadDone k)

end Sys2Proof.Machine
end

