-- ==== Sys2Proof/Machine/Elastic.lean ====
section
/-! DEFINITION. Elastic stages at work: what the distributor does with a token, the sampling of replicas and the changes of a
stage's membership (R180 to R183, R208, R416, R417). -/

namespace Sys2Proof.Machine

/-! ### Channels of a stage -/

/-- The channel from the distributor to a replica, by the replica's key. -/
def Region.inChan (g : Region) (k : Nat) (t : Stage) (key : Nat) : Option (Nat × Chan) :=
  match g.between t.dist t.tmpl with
  | none => none
  | some (i, _) => let j := inReplica k (replicaNum k key) i; (g.chan j).map fun c => (j, c)

/-- Occupied slots of a channel (R17). -/
def Region.occupied (g : Region) (c : Chan) : Nat := c.slots - g.freeSlots c

/-- Occupied slots of a replica's input channel. -/
def Region.load (g : Region) (k : Nat) (t : Stage) (key : Nat) : Nat :=
  match g.inChan k t key with
  | some (_, c) => g.occupied c
  | none => 0

/-- The replicas that take tokens: those not retiring. -/
def Stage.taking (t : Stage) : List (Nat × Nat) := t.replicas.filter fun p => decide (t.retiring ≠ some p.1)

/-- The replica of a list with the fewest occupied slots, the first in the list on a tie (R182, R416). -/
def Region.leastLoaded (g : Region) (k : Nat) (t : Stage) (l : List (Nat × Nat)) : Option Nat :=
  (l.find? fun p => l.all fun q => decide (g.load k t p.1 ≤ g.load k t q.1)).map (·.1)

/-- The keys of a replica's actors. -/
def Region.replicaActors (g : Region) (k : Nat) (t : Stage) (key : Nat) : List Nat :=
  (g.members t).map (inReplica k (replicaNum k key))

/-- The channels at a list of actors. -/
def Region.chansAt (g : Region) (l : List Nat) : List (Nat × Chan) :=
  g.chans.filterMap fun c => c.2.bind fun v =>
    if (v.fromActor.map l.contains).getD false || (v.toActor.map l.contains).getD false then some (c.1, v) else none

/-- Nothing stands in a replica: its channels are empty, and none of its actors runs, is selected or holds anything back. -/
def State.replicaEmpty (s : State) (r : Nat) (g : Region) (k : Nat) (t : Stage) (key : Nat) : Bool :=
  let l := g.replicaActors k t key
  (g.chansAt l).all (fun c => decide (g.occupied c.2 = 0)) &&
    l.all fun a => match g.actor a with
      | some x => !(s.tile x.tile).busyWith r a && s.settled x && x.holdsNone && !s.unitBusy r a
      | none => true

/-- Nothing stands inside a stage (R182, R417). -/
def State.stageEmpty (s : State) (r : Nat) (g : Region) (k : Nat) (t : Stage) : Bool :=
  (!t.part || decide (t.inside = 0)) && t.replicas.all fun p => s.replicaEmpty r g k t p.1

/-! ### The distributor (R182, R183, R208, R417) -/

/-- A token sent on the distributor's channel to a replica. -/
def State.toReplica (s : State) (r : Nat) (g : Region) (k : Nat) (t : Stage) (key : Nat) (tok : Token) : State :=
  match g.inChan k t key with
  | some (_, c) => s.sendOn r t.dist c.outPort tok.kind tok.payload
  | none => s

/-- A replica's input channel has a free slot. -/
def Region.takes (g : Region) (k : Nat) (t : Stage) (key : Nat) : Bool :=
  match g.inChan k t key with
  | some (_, c) => decide (0 < g.freeSlots c)
  | none => false

/-- A stage changed. -/
def State.setStage (s : State) (r k : Nat) (t : Stage) : State := s.modRegion r fun g => g.setStage k t

/-- A control or error token of the stage input passed to the collector's output (R182); a call cannot run (R25). -/
def State.passStage (s : State) (r : Nat) (g : Region) (t : Stage) (tok : Token) : Option State :=
  let s1 := s.modActor r t.dist fun x => x.takeTracked 0
  if tok.isCall then some (s1.divertCall r t.dist (chanField (g.chanTo t.dist 0)) tok)
  else if !g.outReady t.coll 0 then none
  else some (s1.sendOn r t.coll 0 tok.kind tok.payload)

/-- A data token or burst header of an arrival stage: to the replica of the open burst, or to the least loaded. -/
def State.routeData (s : State) (r : Nat) (g : Region) (k : Nat) (t : Stage) (x : Actor) (tok : Token) : Option State :=
  let isOpen := decide ((x.port 0).left ≠ 0) && !tok.restarts
  match (if isOpen then t.burstTo else g.leastLoaded k t t.taking) with
  | none => none
  | some key =>
    if !g.takes k t key then none
    else
      let s1 := (s.modActor r t.dist fun x => x.takeTracked 0).toReplica r g k t key tok
      some (s1.setStage r k { t with burstTo := some key, position := t.position + 1 })

/-- One position of a stage that keeps order: data to one replica and nulls to the others, a null, an error or an EOS to all.
[DEDUCED: notes/assumptions/74.md] -/
def State.routeOrdered (s : State) (r : Nat) (g : Region) (k : Nat) (t : Stage) (x : Actor) (tok : Token) : Option State :=
  let isOpen := decide ((x.port 0).left ≠ 0) && !tok.restarts
  let all := t.replicas.map (·.1)
  let s1 := s.modActor r t.dist fun x => x.takeTracked 0
  let t1 := { t with position := t.position + 1 }
  if tok.kind = 1 ∨ tok.kind = 2 ∨ tok.kind = 4 then
    if !all.all (g.takes k t) then none
    else some ((all.foldl (fun s key => s.toReplica r g k t key tok) s1).setStage r k t1)
  else
    match (if isOpen then t.burstTo else g.leastLoaded k t t.replicas) with
    | none => none
    | some key =>
      let alone := isOpen || decide (tok.kind = 5)
      if !g.takes k t key || (!alone && !all.all (g.takes k t)) then none
      else
        let s2 := s1.toReplica r g k t key tok
        let s3 := if alone then s2 else (all.filter fun o => decide (o ≠ key)).foldl
          (fun s o => s.toReplica r g k t o { kind := 1, payload := [0] }) s2
        some (s3.setStage r k { t1 with burstTo := some key })

/-- A ray's partition and number (R205). -/
def rayPart (tok : Token) : Nat := dwAt (tok.dw 4) 26 6
def rayNumber (tok : Token) : Nat := dwAt (tok.dw 4) 32 32

/-- A ray routed to the less loaded owner of its partition; without an owner, error 0x42 in its place (R183, R206). `new` is a ray
from the stage input. [DEDUCED: notes/assumptions/74.md] -/
def State.routeRay (s : State) (r : Nat) (g : Region) (k : Nat) (t : Stage) (x : Actor) (port : Nat) (tok : Token) (new : Bool) :
    Option State :=
  let s1 := s.modActor r t.dist fun x => x.takeTracked port
  match g.leastLoaded k t (t.taking.filter fun p => decide (p.2 = rayPart tok)) with
  | none =>
    if !g.outReady t.coll 0 then none
    else
      let e := errPayload g.asid (chanField (g.chanTo t.dist port)) x.tile x.slot (rayPart tok) 0x42 (BitVec.ofNat 64 (rayNumber tok))
      some ((s1.sendOn r t.coll 0 4 e).setStage r k (if new then t else { t with inside := t.inside - 1 }))
  | some key =>
    if !g.takes k t key then none
    else some ((s1.toReplica r g k t key tok).setStage r k (if new then { t with inside := t.inside + 1 } else t))

/-- The distributor's ports of migrating rays, one for each replica. -/
def Region.migPorts (g : Region) (k : Nat) (t : Stage) : List Nat :=
  match g.between t.tmpl t.dist with
  | some (_, c) => (t.nums k).map (copyPort c.inPortOf)
  | none => []

/-- The port at which a migrating ray stands. -/
def Region.migrating (g : Region) (k : Nat) (t : Stage) (x : Actor) : Option (Nat × Token) :=
  (g.migPorts k t).findSome? fun p => match x.head p with
    | some tok => if tok.kind = 6 then none else some (p, tok)
    | none => none

/-- The distributor takes a token: a migrating ray, or the head of the stage input but for a new ray. An EOS of an arrival stage
waits there, and tokens after it wait behind it; a stage that changes its membership takes nothing. -/
def State.distribute (s : State) (r k : Nat) : Option State :=
  match s.region r with
  | none => none
  | some g =>
    match g.stage k with
    | none => none
    | some t =>
      match g.actor t.dist with
      | none => none
      | some x =>
        if !g.active x || (t.change.isSome && decide ((x.port 0).left = 0)) then none
        else
          match (if t.part then g.migrating k t x else none) with
          | some (p, tok) =>
            if tok.kind = 0 then s.routeRay r g k t x p tok false
            else if tok.kind = 1 ∨ tok.kind = 2 then some (s.modActor r t.dist fun x => x.takeTracked p)
            else if tok.isCall then
              some ((s.modActor r t.dist fun x => x.popPort p).divertCall r t.dist (chanField (g.chanTo t.dist p)) tok)
            else if !g.outReady t.coll 0 then none
            else
              let s1 := (s.modActor r t.dist fun x => x.takeTracked p).sendOn r t.coll 0 tok.kind tok.payload
              some (if tok.kind = 4 then s1.setStage r k { t with inside := t.inside - 1 } else s1)
          | none =>
            match x.head 0 with
            | none => none
            | some tok =>
              if tok.kind = 6 ∨ t.eos.isSome then none
              else if t.ordered then s.routeOrdered r g k t x tok
              else if tok.kind = 1 then some (s.modActor r t.dist fun x => x.takeTracked 0)
              else if tok.kind = 2 then
                some ((s.modActor r t.dist fun x => x.takeTracked 0).setStage r k { t with eos := some tok.eosErr })
              else if tok.kind = 4 ∨ tok.kind = 5 then s.passStage r g t tok
              else if t.part then none
              else s.routeData r g k t x tok

/-- DISTRIBUTOR_ROUTE (R182, R183). -/
def execDistributorRoute (r stage : Nat) (s : State) : Res := occurIn s r (s.distribute r stage)

/-- RAY_ADMISSION (R208): a new ray enters while fewer than A are inside, and after every migrating ray. -/
def State.admitRay (s : State) (r k : Nat) : Option State :=
  match s.region r with
  | none => none
  | some g =>
    match g.stage k with
    | none => none
    | some t =>
      match g.actor t.dist with
      | none => none
      | some x =>
        if !g.active x || !t.part || t.eos.isSome || (g.migrating k t x).isSome || decide (t.limit ≤ t.inside) then none
        else
          match x.head 0 with
          | some tok => if tok.kind = 0 ∨ tok.kind = 3 ∨ tok.kind = 7 then s.routeRay r g k t x 0 tok true else none
          | none => none

def execRayAdmission (r stage : Nat) (s : State) : Res := occurIn s r (s.admitRay r stage)

/-- DISTRIBUTOR_EOS_RELEASE (R182, R417): the EOS that waits leaves on the collector's output once the stage is empty. -/
def State.releaseEos (s : State) (r k : Nat) : Option State :=
  match s.region r with
  | none => none
  | some g =>
    match g.stage k with
    | none => none
    | some t =>
      match t.eos, g.actor t.coll with
      | some e, some x =>
        if !g.active x || !s.stageEmpty r g k t || !g.outReady t.coll 0 then none
        else some ((s.sendEos r t.coll 0 e).setStage r k { t with eos := none })
      | _, _ => none

def execDistributorEosRelease (r stage : Nat) (s : State) : Res := occurIn s r (s.releaseEos r stage)

/-! ### Sampling and changes of membership (R181 to R183) -/

/-- ELASTIC_SAMPLE (R181): one sample of every replica's input channel in each microsecond of EQT. -/
def State.sampleStage (s : State) (r k : Nat) : Option State :=
  match s.region r with
  | none => none
  | some g =>
    match g.stage k with
    | none => none
    | some t =>
      if ((s.die g.die).eqt - t.sampled).toInt < usecUnits || decide (t.window ≤ t.samples) then none
      else
        let sums := t.replicas.foldl (fun m p => sset 0 m p.1 (sget 0 m p.1 + g.load k t p.1)) t.sums
        let counts := t.replicas.foldl (fun m p => sset 0 m p.1 (sget 0 m p.1 + 1)) t.counts
        some (s.setStage r k
          { t with samples := t.samples + 1, sums := sums, counts := counts, sampled := t.sampled + BitVec.ofNat 64 usecUnits })

def execElasticSample (r stage : Nat) (s : State) : Res := occurIn s r (s.sampleStage r stage)

/-- Slots of the channel into the template. -/
def Region.inSlots (g : Region) (t : Stage) : Nat := ((g.between t.dist t.tmpl).map fun c => c.2.slots).getD 0

/-- The mean of a replica's own samples of a window against a mark in sixteenths of the slots: above the high mark, below the low one. -/
def Stage.above (t : Stage) (slots key : Nat) : Bool := decide (t.hi * slots * sget 0 t.counts key < 16 * sget 0 t.sums key)
def Stage.below (t : Stage) (slots key : Nat) : Bool := decide (16 * sget 0 t.sums key < t.lo * slots * sget 0 t.counts key)

/-- The partition whose owner's input was deepest over the window, lower number on a tie (R183).
[DEDUCED: notes/assumptions/74.md] -/
def Stage.deepest (t : Stage) : Nat :=
  let score (p : Nat × Nat) : Nat := sget 0 t.sums p.1
  let best := t.replicas.foldl (fun m p => max m (score p)) 0
  (t.replicas.filter fun p => decide (score p = best)).foldl (fun m p => min m p.2) 63

/-- The lowest free replica number of a stage. -/
def Stage.freeNum (t : Stage) (k : Nat) : Nat := ((List.range 64).find? fun n => decide (n ≠ 0) && !(t.nums k).contains n).getD 63

/-- The first tile of the growth set with room (R181). -/
def State.growTile (s : State) (g : Region) (t : Stage) : Option (Nat × Nat × Nat) :=
  (g.growthTiles t).find? fun p => s.replicaRoom g (g.members t) p.2.2

/-- A replica granted on the first free tile; none of the growth set free, nothing changes. -/
def State.grow (s : State) (r k : Nat) : State :=
  match s.region r with
  | none => s
  | some g =>
    match g.stage k with
    | none => s
    | some t =>
      match s.growTile g t with
      | some (dx, dy, tile) => s.placeReplica r k (t.freeNum k) (if t.part then t.deepest else 0) dx dy tile
      | none => s

/-- A replica taken off its tile, with its channels. -/
def State.dropReplica (s : State) (r k key : Nat) : State :=
  match s.region r with
  | none => s
  | some g =>
    match g.stage k with
    | none => s
    | some t =>
      let l := g.replicaActors k t key
      let cs := (g.chansAt l).map (·.1)
      let tile := ((g.actor key).map (·.tile)).getD 0
      let mine : Region := { g with actors := g.actors.filter fun a => l.contains a.1 }
      let rest := g.actors.filter fun a => !l.contains a.1
      let used := rest.any fun a => decide ((a.2.map (·.tile)) = some tile)
      let g1 : Region :=
        { g with
          actors := rest, chans := g.chans.filter fun c => !cs.contains c.1
          ranges := if used then g.ranges else g.ranges.filter fun e => decide (e.1 ≠ tile)
          stages := sset none g.stages k
            (some { t with replicas := t.replicas.filter fun p => decide (p.1 ≠ key), retiring := none, sums := sset 0 t.sums key 0, counts := sset 0 t.counts key 0 }) }
      let s1 := s.setRegion r g1
      s1.modTile tile fun u =>
        let v := u.vacate r mine (s1.actorsOn tile)
        let slots := l.foldl (fun (m : Sparse (Option (Nat × Nat))) a => match g.actor a with
          | some x => sset none m x.slot none
          | none => m) u.slots
        { v with slots := slots, ranges := s1.rangesOn tile }

/-- A cut that waited for a change of membership begins (R181). -/
def State.resumeCut (s : State) (r : Nat) : State :=
  match s.region r with
  | some g => match g.cutWait with
    | some b => if g.changing then s else s.beginCut r b
    | none => s
  | none => s

/-- ELASTIC_WINDOW_END (R181): at the end of a window of EQT at most one change; none while a cut is in progress or a change is.
[DEDUCED: notes/assumptions/74.md] -/
def State.windowEnd (s : State) (r k : Nat) : Option State :=
  match s.region r with
  | none => none
  | some g =>
    match g.stage k with
    | none => none
    | some t =>
      if decide (t.samples < t.window) || ((s.die g.die).eqt - t.wstart).toInt < t.window * usecUnits then none
      else
        let slots := g.inSlots t
        let low := !t.replicas.isEmpty && t.replicas.all fun p => t.below slots p.1
        let n := t.replicas.length
        let t1 := { t with lowWins := if low then t.lowWins + 1 else 0 }
        let fresh (u : Stage) : Stage :=
          { u with samples := 0, sums := [], counts := [], wstart := t.wstart + BitVec.ofNat 64 (t.window * usecUnits) }
        if g.cutBy.isSome || g.cutWait.isSome || t.change.isSome || t.retiring.isSome then some (s.setStage r k (fresh t1))
        else if (t.replicas.any fun p => t.above slots p.1) && decide (n < t.lim) then
          let t2 := { t1 with lowWins := 0 }
          if t.ordered then
            let due := if (s.growTile g t).isSome then some (t.position, none) else none
            some (s.setStage r k (fresh { t2 with change := due }))
          else
            some (((s.setStage r k t2).grow r k).modRegion r fun g => match g.stage k with
              | some u => g.setStage k (fresh u)
              | none => g)
        else if decide (2 ≤ t1.lowWins) && decide (t.m < n) then
          match (t.replicas.getLast?).map (·.1) with
          | some key =>
            let t2 := fresh t1
            some (s.setStage r k (if t.ordered then { t2 with change := some (t.position, some key) } else { t2 with retiring := some key }))
          | none => some (s.setStage r k (fresh t1))
        else some (s.setStage r k (fresh t1))

def execElasticWindowEnd (r stage : Nat) (s : State) : Res := occurIn s r (s.windowEnd r stage)

/-- REPLICA_RETIRE (R182, R183): a retiring replica goes once nothing stands in it. -/
def State.retireReplica (s : State) (r k : Nat) : Option State :=
  match s.region r with
  | none => none
  | some g =>
    match g.stage k with
    | none => none
    | some t =>
      match t.retiring, g.actor t.dist with
      | some key, some x =>
        let isOpen := decide ((x.port 0).left ≠ 0) && decide (t.burstTo = some key)
        if isOpen || !s.replicaEmpty r g k t key then none else some ((s.dropReplica r k key).resumeCut r)
      | _, _ => none

def execReplicaRetire (r stage : Nat) (s : State) : Res := occurIn s r (s.retireReplica r stage)

/-- ORDERED_MEMBERSHIP_CHANGE (R182): once the collector has taken the last position from every replica, between bursts,
distributor and collector change together. -/
def State.changeMembers (s : State) (r k : Nat) : Option State :=
  match s.region r with
  | none => none
  | some g =>
    match g.stage k with
    | none => none
    | some t =>
      match t.change, g.actor t.dist with
      | some (_, who), some x =>
        if decide ((x.port 0).left ≠ 0) || !s.stageEmpty r g k t then none
        else
          let s1 := s.setStage r k { t with change := none }
          let s2 := match who with
            | none => s1.grow r k
            | some key => s1.dropReplica r k key
          some (s2.resumeCut r)
      | _, _ => none

def execOrderedMembershipChange (r stage : Nat) (s : State) : Res := occurIn s r (s.changeMembers r stage)

end Sys2Proof.Machine
end

