-- ==== Sys2Proof/Machine/FrontEnd.lean ====
section
/-! DEFINITION. The front end of a slice: launch queues, the selection and start of launches, the launch port, pre-emption by
quantum; the delivery of work records; the power buckets (R172 to R179, R191 to R193, R407). -/

namespace Sys2Proof.Machine

/-! ### Queue registers (R172) -/

/-- A launch queue changed. -/
def State.modQueue (s : State) (slice q : Nat) (f : Queue → Queue) : State :=
  s.modSlice slice fun n => n.setQueue q (f (n.queue q))

/-- Records a queue holds, by its tail and head modulo 2^32. -/
def Queue.depth (u : Queue) : Nat := (u.db - u.head).toNat

/-- The doorbells of a queue after one more that writes tail `v`: the records before it keep the doorbell that brought them, those it adds
have its order, and with none left there is no doorbell. [DEDUCED: notes/assumptions/52.md] -/
def Queue.ring (u : Queue) (v : Word) (order : Nat) : List (Word × Nat) :=
  let at_ (t : Word) : Nat := (t - u.head).toNat
  if at_ v = 0 then []
  else
    (u.bells.filter fun b => decide (at_ b.1 < at_ v)) ++
      [(v, ((u.bells.find? fun b => decide (at_ v ≤ at_ b.1)).map (·.2)).getD order)]

/-- A doorbell: the tail replaced; more records than the ring holds stop the queue.
[DEDUCED: notes/assumptions/52.md, notes/assumptions/53.md] -/
def Queue.doorbell (u : Queue) (v : Word) (order : Nat) : Queue :=
  let u1 := { u with db := v, bells := u.ring v order }
  if u1.on && decide (u1.entries < u1.depth) then { u1 with stat := u1.stat ||| 1, cfg := u1.cfg &&& ~~~1 } else u1

/-- QDB_WRITE (R172). -/
def execQdbWrite (slice q : Nat) (v : Word) (s : State) : Res :=
  if 64 ≤ q ∨ s.pageAdmits slice = false then .next s
  else
    let n := s.slice slice
    .next (s.setSlice slice ({ n with stamp := n.stamp + 1 }.setQueue q ((n.queue q).doorbell v (n.stamp + 1))))

/-- A queue configuration is in order: an ASID of the slice (R252), no reserved bit, 2^4 to 2^16 entries, rings canonical and aligned. -/
def Queue.configOk (u : Queue) (n : Slice) (v : Dw) : Bool :=
  n.hasAsid (dwAt v 34 14) && decide (v &&& 0xFFFF0000001FFFFC = 0) && decide (4 ≤ dwAt v 21 5) && decide (dwAt v 21 5 ≤ 16) &&
    canonical u.base.toNat && decide (u.base.toNat % 64 = 0) && canonical u.cpl.toNat && decide (u.cpl.toNat % 32 = 0)

/-- A QCFG write: ignored while enable is set; enabling checks the configuration and empties the queue; reserved bits keep
reading zero (R9, R172). [DEDUCED: notes/assumptions/53.md] -/
def Queue.configure (u : Queue) (n : Slice) (v : Dw) : Queue :=
  let kept := v &&& 0x0000FFFFFFE00003
  if u.on then u
  else if !dwBit v 0 then { u with cfg := kept }
  else if u.configOk n v then { u with cfg := kept, stat := 0, head := u.db, bells := [] }
  else { u with cfg := kept &&& ~~~1, stat := u.stat ||| 4 }

/-- QCFG_WRITE (R172). -/
def execQcfgWrite (slice q : Nat) (v : Dw) (s : State) : Res :=
  if 64 ≤ q ∨ s.pageAdmits slice = false then .next s else .next (s.modQueue slice q fun u => u.configure (s.slice slice) v)

/-! ### Launch records (R173) -/

/-- A reserved bit of a record is set, or its image address is bad. -/
def badRecord (d : List Dw) : Bool :=
  let w := d.getD 3 0
  dwBit w 48 || decide (dwAt w 32 14 ≠ 0) || decide (dwAt (d.getD 5 0) 32 32 ≠ 0) || decide (d.getD 6 0 ≠ 0) ||
    decide (d.getD 7 0 ≠ 0) || !canonical (d.getD 0 0).toNat || decide ((d.getD 0 0).toNat % 8 ≠ 0)

/-- The launch of a record at index `idx` of queue `q`. -/
def recordLaunch (d : List Dw) (q idx : Nat) (u : Queue) (eqt : Dw) (order : Nat) : Launch :=
  let w := d.getD 3 0
  { order := order, src := .queue q idx, asid := u.asid, prio := u.prio, ccap := w.extractLsb' 46 2, strict := dwBit w 52, sysc := dwBit w 51
    pin := dwBit w 50, irq := dwBit w 49, quantum := dwAt w 16 16, tag := w.extractLsb' 0 16, image := d.getD 0 0
    arg := d.getD 1 0, imm := d.getD 2 0, any := dwBit w 63, ox := dwAt w 57 6, oy := dwAt w 53 4, wbase := d.getD 4 0
    wsize := dwAt (d.getD 5 0) 0 32, taken := eqt }

/-! ### Selection (R176) -/

/-- What the front end may take or start: a launch it holds, by place, or a queue's head. -/
inductive Pick where
  | held (i : Nat) (w : Waiting)
  | queue (q : Nat)
  deriving DecidableEq, Repr

/-- An order of the slice's stamps, with room for the records of one doorbell. -/
def stampOrder (n : Nat) : Nat := n * 2 ^ 17

/-- The order of a queue's head: by its doorbell, then in queue order (R176). [DEDUCED: notes/assumptions/52.md] -/
def Queue.headOrder (u : Queue) : Nat :=
  match u.bells with
  | [] => 0
  | (t, n) :: _ => stampOrder n + (65536 - min 65536 (t - u.head).toNat)

/-- Heads with their priority and order: held launches first, then enabled non-empty queues. [DEDUCED: notes/assumptions/52.md] -/
def Slice.heads (n : Slice) : List (Pick × Nat × Nat) :=
  (n.waiting.zipIdx.map fun p => (Pick.held p.2 p.1, p.1.launch.prio, p.1.stamp)) ++
    ((List.range 64).filterMap fun q =>
      let u := n.queue q
      if u.on && decide (u.depth ≠ 0) then some (Pick.queue q, u.prio, u.headOrder) else none)

/-- The first head of a priority: of lowest order, the first in the list on a tie. -/
def firstAt (l : List (Pick × Nat × Nat)) (p : Nat) : Option (Pick × Nat × Nat) :=
  let mine := l.filter fun h => decide (h.2.1 = p)
  mine.find? fun h => mine.all fun o => decide (h.2.2 ≤ o.2.2)

/-- A launch of a priority that comes before an order waits for its region, and holds the later ones back (R176). -/
def State.searching (s : State) (slice p order : Nat) : Bool :=
  s.loads.any fun l => decide (l.slice = slice) && l.launch.any fun w => decide (w.prio = p) && decide (w.order < order)

/-- Launch tokens that hold slots of a graph's ingress channel. [DEDUCED: notes/assumptions/37.md] -/
def Region.ingressUsed (g : Region) : Nat :=
  g.ingressQ.length + (match g.ingress with
    | some (a, p) => ((g.actor a).map fun x => ((x.port p).q.filter fun t => decide (t.kind = 7)).length).getD 0
    | none => 0)

/-- A launch started on the resident or the cold path; none while its graph's ingress is full or its graph is being cut.
[DEDUCED: notes/assumptions/52.md] -/
def State.startLaunch (s : State) (slice : Nat) (l : Launch) : Option State :=
  match s.graphAt slice l.asid l.image with
  | some (r, g) =>
    match (if !l.any && !s.rectOk slice l.ox l.oy g.w g.h then some 2 else l.storeStatus g.store (g.ranges.map (·.2))) with
    | some st => some (s.refuseLaunch slice l st 0)
    | none =>
      if g.cutBy.isSome || g.cutWait.isSome || decide (g.depth ≤ g.ingressUsed) then none else some (s.sendLaunch r l)
  | none =>
    let load : Load :=
      { va := l.image, slice := slice, asid := l.asid, strict := l.strict, any := l.any, ox := l.ox, oy := l.oy, launch := some l }
    some { s with loads := s.loads ++ [load] }

/-- A stopped launch handed to the placement controller to resume; with any clear only at its recorded origin (R420). -/
def State.resumeLaunch (s : State) (slice : Nat) (l : Launch) (area : Dw) (num : Nat) : State :=
  let load : Load := { restore := true, va := area, slice := slice, asid := l.asid, strict := l.strict, any := l.any, ox := l.ox, oy := l.oy, launch := some l, held := some num }
  { s with loads := s.loads ++ [load] }

/-- A launch held behind its graph's ingress, with its order. -/
def State.holdLaunch (s : State) (slice : Nat) (l : Launch) (order : Nat) : State :=
  s.modSlice slice fun n => { n with waiting := n.waiting ++ [{ launch := l, stamp := order }] }

/-- A queue's head taken: QHEAD advances and the launch starts, is held, or its record is refused with status 2; a fault on the
ring stops the queue and takes nothing. [DEDUCED: notes/assumptions/53.md, notes/assumptions/92.md] -/
def State.takeRecord (s : State) (slice q : Nat) (order : Nat) : State :=
  let n := s.slice slice
  let u := n.queue q
  let va := u.base.toNat + 64 * (u.head.toNat % u.entries)
  match s.pagedXl n.firstDie u.asid va 64 { r := true } with
  | .error _ => s.modQueue slice q fun u => { u with cfg := u.cfg &&& ~~~1, stat := u.stat ||| 2 }
  | .ok (ps, ms) =>
    let s := s.mark false ms
    let d := bytesDws 8 (ps.map s.hwByte)
    let idx := u.head.toNat
    let l := recordLaunch d q idx u (s.die n.firstDie).eqt order
    let s1 := s.modQueue slice q fun u =>
      { u with head := u.head + 1, bells := u.bells.filter fun b => decide (b.1 ≠ u.head + 1) }
    if badRecord d then s1.refuseLaunch slice l 2 0 else (s1.startLaunch slice l).getD (s1.holdLaunch slice l order)

/-- A held launch taken out of the waiting list. -/
def State.dropWaiting (s : State) (slice i : Nat) : State := s.modSlice slice fun n => { n with waiting := ldrop n.waiting i }

/-- A head acted on, if it can start now. A record is not taken before the host's earlier writes are performed (R164). -/
def State.takeHead (s : State) (slice : Nat) (h : Pick × Nat × Nat) : Option State :=
  if s.searching slice h.2.1 h.2.2 then none
  else
    match h.1 with
    | .queue q => if s.posted ≠ [] then none else some (s.takeRecord slice q h.2.2)
    | .held i w => match w.saved with
      | some (area, num) => some ((s.dropWaiting slice i).resumeLaunch slice w.launch area num)
      | none => (s.dropWaiting slice i).startLaunch slice w.launch

/-- The first of the priorities, from the highest, whose first head can go. -/
def State.takeFirst (s : State) (slice : Nat) (l : List (Pick × Nat × Nat)) : List Nat → Option State
  | [] => none
  | p :: ps =>
    match (firstAt l p).bind (s.takeHead slice) with
    | some s1 => some s1
    | none => s.takeFirst slice l ps

/-- One selection of the front end (R176): the highest priority whose first head can be taken or started.
[DEDUCED: notes/assumptions/52.md] -/
def State.frontEnd (s : State) (slice : Nat) : Option State :=
  let n := s.slice slice
  if !n.on then none else s.takeFirst slice n.heads ((List.range 256).reverse)

/-- FRONT_END_SELECT (R176). -/
def execFrontEndSelect (slice : Nat) (s : State) : Res := occur s (s.frontEnd slice)

/-! ### The launch port (R407) -/

/-- Why a request is refused: wrong length, reserved bit, image address. [DEDUCED: notes/assumptions/54.md] -/
def requestReason (t : Token) : Option Nat :=
  if t.kind ≠ 0 ∨ t.payload.length ≠ 5 then some 1
  else if dwAt (t.dw 3) 29 35 ≠ 0 ∨ dwAt (t.dw 4) 25 39 ≠ 0 then some 2
  else if !canonical (t.dw 0).toNat ∨ (t.dw 0).toNat % 8 ≠ 0 then some 3
  else none

/-- A request at the launch port taken as a fabric launch, or answered with code 0x27 at its sender's error port.
[DEDUCED: notes/assumptions/54.md] -/
def State.launchRequest (s : State) (r ch : Nat) : Option State :=
  match s.region r with
  | none => none
  | some g =>
    match g.chan ch with
    | none => none
    | some c =>
      match c.dst, c.q, c.fromActor with
      | .launch, t :: rest, some a =>
        let s1 := s.setRegion r (g.setChan ch { c with q := rest })
        match g.actor a with
        | none => some s1
        | some x =>
          match requestReason t with
          | some why => some (s1.sendError r a (errPayload g.asid 0xFF x.tile x.slot why 0x27 (t.dw 0)))
          | none =>
            let n := s.slice g.slice
            let v := t.dw 3
            let z := t.dw 4
            let cap := v.extractLsb' 24 2
            let me := (g.launch.map Launch.word).getD 0
            let target := if dwBit z 24 then some (r, dwAt z 0 20, dwAt z 20 4, me) else none
            let l : Launch :=
              { order := stampOrder (n.stamp + 1), src := .fabric n.fabric.toNat target, asid := g.asid, prio := dwAt v 16 8
                ccap := if cap.ult x.cls then cap else x.cls, strict := dwBit v 26, sysc := dwBit v 27, pin := dwBit v 28
                tag := v.extractLsb' 0 16, image := t.dw 0, arg := t.dw 1, imm := t.dw 2, taken := (s.die n.firstDie).eqt }
            some (s1.setSlice g.slice
              { n with fabric := n.fabric + 1, stamp := n.stamp + 1, waiting := n.waiting ++ [{ launch := l, stamp := l.order }] })
      | _, _, _ => none

/-- LAUNCH_PORT_REQUEST (R407). -/
def execLaunchPortRequest (r ch : Nat) (s : State) : Res := occurIn s r (s.launchRequest r ch)

/-! ### Quantum (R179) -/

/-- 64 µs of EQT. -/
def quantumUnits : Nat := 4096000

/-- A region whose launch has passed its quantum and gives way to a priority. [DEDUCED: notes/assumptions/55.md] -/
def State.yields (s : State) (slice prio r : Nat) : Option (Nat × Launch) :=
  match s.region r with
  | none => none
  | some g =>
    match g.launch with
    | none => none
    | some l =>
      if r / 65536 = slice ∧ l.prio < prio ∧ l.quantum ≠ 0 ∧ g.cutBy.isNone = true ∧ g.cutWait.isNone = true ∧
          l.quantum * quantumUnits < ((s.die g.die).eqt - l.started).toNat then some (r, l) else none

/-- QUANTUM_PREEMPT (R179): the launch of lowest priority, and of those the one that started earliest, is cut for a launch that
waits for a region; one at a time. [DEDUCED: notes/assumptions/55.md] -/
def State.preempt (s : State) (slice : Nat) : Option State :=
  let want := (s.loads.filterMap fun l => if l.slice = slice ∧ l.found = false ∧ l.tried = true then l.launch.map (·.prio) else none).foldl
    max 0
  let waits := s.loads.any fun l => decide (l.slice = slice) && !l.found && l.tried && l.launch.isSome
  let busy := s.regions.any fun g => match g.2 with
    | some v => decide (g.1 / 65536 = slice) && (decide (v.cutBy = some .frontEnd) || decide (v.cutWait = some .frontEnd))
    | none => false
  if !waits || busy then none
  else
    let l := s.regions.filterMap fun g => s.yields slice want g.1
    (l.find? fun p => l.all fun q =>
      decide (p.2.prio < q.2.prio) || (decide (p.2.prio = q.2.prio) && decide (p.2.started.toNat ≤ q.2.started.toNat))).map
        fun p => s.beginCut p.1 .frontEnd

def execQuantumPreempt (slice : Nat) (s : State) : Res := occur s (s.preempt slice)

/-! ### Work records (R192) -/

/-- A node's first record can be delivered: its input is empty and the accesses it releases are performed.
[DESIGN CHOICE: notes/assumptions/15.md] -/
def State.deliverable (s : State) (g : Region) (w : WNode) : Bool :=
  match w.recs, g.actor w.actor with
  | f :: _, some x => decide (x.cut = .run) && decide ((x.port x.recordPort).q = []) && !f.after.any (s.holds g.cutBy.isSome)
  | _, _ => false

/-- The deepest node with a deliverable record, of lowest index. -/
def State.nextNode (s : State) (g : Region) : Option (Nat × WNode) :=
  let l := g.nodes.filterMap fun e => e.2.bind fun w => if s.deliverable g w then some (e.1, w) else none
  l.find? fun p => l.all fun q => decide (q.2.depth ≤ p.2.depth)

/-- WORK_RECORD_DELIVERY (R192). [DESIGN CHOICE: notes/assumptions/15.md, notes/assumptions/81.md] -/
def State.deliverRecord (s : State) (r : Nat) : Option State :=
  match s.region r with
  | none => none
  | some g =>
    match s.nextNode g with
    | none => none
    | some (k, w) =>
      match w.recs with
      | [] => none
      | f :: rest =>
        let left := f.after.filter fun u => !s.performedAt u.tile u.id 2
        let data := s.recordAt g w f.tok.payload
        let g1 := (g.setNode k { w with recs := rest, head := (w.head + 1) % max 1 w.qlen }).modActor w.actor fun x =>
          let p := x.recordPort
          let q := x.port p
          x.setPort p { q with exp := q.exp + 1, q := q.q ++ [{ f.tok with payload := data, seq := q.exp, deps := left }] }
        some (((s.storeSeen g { r := true } (g.slotVa w 0) w.size).touchHeader g w).setRegion r g1)

def execWorkRecordDelivery (r : Nat) (s : State) : Res := occurIn s r (s.deliverRecord r)

/-! ### Power (R193) -/

/-- A microsecond's credits for a region's bucket and its ingress port's, once that microsecond of EQT has passed (R193). -/
def State.refill (s : State) (r : Nat) : Option State :=
  match s.region r with
  | none => none
  | some g =>
    if ((s.die g.die).eqt - g.refilled).toInt < usecUnits then none
    else
      some (s.setRegion r
        { g with
          credit := min (g.credit + g.rate) g.bdepth, ingCredit := min (g.ingCredit + g.rate) g.bdepth
          refilled := g.refilled + BitVec.ofNat 64 usecUnits })

/-- POWER_REFILL (R193). [DESIGN CHOICE: notes/assumptions/56.md] -/
def execPowerRefill (r : Nat) (s : State) : Res := occur s (s.refill r)

end Sys2Proof.Machine
end

