-- ==== Sys2Proof/Machine/Display.lean ====
section
/-! DEFINITION. Display heads and encoder sessions: their control registers, frame starts, present tokens and coded frames
(R212 to R215, R253). -/

namespace Sys2Proof.Machine

/-! ### Heads (R212, R213) -/

def Head.on (h : Head) : Bool := dwBit h.dctl 0
def Head.asid (h : Head) : Nat := dwAt h.dctl 4 14
def Head.width (h : Head) : Nat := dwAt h.dgeom 0 16 + 1
def Head.height (h : Head) : Nat := dwAt h.dgeom 16 16 + 1
def Head.pitch (h : Head) : Nat := 64 * dwAt h.dgeom 32 16
def Head.rowBytes (h : Head) : Nat := h.width * (if dwAt h.dgeom 48 2 = 2 then 8 else 4)

/-- A DCTL write: enabling with a reserved format or bit leaves enable clear; while enabled only a clear of enable counts.
[DEDUCED: notes/assumptions/57.md] -/
def Head.control (h : Head) (v eqt : Dw) : Head :=
  let w := v &&& 0x3FFFF
  if h.on then (if dwBit v 0 then h else { h with dctl := h.dctl &&& ~~~1 })
  else if !dwBit v 0 then { h with dctl := w }
  else if decide (v &&& ~~~0x3FFFF ≠ 0) || decide (dwAt h.dgeom 48 2 = 3) then { h with dctl := w &&& ~~~1 }
  else { h with dctl := w, frame := h.nextFrame eqt, cut := none }

/-- DCTL_WRITE (R212): of one of a die's two heads (R3). -/
def execDctlWrite (die head : Nat) (v : Dw) (s : State) : Res :=
  .next (if head < 2 ∧ s.dieAdmits die = true then s.modDie die fun d => d.setHead head ((d.head head).control v d.eqt) else s)

/-- PRESENT_TOKEN (R213): a present token at a head's input joins those not yet seen; a token of another shape is no present
token and is dropped. [DEDUCED: notes/assumptions/57.md] -/
def State.present (s : State) (r ch : Nat) : Option State :=
  match (s.region r).bind fun g => g.chan ch with
  | none => none
  | some c =>
    match c.dst, c.q with
    | .head d h, t :: rest =>
      let s1 := s.modChan r ch fun c => { c with q := rest }
      some (if t.kind = 0 ∧ t.payload.length = 1 then
        s1.modDie d fun x => x.setHead h { x.head h with pending := (x.head h).pending ++ [t.dw 0] } else s1)
    | _, _ => none

def execPresentToken (r ch : Nat) (s : State) : Res := occurIn s r (s.present r ch)

/-- The physical addresses of `n` bytes under an ASID, through its grants (R124, R212). -/
def State.grantXl (s : State) (die asid va n : Nat) (need : Need) : Option (List Nat) :=
  match s.xlate die asid (s.grants die asid) need 1 va n with
  | .ok ps _ => if s.anyPoison ps || (need.w && (linesOf ps).any (sget false s.badMeta)) then none else some ps
  | _ => none

/-- The marks of the walks of such an access (R127). -/
def State.grantSeen (s : State) (die asid va n : Nat) (need : Need) : State :=
  s.mark need.writes (s.leaves die asid (s.grants die asid) need 1 va n)

/-- The rows of a surface, from row `y` on, read under the head's ASID; none where a read faults. -/
def State.scan (s : State) (die : Nat) (h : Head) (va : Nat) : Nat → State × Option (List (List Nat))
  | 0 => (s, some [])
  | n + 1 =>
    let s1 := s.grantSeen die h.asid va h.rowBytes { r := true }
    match s.grantXl die h.asid va h.rowBytes { r := true } with
    | none => (s1, none)
    | some row =>
      let (s2, rows) := s1.scan die h (va + h.pitch) n
      (s2, rows.map fun l => row :: l)

/-- Rows, read as the head's die sees them (R153), written to the write-back surface with the same pitch, up to one that
faults; whether all were written. [DEDUCED: notes/assumptions/57.md] -/
def State.writeBack (s : State) (die : Nat) (h : Head) (va : Nat) : List (List Nat) → State × Bool
  | [] => (s, true)
  | row :: l =>
    let s1 := s.grantSeen die h.asid va h.rowBytes { w := true }
    match s.grantXl die h.asid va h.rowBytes { w := true } with
    | some ps => (s1.hwWrite ps (row.map (s.dieByte die))).writeBack die h (va + h.pitch) l
    | none => (s1, false)

/-- A session given a frame to code. -/
def Session.give (e : Session) (eqt : Dw) : Session :=
  if dwBit e.esctl 0 && !e.coding && e.cut.isNone then { e with coding := true, start := eqt } else e

/-- DISPLAY_FRAME_START (R213): the latest present surface is scanned, into the session named or the write-back surface; a fault
ends the scan, is noted, and the session is sent black. [DEDUCED: notes/assumptions/57.md] -/
def State.frameStart (s : State) (die k : Nat) : Option State :=
  let d := s.die die
  let h := d.head k
  if !h.on || h.cut.isSome || decide (h.dper = 0) || decide (d.eqt.toNat < h.dt0.toNat + h.frame * h.dper.toNat) then none
  else
    let seen := h.pending.getLast?
    let surface := seen.orElse fun _ => h.surface
    let h1 : Head :=
      { h with
        frames := h.frames + 1, frame := h.frame + 1, pending := [], surface := surface
        replaced := h.replaced + BitVec.ofNat 16 (h.pending.length - 1) }
    let (s, rows) : State × Option (List (List Nat)) := match surface with
      | some va => s.scan die h va.toNat h.height
      | none => (s, some [])
    let toEnc (s : State) : State :=
      s.modDie die fun d => d.setSession (dwAt h.dctl 2 2) ((d.session (dwAt h.dctl 2 2)).give d.eqt)
    let done (s : State) (h : Head) : State := s.modDie die fun d => d.setHead k h
    match rows with
    | none => some (toEnc (done s { h1 with fault := true }))
    | some l =>
      if !dwBit h.dctl 1 then some (toEnc (done s h1))
      else
        let (s1, ok) := s.writeBack die h h.dwb.toNat l
        some (done s1 { h1 with fault := h1.fault || !ok })

def execDisplayFrameStart (die head : Nat) (s : State) : Res := occur s (s.frameStart die head)

/-! ### Encoder sessions (R214, R253) -/

def Session.on (e : Session) : Bool := dwBit e.esctl 0

/-- Pixels a second of a session. -/
def Session.load (e : Session) : Nat := (dwAt e.esctl 32 16 + 1) * (dwAt e.esctl 48 16 + 1) * dwAt e.esrate 0 16

/-- The most pixels a second of an encoder. -/
def encoderLoad : Nat := 7680 * 4320 * 60

/-- Settings that a coding does not have: coding 3, a reserved bit, and 10 bits in H.264. [DEDUCED: notes/assumptions/58.md] -/
def badSetting (v : Dw) : Bool :=
  decide (dwAt v 1 2 = 3) || decide (dwAt v 18 14 ≠ 0) || (decide (dwAt v 1 2 = 2) && dwBit v 3)

/-- An ESCTL write: enabling is refused with status 3 for a reserved setting and 2 beyond the encoder's load. -/
def Die.control (d : Die) (k : Nat) (v : Dw) : Die :=
  let e := d.session k
  let w := v &&& 0xFFFFFFFF0003FFFF
  if e.on then (if dwBit v 0 then d else d.setSession k { e with esctl := e.esctl &&& ~~~1, coding := false })
  else if !dwBit v 0 then d.setSession k { e with esctl := w }
  else
    let e1 := { e with esctl := w, status := 0, off := 0, key := true, coding := false, cut := none }
    let total := (List.range 4).foldl (fun n j => if j = k then n else if (d.session j).on then n + (d.session j).load else n) e1.load
    if badSetting v then d.setSession k { e with esctl := w &&& ~~~1, status := 3 }
    else if encoderLoad < total then d.setSession k { e with esctl := w &&& ~~~1, status := 2 }
    else d.setSession k e1

/-- ESCTL_WRITE (R214). -/
def execEsctlWrite (die session : Nat) (v : Dw) (s : State) : Res :=
  .next (if session < 4 ∧ s.dieAdmits die = true then s.modDie die fun d => d.control session v else s)

/-- The placed channel that is bound to a session. -/
def State.sessionChan (s : State) (die k : Nat) : Option (Nat × Nat × Region × Chan) :=
  s.regions.findSome? fun r => r.2.bind fun g =>
    match g.chanOf (.enc die k) with
    | some (i, c) => some (r.1, i, g, c)
    | none => none

/-- The number of the next token that a source outside the fabric places on a channel. -/
def Region.nextSeq (g : Region) (c : Chan) : BitVec 12 :=
  match c.wire.getLast? with
  | some f => f.tok.seq + 1
  | none => match c.dst with
    | .actor a p => ((g.actor a).map fun x => (x.port p).exp).getD 0
    | _ => 0

/-- A frame's bytes written to the ring, which wraps; whether all were. [DEDUCED: notes/assumptions/58.md] -/
def State.ringWrite (s : State) (die asid base size off : Nat) (l : List Byte) : State × Bool :=
  let put (s : State) (va : Nat) (b : List Byte) : State × Bool :=
    let s1 := s.grantSeen die asid va b.length { w := true }
    match s.grantXl die asid va b.length { w := true } with
    | some ps => (s1.hwWrite ps b, true)
    | none => (s1, false)
  let one := l.take (size - off)
  let two := l.drop (size - off)
  let (s1, ok) := if one = [] then (s, true) else put s (base + off) one
  if !ok || two = [] then (s1, ok) else put s1 base two

/-- ENCODER_FRAME_DONE (R214): the coded frame goes to the ring and its token to the bound channel; a frame for which the ring
lacks space is dropped, and the next is a key frame. It waits for a slot of the channel, on which a solstice follows the last frame of a
cut (R215). [DEDUCED: notes/assumptions/58.md] -/
def State.frameDone (s : State) (die k : Nat) (frame : List Byte) : Option State :=
  let e := (s.die die).session k
  if !e.on || !e.coding then none
  else
    let chan := s.sessionChan die k
    if (chan.map fun c => decide (c.2.2.1.freeSlots c.2.2.2 = 0)).getD false then none
    else
      let size := e.ersize.toNat
      let (rate, s) := s.free
      let (refs, s) := s.free
      let (s, wrote) := if size < frame.length then (s, false) else s.ringWrite die (dwAt e.esctl 4 14) e.ering.toNat size e.off frame
      let len := if wrote then frame.length else 0
      let e1 : Session :=
        { e with
          rate := rate, refs := refs, coding := false, coded := if wrote then e.coded + 1 else e.coded, key := !wrote
          off := if wrote ∧ size ≠ 0 then (e.off + len) % size else e.off }
      let s1 := s.modDie die fun d => d.setSession k e1
      match chan with
      | none => some s1
      | some (r, i, g, c) =>
        let tok : Token := { kind := 0, seq := g.nextSeq c, payload := [packDw [(e.off % 2 ^ 32, 0), (len % 2 ^ 32, 32)], e.start] }
        let s2 := s1.modRegion r fun g => g.setChan i (c.put tok [] 1)
        some (if g.cutBy.isSome then s2.modRegion r fun g => g.modChan i g.linkSolstice else s2)

def execEncoderFrameDone (die session : Nat) (frame : List Byte) (s : State) : Res := occur s (s.frameDone die session frame)

end Sys2Proof.Machine
end

