-- ==== Sys2Proof/Machine/Links.lean ====
section
/-! DEFINITION. Between dies and packages: the checkpoint copies, the connection table and its circuits, die edges, sister links and
link channels (R235, R236, R240 to R245, R249, R251). -/

namespace Sys2Proof.Machine

/-! ### Checkpoint copies in package mode (R235, R236) -/

/-- Bytes of a range copied: every cell of the target range replaced by the source's. -/
def State.copyRange (s : State) (src dst n : Nat) : State :=
  let inDst (a : Nat) : Bool := decide (dst ≤ a) && decide (a < dst + n)
  let inSrc (a : Nat) : Bool := decide (src ≤ a) && decide (a < src + n)
  let new := (s.mem.filter fun c => inSrc c.1).map fun c => (dst + (c.1 - src), c.2)
  { s with mem := new.foldl (fun m c => sset 0 m c.1 c.2) (s.mem.filter fun c => !inDst c.1) }

/-- Poison of a range's lines carried to another range. -/
def State.copyPoison (s : State) (src dst n : Nat) : State :=
  let lines := s.poison.filterMap fun p => if p.2 ∧ src ≤ 128 * p.1 ∧ 128 * p.1 < src + n then some ((dst + 128 * p.1 - src) / 128) else none
  let clear : Sparse Bool := s.poison.filter fun p => !(decide (dst ≤ 128 * p.1) && decide (128 * p.1 < dst + n))
  { s with poison := lines.foldl (fun m l => sset false m l true) clear }

/-- The safe tier that a base address names: host memory, or a package-owned sister link's window that is up.
[DESIGN CHOICE: notes/assumptions/59.md] -/
def State.safeTier (s : State) (base : Nat) : Bool :=
  decide (base % 128 = 0) && decide (2 ^ 40 ≤ base) && s.paExists base && s.paExists (base + s.fitted - 1) &&
    (decide (base < 2 ^ 51) || (s.link (base / 2 ^ 48 % 8)).pkg)

/-- No region runs: the premise of a checkpoint (R235). -/
def State.quiet (s : State) : Bool := s.regions.all fun g => match g.2 with | some v => v.launch.isNone | none => true

/-- Bytes of each of the 96 contiguous parts of device memory but the last, whole lines (R235).
[DESIGN CHOICE: notes/assumptions/59.md] -/
def partBytes (fitted : Nat) : Nat := (fitted + 12287) / 12288 * 128

/-- Where a part begins in device memory, and its bytes. -/
def partSpan (fitted i : Nat) : Nat × Nat := (i * partBytes fitted, min (partBytes fitted) (fitted - i * partBytes fitted))

/-- One part copied to the safe tier, poison with it, each poisoned line reported with code 0x16 (R146, R235). -/
def State.partOut (s : State) (base i : Nat) : State :=
  let (p, n) := partSpan s.fitted i
  let bad := s.poison.filterMap fun q => if q.2 ∧ p ≤ 128 * q.1 ∧ 128 * q.1 < p + n then some q.1 else none
  { (s.copyRange p (base + p) n).copyPoison p (base + p) n with ckptBad := s.ckptBad ++ bad }

/-- One part copied back (R236): whole lines are written, so the device lines' poison is cleared, to be reapplied from the list. -/
def State.partBack (s : State) (base i : Nat) : State :=
  let (p, n) := partSpan s.fitted i
  let within (l : Nat) : Bool := decide (p ≤ 128 * l) && decide (128 * l < p + n)
  let s1 := s.copyRange (base + p) p n
  { s1 with poison := s1.poison.filter fun q => !within q.1, sharers := s1.sharers.filter fun q => !within q.1 }

/-- A package-mode copy is begun, its 96 commands issued; or the engine that is done next copies its part, whose bytes the management
processor counts. [DESIGN CHOICE: notes/assumptions/59.md] -/
def State.packageCopy (s : State) (base : Nat) (back : Bool) : Option State :=
  if !s.quiet || !s.safeTier base then none
  else
    match s.ckpt with
    | none => some { s with ckpt := some { base := base, back := back, parts := List.range 96, lacks := s.fitted }, ckptDone := false, ckptBad := [] }
    | some c =>
      if c.base ≠ base ∨ c.back ≠ back ∨ c.parts = [] then none
      else
        let (v, s) := s.free
        let i := c.parts.getD (v.toNat % c.parts.length) 0
        let s1 := if back then s.partBack base i else s.partOut base i
        some { s1 with ckpt := some { c with parts := c.parts.erase i, lacks := c.lacks - (partSpan s.fitted i).2 } }

/-- CHECKPOINT_COPY (R235): device memory copied to the safe tier by the 96 copy engines in package mode. -/
def execCheckpointCopy (base : Nat) (s : State) : Res := occur s (s.packageCopy base false)

/-- CHECKPOINT_COPY_DONE (R235): the last completion ends the copy, which is reported. -/
def execCheckpointCopyDone (s : State) : Res :=
  occur s (s.ckpt.bind fun c => if c.lacks = 0 then some { s with ckpt := none, ckptDone := true } else none)

/-- CHECKPOINT_RESTORE_COPY (R236): the safe tier copied back. -/
def execCheckpointRestoreCopy (base : Nat) (s : State) : Res := occur s (s.packageCopy base true)

/-! ### The connection table (R240 to R244) -/

/-- Another entry holds a group at a die. -/
def State.groupUsed (s : State) (e grp d : Nat) : Bool :=
  s.conn.any fun p => decide (p.1 ≠ e) && entV p.2 && decide (entGrp p.2 = grp) && entAt p.2 d

/-- Why a write that sets v is refused, in the order of R242. -/
def State.refuseEntry (s : State) (e : Nat) (v : Dw) : Option Nat :=
  let a := entA v
  let b := entB v
  if a = b then some 1
  else if s.groupUsed e (entGrp v) a ∨ s.groupUsed e (entGrp v) b then some 2
  else if !entBulk v && (edgeNum a b).isNone then some 3
  else if s.sliceOfDie a ≠ s.sliceOfDie b then some 4
  else if v &&& 0x00011FFFFFFFFFFF ≠ 0 then some 5
  else none

/-- A placed channel satisfies a test. -/
def State.anyChan (s : State) (f : Chan → Bool) : Bool :=
  s.regions.any fun g => match g.2 with
    | some v => v.chans.any fun c => match c.2 with | some c => f c | none => false
    | none => false

/-- A circuit may not be cleared: a channel goes over a narrow circuit's edge, or is bound to a bulk one (R243, R244).
[DEDUCED: notes/assumptions/60.md] -/
def State.circuitUsed (s : State) (e : Nat) (v : Dw) : Bool :=
  if entBulk v then s.anyChan fun c => c.circuits.contains e else s.anyChan fun c => s.overEdge c (entA v) (entB v)

/-- A refusal recorded in CTSTAT (R242). -/
def State.refuseCircuit (s : State) (e why : Nat) : State :=
  { s with ctEntry := BitVec.ofNat 8 e, ctReason := BitVec.ofNat 3 why, ctSticky := true }

/-- A die's slice has its configuration locked (R247). -/
def State.frozenDie (s : State) (d : Nat) : Bool := ((s.sliceOfDie d).map fun n => (s.slice n).frozen).getD false

/-- CONNECTION_ENTRY_WRITE (R242, R243, R247). [DEDUCED: notes/assumptions/60.md] -/
def State.writeEntry' (s : State) (e : Nat) (v : Dw) : State :=
  let old := s.entry e
  let frozen (w : Dw) : Bool := entV w && (s.frozenDie (entA w) || s.frozenDie (entB w))
  if frozen old || frozen v then s
  else if entV v then
    match s.refuseEntry e v with
    | some why => s.refuseCircuit e why
    | none => { s.setEntry e (v &&& 0xBFFFFFFFFFFFFFFF) with draining := sset false s.draining e false }
  else if !entV old then s.setEntry e (v &&& 0x3FFEE00000000000)
  else if s.circuitUsed e old then s.refuseCircuit e 6
  else if entBulk old then { s.setEntry e (old &&& 0xBFFFFFFFFFFFFFFF) with draining := sset false s.draining e true }
  else s.setEntry e (v &&& 0x3FFEE00000000000)

def execConnectionEntryWrite (e : Nat) (v : Dw) (s : State) : Res :=
  .next (if e < 256 ∧ s.mgmtAdmits = true then s.writeEntry' e v else s)

/-- CIRCUIT_CALIBRATED (R242). -/
def execCircuitCalibrated (e : Nat) (s : State) : Res :=
  let v := s.entry e
  occur s (if entV v && !entRdy v && !sget false s.draining e then some (s.setEntry e (v ||| 0x4000000000000000)) else none)

/-- BULK_CIRCUIT_DRAIN (R243). [DEDUCED: notes/assumptions/60.md] -/
def execBulkCircuitDrain (e : Nat) (s : State) : Res :=
  occur s (if sget false s.draining e then
    some { s.setEntry e (s.entry e &&& 0x7FFFFFFFFFFFFFFF) with draining := sset false s.draining e false } else none)

/-- CTSTAT_WRITE (R242). -/
def execCtstatWrite (v : Word) (s : State) : Res :=
  .next (if v.getLsbD 31 && s.mgmtAdmits then { s with ctSticky := false } else s)

/-! ### Die edges (R245) -/

/-- FLIT_REPLAY: a failed flit is replayed; a row of failures is counted up to 16. -/
def execFlitReplay (edge : Nat) (s : State) : Res :=
  .next (if edge < 10 then { s with replays := sset 0 s.replays edge (min 16 (sget 0 s.replays edge + 1)) } else s)

/-- DIE_EDGE_DOWN: after 16 failed replays in a row; every launch with a boundary channel across the edge ends.
[DEDUCED: notes/assumptions/62.md] -/
def State.edgeDown (s : State) (e : Nat) : Option State :=
  if sget 0 s.replays e < 16 ∨ sget false s.edgesDown e = true then none
  else
    let a := ((edgeBlocks[e]?).map (·.1)).getD 0
    let hit := s.regions.filterMap fun g => match g.2 with
      | some v => if s.crossesEdge v e && v.launch.isSome then some g.1 else none
      | none => none
    some (hit.foldl (fun s r => s.endRegion r (BitVec.ofNat 64 a) 0) { s with edgesDown := sset false s.edgesDown e true })

def execDieEdgeDown (edge : Nat) (s : State) : Res := occur s (s.edgeDown edge)

/-! ### Sister links and link channels (R249, R251) -/

/-- The receiving halves of a link's channels that are placed: region, channel and number. -/
def State.linkHalves (s : State) (k : Nat) : List (Nat × Nat × Nat) :=
  s.regions.flatMap fun r => match r.2 with
    | some g => g.chans.filterMap fun c => match c.2 with
      | some v => match v.src with
        | .link j n => if j = k then some (r.1, c.1, n) else none
        | _ => none
      | none => none
    | none => []

/-- The oldest tokens that wait at a link port put on their receiving half while it has free slots; no more in a cut. -/
def State.deliverLink (s : State) (k r ch n : Nat) : Nat → State
  | 0 => s
  | f + 1 =>
    match s.region r, sget [] (s.link k).recv n with
    | some g, t :: rest =>
      match g.chan ch with
      | some c =>
        if g.cutBy.isSome || decide (g.freeSlots c = 0) then s
        else
          let s1 := s.setLink k { s.link k with recv := sset [] (s.link k).recv n rest }
          (s1.modRegion r fun g => g.setChan ch (c.put t [] 1)).deliverLink k r ch n f
      | none => s
    | _, _ => s

/-- Every waiting token of a link channel that can go on goes on. -/
def State.deliverHalf (s : State) (k n : Nat) : State :=
  match (s.linkHalves k).find? fun h => decide (h.2.2 = n) with
  | some (r, ch, _) => s.deliverLink k r ch n 256
  | none => s

/-- LINK_CHANNEL_TOKEN (R251): a token reaches the receiving link port, which holds up to 256, and is delivered while a slot is
free; with no doubleword nothing arrives, and the port delivers what waits. -/
def State.linkToken (s : State) (k n : Nat) (tok : List Dw) (sb : BitVec 16) : Option State :=
  let l := s.link k
  if tok = [] then some (s.deliverHalf k n)
  else if !l.live || l.pkg || decide (256 ≤ (sget [] l.recv n).length) then none
  else
    let t : Token := { kind := sb.extractLsb' 12 4, seq := sb.extractLsb' 0 12, payload := tok }
    some ((s.setLink k
      { l with recv := sset [] l.recv n (sget [] l.recv n ++ [t]), nexts := sset none l.nexts n (some (t.seq + 1)) }).deliverHalf k n)

def execLinkChannelToken (link chan : Nat) (tok : List Dw) (sb : BitVec 16) (s : State) : Res :=
  occur s (s.linkToken link chan tok sb)

/-- Error tokens in place of the tokens lost on a link, numbered on from the last that came, and an EOS with the error mark.
[DEDUCED: notes/assumptions/63.md] -/
def lostTokens (asid ch : Nat) (seq : BitVec 12) (count : Dw) : Nat → List Token
  | 0 => [{ kind := 2, seq := seq, payload := [packDw [(1, 0), (dwAt count 0 32, 32)]] }]
  | n + 1 => { kind := 4, seq := seq, payload := errPayload asid (ch % 256) 0 0 0 0x18 0 } :: lostTokens asid ch (seq + 1) count n

/-- The receiving half of a link channel in a region: its index and its channel. -/
def Region.linkHalf (g : Region) (k n : Nat) : Option (Nat × Chan) :=
  g.chans.findSome? fun c => c.2.bind fun v => if v.src = .link k n then some (c.1, v) else none

/-- The link channels that a link carries in to this package: those whose half is placed or in a stopped region, and those that have
carried a token (R251). -/
def State.linkNumbers (s : State) (k : Nat) : List Nat :=
  let has (n : Nat) : Bool := (sget none (s.link k).nexts n).isSome ||
    (s.regions.any fun r => ((r.2.bind fun g => g.linkHalf k n).isSome)) || s.kept.any fun q => (q.g.linkHalf k n).isSome
  (List.range 256).filter has

/-- What follows on a link channel as its link goes down (R249), its receiving half placed or not: how many tokens are lost and the
count of the stream they belong to are the peer's, free values, as are the ASID and index of a channel no half of which is known.
[DEDUCED: notes/assumptions/63.md] -/
def State.failHalf (s : State) (k n : Nat) : State :=
  let placed := s.regions.findSome? fun r => r.2.bind fun g => (g.linkHalf k n).map fun c => (g, c)
  let half := placed.orElse fun _ => s.kept.findSome? fun q => (q.g.linkHalf k n).map fun c => (q.g, c)
  let wait := sget [] (s.link k).recv n
  let seq := match wait.getLast?, placed with
    | some t, _ => t.seq + 1
    | none, some (g, c) => g.nextSeq c.2
    | none, none => (sget none (s.link k).nexts n).getD 0
  let (lost, s1) := s.free
  let (count, s2) := s1.free
  let (who, s3) := s2.free
  let ids := match half with
    | some (g, c) => (g.asid, c.1)
    | none => (dwAt who 0 14, dwAt who 14 8)
  let toks := lostTokens ids.1 ids.2 seq count (lost.toNat % 257)
  let l := s3.link k
  s3.setLink k
    { l with recv := sset [] l.recv n (wait ++ toks), nexts := sset none l.nexts n (some (seq + BitVec.ofNat 12 toks.length)) }

/-- SISTER_LINK_DOWN (R249): every link channel that it carries fails, and the credits of those it carries out are gone. -/
def State.linkDown (s : State) (k : Nat) : Option State :=
  let l := s.link k
  if !l.up then none
  else
    let s1 := s.setLink k { l with cfg := l.cfg ^^^ 0x100, owed := [] }
    let ns := s1.linkNumbers k
    some (ns.foldl (fun s n => s.deliverHalf k n) (ns.foldl (fun s n => s.failHalf k n) s1))

def execSisterLinkDown (link : Nat) (s : State) : Res := occur s (s.linkDown link)

/-- SISTER_LINK_UP (R249): of a link that is enabled. -/
def execSisterLinkUp (link : Nat) (s : State) : Res :=
  .next (if link < 8 ∧ (s.link link).enabled = true then s.setLink link { s.link link with cfg := (s.link link).cfg ||| 0x100 } else s)

end Sys2Proof.Machine
end

