-- ==== Sys2Proof/Machine/Package.lean ====
section
/-! DEFINITION. Slices and management: slice descriptors, trusted interfaces, Equinox time, freezing, invalidation, hotness windows,
tile registers and the registers that only hold a value (R9, R44, R129, R143, R167, R172, R247 to R253, R258). -/

namespace Sys2Proof.Machine

/-! ### Slices and trusted interfaces (R247, R252, R253, R255) -/

/-- A launch the front end holds or loads ends without running, with status 6. [DEDUCED: notes/assumptions/65.md] -/
def State.dropHeld (s : State) (slice : Nat) : State :=
  let ls := (s.slice slice).waiting.map (·.launch) ++ s.loads.filterMap fun l => if l.slice = slice then l.launch else none
  let s1 := ls.foldl (fun s l => s.refuseLaunch slice l 6 0) s
  { s1.modSlice slice (fun n => { n with waiting := [] }) with loads := s1.loads.filter fun l => decide (l.slice ≠ slice) }

/-- Every launch of a slice stops as under a die reset and its launch queues are disabled (R247, R253). -/
def State.stopSlice (s : State) (slice : Nat) : State :=
  let n := s.slice slice
  let rs := s.regions.filterMap fun g => if g.1 / 65536 = slice ∧ g.2.isSome then some g.1 else none
  let s1 := (rs.foldl (fun s r => s.endRegion r (BitVec.ofNat 64 n.firstDie) 0) s).dropHeld slice
  s1.modSlice slice fun n => { n with queues := smap {} (fun _ u => { u with cfg := u.cfg &&& 0xFFFFFFFFFFFFFFFE }) n.queues }

/-- The bytes of a digest, most significant first. -/
def digestBytes (d : BitVec 256) : List Byte := (leBytes 32 d.toNat).reverse

/-- A measurement register extended: M = SHA3-256(M ‖ d). [DESIGN CHOICE: notes/assumptions/69.md] -/
def State.extend (s : State) (k : Nat) (d : BitVec 256) : State :=
  { s with meas := sset 0 s.meas k (Sys2Proof.Config.sha3 (digestBytes (sget 0 s.meas k) ++ digestBytes d)) }

/-- What a slice's measurement covers (R254): its descriptor, the connection-table entries that touch its dies, the SLCFGs it owns, and
its TDI state, in the order of the TDISP states. [DESIGN CHOICE: notes/assumptions/69.md] -/
def State.sliceImage (s : State) (slice : Nat) : List Byte :=
  let n := s.slice slice
  let mine (v : Dw) : Bool := entV v && (List.range 8).any fun d => n.hasDie d && entAt v d
  let tdi := match n.tdi with
    | .unlocked => 0
    | .locked => 1
    | .run => 2
    | .error => 3
  Sys2Proof.Config.sliceBytes n.desc ((List.range 256).filterMap fun e => if mine (s.entry e) then some (s.entry e) else none)
    ((List.range 8).filterMap fun k => let l := s.link k; if l.enabled && !l.pkg && decide (l.owner = slice) then some l.cfg else none) tdi

/-- A slice's measurement register reset and extended anew (R254, R255). -/
def State.remeasure (s : State) (slice : Nat) : State :=
  { s with meas := sset 0 s.meas (8 + slice) 0 }.extend (8 + slice) (Sys2Proof.Config.sha3 (s.sliceImage slice))

/-- The bits a slice descriptor holds (R252). -/
def descBits : BitVec 128 := 0xFFFF03FF

/-- A descriptor is refused beside the other slices (R252), while a die of it has not been cleared of another slice (R253), and where
it would enable a slice with a die that failed training (R260). [DEDUCED: notes/assumptions/65.md] -/
def State.refuseDesc (s : State) (slice : Nat) (v : Slice) : Bool :=
  let others := s.slices.filter fun p => decide (p.1 ≠ slice)
  let hit (o : Slice) : Bool := decide (v.abase < o.abase + o.acnt) && decide (o.abase < v.abase + v.acnt)
  let foreign (d : Nat) : Bool := match (s.die d).former with | some n => decide (n ≠ slice) | none => false
  (others.any fun o => (o.2.on && decide (Nat.land o.2.dies v.dies ≠ 0)) || hit o.2) || decide (16384 < v.abase + v.acnt) || decide (v.acnt = 0) ||
    (List.range 8).any fun d => v.hasDie d && (foreign d || (v.on && decide (3 ≤ s.stage.toNat) && !(s.die d).trained))

/-- SLDESC_WRITE (R252, R253): on an enabled slice only a clear of en counts, which stops the slice.
[DEDUCED: notes/assumptions/65.md] -/
def State.writeDesc (s : State) (slice : Nat) (v : BitVec 128) : State :=
  let n := s.slice slice
  let new : Slice := { n with desc := v &&& descBits }
  if n.frozen then s
  else if n.on then
    if v.getLsbD 8 then s
    else
      let s1 := (s.stopSlice slice).modSlice slice fun n => { n with desc := n.desc &&& (descBits ^^^ 0x100) }
      (List.range 8).foldl (fun s d => if n.hasDie d then s.modDie d fun x => { x with former := some slice } else s) s1
  else if s.refuseDesc slice new then s
  else
    let s1 := s.setSlice slice new
    if new.on then s1.remeasure slice else s1

def execSldescWrite (slice : Nat) (v : BitVec 128) (s : State) : Res :=
  .next (if slice < 8 ∧ s.mgmtAdmits = true then s.writeDesc slice v else s)

/-- A tile with its scratchpad and accumulators zeroed and no access left at its port; what R253 does not name stays.
[DEDUCED: notes/assumptions/65.md] -/
def Tile.wiped (t : Tile) : Tile := { t with spad := [], acc := [], port := [] }

/-- DIE_STATE_CLEARED (R253): a former slice's die, no longer a member of an enabled slice, is zeroed.
[DEDUCED: notes/assumptions/65.md] -/
def State.clearDie (s : State) (die : Nat) : Option State :=
  let d := s.die die
  if d.former.isNone || (s.sliceOfDie die).isSome then none
  else
    let mine (pa : Nat) : Bool := decide (pa < 2 ^ 40) && decide (homeDie pa = die)
    let s1 := (List.range 128).foldl (fun s k => s.modTile (tileInDie die k) Tile.wiped) s
    some
      { s1.setDie die { d with former := none, heads := [], sess := [], tlb := [] } with
        mem := s1.mem.filter fun c => !mine c.1
        full := s1.full.filter fun c => !mine (8 * c.1)
        poison := s1.poison.filter fun c => !mine (128 * c.1)
        sharers := s1.sharers.filter fun c => !mine (128 * c.1)
        conn := smap 0 (fun _ v => if entV v && entAt v die then 0 else v) s1.conn }

def execDieStateCleared (die : Nat) (s : State) : Res := occur s (s.clearDie die)

/-- TDI_STATE_CHANGE (R247, R255): the slice is measured again on each change; in the recovery state, in which physical function 0 alone
is presented (R254), there is none. -/
def execTdiStateChange (slice : Nat) (st : TdiState) (s : State) : Res :=
  if s.recovery = true ∨ (s.slice slice).tdi = st then .next s
  else .next ((s.modSlice slice fun n => { n with tdi := st }).remeasure slice)

/-- IDE_INTEGRITY_FAILURE (R247): on the stream bound to a locked or running interface. -/
def execIdeIntegrityFailure (slice : Nat) (s : State) : Res :=
  occur s (if (s.slice slice).frozen then
    some (((s.modSlice slice fun n => { n with tdi := .error }).stopSlice slice).remeasure slice) else none)

/-! ### Equinox time (R167, R168, R250) -/

/-- The reference that a TROOT value chooses (R167, R250): 0 the I/O die's own clock, 1 the host's time, 2 + k the root on sister
link k. -/
def timeSource (v : Word) : Nat := if v.getLsbD 0 then 1 else if v.getLsbD 5 then 2 + bitsAt v.toNat 2 3 else 0

/-- TROOT_WRITE (R250): every die's EQE is unbounded until it locks again under the new reference, whose time is a free value where
it is not this package's own. [DESIGN CHOICE: notes/assumptions/68.md] -/
def execTrootWrite (v : Word) (s : State) : Res :=
  if s.mgmtAdmits = false then .next s else
  let (t, s1) := s.free
  let ref := if timeSource v = 0 then s.ioClock else if timeSource v = timeSource s.troot then s.ref else t
  .next ((List.range 8).foldl (fun s d => s.modDie d fun x => { x with locked := false, eqe := 0xFFFFFFFFFFFFFFFF })
    { s1 with troot := v &&& 0x3F, ref := ref })

/-- |EQT − reference| ≤ EQE for a pair of values (R167). -/
def State.timeOk (s : State) (eqt eqe : Dw) : Bool := decide ((eqt - s.ref).toInt.natAbs ≤ eqe.toNat)

/-- Updates of the reference arrive: on a link followed, while it is enabled and up (R250). -/
def State.timeServed (s : State) : Bool := decide (timeSource s.troot < 2) || (s.link (timeSource s.troot - 2)).live

/-- Updates reach a die, over the narrow plane of an edge of it (R242, R245). [DEDUCED: notes/assumptions/61.md] -/
def State.timeReaches (s : State) (die : Nat) : Bool := s.timeServed && (List.range 8).any (s.narrowAt die)

/-- Updates have arrived at a die within the last 64 µs, and it has locked (R168). -/
def Die.updated (d : Die) : Bool := d.locked && decide (d.holdover ≤ 4096000)

/-- An error bound that keeps the sum of any two dies' EQE within 3 ns (R168), and with it the wider bounds towards other
packages and the host. [DESIGN CHOICE: notes/assumptions/68.md] -/
def State.boundOk (s : State) (die : Nat) (eqe : Dw) : Bool :=
  decide (eqe.toNat ≤ 192) && (List.range 8).all fun d => decide (d = die) || !(s.die d).updated ||
    decide (eqe.toNat + (s.die d).eqe.toNat ≤ 192)

/-- EQUINOX_SYNC_MESSAGE (R167, R168, R250): a correction of EQT to be slewed, and the error bound, which holds before and after it.
Before lock it corrects nothing. [DESIGN CHOICE: notes/assumptions/68.md] -/
def execEquinoxSyncMessage (die : Nat) (fwd : Bool) (step : Nat) (eqe : Dw) (s : State) : Res :=
  let d := s.die die
  let c : Int := if fwd then (step : Int) else -(step : Int)
  occur s (if d.locked && s.timeReaches die && s.boundOk die eqe && decide (((d.eqt - s.ref).toInt).natAbs ≤ eqe.toNat) &&
      decide (((d.eqt - s.ref).toInt + c).natAbs ≤ eqe.toNat) then
    some (s.modDie die fun d => { d with eqe := eqe, holdover := 0, slew := c }) else none)

/-- The default connection table is installed: boot has gone through stage 3 (R260). -/
def State.set (s : State) : Bool := s.powered && !s.recovery && decide (3 ≤ s.stage.toNat)

/-- EQUINOX_LOCK (R167, R168, R260): the lock that ends an unbounded period may step EQT; none comes before the default connection
table. [DESIGN CHOICE: notes/assumptions/68.md] -/
def execEquinoxLock (die : Nat) (eqt eqe : Dw) (s : State) : Res :=
  occur s (if s.set && !(s.die die).locked && s.timeReaches die && s.boundOk die eqe && s.timeOk eqt eqe then
    some (s.modDie die fun d => { d with eqt := eqt, eqe := eqe, locked := true, holdover := 0, slew := 0 }) else none)

/-! ### Freezing (R258) -/

/-- FRZ_WRITE and FREEZE_INPUT: they act only while debug is unlocked. -/
def execFrzWrite (v : Word) (s : State) : Res :=
  .next (if s.mgmtAdmits && s.debug && v.getLsbD 0 then { s with frz := true } else s)
def execFreezeInput (s : State) : Res := .next (if s.debug then { s with frz := true } else s)

/-! ### Translation invalidation (R129, R253) -/

/-- TINV0_WRITE: ignored, and noted, while an invalidation is under way. -/
def execTinv0Write (slice : Nat) (v : Dw) (s : State) : Res :=
  if s.pageAdmits slice = false then .next s else
  .next (s.modSlice slice fun n => if n.tinvDone then { n with tinv0 := v &&& 0x803FFFFFFFFFFFFF } else { n with tinvRefused := true })

/-- TINV1_WRITE: starts an invalidation; one for an ASID outside the slice is done at once and noted.
[DEDUCED: notes/assumptions/66.md] -/
def execTinv1Write (slice : Nat) (v : Dw) (s : State) : Res :=
  if s.pageAdmits slice = false then .next s else
  .next (s.modSlice slice fun n =>
    if !n.tinvDone then { n with tinvRefused := true }
    else
      let n1 := { n with tinvPages := v.extractLsb' 0 32 }
      if n.hasAsid (dwAt n.tinv0 40 14) then { n1 with tinvDone := false } else { n1 with tinvRefused := true })

/-- A page of an ASID that an invalidation covers. -/
def Slice.invalidates (n : Slice) (asid page : Nat) : Bool :=
  decide (asid = dwAt n.tinv0 40 14) &&
    (dwBit n.tinv0 63 || (decide (dwAt n.tinv0 0 40 ≤ page) && decide (page < dwAt n.tinv0 0 40 + n.tinvPages.toNat)))

/-- TINV_DONE: every access that used a matching translation is performed at package scope, and the slice's caches drop them. -/
def State.tinvEnds (s : State) (slice : Nat) : Option State :=
  let n := s.slice slice
  let clear := s.tiles.all fun t => !n.hasDie (dieOf t.1) || t.2.port.all fun a =>
    decide (a.pas = []) || !(a.pages.any (n.invalidates a.asid)) || a.performed 2
  if n.tinvDone || !clear then none
  else
    let s1 := (List.range 8).foldl (fun s d => if n.hasDie d then
      s.modDie d fun x => { x with tlb := x.tlb.filter fun e => !n.invalidates e.asid e.page } else s) s
    some (s1.setSlice slice { n with tinvDone := true })

def execTinvDone (slice : Nat) (s : State) : Res := occur s (s.tinvEnds slice)

/-! ### Tile registers and hotness windows (R44, R143) -/

/-- The tiles a tile register write reaches, and the one that a read names. -/
def State.trTile (s : State) (die : Nat) : Nat := tileInDie die (s.die die).trsel.toNat
def State.trTiles (s : State) (die : Nat) : List Nat :=
  if (s.die die).trsel.getLsbD 31 then (List.range 128).map (tileInDie die) else [s.trTile die]

/-- A handler range meets a window of an actor resident on a tile. -/
def State.meetsWindow (s : State) (tile : Nat) (base limit : Nat) : Bool :=
  (s.actorsOn tile).any fun x =>
    meets (64 * base) (64 * limit - 64 * base) x.codeB (x.codeL - x.codeB) || meets (64 * base) (64 * limit - 64 * base) x.locB (x.locL - x.locB)

/-- TRRES_WRITE (R44): ignored on a tile where the new range would overlap a resident window, or for a bound past 4,096.
[DEDUCED: notes/assumptions/66.md] -/
def execTrresWrite (die : Nat) (v : Dw) (s : State) : Res :=
  let base := v.extractLsb' 0 13
  let limit := v.extractLsb' 16 13
  if 4096 < base.toNat ∨ 4096 < limit.toNat ∨ s.dieAdmits die = false then .next s
  else .next ((s.trTiles die).foldl (fun s t =>
    if s.meetsWindow t base.toNat limit.toNat then s else s.modTile t fun u => { u with hrBase := base, hrLimit := limit }) s)

/-- TRADDR advances by one unit (R44). -/
def Die.nextTraddr (d : Die) : Die := { d with traddr := (d.traddr + 8) &&& 0x3FFF8 }

/-- The eight bytes at TRADDR lie in a tile's handler range. -/
def Tile.inHandler (t : Tile) (a : Nat) : Bool := within a 8 (64 * t.hrBase.toNat) (64 * t.hrLimit.toNat)

/-- TRDATA_READ (R44): a read that does not reach the page is answered with zero (R247). -/
def execTrdataRead (die : Nat) (s : State) : Res :=
  if s.dieAdmits die = false then .next { s with reply := [0] } else
  let d := s.die die
  let t := s.tile (s.trTile die)
  let v := if t.inHandler d.traddr.toNat then BitVec.ofNat 64 (t.load d.traddr.toNat 8) else 0
  .next { s.setDie die d.nextTraddr with reply := [v] }

/-- TRDATA_WRITE (R44). -/
def execTrdataWrite (die : Nat) (v : Dw) (s : State) : Res :=
  if s.dieAdmits die = false then .next s else
  let a := (s.die die).traddr.toNat
  let s1 := (s.trTiles die).foldl (fun s t => s.modTile t fun u => if u.inHandler a then u.setBytes a (dwBytes v) else u) s
  .next (s1.modDie die Die.nextTraddr)

/-- The window that HWSEL selects: its tile and number. -/
def State.hwTile (s : State) (die : Nat) : Nat := tileInDie die ((s.die die).hwsel.toNat % 128)
def State.hwWin (s : State) (die : Nat) : Nat := bitsAt (s.die die).hwsel.toNat 8 4
def Tile.win (t : Tile) (w : Nat) : HotWin := sget {} t.hot w

/-- HWCNT_READ (R143): both counters, cleared in one step; zero where the read does not reach the page (R247).
[DEDUCED: notes/assumptions/67.md] -/
def execHwcntRead (die : Nat) (s : State) : Res :=
  if s.dieAdmits die = false then .next { s with reply := [0] } else
  let t := s.hwTile die
  let w := (s.tile t).win (s.hwWin die)
  let s1 := s.modTile t fun u => { u with hot := sset {} u.hot (s.hwWin die) { w with delivered := 0, starved := 0 } }
  .next { s1 with reply := [packDw [(w.delivered.toNat, 0), (w.starved.toNat, 32)]] }

/-! ### What a read of a register with several parts gives (R44, R212, R242, R248, R253). No event reads them: such a read
changes nothing. -/

/-- PKGID (R248): the part number, and the form in bit 24. -/
def State.pkgid (s : State) : Dw := packDw [(0x900, 0), (b2n s.qm900, 24)]

/-- BOOTSTAT (R248): stage reached, failure code, debug unlocked. -/
def State.bootstat (s : State) : Dw := packDw [(s.stage.toNat, 0), (s.failure.toNat, 4), (b2n s.debug, 12)]

/-- FRZ (R248). -/
def State.frzWord (s : State) : Dw := packDw [(b2n s.frz, 0)]

/-- CTSTAT (R242): the entry and the reason of the last refusal, and the sticky bit. -/
def State.ctstat (s : State) : Dw := packDw [(s.ctEntry.toNat, 0), (s.ctReason.toNat, 8), (b2n s.ctSticky, 31)]

/-- TINV1 (R253): pages, refused and done. -/
def Slice.tinv1 (n : Slice) : Dw := packDw [(n.tinvPages.toNat, 0), (b2n n.tinvRefused, 62), (b2n n.tinvDone, 63)]

/-- FQCFG (R253): the configuration, and the records lost in [63:32]. -/
def Slice.fqcfgWord (n : Slice) : Dw := packDw [(n.fqcfg.toNat, 0), (n.fqlost.toNat, 32)]

/-- DSTAT of a display head (R212). -/
def Head.dstat (h : Head) : Dw := packDw [(h.frames.toNat, 0), (h.replaced.toNat, 32), (b2n h.fault, 48)]

/-- ESTAT of an encoder session (R253). -/
def Session.estat (e : Session) : Dw := packDw [(e.status.toNat, 0), (e.coded.toNat, 8)]

/-! ### Registers that only hold a value (R9, R44, R172, R212, R248, R249, R253) -/

/-- A write to such a register: reserved bits stay zero; queue, head and session registers only while their enable is clear.
A link that is disabled goes down. [DEDUCED: notes/assumptions/63.md, notes/assumptions/66.md] -/
def State.writeReg (s : State) (reg : MgmtReg) (v : BitVec 128) : State :=
  let d : Dw := v.setWidth 64
  let w : Word := v.setWidth 32
  let page : Dw := 0xFFFFFFFFFFFFF000
  let queue (n q : Nat) (f : Queue → Queue) : State :=
    if 64 ≤ q then s else s.modQueue n q fun u => if u.on then u else f u
  let head (j h : Nat) (f : Head → Head) : State := if 2 ≤ h then s else s.modDie j fun x => if (x.head h).on then x else x.setHead h (f (x.head h))
  let sess (j k : Nat) (f : Session → Session) : State := if 4 ≤ k then s else s.modDie j fun x => if (x.session k).on then x else x.setSession k (f (x.session k))
  match reg with
  | .qbase n q => queue n q fun u => { u with base := d }
  | .qcpl n q => queue n q fun u => { u with cpl := d }
  | .svbase n => s.modSlice n fun x => { x with svbase := d &&& page }
  | .svstride n => s.modSlice n fun x => { x with svstride := d &&& page }
  | .fqbase n => s.modSlice n fun x => { x with fqbase := d &&& 0xFFFFFFFFFFFFFFE0 }
  | .fqcfg n => s.modSlice n fun x => { x with fqcfg := w &&& 0xFF1F }
  | .fqhead n => s.modSlice n fun x => { x with fqhead := w }
  | .fwin n => if 1 ≤ w.toNat ∧ w.toNat ≤ 10000 then s.modSlice n fun x => { x with fwin := w } else s
  | .asidtb => { s with asidtb := d &&& page }
  | .slcfg k =>
    let l := s.link k
    let new : Link := { l with cfg := (v &&& 0xFFFFFFFFFFFFF000FFFFFFFFFFFFF01F) ||| (l.cfg &&& 0x100) }
    let s1 := s.setLink k new
    if (!l.pkg && l.enabled && (s.slice l.owner).frozen) || (!new.pkg && new.enabled && (s.slice new.owner).frozen) then s
    else if new.enabled then s1
    else (s1.linkDown k).getD s1
  | .trsel j => s.modDie j fun x => { x with trsel := w &&& 0x8000007F }
  | .trvec j => (s.trTiles j).foldl (fun s t => s.modTile t fun u => { u with core := { u.core with tvec := w &&& 0xFFFFFFFC } }) s
  | .trbyp j => (s.trTiles j).foldl (fun s t => s.modTile t fun u => { u with core := { u.core with bypass := w.setWidth 4 } }) s
  | .traddr j => s.modDie j fun x => { x with traddr := w &&& 0x3FFF8 }
  | .hwsel j => s.modDie j fun x => { x with hwsel := w &&& 0xF7F }
  | .hwcfg j => s.modTile (s.hwTile j) fun u =>
      { u with hot := sset {} u.hot (s.hwWin j) { u.win (s.hwWin j) with cfg := d &&& 0xBFFFFFFFFFFFFFFF } }
  | .dgeom j h => head j h fun x => { x with dgeom := d &&& 0x3FFFFFFFFFFFF }
  | .dt0 j h => head j h fun x => { x with dt0 := d }
  | .dper j h => head j h fun x => { x with dper := w }
  | .dwb j h => head j h fun x => { x with dwb := d &&& 0xFFFFFFFFFFFFFFC0 }
  | .esrate j k => sess j k fun x => { x with esrate := d }
  | .ering j k => sess j k fun x => { x with ering := d &&& page }
  | .ersize j k => sess j k fun x => { x with ersize := w &&& 0xFFFFF000 }

/-- The register access in hand reaches a register, by the page that holds it (R246 to R248, R253). -/
def State.regAdmits (s : State) : MgmtReg → Bool
  | .qbase n _ | .qcpl n _ | .svbase n | .svstride n | .fqbase n | .fqcfg n | .fqhead n | .fwin n => s.pageAdmits n
  | .asidtb | .slcfg _ => s.mgmtAdmits
  | .trsel j | .trvec j | .trbyp j | .traddr j | .hwsel j | .hwcfg j | .dgeom j _ | .dt0 j _ | .dper j _ | .dwb j _ | .esrate j _
  | .ering j _ | .ersize j _ => s.dieAdmits j

/-- REGISTER_WRITE (R9). -/
def execRegisterWrite (reg : MgmtReg) (v : BitVec 128) (s : State) : Res := .next (if s.regAdmits reg then s.writeReg reg v else s)

end Sys2Proof.Machine
end

