-- ==== Sys2Proof/Machine/Boot.lean ====
section
/-! DEFINITION. Bring-up, measured boot, attestation, debug unlock and thermal limits (R254 to R260). -/

namespace Sys2Proof.Machine

/-! ### Measured boot (R254, R255, R260) -/

/-- POWER_GOOD (R260): bring-up begins with the boot ROM, stage 0. [DEDUCED: notes/assumptions/84.md] -/
def execPowerGood (s : State) : Res := occur s (if s.powered then none else some { s with powered := true, stage := 0, failure := 0 })

/-- BOOTSTAT records a failure code, which the spec does not number, other than zero (R254, R260). -/
def State.noteFailure (s : State) : State :=
  let (v, s) := s.free
  let c : BitVec 8 := v.setWidth 8
  { s with failure := if c = 0 then 1 else c }

/-- A stage that fails leaves the device in the recovery state, BOOTSTAT naming the stage and the failure (R254, R257). -/
def State.bootFails (s : State) (stage : Nat) : State := { s.noteFailure with recovery := true, stage := BitVec.ofNat 4 stage }

/-- The values of a configuration record agree with the spec's limits and with one another (R1, R249, R252, R257).
[DESIGN CHOICE: notes/assumptions/99.md] -/
def recordOk (r : Sys2Proof.Config.BootRecord) : Bool :=
  let ns : List Slice := r.slices.map fun d => { desc := d }
  let apart (a b : Slice) : Bool :=
    (decide (b.abase + b.acnt ≤ a.abase) || decide (a.abase + a.acnt ≤ b.abase)) &&
      (!a.on || !b.on || decide (Nat.land a.dies b.dies = 0))
  decide (760 ≤ r.dvfsLow) && decide (r.dvfsLow ≤ r.dvfsHigh) && decide (r.dvfsHigh ≤ 1020) && decide (r.power ≤ 1500) &&
    decide (r.throttle ≤ r.shutdown) && (decide (r.lanes = 8) || decide (r.lanes = 16)) && decide (0 < r.fitted) &&
    decide (r.fitted ≤ 2 ^ 38) && (!r.module_ || decide (r.fitted = 2 ^ 38)) && decide (r.slices.length ≤ 8) &&
    (ns.all fun n => decide (n.desc &&& ~~~descBits = 0) && (!n.on || decide (0 < n.acnt)) && decide (n.abase + n.acnt ≤ 16384)) &&
    decide (ns.Pairwise fun a b => apart a b = true) && decide (r.links.length ≤ 8) &&
    r.links.all fun v => decide (v &&& ~~~0xFFFFFFFFFFFFF000FFFFFFFFFFFFF01F = 0)

/-- The values that a record fixes take effect (R257): the form, the memory fitted, the limits, the slice descriptors and the SLCFGs. -/
def State.configure (s : State) (r : Sys2Proof.Config.BootRecord) : State :=
  let s1 : State :=
    { s with
      qm900 := r.module_, fitted := r.fitted
      limits := { dvfsLow := r.dvfsLow, dvfsHigh := r.dvfsHigh, power := r.power, throttle := r.throttle, shutdown := r.shutdown
                  lanes := r.lanes }
      slices := sparseOf {} (r.slices.map fun d => ({ desc := d } : Slice)) }
  let s2 := (List.range 8).foldl (fun s k =>
    s.setLink k { s.link k with cfg := r.links.getD k 0 ||| ((s.link k).cfg &&& 0x100) }) s1
  (List.range 8).foldl (fun s d => s.modDie d fun x => { x with mhz := max r.dvfsLow (min r.dvfsHigh x.mhz) }) s2

/-- The dies' memories are trained; whether a die's training succeeds is a free value (R260). -/
def State.train (s : State) : State :=
  (List.range 8).foldl (fun s d => let (v, s) := s.free; s.modDie d fun x => { x with trained := dwBit v 0 }) s

/-- A slice one of whose dies failed training is not enabled, and BOOTSTAT records the failure (R260). -/
def State.dropUntrained (s : State) : State :=
  (List.range 8).foldl (fun s n =>
    let v := s.slice n
    if v.on && (List.range 8).any fun d => v.hasDie d && !(s.die d).trained then
      (s.setSlice n { v with desc := v.desc &&& (descBits ^^^ 0x100) }).noteFailure
    else s) s

/-- The host link is enumerated once PERST# has been released and the slices are set up, or in the recovery state as physical function 0
alone (R254, R260). -/
def State.enumerate (s : State) : State :=
  if s.perst && (s.recovery || decide (s.stage.toNat = 4)) then { s with enumerated := true } else s

/-- The device answers configuration requests with Request Retry Status (R260). -/
def State.retries (s : State) : Bool := s.perst && !s.enumerated

/-- What a verified stage does (R254, R255, R257, R260): stage 1 derives the alias key; stage 3 is the configuration record, none or a
bad one failing, and then the memories are trained and the default connection table is installed.
[DEDUCED: notes/assumptions/84.md] -/
def State.runStage (s : State) (stage : Nat) (image : List Byte) : State :=
  let s1 := { s with stage := BitVec.ofNat 4 stage }
  match stage with
  | 1 => { s1 with aliasKey := Sys2Proof.Config.aliasKey (sget 0 s.meas 0) }
  | 3 =>
    match Sys2Proof.Config.bootRecord image with
    | some r => if recordOk r then { (s1.configure r).train.dropUntrained with conn := defaultConn, draining := [] } else s.bootFails stage
    | none => s.bootFails stage
  | _ => s1

/-- BOOT_STAGE (R254, R260): a stage is measured, verified and then run, each after the one before. Stage 4, slice set-up, comes after the
time lock of the dies, and measures every enabled slice. [DEDUCED: notes/assumptions/84.md] -/
def State.boot (s : State) (stage : Nat) (image : List Byte) (verified : Bool) : Option State :=
  if !s.powered || s.recovery || decide (stage ≠ s.stage.toNat + 1) then none
  else if stage = 4 then
    if (List.range 8).any fun d => (s.die d).trained && !(s.die d).locked then none
    else
      let s1 := (List.range 8).foldl (fun s n => if (s.slice n).on then s.remeasure n else s) s
      some (State.enumerate { s1 with stage := 4 })
  else if 4 < stage then none
  else
    let s1 := s.extend (stage - 1) (Sys2Proof.Config.sha3 image)
    some (if verified then s1.runStage stage image else s1.bootFails stage).enumerate

def execBootStage (stage : Nat) (image : List Byte) (verified : Bool) (s : State) : Res := occur s (s.boot stage image verified)

/-- RECOVERY_IMAGE (R254): accepted in the recovery state alone and only when its signature verifies; boot then starts again.
[DEDUCED: notes/assumptions/84.md] -/
def execRecoveryImage (image : List Byte) (verified : Bool) (s : State) : Res :=
  occur s (if s.recovery && verified && decide (image ≠ []) then
    some { s with recovery := false, failure := 0, stage := 0, enumerated := false } else none)

/-- PERST_RELEASE (R254, R260): enumeration once slices are set up; until then configuration requests are answered with retry
status. -/
def execPerstRelease (s : State) : Res := .next (State.enumerate { s with perst := true })

/-- DEBUG_UNLOCK (R255, R256, R258): a verified response resets the package with debug unlocked, and register 0 shows it; what
it is extended with is a free value. In the recovery state nothing but a recovery image is accepted (R254).
[DEDUCED: notes/assumptions/86.md] -/
def State.unlockDebug (s : State) : State :=
  let (a, s) := s.free
  let (b, s) := s.free
  let (c, s) := s.free
  let (d, s) := s.free
  { State.reset with
    debug := true, focus := s.focus, agenda := s.agenda, fresh := s.fresh, nextId := s.nextId
    meas := sset 0 [] 0 (Sys2Proof.Config.sha3 (digestBytes 0 ++ digestBytes (d ++ c ++ b ++ a))) }

def execDebugUnlock (verified : Bool) (s : State) : Res := .next (if verified && !s.recovery then s.unlockDebug else s)

/-! ### Attestation (R256) -/

/-- The measurement blocks returned to a function: registers 0 to 2 and its own slice's; to physical function 0 every register.
[DESIGN CHOICE: notes/assumptions/69.md] -/
def State.blocks (s : State) (fn : Nat) : List (BitVec 256) :=
  (if fn = 0 then List.range 16 else [0, 1, 2, 8 + (fn - 1)]).map fun k => sget 0 s.meas k

/-- The certificates that an answer rests on (R255): Brixsin's for the identity key, and the identity key's for the alias key. -/
def State.certs (s : State) : List (List Byte) :=
  [Sys2Proof.Config.identityCert, Sys2Proof.Config.certify Sys2Proof.Config.identityKey s.aliasKey]

/-- An SPDM answer in the reply; none to a function that the device does not present, nor in the recovery state (R254). -/
def State.spdm (s : State) (code fn : Nat) (request : List Byte) (m : List (BitVec 256)) : State :=
  let l := if s.recovery || !s.presents fn then [] else Sys2Proof.Config.spdmReply code fn request s.certs m
  { s with reply := bytesDws ((l.length + 7) / 8) l }

/-- The SPDM requests, each answered (R256). -/
def execSpdmGetVersion (fn : Nat) (request : List Byte) (s : State) : Res := .next (s.spdm 0 fn request [])
def execSpdmGetCapabilities (fn : Nat) (request : List Byte) (s : State) : Res := .next (s.spdm 1 fn request [])
def execSpdmNegotiateAlgorithms (fn : Nat) (request : List Byte) (s : State) : Res := .next (s.spdm 2 fn request [])
def execSpdmGetDigests (fn : Nat) (request : List Byte) (s : State) : Res := .next (s.spdm 3 fn request [])
def execSpdmGetCertificate (fn : Nat) (request : List Byte) (s : State) : Res := .next (s.spdm 4 fn request [])
def execSpdmChallenge (fn : Nat) (request : List Byte) (s : State) : Res := .next (s.spdm 5 fn request (s.blocks fn))
/-- GET_MEASUREMENTS: the blocks themselves follow the answer. -/
def execSpdmGetMeasurements (fn : Nat) (request : List Byte) (s : State) : Res :=
  let s1 := s.spdm 6 fn request (s.blocks fn)
  .next (if s.recovery || !s.presents fn then s1
    else { s1 with reply := (s.blocks fn).flatMap (fun m => bytesDws 4 (digestBytes m)) ++ s1.reply })
def execSpdmKeyExchange (fn : Nat) (request : List Byte) (s : State) : Res := .next (s.spdm 7 fn request [])
def execSpdmFinish (fn : Nat) (request : List Byte) (s : State) : Res := .next (s.spdm 8 fn request [])

/-! ### Thermal limits (R257, R259) -/

/-- THERMAL_THROTTLE (R257, R259): a die's dclk lowered within the limits of the configuration record.
[DESIGN CHOICE: notes/assumptions/85.md] -/
def execThermalThrottle (die mhz : Nat) (s : State) : Res :=
  occur s (if s.limits.dvfsLow ≤ mhz ∧ mhz ≤ (s.die die).mhz then some (s.modDie die fun d => { d with mhz := mhz }) else none)

/-- DVFS moves a die's clock within the record's limits (R3, R257). [DESIGN CHOICE: notes/assumptions/85.md] -/
def State.moveClock (s : State) (die mhz : Nat) : State :=
  if s.limits.dvfsLow ≤ mhz ∧ mhz ≤ s.limits.dvfsHigh then s.modDie die fun d => { d with mhz := mhz } else s

/-- THERMAL_SHUTDOWN (R259). -/
def execThermalShutdown (s : State) : Res := .next { s with stopped := true }

end Sys2Proof.Machine
end

