-- ==== Sys2Proof/Machine/Control.lean ====
section
/-! DEFINITION. Control transfers, the end of a task and local memory (R280, R281, R322, R326, R327, R348, R366, R373,
R376). -/

namespace Sys2Proof.Machine

/-- A jump to a local address. -/
def State.goto (s : State) (pc : Word) : State := s.setCore { s.core with pc := pc }

/-- A branch's condition on ga and gb (R322); code 7 is refused by the decoder. -/
def branchTaken (c : BitVec 3) (x y : Dw) : Bool :=
  match c.toNat with
  | 0 => x == y
  | 1 => x != y
  | 2 => x.slt y
  | 3 => !x.slt y
  | 4 => x.ult y
  | 5 => !x.ult y
  | _ => (x &&& y) != 0

/-- BR (R322). -/
def execBr (c : BitVec 3) (a b : Reg) (o : BitVec 13) (s : State) : Res :=
  .next (if branchTaken c (s.reg a) (s.reg b) then s.goto (target13 s.core.pc o) else s.advance)

/-- LOOP (R376): ga decremented, taken while it is non-zero. -/
def execLoop (a : Reg) (o : BitVec 13) (s : State) : Res :=
  let v := s.reg a - 1
  let t := s.setReg a v
  .next (if v ≠ 0 then t.goto (target13 s.core.pc o) else t.advance)

/-- JMP (R326). -/
def execJmp (o : BitVec 26) (s : State) : Res := .next (s.goto (target26 s.core.pc o))

/-- CALL (R326): g31 is written first. -/
def execCall (o : BitVec 26) (s : State) : Res :=
  .next ((s.setReg 31 (BitVec.setWidth 64 (s.core.pc + 4))).goto (target26 s.core.pc o))

/-- A register target names no local address: bits [63:32] or [1:0] are set (R327). -/
def badTarget (v : Dw) : Bool := decide (2 ^ 32 ≤ v.toNat) || decide (v.toNat % 4 ≠ 0)

/-- RET (R327). -/
def execRet (a : Reg) (s : State) : Res :=
  let v := s.reg a
  if badTarget v then trapNow s 3 v else .next (s.goto (v.setWidth 32))

/-- CALLR (R327): the target is ga before gd is written. -/
def execCallr (d a : Reg) (s : State) : Res :=
  let v := s.reg a
  if badTarget v then trapNow s 3 v
  else .next ((s.setReg d (BitVec.setWidth 64 (s.core.pc + 4))).goto (v.setWidth 32))

/-- JTAB (R366): the table is read from the whole scratchpad. -/
def execJtab (a b : Reg) (s : State) : Res :=
  let v := s.reg a
  let t := s.tile s.focus
  if 2 ^ 18 ≤ v.toNat then trapNow s 5 v
  else if v.toNat % 4 ≠ 0 then trapNow s 4 v
  else
    let h : Word := BitVec.ofNat 32 (t.load v.toNat 4)
    let n := h.toNat % 65536
    let i := (s.reg b).toNat
    if n ≤ i then .next (s.goto (s.core.pc + (h.extractLsb' 16 16).signExtend 32 * 4))
    else
      let e := v.toNat + 4 + 4 * i
      if 0x3FFFC < e then trapNow s 5 (BitVec.ofNat 64 e)
      else .next (s.goto (s.core.pc + BitVec.ofNat 32 (t.load e 4) * 4))

/-- END (R348): in system mode trap 0x01. -/
def execEndTask (s : State) : Res := if s.core.sys then illegal s else .next (s.retireRunning true)

/-- ENDR (R348): in system mode trap 0x01. -/
def execEndrTask (s : State) : Res := if s.core.sys then illegal s else .next (s.retireRunning false)

/-- LDL (R373): n = 2^sz bytes at gbase + off, zero- or sign-extended. [DESIGN CHOICE: notes/assumptions/82.md] -/
def execLdl (g b : Reg) (z : BitVec 2) (x : Bool) (o : BitVec 13) (s : State) : Res :=
  let la := localAddr (s.reg b) o
  let n := 2 ^ z.toNat
  match s.localTrap la n with
  | some c => trapNow s c la
  | none =>
    let v := (s.tile s.focus).load la.toNat n
    retire s g (if x then BitVec.ofInt 64 (sextNat v (8 * n)) else BitVec.ofNat 64 v)

/-- STL (R373): the low n bytes of gs. -/
def execStl (g b : Reg) (z : BitVec 2) (o : BitVec 13) (s : State) : Res :=
  let la := localAddr (s.reg b) o
  let n := 2 ^ z.toNat
  match s.localTrap la n with
  | some c => trapNow s c la
  | none => .next (s.modTile s.focus fun t => t.setBytes la.toNat (leBytes n (s.reg g).toNat)).advance

end Sys2Proof.Machine
end

