-- ==== Sys2Proof/Machine/Float.lean ====
section
/-! DEFINITION. The scalar float instructions of majors 0x02 and 0x03 (R277, R278, R352 to R358), each over the one set of
rounding and special-value rules of Fp.lean, under the running actor's FCTL, setting its FFLAGS. -/

namespace Sys2Proof.Machine

/-- A two-operand arithmetic instruction (R353). -/
def float2 (s : State) (d a b : Reg) (f : BitVec 3) (m : BitVec 2) (op : Val → Val → Val × Bool) : Res :=
  let t := Fmt.ofScalar f.toNat
  let x := s.fop t a
  let y := s.fop t b
  let r := op x y
  retireFloat s d (floatResult t s.fctl m.toNat [x, y] r.1 r.2)

/-- A one-operand function of R356: encoding and flags. -/
def float1 (s : State) (d : Reg) (r : Option Nat × Flags) : Res := retireFloat s d (r.1.getD 0, r.2)

/-- A relation of FCMP (R354). -/
def floatCmp (s : State) (d a b : Reg) (f : BitVec 3) (rel : Nat) : Res :=
  let t := Fmt.ofScalar f.toNat
  let r := compare rel (s.fop t a) (s.fop t b)
  retireFloat s d (b2n r.1, { invalid := r.2 })

/-- The magnitude of ga under a sign (R357). -/
def floatSign (s : State) (d a b : Reg) (f : BitVec 3) (sg : Bool → Bool → Bool) : Res :=
  let t := Fmt.ofScalar f.toNat
  let k := t.width - 1
  let x := s.fbits t a
  let y := s.fbits t b
  retire s d (BitVec.ofNat 64 (x % 2 ^ k + signBit (sg (x.testBit k) (y.testBit k)) k))

/-- FADD (R353). -/
def execFadd (d a b : Reg) (f : BitVec 3) (m : BitVec 2) (s : State) : Res :=
  float2 s d a b f m fun x y => x.add y m.toNat

/-- FSUB (R353). A NaN operand keeps its own sign. -/
def execFsub (d a b : Reg) (f : BitVec 3) (m : BitVec 2) (s : State) : Res :=
  float2 s d a b f m fun x y => x.add (if y.isNaN then y else y.neg) m.toNat

/-- FMUL (R353). -/
def execFmul (d a b : Reg) (f : BitVec 3) (m : BitVec 2) (s : State) : Res :=
  float2 s d a b f m fun x y => x.mul y

/-- FMIN (R354). -/
def execFmin (d a b : Reg) (f : BitVec 3) (s : State) : Res :=
  let t := Fmt.ofScalar f.toNat
  retireFloat s d (minMax false t s.fctl (s.fbits t a) (s.fbits t b))

/-- FMAX (R354). -/
def execFmax (d a b : Reg) (f : BitVec 3) (s : State) : Res :=
  let t := Fmt.ofScalar f.toNat
  retireFloat s d (minMax true t s.fctl (s.fbits t a) (s.fbits t b))

/-- FCMP eq (R354). -/
def execFcmpEq (d a b : Reg) (f : BitVec 3) (s : State) : Res := floatCmp s d a b f 0

/-- FCMP lt (R354). -/
def execFcmpLt (d a b : Reg) (f : BitVec 3) (s : State) : Res := floatCmp s d a b f 1

/-- FCMP le (R354). -/
def execFcmpLe (d a b : Reg) (f : BitVec 3) (s : State) : Res := floatCmp s d a b f 2

/-- FCMP uo (R354). -/
def execFcmpUo (d a b : Reg) (f : BitVec 3) (s : State) : Res := floatCmp s d a b f 3

/-- FCVT (R355): the source format from fn[10:8], the destination from the b field. -/
def execFcvt (d a b : Reg) (f : BitVec 3) (m : BitVec 2) (s : State) : Res :=
  let src := Fmt.ofScalar f.toNat
  let dst := Fmt.ofScalar b.toNat
  let v := s.fop src a
  let r := floatResult dst s.fctl m.toNat [v] v false
  let out : Dw := if dst = .int32 then (BitVec.ofNat 32 r.1).signExtend 64 else BitVec.ofNat 64 r.1
  retire (s.addFlags r.2) d out

/-- FRCP (R356). -/
def execFrcp (d a : Reg) (f : BitVec 3) (m : BitVec 2) (s : State) : Res :=
  let t := Fmt.ofScalar f.toNat
  float1 s d (recip (s.fop t a) t s.fctl m.toNat)

/-- FRSQ (R356). -/
def execFrsq (d a : Reg) (f : BitVec 3) (m : BitVec 2) (s : State) : Res :=
  let t := Fmt.ofScalar f.toNat
  float1 s d (recipSqrt (s.fop t a) t s.fctl m.toNat)

/-- FEXP2 (R356). -/
def execFexp2 (d a : Reg) (f : BitVec 3) (m : BitVec 2) (s : State) : Res :=
  let t := Fmt.ofScalar f.toNat
  float1 s d (exp2 (s.fop t a) t s.fctl m.toNat (s.fbits t a))

/-- FLOG2 (R356). -/
def execFlog2 (d a : Reg) (f : BitVec 3) (m : BitVec 2) (s : State) : Res :=
  let t := Fmt.ofScalar f.toNat
  float1 s d (log2 (s.fop t a) t s.fctl m.toNat (s.fbits t a))

/-- FSGN copy (R357): the sign of gb. -/
def execFsgnCp (d a b : Reg) (f : BitVec 3) (s : State) : Res := floatSign s d a b f fun _ y => y

/-- FSGN negate (R357): the inverse of the sign of gb. -/
def execFsgnNeg (d a b : Reg) (f : BitVec 3) (s : State) : Res := floatSign s d a b f fun _ y => !y

/-- FSGN xor (R357): the exclusive OR of both signs. -/
def execFsgnXor (d a b : Reg) (f : BitVec 3) (s : State) : Res := floatSign s d a b f fun x y => x != y

/-- FMA (R358): one rounding of the exact ga × gb + gc. -/
def execFma (d a b c : Reg) (f m : BitVec 2) (s : State) : Res :=
  let t := Fmt.ofScalar f.toNat
  let x := s.fop t a
  let y := s.fop t b
  let z := s.fop t c
  let r := x.fma y z m.toNat
  retireFloat s d (floatResult t s.fctl m.toNat [x, y, z] r.1 r.2)

end Sys2Proof.Machine
end

