-- ==== Sys2Proof/Machine/Render.lean ====
section
/-! DEFINITION. Rendering lanes: coverage, depth, the visibility resolver, attribute planes, ray boxes and triangles, and the
blender (R195 to R204, R209, R210, R216, R316, R317, R335, R336, R346, R347, R399, R403). -/

namespace Sys2Proof.Machine

/-! ### Window tokens (R197) -/

/-- A payload's doubleword. -/
def pdw (l : List Dw) (i : Nat) : Dw := l.getD i 0

/-- Coordinates of a vertex: signed 24-bit fixed point. -/
def winX (l : List Dw) (v : Nat) : Int := sextNat (dwAt (pdw l v) 0 24) 24
def winY (l : List Dw) (v : Nat) : Int := sextNat (dwAt (pdw l v) 24 24) 24

/-- Depths as FP32 encodings. -/
def winZ (l : List Dw) (v : Nat) : Nat := if v = 2 then dwAt (pdw l 4) 0 32 else dwAt (pdw l 3) (32 * v) 32
def winPrim (l : List Dw) : Nat := dwAt (pdw l 4) 32 32
def winTx (l : List Dw) : Nat := dwAt (pdw l 5) 0 12
def winTy (l : List Dw) : Nat := dwAt (pdw l 5) 12 12
def winNs (l : List Dw) : Nat := dwAt (pdw l 5) 30 2
def winTag (l : List Dw) : Nat := dwAt (pdw l 5) 32 16
def winCb (l : List Dw) : Bool := dwBit (pdw l 5) 48
def winOrd (l : List Dw) : Bool := dwBit (pdw l 5) 49
def winRk (l : List Dw) : Nat := dwAt (pdw l 7) 0 4
/-- A tile-begin or a tile-end. -/
def winTile (l : List Dw) : Bool := decide (winRk l = 1 ∨ winRk l = 2)

/-- Pixel of the window within the screen tile: x and y of pixel 4 py + px. -/
def winPx (l : List Dw) (k : Nat) : Nat := 4 * dwAt (pdw l 5) 24 3 + k % 4
def winPy (l : List Dw) (k : Nat) : Nat := 4 * dwAt (pdw l 5) 27 3 + k / 4

/-- A reserved bit is set, or rk is no kind of R197, which is answered in the same way.
[DESIGN CHOICE: notes/assumptions/34.md] -/
def winReserved (l : List Dw) : Bool :=
  (List.range 3).any (fun v => decide (dwAt (pdw l v) 48 16 ≠ 0)) || decide (dwAt (pdw l 5) 50 14 ≠ 0) ||
    decide (dwAt (pdw l 7) 4 60 ≠ 0) || decide (2 < winRk l)

/-! ### EDGE (R199, R346, R347) -/

/-- Sample offsets in 1/256 pixel. -/
def sampleOff (ns s : Nat) : Int × Int :=
  match ns, s with
  | 0, _ => (128, 128)
  | 1, 0 => (192, 64)
  | 1, _ => (64, 192)
  | _, 0 => (96, 32)
  | _, 1 => (224, 96)
  | _, 2 => (32, 160)
  | _, _ => (160, 224)

/-- Position of a sample of a window's pixel. -/
def samplePos (l : List Dw) (k s : Nat) : Int × Int :=
  let o := sampleOff (winNs l) s
  (256 * ((32 * winTx l + winPx l k : Nat) : Int) + o.1, 256 * ((32 * winTy l + winPy l k : Nat) : Int) + o.2)

/-- The edge function of R347. -/
def edgeFn (p q s : Int × Int) : Int := (q.1 - p.1) * (s.2 - p.2) - (q.2 - p.2) * (s.1 - p.1)

/-- A vertex of a window token. -/
def winV (l : List Dw) (v : Nat) : Int × Int := (winX l v, winY l v)

/-- Twice the area. -/
def winArea (l : List Dw) : Int :=
  (winX l 1 - winX l 0) * (winY l 2 - winY l 0) - (winY l 1 - winY l 0) * (winX l 2 - winX l 0)

/-- Owned (R199), of Q − P as wound, negated where the area is negative. -/
def ownedEdge (neg : Bool) (p q : Int × Int) : Bool :=
  let dx := if neg then p.1 - q.1 else q.1 - p.1
  let dy := if neg then p.2 - q.2 else q.2 - p.2
  decide (0 < dy) || (decide (dy = 0) && decide (dx < 0))

/-- An edge admits a sample. -/
def edgeOk (area : Int) (p q s : Int × Int) : Bool :=
  let e := edgeFn p q s
  let e' := if area < 0 then -e else e
  decide (0 < e') || (decide (e = 0) && ownedEdge (decide (area < 0)) p q)

/-- A sample is covered (R347); `limits` holds the width in [15:0] and the height in [31:16]. -/
def covered (l : List Dw) (limits k s : Nat) : Bool :=
  let a := winArea l
  let p := samplePos l k s
  let x := 32 * winTx l + winPx l k
  let y := 32 * winTy l + winPy l k
  let inLimit (v m : Nat) : Bool := decide (m = 0) || decide (v < m)
  decide (a ≠ 0) && !(winCb l && decide (a < 0)) && inLimit x (limits % 65536) && inLimit y (limits / 65536) &&
    edgeOk a (winV l 1) (winV l 2) p && edgeOk a (winV l 2) (winV l 0) p && edgeOk a (winV l 0) (winV l 1) p

/-- The coverage mask of a window token. -/
def coverMask (l : List Dw) (limits : Nat) : Nat :=
  packNat ((List.range 64).map fun i =>
    (b2n (decide (i % 4 < 2 ^ winNs l) && covered l limits (i / 4) (i % 4)), i))

/-- The record EDGE sends on: doubleword 6 replaced by the mask (R346). -/
def edgeRecord (l : List Dw) (limits : Nat) : List Dw :=
  let bad := decide (winNs l = 3) || winReserved l
  let m := if bad || decide (winRk l ≠ 0) then 0 else coverMask l limits
  (List.range 8).map fun i => if i = 6 then BitVec.ofNat 64 m else pdw l i

/-- The token that a lane's operand A names: input Y's by select 2, else that of X or of the lane before. -/
def Group.tokA (g : Group) (w : LaneWord) : List Dw := if w.sa = 2 then g.tokY else g.tokX

/-- EDGE on the group at a lane (R346): its record goes to the next lane, and on the outputs its routing names (R58). -/
def LaneCtx.edge (c : LaneCtx) (g : Group) : LaneOut :=
  if g.void then { t := c.t, g := g }
  else
    let rec_ := edgeRecord (g.tokA c.w) (c.t.param c.w)
    { t := c.t, g := { g with tokX := rec_ }
      toks := ([0, 1].filter (routes c.w.out)).map fun p => (p, { payload := rec_ }) }

/-- The head group of a lane. -/
def Tile.headGroup (t : Tile) (lane : Nat) : Option Group := (t.laneSt lane).q.head?

/-- EDGE (R346, R347): a malformed window is reported with code 0x46 and passes with a zero mask. -/
def execEdge (tile lane : Nat) (s : State) : Res :=
  match s.laneOwner tile lane with
  | none => .next s
  | some (r, a, _, _) =>
    match (s.tile tile).headGroup lane with
    | none => .next s
    | some g =>
      occurIn s r ((s.laneStep tile lane 0x18 false LaneCtx.edge).map fun s1 =>
        let l := g.tokA ((s.tile tile).laneWord lane)
        let bad := winReserved l
        if !g.void && (decide (winNs l = 3) || bad) then
          s1.errorAt r a 0xFF (winNs l + 4 * b2n bad) 0x46 (pdw l 5)
        else s1)

/-! ### COVER (R335, R336) -/

/-- A value from an integer quotient. -/
def Val.ratio (n d : Int) : Val := .fin (decide (n < 0) != decide (d < 0)) n.natAbs d.natAbs

/-- The depth at a sample (R336): one rounding of the exact interpolation; an infinite operand gives its infinity, and
infinities of both signs NaN. Negative depths and −0 become +0; none for NaN. [DEDUCED: notes/assumptions/33.md] -/
def coverDepth (pol : BitVec 4) (l : List Dw) (p : Int × Int) (bias : Nat) : Option Nat :=
  let f : Fmt := .fp32
  let z (v : Nat) : Val := f.operand pol (winZ l v)
  let b := f.operand pol bias
  let vs := [z 0, z 1, z 2, b]
  let pos := vs.any fun v => decide (v = .inf false)
  let neg := vs.any fun v => decide (v = .inf true)
  let a := winArea l
  let sub (x y : Val) : Val := (x.add y.neg 0).1
  let v : Val :=
    if vs.any Val.isNaN || (pos && neg) then .canon
    else if pos then .inf false
    else if neg then .inf true
    else
      let b1 := Val.ratio (edgeFn (winV l 2) (winV l 0) p) a
      let b2 := Val.ratio (edgeFn (winV l 0) (winV l 1) p) a
      let s1 := ((z 0).add ((b1.mul (sub (z 1) (z 0))).1) 0).1
      let s2 := (s1.add ((b2.mul (sub (z 2) (z 0))).1) 0).1
      (s2.add b 0).1
  if v.isNaN then none
  else
    let r := (toFormat v f pol 0).getD 0
    some (if 2 ^ 31 ≤ r then 0 else r)

/-- Covered samples of a record in increasing bit order: pixel and sample. -/
def maskSamples (m : Nat) : List (Nat × Nat) :=
  ((List.range 64).filter fun i => m.testBit i).map fun i => (i / 4, i % 4)

/-- Doubleword 1 of a sample token (R200). -/
def sampleWord (l : List Dw) (k s rk : Nat) : Dw :=
  packDw [(winPx l k, 0), (winPy l k, 5), (s, 10), (winTx l, 12), (winTy l, 24), (rk, 60)]

/-- The sample tokens of a window's record (R336). -/
def sampleTokens (pol : BitVec 4) (l : List Dw) (bias : Nat) : List (List Dw) :=
  (maskSamples (pdw l 6).toNat).filterMap fun ks =>
    (coverDepth pol l (samplePos l ks.1 ks.2) bias).map fun z =>
      [packDw [(winPrim l, 0), (z, 32)], sampleWord l ks.1 ks.2 0]

/-- The fragment tokens of an order-sensitive window (R203, R336). -/
def fragmentTokens (pol : BitVec 4) (l : List Dw) (bias : Nat) : List (List Dw) :=
  (maskSamples (pdw l 6).toNat).filterMap fun ks =>
    (coverDepth pol l (samplePos l ks.1 ks.2) bias).map fun _ =>
      [packDw [(winPx l ks.1, 0), (winPy l ks.1, 5), (ks.2, 10), (winTag l, 12)], 0]

/-- The primitive-end token of a tag (R203); its pixel fields are free values. [DESIGN CHOICE: notes/assumptions/34.md] -/
def State.primEnd (s : State) (tag : Nat × Nat) : List Dw × State :=
  let (v, s) := s.free
  ([packDw [(v.toNat % 4096, 0), (tag.1, 12), (3, 28), (tag.2, 32)], 0], s)

/-- A tile-begin or tile-done token (R200, R336): its depth, identifier and pixel fields are free values, but not those that a blender
would read as a fragment's doubleword 0 (R203). [DESIGN CHOICE: notes/assumptions/34.md] -/
def State.tileToken (s : State) (l : List Dw) (rk : Nat) : List Dw × State :=
  let (v, s) := s.free
  let (u, s) := s.free
  ([if dwAt v 28 36 = 0 then v ||| packDw [(rk, 28)] else v, packDw [(u.toNat % 4096, 0), (winTx l, 12), (winTy l, 24), (rk, 60)]], s)

/-- What COVER makes of a record: the tokens in order, each with whether it is of an order-sensitive pass (R203), and the tag
under way after it. -/
def State.coverTokens (s : State) (pol : BitVec 4) (l : List Dw) (bias : Nat) (tag : Option (Nat × Nat)) :
    List (Bool × List Dw) × Option (Nat × Nat) × State :=
  let (ends, s) := match tag with
    | some t => if winTile l ∨ t.1 ≠ winTag l then (let (e, s) := s.primEnd t; ([(true, e)], s)) else ([], s)
    | none => ([], s)
  let cont := match tag with
    | some t => if t.1 = winTag l then t.2 else 0
    | none => 0
  if winTile l then
    let (t, s) := s.tileToken l (winRk l)
    (ends ++ [(false, t)], none, s)
  else if winOrd l then
    let fs := fragmentTokens pol l bias
    (ends ++ fs.map (true, ·), some (winTag l, cont + fs.length), s)
  else (ends ++ (sampleTokens pol l bias).map (false, ·), none, s)

/-- A token as it waits for the resolver: behind its two doublewords ns, and in bit 8 whether it is of an order-sensitive pass. -/
def sampleEntry (ns : Nat) (k : Bool × List Dw) : List Dw := k.2 ++ [packDw [(ns, 0), (b2n k.1, 8)]]

/-- COVER (R335, R336): with routing 6 its samples go to the resolver's store, and its fragments and tile tokens wait there
in order; otherwise its tokens go on the outputs its routing names. -/
def execCover (tile lane : Nat) (s : State) : Res :=
  match s.laneOwner tile lane with
  | none => .next s
  | some (r, _, _, seg) =>
    let t := s.tile tile
    match t.headGroup lane with
    | none => .next s
    | some g =>
      let w := t.laneWord lane
      let c : LaneCtx := { t := t, seg := seg, inF := .fp32, i := lane, w := w }
      let st := t.laneSt lane
      let (toks, tag, s1) := if g.void then ([], st.tag, s) else s.coverTokens w.pol (g.tokA w) (c.b g 0) st.tag
      let run (c : LaneCtx) (g : Group) : LaneOut :=
        let st := c.t.laneSt c.i
        if w.out = 6 then
          { t := c.t.setLaneSt c.i { st with tag := tag, samples := st.samples ++ toks.map (sampleEntry (winNs (g.tokA w))) }, g := g }
        else
          { t := c.t.setLaneSt c.i { st with tag := tag }, g := g
            toks := toks.flatMap fun k => ([0, 1].filter (routes w.out)).map fun p => (p, { payload := k.2 }) }
      occurIn s r (s1.laneStep tile lane 0x19 false run)

/-! ### The resolver (R200, R201) -/

/-- The oldest token a resolver has not handled. -/
def Tile.sampleHead (t : Tile) (lane : Nat) : Option (List Dw) := (t.laneSt lane).samples.head?

/-- rk of a sample token. -/
def sampleRk (l : List Dw) : Nat := dwAt (pdw l 1) 60 4

/-- A waiting token is of an order-sensitive pass, which no store takes. -/
def isFragment (l : List Dw) : Bool := dwBit (pdw l 2) 8

/-- The lane is a resolver: COVER with routing 6. -/
def Tile.resolver (t : Tile) (lane : Nat) : Bool :=
  decide ((t.laneWord lane).op = 0x19) && decide ((t.laneWord lane).out = 6)

/-- The resolver's store address SB. -/
def Tile.storeBase (t : Tile) (lane : Nat) : Nat := t.param (t.laneWord lane) % 2 ^ 18

/-- The tile of a sample token. -/
def sampleTile (l : List Dw) : Nat × Nat := (dwAt (pdw l 1) 12 12, dwAt (pdw l 1) 24 12)

/-- The waiting token handled: gone from the queue, with the rest of the lane's state changed. -/
def Tile.tookSample (t : Tile) (lane : Nat) (f : LaneSt → LaneSt) : Tile :=
  let st := t.laneSt lane
  t.setLaneSt lane (f { st with samples := st.samples.drop 1 })

/-- RESOLVER_TILE_BEGIN (R201): every word of the store becomes the empty word, within the lane actor's local window.
[DEDUCED: notes/assumptions/33.md] -/
def execResolverTileBegin (tile lane : Nat) (s : State) : Res :=
  let t := s.tile tile
  match s.laneOwner tile lane, t.sampleHead lane with
  | some (r, _, x, _), some l =>
    if t.resolver lane && !isFragment l && decide (sampleRk l = 1) then
      let n := 8 * 1024 * 2 ^ (pdw l 2).toNat
      let lo := max (t.storeBase lane) x.locB
      let hi := min (t.storeBase lane + n) x.locL
      let t1 := t.tookSample lane fun st => { st with openTile := some (sampleTile l) }
      occurIn s r (some (s.setTile tile (t1.setBytes lo (List.replicate (hi - lo) 0xFF))))
    else .next s
  | _, _ => .next s

/-- RESOLVER_SAMPLE (R201): DMIN on the sample's word, or code 0x45 for another tile's sample. A fragment leaves on o0.
[DEDUCED: notes/assumptions/33.md] -/
def execResolverSample (tile lane : Nat) (s : State) : Res :=
  let t := s.tile tile
  match s.laneOwner tile lane, t.sampleHead lane with
  | some (r, a, x, _), some l =>
    let st := t.laneSt lane
    let took := t.tookSample lane id
    if !t.resolver lane then .next s
    else if isFragment l then
      let s1 := (s.setTile tile took).modSeg r a fun g => { g with pend := g.pend ++ [(0, { payload := l.take 2 })] }
      occurIn s r (some (s1.drainPend r a))
    else if sampleRk l ≠ 0 then .next s
    else if st.openTile ≠ some (sampleTile l) then
      let (x, y) := sampleTile l
      occurIn s r (some ((s.setTile tile took).errorAt r a 0xFF (dwAt (pdw l 1) 0 10) 0x45 (packDw [(x, 0), (y, 12)])))
    else
      let w := pdw l 1
      let at_ := t.storeBase lane + 8 * ((32 * dwAt w 5 5 + dwAt w 0 5) * 2 ^ (pdw l 2).toNat + dwAt w 10 2)
      let old := t.load at_ 8
      let t1 := if within at_ 8 x.locB x.locL ∧ (pdw l 0).toNat < old then took.setBytes at_ (dwBytes (pdw l 0)) else took
      occurIn s r (some (s.setTile tile t1))
  | _, _ => .next s

/-- RESOLVER_TILE_DONE (R201): behind every earlier sample, the tile-done token on o0. -/
def execResolverTileDone (tile lane : Nat) (s : State) : Res :=
  let t := s.tile tile
  match s.laneOwner tile lane, t.sampleHead lane with
  | some (r, a, _, _), some l =>
    if t.resolver lane && !isFragment l && decide (sampleRk l = 2) then
      let s1 := (s.setTile tile (t.tookSample lane id)).modSeg r a fun g =>
        { g with pend := g.pend ++ [(0, { payload := l.take 2 })] }
      occurIn s r (some (s1.drainPend r a))
    else .next s
  | _, _ => .next s

/-! ### APLANE (R202, R316, R317) -/

/-- x / y exactly: a quotient by zero is infinite with the numerator's sign, or NaN when the numerator is also 0 (R317). -/
def Val.quot (x y : Val) : Val :=
  match x, y with
  | .fin s n d, .fin s' n' d' =>
    if n' = 0 then (if n = 0 then .canon else .inf s) else .fin (s != s') (n * d') (d * n')
  | _, _ => .canon

/-- Exact sums and products of finite values. -/
def vadd (x y : Val) : Val := (x.add y 0).1
def vsub (x y : Val) : Val := (x.add y.neg 0).1
def vmul (x y : Val) : Val := (x.mul y).1

/-- The four results a, ddx, ddy and q of APLANE (R317): plane words (c, cx, cy) of the attribute and of plane 0. -/
def planeResult (pol : BitVec 4) (linear : Bool) (x y : Nat) (pl p0 : List Nat) : List Nat :=
  let f : Fmt := .fp32
  let v (n : Nat) : Val := f.operand pol n
  let at_ (l : List Nat) (i : Nat) : Val := v (l.getD i 0)
  let all := [v x, v y, at_ pl 0, at_ pl 1, at_ pl 2, at_ p0 0, at_ p0 1, at_ p0 2]
  if all.any fun u => u.isNaN || u.isInf then
    List.replicate 4 ((nanOf (firstNaN all) f pol).getD 0)
  else
    let lin (l : List Nat) : Val := vadd (vadd (at_ l 0) (vmul (at_ l 1) (v x))) (vmul (at_ l 2) (v y))
    let p := lin pl
    let q := lin p0
    let q2 := vmul q q
    let dd (i : Nat) : Val := (vsub (vmul (at_ pl i) q) (vmul p (at_ p0 i))).quot q2
    let out (u : Val) : Nat := (toFormat u f pol 0).getD 0
    if linear then [out p, out (at_ pl 1), out (at_ pl 2), out q] else [out (p.quot q), out (dd 1), out (dd 2), out q]

/-- A group's bits as 32-bit fields and back, in the lane's element width. -/
def LaneCtx.fields (c : LaneCtx) (l : List Nat) : List Nat := elemsOf 32 8 (elemsNat c.fmt.width l)
def LaneCtx.unfields (c : LaneCtx) (n : Nat) (l : List Nat) : List Nat := elemsOf c.fmt.width n (elemsNat 32 l)

/-- APLANE on the 256 bits of the group at a lane, with the actor's local window (R316, R317). -/
def LaneCtx.aplane (lo hi : Nat) (c : LaneCtx) (g : Group) : LaneOut :=
  let fs := c.fields (c.as_ g)
  let a (j : Nat) : Nat := fs.getD j 0
  let pa := a 2 % 2 ^ 18 / 16 * 16
  let pi := pa + 16 * a 3
  let plane (at_ : Nat) : List Nat := (List.range 3).map fun k => c.t.load (at_ + 4 * k) 4
  let rs :=
    if within pa 16 lo hi && within pi 16 lo hi then
      planeResult c.w.pol (decide (c.t.param c.w % 4 = 1)) (a 0) (a 1) (plane pi) (plane pa)
    else List.replicate 4 0x7FC00000
  let out := c.unfields g.len (rs ++ fs.drop 4)
  c.plain g fun j => out.getD j 0

/-- APLANE. -/
def execAplane (tile lane : Nat) (s : State) : Res :=
  match s.laneOwner tile lane with
  | some (r, _, x, _) => occurIn s r (s.laneStep tile lane 0x1A false (LaneCtx.aplane x.locB x.locL))
  | none => .next s

/-! ### Rays (R205, R206, R209, R399) -/

/-- 32-bit word `i` of a payload. -/
def pword (l : List Dw) (i : Nat) : Nat := dwAt (pdw l (i / 2)) (32 * (i % 2)) 32

/-- The eight components of a ray: origin, direction, tmin and tmax. -/
def rayWord (l : List Dw) (i : Nat) : Nat := pword l i

/-- The identifier of a ray. -/
def rayId (l : List Dw) : Nat := dwAt (pdw l 4) 32 32

/-- Division of values with the infinities of R209: none where the quotient is undefined. -/
def Val.divide (x y : Val) : Option Val :=
  match x, y with
  | .fin s n d, .fin s' n' d' => if n' = 0 then none else some (.fin (s != s') (n * d') (d * n'))
  | .inf s, .fin s' n' _ => if n' = 0 then none else some (.inf (s != s'))
  | .fin s _ _, .inf s' => some (.fin (s != s') 0 1)
  | _, _ => none

/-- x ≤ y on values that are no NaN. -/
def Val.le (x y : Val) : Bool := !y.lt x

/-- The interval of one axis (R209): lower and upper end as FP32 encodings, or a miss. -/
def slab (pol : BitVec 4) (o d lo hi : Val) : Option (Nat × Nat) :=
  let f : Fmt := .fp32
  let down (v : Val) : Nat := (toFormat v f pol 3).getD 0
  let up (v : Val) : Nat := (toFormat v f pol 2).getD 0
  if hi.lt lo then none
  else if d.isZero then (if lo.le o && o.le hi then some (0xFF800000, 0x7F800000) else none)
  else
    let diff (b : Val) : Option Val := let r := b.add o.neg 0; if r.2 then none else some r.1
    match (diff lo).bind fun v => v.divide d, (diff hi).bind fun v => v.divide d with
    | some u, some v => if v.lt u then some (down v, up u) else some (down u, up v)
    | _, _ => none

/-- The greater and the lesser of two FP32 encodings, the first on a tie. -/
def fmax32 (a b : Nat) : Nat := if (Fmt.fp32.value a).lt (Fmt.fp32.value b) then b else a
def fmin32 (a b : Nat) : Nat := if (Fmt.fp32.value b).lt (Fmt.fp32.value a) then b else a

/-- A ray against one child box: entry, exit and hit (R209, R399). [DEDUCED: notes/assumptions/33.md] -/
def boxTest (pol : BitVec 4) (ray node : List Dw) (child : Nat) : Nat × Nat × Bool :=
  let f : Fmt := .fp32
  let miss : Nat × Nat × Bool := (0x7F800000, 0xFF800000, false)
  let rv (i : Nat) : Val := f.operand pol (rayWord ray i)
  let bv (i : Nat) : Val := f.operand pol (pword node (6 * child + i))
  if pword node 14 ≠ 1 ∨ pword node (12 + child) = 0xFFFFFFFF then miss
  else if (List.range 8).any (fun i => (rv i).isNaN) || (List.range 6).any (fun i => (bv i).isNaN) then miss
  else
    match (List.range 3).mapM fun i => slab pol (rv i) (rv (3 + i)) (bv i) (bv (3 + i)) with
    | none => miss
    | some is =>
      let entry := is.foldl (fun m i => fmax32 m i.1) ((toFormat (rv 6) f pol 3).getD 0)
      let exit_ := is.foldl (fun m i => fmin32 m i.2) ((toFormat (rv 7) f pol 2).getD 0)
      if (f.value entry).le (f.value exit_) then (entry, exit_, true) else miss

/-- The result token of RBOX (R399). -/
def boxToken (pol : BitVec 4) (ray node : List Dw) : List Dw :=
  let (e0, x0, h0) := boxTest pol ray node 0
  let (e1, x1, h1) := boxTest pol ray node 1
  [packDw [(e0, 0), (x0, 32)], packDw [(e1, 0), (x1, 32)],
   packDw [(b2n h0, 0), (b2n h1, 1), (b2n ((Fmt.fp32.value e1).lt (Fmt.fp32.value e0)), 2), (b2n (decide (pword node 14 ≠ 1)), 3),
     (rayId ray, 32)]]

/-- A lane that makes one token of a pair of tokens and sends it where its routing says. -/
def LaneCtx.pair (f : BitVec 4 → List Dw → List Dw → List Dw) (c : LaneCtx) (g : Group) : LaneOut :=
  if g.void then { t := c.t, g := g }
  else
    { t := c.t, g := g
      toks := ([0, 1].filter (routes c.w.out)).map fun p => (p, { payload := f c.w.pol g.tokX g.tokY }) }

/-- RBOX. -/
def execRbox (tile lane : Nat) (s : State) : Res :=
  match s.laneOwner tile lane with
  | some (r, _) => occurIn s r (s.laneStep tile lane 0x1C false (LaneCtx.pair boxToken))
  | none => .next s

/-! ### Triangles (R210, R403) -/

/-- FP32 operations under RNE on encodings. -/
def f32 (pol : BitVec 4) (v : Val × Bool) : Nat := laneRound .fp32 pol v
def f32v (pol : BitVec 4) (a : Nat) : Val := Fmt.fp32.operand pol a
def f32sub (pol : BitVec 4) (a b : Nat) : Nat := laneSub .fp32 pol a b
def f32mul (pol : BitVec 4) (a b : Nat) : Nat := laneMul .fp32 pol a b

/-- A rounded FP32 quotient: a division by an infinity or of one is as for FP operations, 0/0 NaN. -/
def f32div (pol : BitVec 4) (a b : Nat) : Nat :=
  match (f32v pol a).divide (f32v pol b) with
  | some v => f32 pol (v, false)
  | none => 0x7FC00000

/-- The axis of greatest |d|, the later on a tie (R210). -/
def greatestAxis (m : Nat → Val) : Nat :=
  let ab (i : Nat) : Val := match m i with | .fin _ n d => .fin false n d | .inf _ => .inf false | v => v
  (List.range 3).foldl (fun k i => if (ab i).lt (ab k) then k else i) 0

/-- A sheared vertex: x, y and z as FP32 encodings. -/
structure Sheared where
  x : Nat
  y : Nat
  z : Nat
  deriving DecidableEq, Repr

/-- Vertex `v` of a triangle token in a ray's sheared space (R210). -/
def shear (pol : BitVec 4) (ray tri : List Dw) (kx ky kz sx sy sz v : Nat) : Sheared :=
  let p (i : Nat) : Nat := f32sub pol (pword tri (3 * v + i)) (rayWord ray i)
  let fused (s k : Nat) : Nat := f32 pol ((f32v pol s).neg.fma (f32v pol (p kz)) (f32v pol (p k)) 0)
  { x := fused sx kx, y := fused sy ky, z := f32mul pol sz (p kz) }

/-- An edge value of R210 in FP32: each product rounded, then the difference. -/
def edge32 (pol : BitVec 4) (p q : Sheared) : Val :=
  Fmt.fp32.value (f32sub pol (f32mul pol p.x q.y) (f32mul pol p.y q.x))

/-- The same in FP64, whose products are exact. -/
def edge64 (p q : Sheared) : Val :=
  let v (a : Nat) : Val := Fmt.fp32.value a
  let a := (v p.x).mul (v q.y)
  let b := (v p.y).mul (v q.x)
  if a.2 || b.2 then .canon
  else
    let d := a.1.add (if b.1.isNaN then b.1 else b.1.neg) 0
    if d.2 then .canon else Fmt.fp64.value ((toFormat d.1 .fp64 0 0).getD 0)

/-- Ownership of a zero edge P → Q (R199, R210), for σ negative or positive. -/
def ownsZero (sneg : Bool) (p q : Sheared) : Bool :=
  let v (a : Nat) : Val := Fmt.fp32.value a
  let (p, q) := if sneg then (p, q) else (q, p)
  (v p.y).lt (v q.y) || ((v q.y).eqv (v p.y) && (v q.x).lt (v p.x))

/-- An FP32 quotient of exact values, rounded once under RNE and the lane's policy (R78, R210). -/
def quotient32 (pol : BitVec 4) (n d : Val) : Nat := ((n.divide d).bind fun v => toFormat v .fp32 pol 0).getD 0x7FC00000

/-- The result token of RTRI (R210, R403). -/
def triToken (pol : BitVec 4) (ray tri : List Dw) : List Dw :=
  let rv (i : Nat) : Val := f32v pol (rayWord ray i)
  let prim := pword tri 9
  let miss (again : Bool) : List Dw := [packDw [(prim, 32)], 0, packDw [(b2n again, 1), (rayId ray, 32)]]
  if (List.range 8).any (fun i => (rv i).isNaN) || (List.range 9).any (fun i => (f32v pol (pword tri i)).isNaN) ||
      (List.range 3).all (fun i => (rv (3 + i)).isZero) then miss false
  else
    let kz := greatestAxis fun i => rv (3 + i)
    let kx0 := (kz + 1) % 3
    let ky0 := (kx0 + 1) % 3
    let flip := (rv (3 + kz)).lt .zero
    let kx := if flip then ky0 else kx0
    let ky := if flip then kx0 else ky0
    let d (i : Nat) : Nat := rayWord ray (3 + i)
    let sh := shear pol ray tri kx ky kz (f32div pol (d kx) (d kz)) (f32div pol (d ky) (d kz)) (f32div pol 0x3F800000 (d kz))
    let a := sh 0
    let b := sh 1
    let c := sh 2
    let u0 := edge32 pol c b
    let v0 := edge32 pol a c
    let w0 := edge32 pol b a
    let again := u0.isZero || v0.isZero || w0.isZero
    let u := if again then edge64 c b else u0
    let v := if again then edge64 a c else v0
    let w := if again then edge64 b a else w0
    let es := [u, v, w]
    let pos := es.any fun e => Val.zero.lt e
    let neg := es.any fun e => e.lt .zero
    if es.any Val.isNaN || (pos && neg) || (!pos && !neg) then miss again
    else if (u.isZero && !ownsZero neg b c) || (v.isZero && !ownsZero neg c a) || (w.isZero && !ownsZero neg a b) then miss again
    else
      let det := ((u.add v 0).1.add w 0).1
      let zv (p : Sheared) : Val := Fmt.fp32.value p.z
      let num := (((u.mul (zv a)).1.add (v.mul (zv b)).1 0).1.add (w.mul (zv c)).1 0).1
      [packDw [(quotient32 pol num det, 0), (prim, 32)], packDw [(quotient32 pol v det, 0), (quotient32 pol w det, 32)],
       packDw [(1, 0), (b2n again, 1), (rayId ray, 32)]]

/-- RTRI. -/
def execRtri (tile lane : Nat) (s : State) : Res :=
  match s.laneOwner tile lane with
  | some (r, _) => occurIn s r (s.laneStep tile lane 0x1D false (LaneCtx.pair triToken))
  | none => .next s

/-! ### The blender (R203, R204) -/

/-- Fragments of the lowest tag applied while it is complete: they enter the lane segment in arrival order, and one credit
returns for each tag. The first argument bounds the tags. [DEDUCED: notes/assumptions/35.md] -/
def State.applyTags (s : State) (r a : Nat) (x : Actor) (seg : LaneSeg) (credit : Nat) : Nat → State
  | 0 => s
  | n + 1 =>
    let st := (s.tile x.tile).laneSt seg.first
    let t := st.next.toNat
    match st.ends.find? fun e => decide (e.1 = t) with
    | none => s
    | some e =>
      let mine := st.frags.filter fun f => decide (f.1 = t)
      if mine.length < e.2 then s
      else
        let g := (s.region r).getD {}
        let f := g.segFmt a
        let s1 := s.modTile x.tile fun u =>
          let u1 := u.setLaneSt seg.first
            { st with
              next := st.next + 1, frags := st.frags.filter fun f => decide (f.1 ≠ t)
              ends := st.ends.filter fun e => decide (e.1 ≠ t) }
          mine.foldl (fun u m => (tokenGroups f (u.groupSize seg f) m.2 [] 0 127 127 false).foldl (fun u k => u.enterGroup seg k) u) u1
        let s2 := s1.modSeg r a fun l => { l with pend := l.pend ++ [(credit, { payload := [0] })] }
        (s2.drainPend r a).applyTags r a x seg credit n

/-- A fragment token's tag and kind. -/
def fragTag (l : List Dw) : Nat := dwAt (pdw l 0) 12 16
def fragRk (l : List Dw) : Nat := dwAt (pdw l 0) 28 4

/-- A tile-begin, as COVER passes it on (R200, R336), or by the kind field of the fragment layout; with the tile it opens. A token that
R203 lets be a fragment is one. [DEDUCED: notes/assumptions/35.md] -/
def tileBegin (l : List Dw) : Option (Option (Nat × Nat)) :=
  if dwAt (pdw l 0) 28 36 = 0 then none
  else if sampleRk l = 1 ∧ dwAt (pdw l 1) 36 24 = 0 then some (some (sampleTile l)) else if fragRk l = 1 then some none else none

/-- BLENDER_TOKEN (R204): a fragment or primitive end is buffered within the window, complete tags are applied, any other
token is discarded with code 0x44; a tile-begin starts a tile. [DEDUCED: notes/assumptions/35.md] -/
def State.blend (s : State) (r a : Nat) : Option State :=
  match s.region r, s.actor r a, s.creditOf r a with
  | some g, some x, some (credit, w) =>
    match x.body, x.head 0 with
    | .lane seg, some t =>
      if !g.active x || decide (t.kind ≠ 0) || !(s.tile x.tile).drained seg then none
      else
        let l := t.payload
        let tag := fragTag l
        let s1 := s.modActor r a fun x => x.popPort 0
        let upd (f : LaneSt → LaneSt) : State :=
          s1.modTile x.tile fun u => u.setLaneSt seg.first (f (u.laneSt seg.first))
        let st := (s.tile x.tile).laneSt seg.first
        match tileBegin l with
        | some tile => some (upd fun st => { st with next := 0, frags := [], ends := [], openTile := tile })
        | none =>
        if (BitVec.ofNat 16 tag - st.next).toNat < w then
          let s2 := if fragRk l = 3 then upd fun st => { st with ends := st.ends ++ [(tag, dwAt (pdw l 0) 32 32)] }
            else upd fun st => { st with frags := st.frags ++ [(tag, l)] }
          some (s2.applyTags r a x seg credit w)
        else
          let (v, s2) := s1.free
          let xy := (st.openTile).getD (v.toNat % 4096, v.toNat / 4096 % 4096)
          some (s2.errorAt r a (chanField (g.chanTo a 0)) tag 0x44 (packDw [(st.next.toNat, 0), (xy.1, 16), (xy.2, 28)]))
    | _, _ => none
  | _, _, _ => none

/-- BLENDER_TOKEN. -/
def execBlenderToken (r a : Nat) (s : State) : Res := occurIn s r (s.blend r a)

end Sys2Proof.Machine
end

