-- ==== Sys2Proof/Machine/UnitCmds.lean ====
section
/-! DEFINITION. LSTR and ABRUN, the commands of lane and abacus actors, and the steps of engine actors (R24, R27, R194, R309,
R384). -/

namespace Sys2Proof.Machine

/-- A command of a lane or abacus actor taken from its input and in progress, behind what its token brings (R153). -/
def State.takeUnit (s : State) (r a issuer : Nat) (w : BitVec 128) : State :=
  let tile := ((s.actor r issuer).map (·.tile)).getD 0
  let deps := (((s.actor r a).bind fun x => x.head 7).map (·.deps)).getD []
  { (s.modActor r a fun x => x.popCommand false) with
    cmds := s.cmds ++ [{ eng := .unit r a, region := r, actor := issuer, tile := tile, w := w, started := true
                         behind := (deps.map fun u => (u.tile, u.id)).eraseDups
                         cls := ((s.region r).map fun g => g.commandClass 0 w).getD 0 }] }

/-- A unit's command refused before it runs: the error token, its barrier settled whole. -/
def State.refuseUnit (s : State) (r a issuer : Nat) (w : BitVec 128) (code info : Nat) (detail : Dw) (bytes : Nat) : State :=
  let s1 := s.modActor r a fun x => x.popCommand false
  let c : Cmd := { region := r, actor := issuer, w := w }
  (s1.tellIssuer c info code detail).count c bytes true code

/-- The issuer of a unit's command, with its tile. -/
def Region.issuerTile (s : State) (g : Region) (issuer : Nat) : Option (Actor × Tile) :=
  (g.actor issuer).map fun y => (y, s.tile y.tile)

/-! ### LSTR (R384) -/

/-- A segment run until no lane has a group waiting; the first argument bounds the turns. -/
def Tile.runSeg (seg : LaneSeg) (f : Fmt) (run : LaneCtx → Group → LaneOut) : Nat → Tile → List Yield → Tile × List Yield
  | 0, t, ys => (t, ys)
  | n + 1, t, ys =>
    match seg.lanes.find? fun i => decide ((t.laneSt i).q ≠ []) with
    | none => (t, ys)
    | some i =>
      let (t1, y) := t.laneTurn seg f false [] i run
      Tile.runSeg seg f run n t1 (ys ++ y)

/-- Positions of a group's elements that were read poisoned. -/
def poisonBits (l : List (Nat × Bool)) : BitVec 32 := BitVec.ofNat 32 (packNat (l.zipIdx.map fun p => (b2n p.1.2, p.2)))

/-- Elements, each with whether it was read poisoned, in groups as they enter a segment: full data tokens' worth, and groups of `n`. -/
def streamGroups (f : Fmt) (n : Nat) (xs ys : List (Nat × Bool)) : List Group :=
  let per := perToken f.width
  let toks := chunksOf per xs.length xs
  let values (l : List (Nat × Bool)) : List Nat := l.map (·.1)
  toks.zipIdx.flatMap fun tk =>
    let cx := chunksOf n tk.1.length tk.1
    cx.zipIdx.map fun p =>
      let k := tk.2 * per + p.2 * n
      let y := (ys.drop k).take p.1.length
      { x := words (values p.1), y := words (values y), tokX := pack f.width (values tk.1)
        tokY := pack f.width (values ((ys.drop (tk.2 * per)).take tk.1.length)), badX := poisonBits p.1, badY := poisonBits y
        first := decide (p.2 = 0), last := decide (p.2 + 1 = cx.length), len := p.1.length, valid := p.1.length }

/-- The turn of any lane that takes element groups, for an actor's local window. -/
def LaneCtx.runAny (lo hi : Nat) (c : LaneCtx) (g : Group) : LaneOut := if c.w.op = 0x1A then c.aplane lo hi g else c.run g

/-- The elements through the segment of an actor, and the end of the stream where the segment holds a part. -/
def Tile.streamThrough (t : Tile) (x : Actor) (seg : LaneSeg) (f : Fmt) (xs ys : List (Nat × Bool)) : Tile × List Yield :=
  let gs := streamGroups f (t.groupSize seg f) xs ys
  let fuel := (gs.length + 1) * 17
  let t1 := gs.foldl (fun t u => t.enterGroup seg u) t
  let (t2, out) := Tile.runSeg seg f (LaneCtx.runAny x.locB x.locL) fuel t1 []
  if t2.holdsPart seg then
    Tile.runSeg seg f (LaneCtx.runAny x.locB x.locL) 17 (t2.enterGroup seg { void := true, flush := true, last := true, burstLast := true }) out
  else (t2, out)

/-- What a run routes to o0: elements with their format. -/
def Yield.toD : Yield → Option (Fmt × List (Word × Bool))
  | .elems 0 f es => some (f, es)
  | _ => none

/-- What a run routes to o1, as tokens. -/
def Yield.toO1 : Yield → List (Nat × Token)
  | .elems 0 _ _ => []
  | .elems p f es => (outTokens f (es.map fun e => e.1.toNat)).map fun t => (p, t)
  | .tok p t => if p = 0 then [] else [(p, t)]

/-- An LSTR's operands. -/
structure LaneStream where
  x : Tensor := {}
  y : Option Tensor := none
  d : Tensor := {}
  deriving DecidableEq, Repr

/-- The operands of an LSTR, none where one may not be used (R291). -/
def laneStream (u : Actor) (t : Tile) (xa da : BitVec 18) (ya : Option (BitVec 18)) : Option LaneStream :=
  if u.tensorOk t xa.toNat && u.tensorOk t da.toNat && (match ya with | some a => u.tensorOk t a.toNat | none => true) then
    some { x := (tensorAt t xa.toNat).1, y := ya.map fun a => (tensorAt t a.toNat).1, d := (tensorAt t da.toNat).1 }
  else none

/-- The segment's input format for a command: that of its channels, or of X where no channel feeds it. -/
def Region.streamFmt (g : Region) (a : Nat) (x : Tensor) : Option Fmt :=
  if g.segType a = 0x3F then some x.f else typeFmt (g.segType a)

/-- The mismatches of an LSTR that show before it runs (R384, R351); `own` says that it names the actor's segment.
[DESIGN CHOICE: notes/assumptions/30.md] -/
def LaneStream.misfit (m : LaneStream) (g : Region) (a : Nat) (t : Tile) (seg : LaneSeg) (own : Bool) : Bool :=
  let f := g.streamFmt a m.x
  !own || decide (f ≠ some m.x.f) || (match m.y with | some y => decide (f ≠ some y.f) | none => false) ||
    !([0, 2, 3, 4, 5, 9, 11, 12].contains m.x.fmt) || !m.d.unbounded || !m.d.wholeRows ||
    ((t.segInputs seg).contains 1 && m.y.isNone) || t.wholeTokens seg

/-- A run's elements for o0 fit the destination: as many, in its format. -/
def LaneStream.fits (m : LaneStream) (out : List Yield) : Bool :=
  let to0 := out.filterMap Yield.toD
  decide ((to0.flatMap (·.2)).length = m.d.count) && to0.all fun p => decide (p.1 = m.d.f)

/-- What the segment sends to o0 fits the destination, judged on X's count before anything is read (R384); where a switch sends elements by
their values, only its run shows it. [DESIGN CHOICE: notes/assumptions/45.md] -/
def LaneStream.fitsCount (m : LaneStream) (t : Tile) (x : Actor) (seg : LaneSeg) : Bool :=
  let zeros (n : Nat) : List (Nat × Bool) := List.replicate n (0, false)
  (seg.lanes.any fun i => decide ((t.laneWord i).op = 11) && decide ((t.laneWord i).out = 5)) ||
    m.fits (t.streamThrough x seg m.x.f (zeros m.x.count) (zeros ((m.y.map Tensor.count).getD 0))).2

/-- The address of the first element of a tensor that was read poisoned. -/
def Tensor.firstPoison (d : Tensor) (l : List (Nat × Bool)) : Option Nat := (lfind (·.2) l 0).map fun p => (d.place (d.split p.1)).1

/-- An LSTR runs: the operands are read, the segment runs them, and o0's elements are written; those that derive from poisoned units are
written poisoned and fail (R342, R384). [DESIGN CHOICE: notes/assumptions/45.md] -/
def State.runStream (s : State) (r a k : Nat) (c : Cmd) (x : Actor) (seg : LaneSeg) (m : LaneStream) : Option State :=
  let e := s.viaOf c (dieOf x.tile)
  let bytes := m.d.bytes
  let all (d : Tensor) : List (Nat × Nat × Nat) := (List.range m.x.count).map d.split
  let ny : Tensor := m.y.getD {}
  let misfit (s : State) : Option State := some (((s.tellIssuer c (opOf c.w) 0x21 (c.w.extractLsb' 0 64)).count c bytes true 0x21).dropCmd k)
  if !m.fitsCount (s.tile x.tile) x seg then misfit s else
  if !(s.readsReach e m.x (all m.x) && (m.y.isNone || s.readsReach e ny (all ny))) then none else
  match s.readElems e [] m.x (all m.x) with
  | (s1, .fail code d) => some (s1.failCmd k c {} 0 bytes 4 (m.x.width / 8) code d)
  | (s1, .page va) => some (s1.pageCmd e k c {} 0 bytes 4 (m.x.width / 8) va)
  | (s1, .ok xs) =>
    match s1.readElems e [] ny (if m.y.isSome then all ny else []) with
    | (s2, .fail code d) => some (s2.failCmd k c {} 0 bytes 4 (m.x.width / 8) code d)
    | (s2, .page va) => some (s2.pageCmd e k c {} 0 bytes 4 (m.x.width / 8) va)
    | (s2, .ok ys) =>
      let (t1, out) := (s2.tile x.tile).streamThrough x seg m.x.f xs ys
      let es := (out.filterMap Yield.toD).flatMap (·.2)
      if !m.fits out then misfit s2
      else
        let w := m.d.width / 8
        let put := es.zipIdx.foldl (fun (acc : State × Except (Nat × Dw ⊕ Nat) (List (Nat × List Nat × (Word × Bool)))) p =>
          match acc.2 with
          | .error _ => acc
          | .ok l =>
            let (va, _) := m.d.place (m.d.split p.2)
            match acc.1.viaXl e m.d.loc { w := true } 1 va w with
            | .fail code d => (acc.1.viaSeen e m.d.loc { w := true } 1 va w, .error (.inl (code, d)))
            | .page v => (acc.1, .error (.inr v))
            | .ok ks ms => (acc.1.mark true ms, .ok (l ++ [(va, ks, p.1)]))) (s2, .ok [])
        match put with
        | (s3, .error (.inl (code, d))) => some (s3.failCmd k c {} 0 bytes 5 w code d)
        | (s3, .error (.inr v)) => some (s3.pageCmd e k c {} 0 bytes 5 w v)
        | (s3, .ok l) =>
          let s4 := (s3.setTile x.tile t1).modSeg r a fun q => { q with pend := q.pend ++ out.flatMap Yield.toO1 }
          let s5 := s4.drainPend r a
          let keys := l.flatMap fun u => u.2.1
          let whole := wholeLines (keys.filter fun q => decide (q < localKey))
          match l.find? fun u => u.2.1.any fun q => s5.poisoned q && !whole.contains (lineOf q) with
          | some u => some (s5.failCmd k c {} 0 bytes 5 w 0x16 (BitVec.ofNat 64 u.1))
          | none =>
            let badKeys := (l.filter fun u => u.2.2.2).flatMap fun u => u.2.1
            s.writeFree e.die keys (some <|
              let s6 := whole.foldl (fun s q => s.setPoison q false) s5
              let puts := (l.zipIdx.filter fun u => !u.1.2.2.2).flatMap fun u =>
                (u.1.2.1.zip (leBytes w u.1.2.2.1.toNat)).map fun p => (u.2 / m.d.n0, p.1, p.2)
              let (s7, _, _) := s6.putAll e [] puts none
              let s8 := s7.poisonKeys e badKeys
              let src := ((m.x.firstPoison xs).orElse fun _ => ny.firstPoison ys).getD 0
              let s9 := if badKeys = [] then s8 else (s8.tellIssuer c (memInfo 4 0 (m.x.width / 8)) 0x16 (BitVec.ofNat 64 src)).count c badKeys.length true 0x16
              ((if puts = [] ∧ badKeys ≠ [] then s9 else s9.count c puts.length false 0)).dropCmd k)

/-- LSTR taken or run (R384): it runs between element groups of the segment's channels. -/
def State.laneStreamTurn (s : State) (r a : Nat) : Option State :=
  match s.unitCmd r a, s.region r with
  | some (k, c), some g =>
    match g.actor a, decodeCommand c.w with
    | some x, some (_, .lstr _ xa da ya) =>
      match x.body, Region.issuerTile s g c.actor with
      | .lane seg, some (u, t) =>
        if !(s.tile x.tile).drained seg || s.cmdWaits c then none
        else (laneStream u t xa da ya).bind fun m => s.runStream r a k c x seg m
      | _, _ => none
    | _, _ => none
  | _, _ =>
    s.unitCommand r a 8 (fun op => decide (op = 8)) fun s g x i _ w _ =>
      match x.body, decodeCommand w, Region.issuerTile s g i with
      | .lane seg, some (_, .lstr num xa da ya), some (u, t) =>
        let bytes := refusedBytes u t (.lstr num xa da ya)
        match laneStream u t xa da ya with
        | none => some (s.refuseUnit r a i w 0x20 (opOf w) (w.extractLsb' 0 64) bytes)
        | some m =>
          if m.misfit g a (s.tile x.tile) seg (decide (num.toNat = s.segNumber x.tile seg)) then some (s.refuseUnit r a i w 0x21 (opOf w) (w.extractLsb' 0 64) bytes)
          else some (s.takeUnit r a i w)
      | _, _, _ => none

/-- LSTR (R384). -/
def execLstr (r a : Nat) (s : State) : Res := occurIn s r (s.laneStreamTurn r a)

/-! ### ABRUN (R309) -/

/-- The charge of an ABRUN: frames × vectors × tokens per product, over 384 (R96, R193). -/
def Reckoning.charge (k : Reckoning) (vectors : Nat) : Nat :=
  let tokens (n f : Nat) : Nat := max 1 ((n * ((Fmt.ofCode f).getD .int8).width + 511) / 512)
  (k.frames.length * vectors * max (tokens k.nin k.ifmt) (tokens k.nout k.ofmt) + 383) / 384

/-- An ABRUN's descriptors fit the active reckoning (R309). -/
def Reckoning.fits (k : Reckoning) (x d : Tensor) : Bool :=
  decide (x.fmt = k.ifmt) && decide (x.n0 = k.nin) && decide (d.fmt = k.ofmt) && decide (d.n0 = k.nout) &&
    decide (d.n1 = x.n1) && decide (d.n2 = x.n2) && d.unbounded && x.wholeRows && d.wholeRows

/-- An ABRUN taken, once its charge is covered (R194, R309); refused where no reckoning is active or the shapes differ. -/
def State.startRun (only : Bool) (s : State) (r a : Nat) (g : Region) (x : Actor) (i by_ : Nat) (w : BitVec 128) : Option State :=
  match x.abacus, decodeCommand w, Region.issuerTile s g i with
  | some b, some (_, .abrun xa da e), some (u, t) =>
    if !x.atBoundary || b.outq ≠ [] || s.unitBusy r a then none
    else
      let bytes := refusedBytes u t (.abrun xa da e)
      let detail : Dw := w.extractLsb' 0 64
      if !(u.tensorOk t xa.toNat && u.tensorOk t da.toNat) then some (s.refuseUnit r a i w 0x20 (opOf w) detail bytes)
      else
        match b.active with
        | none => some (s.refuseUnit r a i w 0x33 0 0 bytes)
        | some p =>
          let xt := (tensorAt t xa.toNat).1
          let dt := (tensorAt t da.toNat).1
          if !p.reck.fits xt dt then some (s.refuseUnit r a i w 0x21 (opOf w) detail bytes)
          else
            let n := p.reck.charge (xt.n1 * xt.n2)
            if only && !s.isHeavy r n then none
            else (s.chargeCommand r i by_ n).map fun s1 => s1.takeUnit r a i w
  | _, _, _ => none

/-- One vector of an ABRUN: its output elements, whether their bytes fail, and the fault and sticky flags (R309). -/
def runVector (k : Reckoning) (scale : Nat) (es : List Nat) : List Nat × Option Nat × Option (Nat × Nat) × List (Nat × Nat) :=
  let zeros := List.replicate k.nout 0
  let sout := k.scaleOut scale
  if scale = 0xFF ∨ sout < 0 ∨ 254 < sout then (zeros, some 0x24, none, [])
  else
    let v := k.run (k.mantissas es)
    match v.fault with
    | some q => (zeros, some 0x31, some q, v.sticky)
    | none => (k.outputs v, none, none, v.sticky)

/-- Vector `pos` of an ABRUN read, run and written (R309). [DESIGN CHOICE: notes/assumptions/45.md] -/
def State.runOne (s : State) (r a k : Nat) (c : Cmd) (x : Actor) (p : Plane) (xt dt : Tensor) (scale : Nat) : Option State :=
  let e := s.viaOf c (dieOf x.tile)
  let kk := p.reck
  let row (n : Nat) : List (Nat × Nat × Nat) := (List.range n).map fun i => (i, c.pos % xt.n1, c.pos / xt.n1)
  let wb := kk.nout * dt.width / 8
  let xb := kk.nin * xt.width / 8
  let (va, _) := dt.place (0, c.pos % xt.n1, c.pos / xt.n1)
  if !s.readsReach e xt (row kk.nin) then none else
  match s.readElems e [] xt (row kk.nin) with
  | (s1, .fail code d) => some (s1.failCmd k c {} 0 dt.bytes 4 xb code d)
  | (s1, .page v) => some (s1.pageCmd e k c {} 0 dt.bytes 4 xb v)
  | (s1, .ok es) =>
    match s1.viaXl e dt.loc { w := true } 1 va wb with
    | .fail code d => some ((s1.viaSeen e dt.loc { w := true } 1 va wb).failCmd k c {} 0 dt.bytes 5 wb code d)
    | .page v => some (s1.pageCmd e k c {} 0 dt.bytes 5 wb v)
    | .ok ks ms =>
      let whole := wholeLines (ks.filter fun q => decide (q < localKey))
      if ks.any fun q => s1.poisoned q && !whole.contains (lineOf q) then
        some ((s1.mark true ms).failCmd k c {} 0 dt.bytes 5 wb 0x16 (BitVec.ofNat 64 va))
      else s.writeFree e.die ks (some <|
        let s2 := s1.mark true ms
        let c1 := { c with pos := c.pos + 1, counted := c.counted + wb, fault := none }
        if es.any (·.2) then
          let s3 := s2.poisonKeys e ks
          let s4 := if c.told.contains 0x16 then s3
            else s3.tellIssuer c (memInfo 4 0 xb) 0x16 (BitVec.ofNat 64 (xt.place (0, c.pos % xt.n1, c.pos / xt.n1)).1)
          (s4.count c wb true 0x16).setCmd k { c1.note 0x16 true with told := 0x16 :: c.told }
        else
          let (ys, code, flt, st) := runVector kk scale (es.map (·.1))
          let s3 := (ks.zip (leBytes wb (elemsNat dt.width ys))).foldl (fun s q => s.viaPut e q.1 q.2) s2
          let s4 := whole.foldl (fun s q => s.setPoison q false) s3
          let s5 := s4.modAbacus r a fun b => { b with active := b.active.map fun p => p.stick st }
          match code with
          | none => (s5.count c wb false 0).setCmd k { c1 with written := c.written + wb }
          | some 0x31 =>
            let f := flt.getD (0, 0)
            let s6 := s5.tellIssuer c (f.2 % 2048) 0x31 (packDw [(f.1 % 64, 0)])
            (s6.count c wb true 0x31).setCmd k (c1.note 0x31 true)
          | some code =>
            let s6 := if c.told.contains code then s5 else s5.tellIssuer c (opOf c.w) code 0
            (s6.count c wb true code).setCmd k { c1.note code true with told := code :: c.told })

/-- ABRUN taken, one vector of it, or its end. -/
def State.abRunTurn (only : Bool) (s : State) (r a : Nat) : Option State :=
  match s.unitCmd r a, s.region r with
  | some (k, c), some g =>
    if only || s.cmdWaits c then none
    else
      match g.actor a, decodeCommand c.w with
      | some x, some (_, .abrun xa da sc) =>
        match x.abacus.bind (·.active), Region.issuerTile s g c.actor with
        | some p, some (_, t) =>
          let xt := (tensorAt t xa.toNat).1
          let dt := (tensorAt t da.toNat).1
          if xt.n1 * xt.n2 ≤ c.pos then some (s.dropCmd k) else s.runOne r a k c x p xt dt sc.toNat
        | _, _ => none
      | _, _ => none
  | _, _ =>
    s.unitCommand r a 9 (fun op => decide (op = 9)) fun s g x i b w _ => s.startRun only r a g x i b w

/-- ABRUN (R309). -/
def execAbrun (r a : Nat) (s : State) : Res := occurIn s r (s.abRunTurn false r a)

/-! ### Metadata errors (R147) -/

/-- A partial write of a command is lost: its lines are poisoned and code 0x19 ends the command. -/
def State.loseWrite (s : State) (k : Nat) (c : Cmd) (x : Ext) (scale total n va : Nat) (ks : List Nat) : State :=
  (s.loseLines ks).failCmd k c x scale total 5 n 0x19 (BitVec.ofNat 64 va)

/-- The bytes from `va` that a command writes next are lost, where they are a partial write of memory. -/
def State.loseNext (s : State) (e : Via) (k : Nat) (c : Cmd) (x : Ext) (d : Tensor) (total n va : Nat) (need : Need) (al : Nat) :
    Option State :=
  match s.viaXl e d.loc need al va n with
  | .ok ks ms =>
    if d.loc || s.anyPoison ks || decide (wholeLines ks ≠ []) || decide (s.deviceLines ks = []) then none
    else some ((s.mark true ms).loseWrite k c x 0 total n va ks)
  | _ => none

/-- The metadata fetch of a command's next partial write fails (R147): of a move, the first unit of its next transfer that lies
in a line not written whole. -/
def State.metaCommand (s : State) (k : Nat) (c : Cmd) : Option State :=
  match s.region c.region with
  | none => none
  | some g =>
    match g.actor c.actor, decodeCommand c.w with
    | some x, some (_, d) =>
      let t := s.tile x.tile
      let die := match c.eng with
        | .copy die _ => die
        | .bank die => die
        | .link die => die
        | .unit r a => dieOf (((s.actor r a).map (·.tile)).getD 0)
      let e := s.viaOf c die
      match d with
      | .cpy .. | .gath .. | .scat .. =>
        match moveOf x t d, c.scale with
        | .ok m, some scale =>
          match s.gather e m c.before scale (m.unitsLeft c) c.pos [] with
          | (s1, .done gt) =>
            let whole := wholeLines (gt.flatMap (·.keys))
            let part (u : MoveUnit) : Bool := u.keys.any fun q => decide (q < localKey) && s1.inDevice q && !whole.contains (lineOf q)
            (gt.find? part).map fun u => (s1.mark true u.marks).loseWrite k c m.ext (m.reported c) m.total m.unitBytes u.va u.keys
          | _ => none
        | _, _ => none
      | .bred op v q ext =>
        let m : Reduce := { op := op.toNat, val := (tensorAt t v.toNat).1, tgt := (tensorAt t q.toNat).1, ext := extOf t ext }
        let j := if m.ext.lists then m.ext.index t c.pos else c.pos
        if m.val.count ≤ c.pos || !m.ok || (m.ext.lists && m.ext.badIndex m.tgt.count j) then none
        else s.loseNext e k c m.ext m.tgt m.total m.size (m.tgt.place (m.tgt.split j)).1 { at_ := true } m.size
      | .lstr _ _ q _ =>
        let dt := (tensorAt t q.toNat).1
        if dt.count = 0 then none else s.loseNext e k c {} dt dt.bytes (dt.width / 8) (dt.place (dt.split 0)).1 { w := true } 1
      | .abrun _ q _ =>
        let dt := (tensorAt t q.toNat).1
        if dt.n1 * dt.n2 ≤ c.pos then none
        else s.loseNext e k c {} dt dt.bytes (dt.n0 * dt.width / 8) (dt.place (0, c.pos % dt.n1, c.pos / dt.n1)).1 { w := true } 1
      | _ => none
    | _, _ => none

/-- METADATA_ERROR (R147): the partial write is not performed, its line is poisoned and code 0x19 reported in its response or to
the barrier that counts it. `tile` and `k` name an access of a port; tile 1,024 names command `k`; tile 1,025 names line `k` of device
memory, which the next write of the host, a peer or the package's hardware finds so. [DESIGN CHOICE: notes/assumptions/9.md] -/
def execMetadataError (tile k : Nat) (s : State) : Res :=
  if tile = 1024 then
    match s.cmds[k]? with
    | some c => occurIn s c.region (s.metaCommand k c)
    | none => .next s
  else if tile = 1025 then
    .next (if s.inDevice (128 * k) then { s.poisonLine k with badMeta := sset false s.badMeta k true } else s)
  else
    match s.portAt tile k with
    | some a => occurIn s a.region (s.metaAccess tile k a)
    | none => .next s

/-- HEAVY_COMMAND_HOLD (R194): a heavy matrix or abacus command starts once its uncovered charge is available. -/
def execHeavyCommandHold (r a : Nat) (s : State) : Res :=
  occurIn s r
    (match s.actor r a with
     | none => none
     | some x =>
       match x.body with
       | .matrix _ =>
         (s.unitCommand r a 5 matAccepts fun s _ x i b w fo => s.startMat true r a x i b w fo).orElse fun _ =>
           s.unitCommand r a 6 matAccepts fun s _ x i b w fo => s.startMat true r a x i b w fo
       | .abacus _ => s.abRunTurn true r a
       | _ => none)

/-! ### Engine actors (R24, R27) -/

/-- A bank actor's element joins its tile's memory port (R137): the operation that its operand tokens name.
[DESIGN CHOICE: notes/assumptions/23.md] -/
def State.pushBank (s : State) (r a : Nat) (g : Region) (x : Actor) (tokens : List (List Dw)) : State :=
  let (op, va, v, e) := Sys2Proof.Config.bankOperands tokens
  let k := op.toNat % 12
  let y := (s.actor r a).getD x
  let q : Access :=
    { id := s.nextId, region := r, actor := a, asid := g.asid, kind := if k = 11 then .cas else .atomic k, va := va
      data := dwBytes v, exp := e, after := y.fence.all, behind := s.carried y, elem := some 0 }
  let s1 : State := { s with nextId := s.nextId + 1 }
  s1.modTile x.tile fun t => { t with port := t.port ++ [q] }

/-- One step of a bank actor (R24, R137): the old value of its element leaves on every named output; an error is copied in place;
a header is taken, on a channel of no burst type with code 0x05 (R364); one operand token is taken from each named input.
[DESIGN CHOICE: notes/assumptions/23.md] -/
def State.bankElement (s : State) (r a : Nat) (g : Region) (x : Actor) : Option State :=
  let (ins, outs) := s.engineNamed g a x
  match s.bankAt x with
  | some (k, q) =>
    match q.st with
    | .answered t =>
      if g.outsFree a outs then
        some (outs.foldl (fun s p => s.sendOn r a p t.kind t.payload t.deps) (s.dropAccess x.tile k))
      else none
    | _ => none
  | none =>
    if !g.active x || ins.isEmpty then none
    else
      match ins.findSome? (s.framing r a) with
      | some s1 => some s1
      | none =>
        match s.errorStep r a g x ins outs with
        | some s1 => some s1
        | none =>
          match s.headerStep r a g x ins outs with
          | some s1 => some s1
          | none =>
            if (ins.all fun p => x.isData p && !(x.port p).drop) && g.outsFree a outs then
              some ((s.modActor r a fun x => ins.foldl Actor.takeTracked x).pushBank r a g x
                (ins.map fun p => ((x.head p).getD {}).payload))
            else none

/-- ENGINE_ELEMENT_STEP (R24): by the actor's kind. -/
def execEngineElementStep (r a : Nat) (s : State) : Res :=
  match s.region r with
  | none => .next s
  | some g =>
    match g.actor a with
    | none => .next s
    | some x =>
      match x.body with
      | .lane seg => occurIn s r (s.laneElement r a g x seg)
      | .matrix _ => occurIn s r (s.matrixElement r a g x)
      | .abacus _ => occurIn s r (s.abInput r a)
      | .memory m => occurIn s r (if m.store then s.memStore r a else s.memLoad r a)
      | .bank => occurIn s r (s.bankElement r a g x)
      | _ => .next s

/-- A configuration token at an input of a lane actor (R27): inside a burst it waits for the next burst boundary; else it takes effect
in its place, behind everything ahead of it, and before anything behind it enters. [DESIGN CHOICE: notes/assumptions/30.md] -/
def State.laneConfig (s : State) (r a : Nat) (x : Actor) (seg : LaneSeg) (p : Nat) (t : Token) : Option State :=
  let s1 := s.modActor r a fun x => x.popPort p
  if x.inBurst then some (s1.modSeg r a fun l => { l with cfg := l.cfg ++ [t.payload] })
  else if (s.tile x.tile).drained seg then some (s1.configLanes x.tile seg seg.lanes) else none

/-- The first waiting configuration applied to a lane actor's segment at a burst boundary.
[DESIGN CHOICE: notes/assumptions/30.md] -/
def State.laneApply (s : State) (r a : Nat) (x : Actor) (seg : LaneSeg) : Option State :=
  if decide (seg.cfg ≠ []) && (s.tile x.tile).drained seg && !x.inBurst then
    some ((s.configLanes x.tile seg seg.lanes).modSeg r a fun l => { l with cfg := l.cfg.drop 1 })
  else none

/-- ENGINE_CONFIG_APPLY (R27): the control token at the lowest named input is taken. A call at an engine goes to the fault
sink with code 0x07 (R26, R321); another actor than a lane or abacus actor has no configuration to change.
[DEDUCED: notes/assumptions/79.md] -/
def State.configStep (s : State) (r a : Nat) : Option State :=
  match s.region r with
  | none => none
  | some g =>
    match g.actor a with
    | none => none
    | some x =>
      if !g.active x || x.isTask then none
      else
        let seg? := match x.body with | .lane l => some l | _ => none
        let pending := seg?.bind fun l => s.laneApply r a x l
        match pending with
        | some s1 => some s1
        | none =>
          let (ins, _) := s.engineNamed g a x
          let ins := (if ins.isEmpty then x.fedInputs else ins).filter fun p => decide (p ≠ 7)
          match x.controlPort ins with
          | none => none
          | some p =>
            let t := (x.head p).getD {}
            if (x.abacus.bind x.configNext).isSome && decide (p = 0) then s.abConfig r a
            else if t.subtype = 3 then
              some ((s.modActor r a fun x => x.popPort p).divertCall r a (chanField (g.chanTo a p)) t)
            else
              match x.body with
              | .lane l => if t.subtype = 4 then (if decide (l.cfg ≠ []) && !x.inBurst then none else s.laneConfig r a x l p t)
                  else some (s.modActor r a fun x => x.popPort p)
              | .abacus _ => if t.subtype = 4 then s.abConfig r a else some (s.modActor r a fun x => x.popPort p)
              | .merge .. | .counter _ | .task => none
              | _ => some (s.modActor r a fun x => x.popPort p)

def execEngineConfigApply (r a : Nat) (s : State) : Res := occurIn s r (s.configStep r a)

end Sys2Proof.Machine
end

