-- ==== Sys2Proof/Machine/Dispatch.lean ====
section
/-! DEFINITION. The one dispatch from instructions and events to their meanings, one arm a constructor. -/

namespace Sys2Proof.Machine

/-- The meaning of one operation or event. -/
def exec (i : Instr) (s : State) : Host.Outcome State Fault Refusal :=
  match i with
  | .add d a b w => Sys2Proof.Machine.execAdd d a b w s
  | .sub d a b w => Sys2Proof.Machine.execSub d a b w s
  | .and d a b w => Sys2Proof.Machine.execAnd d a b w s
  | .or d a b w => Sys2Proof.Machine.execOr d a b w s
  | .xor d a b w => Sys2Proof.Machine.execXor d a b w s
  | .andn d a b w => Sys2Proof.Machine.execAndn d a b w s
  | .shl d a b w => Sys2Proof.Machine.execShl d a b w s
  | .shr d a b w => Sys2Proof.Machine.execShr d a b w s
  | .sar d a b w => Sys2Proof.Machine.execSar d a b w s
  | .rotr d a b w => Sys2Proof.Machine.execRotr d a b w s
  | .min d a b w => Sys2Proof.Machine.execMin d a b w s
  | .max d a b w => Sys2Proof.Machine.execMax d a b w s
  | .minu d a b w => Sys2Proof.Machine.execMinu d a b w s
  | .maxu d a b w => Sys2Proof.Machine.execMaxu d a b w s
  | .slt d a b w => Sys2Proof.Machine.execSlt d a b w s
  | .sltu d a b w => Sys2Proof.Machine.execSltu d a b w s
  | .seq d a b w => Sys2Proof.Machine.execSeq d a b w s
  | .clz d a w => Sys2Proof.Machine.execClz d a w s
  | .ctz d a w => Sys2Proof.Machine.execCtz d a w s
  | .popc d a w => Sys2Proof.Machine.execPopc d a w s
  | .mul d a b w => Sys2Proof.Machine.execMul d a b w s
  | .mulh d a b w => Sys2Proof.Machine.execMulh d a b w s
  | .mulhu d a b w => Sys2Proof.Machine.execMulhu d a b w s
  | .div d a b w => Sys2Proof.Machine.execDiv d a b w s
  | .divu d a b w => Sys2Proof.Machine.execDivu d a b w s
  | .rem d a b w => Sys2Proof.Machine.execRem d a b w s
  | .remu d a b w => Sys2Proof.Machine.execRemu d a b w s
  | .fadd d a b f m => Sys2Proof.Machine.execFadd d a b f m s
  | .fsub d a b f m => Sys2Proof.Machine.execFsub d a b f m s
  | .fmul d a b f m => Sys2Proof.Machine.execFmul d a b f m s
  | .fmin d a b f => Sys2Proof.Machine.execFmin d a b f s
  | .fmax d a b f => Sys2Proof.Machine.execFmax d a b f s
  | .fcmpEq d a b f => Sys2Proof.Machine.execFcmpEq d a b f s
  | .fcmpLt d a b f => Sys2Proof.Machine.execFcmpLt d a b f s
  | .fcmpLe d a b f => Sys2Proof.Machine.execFcmpLe d a b f s
  | .fcmpUo d a b f => Sys2Proof.Machine.execFcmpUo d a b f s
  | .fcvt d a b f m => Sys2Proof.Machine.execFcvt d a b f m s
  | .frcp d a f m => Sys2Proof.Machine.execFrcp d a f m s
  | .frsq d a f m => Sys2Proof.Machine.execFrsq d a f m s
  | .fexp2 d a f m => Sys2Proof.Machine.execFexp2 d a f m s
  | .flog2 d a f m => Sys2Proof.Machine.execFlog2 d a f m s
  | .fsgnCp d a b f => Sys2Proof.Machine.execFsgnCp d a b f s
  | .fsgnNeg d a b f => Sys2Proof.Machine.execFsgnNeg d a b f s
  | .fsgnXor d a b f => Sys2Proof.Machine.execFsgnXor d a b f s
  | .fma d a b c f m => Sys2Proof.Machine.execFma d a b c f m s
  | .sel d a b c => Sys2Proof.Machine.execSel d a b c s
  | .ins d a b c => Sys2Proof.Machine.execIns d a b c s
  | .exts d a c => Sys2Proof.Machine.execExts d a c s
  | .extu d a c => Sys2Proof.Machine.execExtu d a c s
  | .addi d a imm => Sys2Proof.Machine.execAddi d a imm s
  | .andi d a imm => Sys2Proof.Machine.execAndi d a imm s
  | .ori d a imm => Sys2Proof.Machine.execOri d a imm s
  | .xori d a imm => Sys2Proof.Machine.execXori d a imm s
  | .slti d a imm => Sys2Proof.Machine.execSlti d a imm s
  | .shli d a w sf => Sys2Proof.Machine.execShli d a w sf s
  | .shri d a w sf => Sys2Proof.Machine.execShri d a w sf s
  | .sari d a w sf => Sys2Proof.Machine.execSari d a w sf s
  | .rotri d a w sf => Sys2Proof.Machine.execRotri d a w sf s
  | .ldhi d imm => Sys2Proof.Machine.execLdhi d imm s
  | .addpc d imm => Sys2Proof.Machine.execAddpc d imm s
  | .br c a b o => Sys2Proof.Machine.execBr c a b o s
  | .loop a o => Sys2Proof.Machine.execLoop a o s
  | .jmp o => Sys2Proof.Machine.execJmp o s
  | .call o => Sys2Proof.Machine.execCall o s
  | .ret a => Sys2Proof.Machine.execRet a s
  | .jtab a b => Sys2Proof.Machine.execJtab a b s
  | .callr d a => Sys2Proof.Machine.execCallr d a s
  | .endTask => Sys2Proof.Machine.execEndTask s
  | .endrTask => Sys2Proof.Machine.execEndrTask s
  | .ldl g b z x o => Sys2Proof.Machine.execLdl g b z x o s
  | .stl g b z o => Sys2Proof.Machine.execStl g b z o s
  | .ldg b p f sf o => Sys2Proof.Machine.execLdg b p f sf o s
  | .stg g b f sf o => Sys2Proof.Machine.execStg g b f sf o s
  | .atom g b p f sf o => Sys2Proof.Machine.execAtom g b p f sf o s
  | .cas g b p sf o => Sys2Proof.Machine.execCas g b p sf o s
  | .futGet b p sf o => Sys2Proof.Machine.execFutGet b p sf o s
  | .futPut g b p sf o => Sys2Proof.Machine.execFutPut g b p sf o s
  | .futClear b p sf o => Sys2Proof.Machine.execFutClear b p sf o s
  | .prf b sf o => Sys2Proof.Machine.execPrf b sf o s
  | .cwb b p sf => Sys2Proof.Machine.execCwb b p sf s
  | .cinv b => Sys2Proof.Machine.execCinv b s
  | .ord sf o => Sys2Proof.Machine.execOrd sf o s
  | .recv g p n c sf f => Sys2Proof.Machine.execRecv g p n c sf f s
  | .peek g p n c sf f => Sys2Proof.Machine.execPeek g p n c sf f s
  | .send g p n c => Sys2Proof.Machine.execSend g p n c s
  | .sendn p => Sys2Proof.Machine.execSendn p s
  | .sende p e => Sys2Proof.Machine.execSende p e s
  | .senderr g p => Sys2Proof.Machine.execSenderr g p s
  | .fwd imm p => Sys2Proof.Machine.execFwd imm p s
  | .rsv g p n => Sys2Proof.Machine.execRsv g p n s
  | .chq g p f => Sys2Proof.Machine.execChq g p f s
  | .hdr g p => Sys2Proof.Machine.execHdr g p s
  | .wemit g e n => Sys2Proof.Machine.execWemit g e n s
  | .wrsv g e n => Sys2Proof.Machine.execWrsv g e n s
  | .issue o e m p => Sys2Proof.Machine.execIssue o e m p s
  | .barset a b sf => Sys2Proof.Machine.execBarset a b sf s
  | .baradd a sf => Sys2Proof.Machine.execBaradd a sf s
  | .abload a b p => Sys2Proof.Machine.execAbload a b p s
  | .abswap b p => Sys2Proof.Machine.execAbswap b p s
  | .abdrop b p => Sys2Proof.Machine.execAbdrop b p s
  | .abqry a b p => Sys2Proof.Machine.execAbqry a b p s
  | .cfgload a b p => Sys2Proof.Machine.execCfgload a b p s
  | .cfgloadRestore a b p => Sys2Proof.Machine.execCfgloadRestore a b p s
  | .place a b p => Sys2Proof.Machine.execPlace a b p s
  | .mark a p => Sys2Proof.Machine.execMark a p s
  | .pwreq d a => Sys2Proof.Machine.execPwreq d a s
  | .pwrel => Sys2Proof.Machine.execPwrel s
  | .prio c => Sys2Proof.Machine.execPrio c s
  | .csrr g c => Sys2Proof.Machine.execCsrr g c s
  | .csrw a c => Sys2Proof.Machine.execCsrw a c s
  | .csrx g a c => Sys2Proof.Machine.execCsrx g a c s
  | .krd g k => Sys2Proof.Machine.execKrd g k s
  | .kwr a k => Sys2Proof.Machine.execKwr a k s
  | .time g => Sys2Proof.Machine.execTime g s
  | .trap c => Sys2Proof.Machine.execTrap c s
  | .eret => Sys2Proof.Machine.execEret s
  | .brk => Sys2Proof.Machine.execBrk s
  | .halt => Sys2Proof.Machine.execHalt s
  | .mxsave => Sys2Proof.Machine.execMxsave s
  | .mxrest => Sys2Proof.Machine.execMxrest s
  | .nop => Sys2Proof.Machine.execNop s
  | .cpy die eng => Sys2Proof.Machine.execCpy die eng s
  | .gath die eng => Sys2Proof.Machine.execGath die eng s
  | .scat die eng => Sys2Proof.Machine.execScat die eng s
  | .bred die => Sys2Proof.Machine.execBred die s
  | .mma r a => Sys2Proof.Machine.execMma r a s
  | .mmac r a => Sys2Proof.Machine.execMmac r a s
  | .accrd r a => Sys2Proof.Machine.execAccrd r a s
  | .lstr r a => Sys2Proof.Machine.execLstr r a s
  | .abrun r a => Sys2Proof.Machine.execAbrun r a s
  | .rsend die => Sys2Proof.Machine.execRsend die s
  | .followOnDelivery k => Sys2Proof.Machine.execFollowOnDelivery k s
  | .rsendRemoteDelivery k => Sys2Proof.Machine.execRsendRemoteDelivery k s
  | .completionToken k => Sys2Proof.Machine.execCompletionToken k s
  | .barrierSubtract k => Sys2Proof.Machine.execBarrierSubtract k s
  | .ladd tile lane => Sys2Proof.Machine.execLadd tile lane s
  | .lsub tile lane => Sys2Proof.Machine.execLsub tile lane s
  | .lmul tile lane => Sys2Proof.Machine.execLmul tile lane s
  | .lfma tile lane => Sys2Proof.Machine.execLfma tile lane s
  | .lmin tile lane => Sys2Proof.Machine.execLmin tile lane s
  | .lmax tile lane => Sys2Proof.Machine.execLmax tile lane s
  | .lcvt tile lane => Sys2Proof.Machine.execLcvt tile lane s
  | .lexp2 tile lane => Sys2Proof.Machine.execLexp2 tile lane s
  | .lrcp tile lane => Sys2Proof.Machine.execLrcp tile lane s
  | .lrsq tile lane => Sys2Proof.Machine.execLrsq tile lane s
  | .llog tile lane => Sys2Proof.Machine.execLlog tile lane s
  | .lsel tile lane => Sys2Proof.Machine.execLsel tile lane s
  | .lselSwitch tile lane => Sys2Proof.Machine.execLselSwitch tile lane s
  | .lcmp tile lane => Sys2Proof.Machine.execLcmp tile lane s
  | .lshf tile lane => Sys2Proof.Machine.execLshf tile lane s
  | .lpass tile lane => Sys2Proof.Machine.execLpass tile lane s
  | .ldly tile lane => Sys2Proof.Machine.execLdly tile lane s
  | .lrow tile lane => Sys2Proof.Machine.execLrow tile lane s
  | .lscale tile lane => Sys2Proof.Machine.execLscale tile lane s
  | .lacc tile lane => Sys2Proof.Machine.execLacc tile lane s
  | .lred tile lane => Sys2Proof.Machine.execLred tile lane s
  | .lperm tile lane => Sys2Proof.Machine.execLperm tile lane s
  | .edge tile lane => Sys2Proof.Machine.execEdge tile lane s
  | .cover tile lane => Sys2Proof.Machine.execCover tile lane s
  | .resolverTileBegin tile lane => Sys2Proof.Machine.execResolverTileBegin tile lane s
  | .resolverSample tile lane => Sys2Proof.Machine.execResolverSample tile lane s
  | .resolverTileDone tile lane => Sys2Proof.Machine.execResolverTileDone tile lane s
  | .aplane tile lane => Sys2Proof.Machine.execAplane tile lane s
  | .rbox tile lane => Sys2Proof.Machine.execRbox tile lane s
  | .rtri tile lane => Sys2Proof.Machine.execRtri tile lane s
  | .routerHop r ch k => Sys2Proof.Machine.execRouterHop r ch k s
  | .filterBurstEmit r ch => Sys2Proof.Machine.execFilterBurstEmit r ch s
  | .tokenReceive r ch => Sys2Proof.Machine.execTokenReceive r ch s
  | .heldErrorSend r a => Sys2Proof.Machine.execHeldErrorSend r a s
  | .engineElementStep r a => Sys2Proof.Machine.execEngineElementStep r a s
  | .engineConfigApply r a => Sys2Proof.Machine.execEngineConfigApply r a s
  | .nullPropagate r a => Sys2Proof.Machine.execNullPropagate r a s
  | .eosJoin r a => Sys2Proof.Machine.execEosJoin r a s
  | .shapeError r a => Sys2Proof.Machine.execShapeError r a s
  | .orderedMergePosition r a => Sys2Proof.Machine.execOrderedMergePosition r a s
  | .arrivalMergeToken r a port => Sys2Proof.Machine.execArrivalMergeToken r a port s
  | .counterIndexEmit r a => Sys2Proof.Machine.execCounterIndexEmit r a s
  | .counterEosEmit r a => Sys2Proof.Machine.execCounterEosEmit r a s
  | .controllerEnableReceive r k => Sys2Proof.Machine.execControllerEnableReceive r k s
  | .controllerDoneReceive r k => Sys2Proof.Machine.execControllerDoneReceive r k s
  | .launchTokenArrival r => Sys2Proof.Machine.execLaunchTokenArrival r s
  | .launchEnd r => Sys2Proof.Machine.execLaunchEnd r s
  | .firingSelect tile => Sys2Proof.Machine.execFiringSelect tile s
  | .residencyProbe r a present => Sys2Proof.Machine.execResidencyProbe r a present s
  | .taskStart tile => Sys2Proof.Machine.execTaskStart tile s
  | .handlerCallArrival r k => Sys2Proof.Machine.execHandlerCallArrival r k s
  | .taskLengthExceeded => Sys2Proof.Machine.execTaskLengthExceeded s
  | .handlerLimitExceeded => Sys2Proof.Machine.execHandlerLimitExceeded s
  | .pageWalk tile k => Sys2Proof.Machine.execPageWalk tile k s
  | .spillRetry tile k => Sys2Proof.Machine.execSpillRetry tile k s
  | .faultWindowExpiry tile k => Sys2Proof.Machine.execFaultWindowExpiry tile k s
  | .requestResponse tile k deliver => Sys2Proof.Machine.execRequestResponse tile k deliver s
  | .storeAccept tile k => Sys2Proof.Machine.execStoreAccept tile k s
  | .bankOperationPerform tile k => Sys2Proof.Machine.execBankOperationPerform tile k s
  | .futureGetPerform tile k => Sys2Proof.Machine.execFutureGetPerform tile k s
  | .futurePutPerform tile k => Sys2Proof.Machine.execFuturePutPerform tile k s
  | .futureClearPerform tile k => Sys2Proof.Machine.execFutureClearPerform tile k s
  | .writePerform tile k => Sys2Proof.Machine.execWritePerform tile k s
  | .invalidationAck line tile => Sys2Proof.Machine.execInvalidationAck line tile s
  | .evictionNotice line tile => Sys2Proof.Machine.execEvictionNotice line tile s
  | .hostRead fn pa n => Sys2Proof.Machine.execHostRead fn pa n s
  | .hostWrite fn pa data => Sys2Proof.Machine.execHostWrite fn pa data s
  | .peerAccess link pa n write data => Sys2Proof.Machine.execPeerAccess link pa n write data s
  | .uncorrectableLineError pa => Sys2Proof.Machine.execUncorrectableLineError pa s
  | .scratchpadUncorrectable tile detail => Sys2Proof.Machine.execScratchpadUncorrectable tile detail s
  | .metadataError tile k => Sys2Proof.Machine.execMetadataError tile k s
  | .correctedError die kind unit page => Sys2Proof.Machine.execCorrectedError die kind unit page s
  | .dieReset die dirty => Sys2Proof.Machine.execDieReset die dirty s
  | .qdbWrite slice q v => Sys2Proof.Machine.execQdbWrite slice q v s
  | .qcfgWrite slice q v => Sys2Proof.Machine.execQcfgWrite slice q v s
  | .frontEndSelect slice => Sys2Proof.Machine.execFrontEndSelect slice s
  | .launchPortRequest r ch => Sys2Proof.Machine.execLaunchPortRequest r ch s
  | .placementSearch slice k => Sys2Proof.Machine.execPlacementSearch slice k s
  | .quantumPreempt slice => Sys2Proof.Machine.execQuantumPreempt slice s
  | .elasticSample r stage => Sys2Proof.Machine.execElasticSample r stage s
  | .elasticWindowEnd r stage => Sys2Proof.Machine.execElasticWindowEnd r stage s
  | .replicaRetire r stage => Sys2Proof.Machine.execReplicaRetire r stage s
  | .orderedMembershipChange r stage => Sys2Proof.Machine.execOrderedMembershipChange r stage s
  | .distributorRoute r stage => Sys2Proof.Machine.execDistributorRoute r stage s
  | .distributorEosRelease r stage => Sys2Proof.Machine.execDistributorEosRelease r stage s
  | .rayAdmission r stage => Sys2Proof.Machine.execRayAdmission r stage s
  | .workRecordDelivery r => Sys2Proof.Machine.execWorkRecordDelivery r s
  | .powerRefill r => Sys2Proof.Machine.execPowerRefill r s
  | .ingressCreditWait r => Sys2Proof.Machine.execIngressCreditWait r s
  | .heavyCommandHold r a => Sys2Proof.Machine.execHeavyCommandHold r a s
  | .matrixGroupAdd r a => Sys2Proof.Machine.execMatrixGroupAdd r a s
  | .memoryActorLoad r a => Sys2Proof.Machine.execMemoryActorLoad r a s
  | .memoryActorStore r a => Sys2Proof.Machine.execMemoryActorStore r a s
  | .memoryActorEosForward r a => Sys2Proof.Machine.execMemoryActorEosForward r a s
  | .abacusInputBurst r a => Sys2Proof.Machine.execAbacusInputBurst r a s
  | .abacusVectorOutput r a => Sys2Proof.Machine.execAbacusVectorOutput r a s
  | .abacusLoadComplete r a => Sys2Proof.Machine.execAbacusLoadComplete r a s
  | .abacusSwapEffect r a => Sys2Proof.Machine.execAbacusSwapEffect r a s
  | .abacusConfigToken r a => Sys2Proof.Machine.execAbacusConfigToken r a s
  | .blenderToken r a => Sys2Proof.Machine.execBlenderToken r a s
  | .displayFrameStart die head => Sys2Proof.Machine.execDisplayFrameStart die head s
  | .presentToken r ch => Sys2Proof.Machine.execPresentToken r ch s
  | .dctlWrite die head v => Sys2Proof.Machine.execDctlWrite die head v s
  | .esctlWrite die session v => Sys2Proof.Machine.execEsctlWrite die session v s
  | .encoderFrameDone die session frame => Sys2Proof.Machine.execEncoderFrameDone die session frame s
  | .cutreqWrite slice v => Sys2Proof.Machine.execCutreqWrite slice v s
  | .solsticeArrival r a port => Sys2Proof.Machine.execSolsticeArrival r a port s
  | .actorSave r a => Sys2Proof.Machine.execActorSave r a s
  | .recordToken r a port => Sys2Proof.Machine.execRecordToken r a port s
  | .snapshotComplete r => Sys2Proof.Machine.execSnapshotComplete r s
  | .checkpointCopy base => Sys2Proof.Machine.execCheckpointCopy base s
  | .checkpointCopyDone => Sys2Proof.Machine.execCheckpointCopyDone s
  | .checkpointRestoreCopy base => Sys2Proof.Machine.execCheckpointRestoreCopy base s
  | .connectionEntryWrite e v => Sys2Proof.Machine.execConnectionEntryWrite e v s
  | .circuitCalibrated e => Sys2Proof.Machine.execCircuitCalibrated e s
  | .bulkCircuitDrain e => Sys2Proof.Machine.execBulkCircuitDrain e s
  | .ctstatWrite v => Sys2Proof.Machine.execCtstatWrite v s
  | .flitReplay edge => Sys2Proof.Machine.execFlitReplay edge s
  | .dieEdgeDown edge => Sys2Proof.Machine.execDieEdgeDown edge s
  | .sisterLinkDown link => Sys2Proof.Machine.execSisterLinkDown link s
  | .linkChannelToken link chan tok sb => Sys2Proof.Machine.execLinkChannelToken link chan tok sb s
  | .ideIntegrityFailure slice => Sys2Proof.Machine.execIdeIntegrityFailure slice s
  | .tdiStateChange slice st => Sys2Proof.Machine.execTdiStateChange slice st s
  | .trootWrite v => Sys2Proof.Machine.execTrootWrite v s
  | .equinoxSyncMessage die fwd step eqe => Sys2Proof.Machine.execEquinoxSyncMessage die fwd step eqe s
  | .equinoxLock die eqt eqe => Sys2Proof.Machine.execEquinoxLock die eqt eqe s
  | .frzWrite v => Sys2Proof.Machine.execFrzWrite v s
  | .freezeInput => Sys2Proof.Machine.execFreezeInput s
  | .sldescWrite slice v => Sys2Proof.Machine.execSldescWrite slice v s
  | .tinv0Write slice v => Sys2Proof.Machine.execTinv0Write slice v s
  | .tinv1Write slice v => Sys2Proof.Machine.execTinv1Write slice v s
  | .tinvDone slice => Sys2Proof.Machine.execTinvDone slice s
  | .hwcntRead die => Sys2Proof.Machine.execHwcntRead die s
  | .trresWrite die v => Sys2Proof.Machine.execTrresWrite die v s
  | .trdataRead die => Sys2Proof.Machine.execTrdataRead die s
  | .trdataWrite die v => Sys2Proof.Machine.execTrdataWrite die v s
  | .registerWrite reg v => Sys2Proof.Machine.execRegisterWrite reg v s
  | .powerGood => Sys2Proof.Machine.execPowerGood s
  | .bootStage stage image verified => Sys2Proof.Machine.execBootStage stage image verified s
  | .recoveryImage image verified => Sys2Proof.Machine.execRecoveryImage image verified s
  | .perstRelease => Sys2Proof.Machine.execPerstRelease s
  | .debugUnlock verified => Sys2Proof.Machine.execDebugUnlock verified s
  | .spdmGetVersion fn request => Sys2Proof.Machine.execSpdmGetVersion fn request s
  | .spdmGetCapabilities fn request => Sys2Proof.Machine.execSpdmGetCapabilities fn request s
  | .spdmNegotiateAlgorithms fn request => Sys2Proof.Machine.execSpdmNegotiateAlgorithms fn request s
  | .spdmGetDigests fn request => Sys2Proof.Machine.execSpdmGetDigests fn request s
  | .spdmGetCertificate fn request => Sys2Proof.Machine.execSpdmGetCertificate fn request s
  | .spdmChallenge fn request => Sys2Proof.Machine.execSpdmChallenge fn request s
  | .spdmGetMeasurements fn request => Sys2Proof.Machine.execSpdmGetMeasurements fn request s
  | .spdmKeyExchange fn request => Sys2Proof.Machine.execSpdmKeyExchange fn request s
  | .spdmFinish fn request => Sys2Proof.Machine.execSpdmFinish fn request s
  | .thermalThrottle die mhz => Sys2Proof.Machine.execThermalThrottle die mhz s
  | .thermalShutdown => Sys2Proof.Machine.execThermalShutdown s
  | .cfgloadLoadComplete k => Sys2Proof.Machine.execCfgloadLoadComplete k s
  | .sisterLinkUp link => Sys2Proof.Machine.execSisterLinkUp link s
  | .dieStateCleared die => Sys2Proof.Machine.execDieStateCleared die s

end Sys2Proof.Machine
end

