-- ==== Sys2Proof/Machine/Issue.lean ====
section
/-! DEFINITION. Fetch and issue on an actor core, and the passing of time: the fetch check, the word at the pc, the
instruction limits of a task and of its handlers, and Equinox time (R22, R43, R44, R167, R218, R219, R274). -/

namespace Sys2Proof.Machine

/-- The word at the pc (R43, R272). -/
def State.fetched (s : State) : Word := BitVec.ofNat 32 ((s.tile s.focus).load s.core.pc.toNat 4)

/-- The fetch lies where the mode may fetch: the running actor's code window, or the handler range (R43, R44). A pc that is
no multiple of 4 may not be fetched (R349). -/
def State.fetchOk (s : State) : Bool :=
  let pc := s.core.pc.toNat
  let t := s.tile s.focus
  decide (pc % 4 = 0) &&
    (if s.core.sys then within pc 4 (t.hrBase.toNat * 64) (t.hrLimit.toNat * 64)
     else match s.runActor with
       | some x => within pc 4 x.codeB x.codeL
       | none => false)

/-- The limit that the next instruction meets: the task's 4,097th or, after a trap 0x06, one that is not END or ENDR; or the
firing's 65,537th handler instruction (R22, R218, R219). -/
def State.limitOf (s : State) (f : Firing) (w : Word) : Option Instr :=
  if s.core.sys then (if 65536 ≤ f.hcount then some .handlerLimitExceeded else none)
  else if f.over6 then
    (match decode w with
     | .ok .endTask => none
     | .ok .endrTask => none
     | _ => some .taskLengthExceeded)
  else if 4096 ≤ f.count then some .taskLengthExceeded else none

/-- The instruction issues: it counts against the limit of its mode; a count that has reached 4,096 stays (R42, R218,
R219). -/
def State.counted (s : State) : State :=
  if s.core.sys then s.modFiring fun f => { f with hcount := f.hcount + 1 }
  else s.modFiring fun f => { f with count := min (f.count + 1) 4096 }

/-- EQT units of holdover that have grown EQE: 192 units a millisecond past the 64 µs between messages (R167). -/
def holdoverGrowth (h : Nat) : Nat := (h - 4096000) * 192 / 64000000

/-- The part of a correction that `n` units of time take: at most 1 part in 2,000 (R167).
[DESIGN CHOICE: notes/assumptions/68.md] -/
def slewStep (slew : Int) (n : Nat) : Int := max (-(n / 2000 : Nat)) (min slew (n / 2000 : Nat))

/-- A die after `n` units of 1/64 ns: EQT advances, slewed towards its reference, and EQE grows in holdover once locked
(R167). [DESIGN CHOICE: notes/assumptions/22.md, notes/assumptions/68.md] -/
def Die.elapse (d : Die) (n : Nat) : Die :=
  let h := d.holdover + n
  let grow := holdoverGrowth h - holdoverGrowth d.holdover
  { d with
    eqt := d.eqt + BitVec.ofInt 64 (n + slewStep d.slew n), slew := d.slew - slewStep d.slew n
    holdover := h
    eqe := if d.locked then BitVec.ofNat 64 (min (d.eqe.toNat + grow) (2 ^ 64 - 1)) else d.eqe }

/-- Time passes on every die and on the reference clocks. [DESIGN CHOICE: notes/assumptions/22.md] -/
def State.elapse (s : State) (n : Nat) : State :=
  (List.range 8).foldl (fun s d => s.modDie d fun x => x.elapse n)
    { s with ioClock := s.ioClock + BitVec.ofNat 64 n, ref := s.ref + BitVec.ofNat 64 n }

/-- A word at an address of the focused tile's scratchpad. [DESIGN CHOICE: notes/assumptions/6.md] -/
def State.placeWord (s : State) (pc w : Nat) : State := s.modTile s.focus fun t => t.setBytes pc (leBytes 4 w)

/-- A placed region of one task actor on tile 0 whose task is running at local address 0, as a launch that has been selected
and started leaves it (R38, R187). [DESIGN CHOICE: notes/assumptions/6.md] -/
def State.withTask (s : State) : State :=
  let x : Actor := { tile := 0, slot := 0, codeB := 0, codeL := 0x40000, locB := 0, locL := 0x40000 }
  let g : Region := { actors := [(0, some x)], launch := some {} }
  let s := s.setRegion 0 g
  let s := { s with focus := 0, agenda := [], frz := false, stopped := false }
  s.modTile 0 fun t =>
    { t with
      slots := sset none t.slots 0 (some (0, 0))
      core := { t.core with sys := false, pc := 0, firing := some { region := 0, actor := 0 } } }

end Sys2Proof.Machine
end

