-- ==== Sys2Proof/Machine/Step.lean ====
section
/-! DEFINITION. One step of the package: the unit that the agenda names takes its turn, and otherwise the core of the tile
in focus issues one instruction (R41, R218, R258, R259, R274). -/

namespace Sys2Proof.Machine

/-- The turn of a core: nothing without a running firing; else the fetch check, the limits, the decode and the
instruction, in the order of R274. [DESIGN CHOICE: notes/assumptions/1.md; DEDUCED: notes/assumptions/95.md] -/
def coreTurn (s : State) : Host.Outcome State Fault Refusal :=
  match s.firing with
  | none => .next s
  | some f =>
    if !s.fetchOk then .next (s.takeTrap 3 s.core.pcDw)
    else
      match s.limitOf f s.fetched with
      | some i => exec i s
      | none =>
        match decode s.fetched with
        | .ok i => exec i s.counted
        | .error _ => .next (s.counted.takeTrap 1 (s.fetched.setWidth 64))

/-- One step. A host turn is the access of one function of the host link.
[DESIGN CHOICE: notes/assumptions/1.md, notes/assumptions/85.md] -/
def step (s : State) : Host.Outcome State Fault Refusal :=
  if s.frz then .fault .frozen
  else if s.stopped then .fault .shutDown
  else
    match s.agenda with
    | [] => coreTurn s
    | .core t :: l => coreTurn { s with focus := t, agenda := l }
    | .elapse n :: l => .next (State.elapse { s with agenda := l } n)
    | .dvfs d mhz :: l => .next (State.moveClock { s with agenda := l } d mhz)
    | .unit i :: l => if (encode i).isSome then .next { s with agenda := l } else exec i { s with agenda := l }
    | .host fn i :: l =>
      if (encode i).isSome then .next { s with agenda := l }
      else
        match exec i { s with agenda := l, fn := some fn } with
        | .next t => .next { t with fn := none }
        | o => o

/-- The state with an instruction's word where the next step fetches (notes/assumptions/6.md). Where a task already runs on
the tile in focus only its word at the pc changes; else a task is set running on tile 0.
[DESIGN CHOICE: notes/assumptions/6.md] -/
def State.withFetchWord (s : State) (nbits w : Nat) : State :=
  let v := w % 2 ^ nbits
  if s.firing.isSome && s.fetchOk && decide (s.agenda = []) && !s.frz && !s.stopped then s.placeWord s.core.pc.toNat v
  else s.withTask.placeWord 0 v

end Sys2Proof.Machine
end

