-- ==== Sys2Proof/Laws/PerInstr.lean ====
section
/-! SUPPORT. Families of statements made for every constructor of Instr. -/

namespace Sys2Proof.Laws

end Sys2Proof.Laws
end

