-- ==== Sys2Proof/Safety.lean ====
section
/-! DEFINITION. What counts as a safe run, in the terms that claims use. -/

namespace Sys2Proof.Safety

open Sys2Proof.Machine

/-- The machine goes on: it neither stands frozen (R258), nor has shut down (R259), nor met an operation without a meaning. -/
def goesOn (o : Host.Outcome State Fault Refusal) : Bool :=
  match o with
  | .next _ => true
  | _ => false

/-- The clocks run (R258, R259). -/
def running (s : State) : Bool := !s.frz && !s.stopped

/-- The state after `k` steps, where each of them goes on. -/
def reached : Nat → State → Option State
  | 0, s => some s
  | k + 1, s =>
    match step s with
    | .next s' => reached k s'
    | _ => none

/-- No step of the next `k` stops the machine. -/
def safeFor (k : Nat) (s : State) : Bool := (reached k s).isSome

/-! ### What an instruction or event answers -/

/-- Running `i` at `s` answers a next state, of which `P` holds. -/
def Answers (i : Instr) (s : State) (P : State → Prop) : Prop := ∃ t, exec i s = .next t ∧ P t

/-- The outcome of an event of region `r` that makes the state `t`: the candidates of the region are brought up to date. -/
def becomes (t : State) (r : Nat) : Host.Outcome State Fault Refusal := .next (t.refresh r)

/-- `s` with register `d` holding `v` and the pc at the next instruction; nothing else changes. -/
def wrote (s : State) (d : Reg) (v : Dw) : State := s.setCore { s.core.setReg d v with pc := s.core.pc + 4 }

/-- `s` with the pc at the next instruction; nothing else changes. -/
def passed (s : State) : State := s.setCore { s.core with pc := s.core.pc + 4 }

/-- `s` with the pc at `a`; nothing else changes. -/
def jumped (s : State) (a : Word) : State := s.setCore { s.core with pc := a }

/-- `s` after a scalar float instruction with result `r`: register `d` holds the encoding, zero-extended, the flags have joined
the running actor's FFLAGS, and the pc is at the next instruction. -/
def wroteFloat (s : State) (d : Reg) (r : Nat × Flags) : State :=
  wrote (s.modActor s.runner.1 s.runner.2 fun x => { x with fflags := x.fflags ||| r.2.bits }) d (BitVec.ofNat 64 r.1)

/-- The low 32 bits of a register. -/
def low (x : Dw) : Word := x.setWidth 32

/-- A 32-bit result as a register holds it (R73). -/
def sx (x : Word) : Dw := x.signExtend 64

/-! ### What the scalar instructions write -/

/-- The register an integer instruction, or another one that only computes a value, writes. -/
def valueDest : Instr → Option Reg
  | .add d _ _ _ | .sub d _ _ _ | .and d _ _ _ | .or d _ _ _ | .xor d _ _ _ | .andn d _ _ _ | .shl d _ _ _ | .shr d _ _ _
  | .sar d _ _ _ | .rotr d _ _ _ | .min d _ _ _ | .max d _ _ _ | .minu d _ _ _ | .maxu d _ _ _ | .slt d _ _ _
  | .sltu d _ _ _ | .seq d _ _ _ | .mul d _ _ _ | .mulh d _ _ _ | .mulhu d _ _ _ | .div d _ _ _ | .divu d _ _ _
  | .rem d _ _ _ | .remu d _ _ _ | .sel d _ _ _ | .ins d _ _ _ | .fsgnCp d _ _ _ | .fsgnNeg d _ _ _ | .fsgnXor d _ _ _
  | .shli d _ _ _ | .shri d _ _ _ | .sari d _ _ _ | .rotri d _ _ _ => some d
  | .clz d _ _ | .ctz d _ _ | .popc d _ _ | .exts d _ _ | .extu d _ _ | .addi d _ _ | .andi d _ _ | .ori d _ _ | .xori d _ _
  | .slti d _ _ | .chq d _ _ => some d
  | .ldhi d _ | .addpc d _ | .krd d _ => some d
  | _ => none

/-- The register a float instruction that may set flags writes. -/
def floatDest : Instr → Option Reg
  | .fadd d _ _ _ _ | .fsub d _ _ _ _ | .fmul d _ _ _ _ | .fcvt d _ _ _ _ | .fma d _ _ _ _ _ => some d
  | .fmin d _ _ _ | .fmax d _ _ _ | .fcmpEq d _ _ _ | .fcmpLt d _ _ _ | .fcmpLe d _ _ _ | .fcmpUo d _ _ _ => some d
  | .frcp d _ _ _ | .frsq d _ _ _ | .fexp2 d _ _ _ | .flog2 d _ _ _ => some d
  | _ => none

/-- The numbers of the general registers that a scalar instruction may write. -/
def dests (i : Instr) : List Nat :=
  match valueDest i, floatDest i with
  | some d, _ => [d.toNat]
  | none, some d => [d.toNat]
  | none, none =>
    match i with
    | .loop a _ => [a.toNat]
    | .call _ => [31]
    | .callr d _ => [d.toNat]
    | .ldl g _ _ _ _ => [g.toNat]
    | .recv g _ n _ s _ | .peek g _ n _ s _ => (List.range (n.toNat + if s then 2 else 1)).map (g.toNat + ·)
    | .rsv g _ _ | .wrsv g _ _ | .pwreq g _ | .csrr g _ | .csrx g _ _ => [g.toNat]
    | .time g => [g.toNat, g.toNat + 1]
    | _ => []

/-- The canonical form of the state's maps: of memory, tiles and regions, and in every tile of its registers and scratchpad. -/
structure Canon (s : State) : Prop where
  mem : Memory.wf s.mem
  tiles : swf ({} : Tile) s.tiles = true
  regions : swf (none : Option Region) s.regions = true
  regs : ∀ t, swf (0 : Dw) (s.tile t).core.g = true ∧ swf (0 : Dw) (s.tile t).core.sb = true
  spad : ∀ t, swf (0 : Byte) (s.tile t).spad = true

end Sys2Proof.Safety
end

