-- ==== Sys2Proof/Certificates/Slice0/Obligations.lean ====
section
/-! DEFINITION. The statements for the provers. Each docstring names the rules of spec/ it formalises, or says that it
states a choice of the model's and names its log entry. -/

open Sys2Proof Sys2Proof.Machine Sys2Proof.Safety

/-! ### Integer instructions -/

/-- R312, R73: the arithmetic, logical and comparison instructions on 64 bits.
R312, R73: the same instructions in their 32-bit form, on the low words, the result sign-extended. -/
def Obligations.AluArithmetic : Prop :=
  (∀ (s : State) (d a b : Reg),
  exec (.add d a b false) s = .next (wrote s d (s.reg a + s.reg b)) ∧
  exec (.sub d a b false) s = .next (wrote s d (s.reg a - s.reg b)) ∧
  exec (.and d a b false) s = .next (wrote s d (s.reg a &&& s.reg b)) ∧
  exec (.or d a b false) s = .next (wrote s d (s.reg a ||| s.reg b)) ∧
  exec (.xor d a b false) s = .next (wrote s d (s.reg a ^^^ s.reg b)) ∧
  exec (.andn d a b false) s = .next (wrote s d (s.reg a &&& ~~~(s.reg b))) ∧
  exec (.min d a b false) s = .next (wrote s d (if (s.reg a).toInt ≤ (s.reg b).toInt then s.reg a else s.reg b)) ∧
  exec (.max d a b false) s = .next (wrote s d (if (s.reg a).toInt ≤ (s.reg b).toInt then s.reg b else s.reg a)) ∧
  exec (.minu d a b false) s = .next (wrote s d (if (s.reg a).toNat ≤ (s.reg b).toNat then s.reg a else s.reg b)) ∧
  exec (.maxu d a b false) s = .next (wrote s d (if (s.reg a).toNat ≤ (s.reg b).toNat then s.reg b else s.reg a)) ∧
  exec (.slt d a b false) s = .next (wrote s d (if (s.reg a).toInt < (s.reg b).toInt then 1 else 0)) ∧
  exec (.sltu d a b false) s = .next (wrote s d (if (s.reg a).toNat < (s.reg b).toNat then 1 else 0)) ∧
  exec (.seq d a b false) s = .next (wrote s d (if s.reg a = s.reg b then 1 else 0))) ∧
  (∀ (s : State) (d a b : Reg),
  exec (.add d a b true) s = .next (wrote s d (sx (low (s.reg a) + low (s.reg b)))) ∧
  exec (.sub d a b true) s = .next (wrote s d (sx (low (s.reg a) - low (s.reg b)))) ∧
  exec (.and d a b true) s = .next (wrote s d (sx (low (s.reg a) &&& low (s.reg b)))) ∧
  exec (.or d a b true) s = .next (wrote s d (sx (low (s.reg a) ||| low (s.reg b)))) ∧
  exec (.xor d a b true) s = .next (wrote s d (sx (low (s.reg a) ^^^ low (s.reg b)))) ∧
  exec (.andn d a b true) s = .next (wrote s d (sx (low (s.reg a) &&& ~~~(low (s.reg b))))) ∧
  exec (.min d a b true) s = .next (wrote s d
    (sx (if (low (s.reg a)).toInt ≤ (low (s.reg b)).toInt then low (s.reg a) else low (s.reg b)))) ∧
  exec (.max d a b true) s = .next (wrote s d
    (sx (if (low (s.reg a)).toInt ≤ (low (s.reg b)).toInt then low (s.reg b) else low (s.reg a)))) ∧
  exec (.minu d a b true) s = .next (wrote s d
    (sx (if (low (s.reg a)).toNat ≤ (low (s.reg b)).toNat then low (s.reg a) else low (s.reg b)))) ∧
  exec (.maxu d a b true) s = .next (wrote s d
    (sx (if (low (s.reg a)).toNat ≤ (low (s.reg b)).toNat then low (s.reg b) else low (s.reg a)))) ∧
  exec (.slt d a b true) s = .next (wrote s d (if (low (s.reg a)).toInt < (low (s.reg b)).toInt then 1 else 0)) ∧
  exec (.sltu d a b true) s = .next (wrote s d (if (low (s.reg a)).toNat < (low (s.reg b)).toNat then 1 else 0)) ∧
  exec (.seq d a b true) s = .next (wrote s d (if low (s.reg a) = low (s.reg b) then 1 else 0)))

/-- R312, R400: the shifts and rotations, by a register and by an immediate, in both forms, the amount modulo the width.
R314, R315, R372, R393, R405: the immediate instructions, SEL and NOP. -/
def Obligations.ShiftsAndImmediates : Prop :=
  (∀ (s : State) (d a b : Reg) (k : BitVec 6),
  let n := (s.reg b).toNat % 64
  let n32 := (s.reg b).toNat % 32
  let k32 := k.toNat % 32
  exec (.shl d a b false) s = .next (wrote s d (s.reg a <<< n)) ∧
  exec (.shr d a b false) s = .next (wrote s d (s.reg a >>> n)) ∧
  exec (.sar d a b false) s = .next (wrote s d ((s.reg a).sshiftRight n)) ∧
  exec (.rotr d a b false) s = .next (wrote s d ((s.reg a).rotateRight n)) ∧
  exec (.shl d a b true) s = .next (wrote s d (sx (low (s.reg a) <<< n32))) ∧
  exec (.shr d a b true) s = .next (wrote s d (sx (low (s.reg a) >>> n32))) ∧
  exec (.sar d a b true) s = .next (wrote s d (sx ((low (s.reg a)).sshiftRight n32))) ∧
  exec (.rotr d a b true) s = .next (wrote s d (sx ((low (s.reg a)).rotateRight n32))) ∧
  exec (.shli d a false k) s = .next (wrote s d (s.reg a <<< k.toNat)) ∧
  exec (.shri d a false k) s = .next (wrote s d (s.reg a >>> k.toNat)) ∧
  exec (.sari d a false k) s = .next (wrote s d ((s.reg a).sshiftRight k.toNat)) ∧
  exec (.rotri d a false k) s = .next (wrote s d ((s.reg a).rotateRight k.toNat)) ∧
  exec (.shli d a true k) s = .next (wrote s d (sx (low (s.reg a) <<< k32))) ∧
  exec (.shri d a true k) s = .next (wrote s d (sx (low (s.reg a) >>> k32))) ∧
  exec (.sari d a true k) s = .next (wrote s d (sx ((low (s.reg a)).sshiftRight k32))) ∧
  exec (.rotri d a true k) s = .next (wrote s d (sx ((low (s.reg a)).rotateRight k32)))) ∧
  (∀ (s : State) (d a b c : Reg) (i : BitVec 16),
  exec (.addi d a i) s = .next (wrote s d (s.reg a + i.signExtend 64)) ∧
  exec (.andi d a i) s = .next (wrote s d (s.reg a &&& i.setWidth 64)) ∧
  exec (.ori d a i) s = .next (wrote s d (s.reg a ||| i.setWidth 64)) ∧
  exec (.xori d a i) s = .next (wrote s d (s.reg a ^^^ i.setWidth 64)) ∧
  exec (.slti d a i) s = .next (wrote s d (if (s.reg a).toInt < i.toInt then 1 else 0)) ∧
  exec (.ldhi d i) s = .next (wrote s d (BitVec.ofInt 64 (i.toInt * 2 ^ 16))) ∧
  exec (.addpc d i) s = .next (wrote s d (BitVec.ofNat 64 s.core.pc.toNat + BitVec.ofInt 64 (i.toInt * 4))) ∧
  exec (.sel d a b c) s = .next (wrote s d (if s.reg c = 0 then s.reg b else s.reg a)) ∧
  exec .nop s = .next (passed s))

/-- R312: CLZ, CTZ and POPC. The number of leading zeros is the `n` with x < 2^(64 - n) and, below 64, 2^(63 - n) ≤ x; of
trailing zeros the `n` with 2^n dividing x and, below 64, 2^(n + 1) not; both 64 (or 32) for x = 0.
R350, R278: the bit fields. With pos = gc[5:0] and the length gc[14:8] clipped to 64 − pos, EXTU gives bit pos + j of ga as
bit j below the length and zeros above it, EXTS repeats the field's top bit there, and INS puts the low bits of gb into ga. -/
def Obligations.BitCountsAndFields : Prop :=
  (∀ (s : State) (d a : Reg) (w : Bool),
  let width := if w then 32 else 64
  let x := (s.reg a).toNat % 2 ^ width
  (∃ n, n ≤ width ∧ x < 2 ^ (width - n) ∧ (n < width → 2 ^ (width - 1 - n) ≤ x) ∧
    exec (.clz d a w) s = .next (wrote s d (BitVec.ofNat 64 n))) ∧
  (∃ n, n ≤ width ∧ x % 2 ^ n = 0 ∧ (n < width → x % 2 ^ (n + 1) ≠ 0) ∧
    exec (.ctz d a w) s = .next (wrote s d (BitVec.ofNat 64 n))) ∧
  exec (.popc d a w) s = .next (wrote s d (BitVec.ofNat 64 ((List.range width).countP x.testBit)))) ∧
  (∀ (s : State) (d a b c : Reg),
  let pos := (s.reg c).toNat % 64
  let len := min ((s.reg c).toNat / 256 % 128) (64 - pos)
  (∃ v : Dw, exec (.extu d a c) s = .next (wrote s d v) ∧
    ∀ j, j < 64 → v.getLsbD j = (decide (j < len) && (s.reg a).getLsbD (pos + j))) ∧
  (∃ v : Dw, exec (.exts d a c) s = .next (wrote s d v) ∧
    ∀ j, j < 64 → v.getLsbD j = (decide (0 < len) && (s.reg a).getLsbD (pos + min j (len - 1)))) ∧
  (∃ v : Dw, exec (.ins d a b c) s = .next (wrote s d v) ∧
    ∀ j, j < 64 → v.getLsbD j =
      if pos ≤ j ∧ j < pos + len then (s.reg b).getLsbD (j - pos) else (s.reg a).getLsbD j))

/-- R345, R391: multiplication and division on 64 bits. DIV rounds toward zero; the most negative number divided by −1 gives
itself; a zero divisor gives all ones as the quotient and the dividend as the remainder.
R345, R391, R73: the same in the 32-bit form, on the low words, the result sign-extended. -/
def Obligations.MultiplyAndDivide : Prop :=
  (∀ (s : State) (d a b : Reg),
  let x := s.reg a
  let y := s.reg b
  exec (.mul d a b false) s = .next (wrote s d (BitVec.ofNat 64 (x.toNat * y.toNat))) ∧
  exec (.mulh d a b false) s = .next (wrote s d (BitVec.ofInt 64 (x.toInt * y.toInt / 2 ^ 64))) ∧
  exec (.mulhu d a b false) s = .next (wrote s d (BitVec.ofNat 64 (x.toNat * y.toNat / 2 ^ 64))) ∧
  exec (.div d a b false) s = .next (wrote s d (if y = 0 then BitVec.allOnes 64 else BitVec.ofInt 64 (x.toInt.tdiv y.toInt))) ∧
  exec (.divu d a b false) s = .next (wrote s d
    (if y = 0 then BitVec.allOnes 64 else BitVec.ofNat 64 (x.toNat / y.toNat))) ∧
  exec (.rem d a b false) s = .next (wrote s d (if y = 0 then x else BitVec.ofInt 64 (x.toInt.tmod y.toInt))) ∧
  exec (.remu d a b false) s = .next (wrote s d (if y = 0 then x else BitVec.ofNat 64 (x.toNat % y.toNat)))) ∧
  (∀ (s : State) (d a b : Reg),
  let x := low (s.reg a)
  let y := low (s.reg b)
  exec (.mul d a b true) s = .next (wrote s d (sx (BitVec.ofNat 32 (x.toNat * y.toNat)))) ∧
  exec (.mulh d a b true) s = .next (wrote s d (sx (BitVec.ofInt 32 (x.toInt * y.toInt / 2 ^ 32)))) ∧
  exec (.mulhu d a b true) s = .next (wrote s d (sx (BitVec.ofNat 32 (x.toNat * y.toNat / 2 ^ 32)))) ∧
  exec (.div d a b true) s = .next (wrote s d
    (if y = 0 then BitVec.allOnes 64 else sx (BitVec.ofInt 32 (x.toInt.tdiv y.toInt)))) ∧
  exec (.divu d a b true) s = .next (wrote s d
    (if y = 0 then BitVec.allOnes 64 else sx (BitVec.ofNat 32 (x.toNat / y.toNat)))) ∧
  exec (.rem d a b true) s = .next (wrote s d (sx (if y = 0 then x else BitVec.ofInt 32 (x.toInt.tmod y.toInt)))) ∧
  exec (.remu d a b true) s = .next (wrote s d (sx (if y = 0 then x else BitVec.ofNat 32 (x.toNat % y.toNat)))))

/-! ### Scalar float instructions -/

/-- R277, R353, R358, R80: FADD, FSUB, FMUL and FMA. With x, y and z the operands under FCTL, the result is the exact sum,
difference, product or x × y + z, rounded once to the format by the special-value policy and the mode, and its flags join
FFLAGS. An invalid operation gives the canonical NaN and the invalid flag. -/
def Obligations.FloatArithmetic : Prop := ∀ (s : State) (d a b c : Reg) (f : BitVec 3) (m : BitVec 2) (h : BitVec 2),
  let t := Fmt.ofScalar f.toNat
  let x := s.fop t a
  let y := s.fop t b
  let u := Fmt.ofScalar h.toNat
  let rounded (g : Fmt) (ops : List Val) (v : Val × Bool) : Nat × Flags :=
    if v.2 then ((g.canonNaN).getD 0, { invalid := true })
    else ((toFormatF v.1 g s.fctl m.toNat).1.getD 0, Flags.or (toFormatF v.1 g s.fctl m.toNat).2 (sigFlags ops))
  exec (.fadd d a b f m) s = .next (wroteFloat s d (rounded t [x, y] (x.add y m.toNat))) ∧
  exec (.fsub d a b f m) s = .next (wroteFloat s d (rounded t [x, y] (x.add (if y.isNaN then y else y.neg) m.toNat))) ∧
  exec (.fmul d a b f m) s = .next (wroteFloat s d (rounded t [x, y] (x.mul y))) ∧
  exec (.fma d a b c h m) s =
    .next (wroteFloat s d (rounded u [s.fop u a, s.fop u b, s.fop u c] ((s.fop u a).fma (s.fop u b) (s.fop u c) m.toNat)))

/-- R354: FCMP gives 1 or 0. On numbers eq, lt and le are the relations of the values and uo is 0; with a NaN operand eq, lt and
le are 0 and uo is 1. A signalling NaN sets invalid for every relation, any NaN sets it for lt and le, and no other flag is
set.
R357: FSGN copies the magnitude of ga in the format's width under the sign of gb, its inverse, or the exclusive OR of both
signs; it sets no flag, keeps a NaN's and a subnormal's bits, and is zero-extended. A word of FSGN with a non-zero rounding field
is no instruction. -/
def Obligations.FloatCompareAndSign : Prop :=
  (∀ (s : State) (d a b : Reg) (f : BitVec 3),
  let t := Fmt.ofScalar f.toNat
  let x := s.fop t a
  let y := s.fop t b
  let nan := x.isNaN || y.isNaN
  let sig := x.signalling || y.signalling
  exec (.fcmpEq d a b f) s = .next (wroteFloat s d (if !nan ∧ x.eqv y then 1 else 0, { invalid := sig })) ∧
  exec (.fcmpLt d a b f) s = .next (wroteFloat s d (if !nan ∧ x.lt y then 1 else 0, { invalid := nan })) ∧
  exec (.fcmpLe d a b f) s = .next (wroteFloat s d (if !nan ∧ (x.lt y ∨ x.eqv y) then 1 else 0, { invalid := nan })) ∧
  exec (.fcmpUo d a b f) s = .next (wroteFloat s d (if nan then 1 else 0, { invalid := sig }))) ∧
  (∀ (s : State) (d a b : Reg) (f : BitVec 3),
  let k := (Fmt.ofScalar f.toNat).width - 1
  let withSign (v : Dw) (sign : Bool) : Prop :=
    ∀ j, j < 64 → v.getLsbD j = if j = k then sign else (decide (j < k) && (s.reg a).getLsbD j)
  (∃ v, exec (.fsgnCp d a b f) s = .next (wrote s d v) ∧ withSign v ((s.reg b).getLsbD k)) ∧
  (∃ v, exec (.fsgnNeg d a b f) s = .next (wrote s d v) ∧ withSign v (!(s.reg b).getLsbD k)) ∧
  (∃ v, exec (.fsgnXor d a b f) s = .next (wrote s d v) ∧ withSign v ((s.reg a).getLsbD k != (s.reg b).getLsbD k)) ∧
  (∀ w : Word, fld w 26 6 = 2 → (fld w 0 6).toNat ∈ [0x18, 0x19, 0x1A] → fld w 6 2 ≠ 0 → decode w = .error .mustBeZero))

/-- R354 to R356: FMIN, FMAX, FCVT and the one-operand functions write their result and let its flags join FFLAGS; FCVT to
INT32 sign-extends. The model's own choices in it: notes/assumptions/49.md. -/
def Obligations.FloatFunctions : Prop := ∀ (s : State) (d a b : Reg) (f : BitVec 3) (m : BitVec 2),
  let t := Fmt.ofScalar f.toNat
  let x := s.fop t a
  let one (r : Option Nat × Flags) : Nat × Flags := (r.1.getD 0, r.2)
  exec (.fmin d a b f) s = .next (wroteFloat s d (minMax false t s.fctl (s.fbits t a) (s.fbits t b))) ∧
  exec (.fmax d a b f) s = .next (wroteFloat s d (minMax true t s.fctl (s.fbits t a) (s.fbits t b))) ∧
  exec (.frcp d a f m) s = .next (wroteFloat s d (one (recip x t s.fctl m.toNat))) ∧
  exec (.frsq d a f m) s = .next (wroteFloat s d (one (recipSqrt x t s.fctl m.toNat))) ∧
  exec (.fexp2 d a f m) s = .next (wroteFloat s d (one (exp2 x t s.fctl m.toNat (s.fbits t a)))) ∧
  exec (.flog2 d a f m) s = .next (wroteFloat s d (one (log2 x t s.fctl m.toNat (s.fbits t a)))) ∧
  (let u := Fmt.ofScalar b.toNat
   let r := floatResult u s.fctl m.toNat [x] x false
   exec (.fcvt d a b f m) s =
     .next (wrote (s.addFlags r.2) d (if u = .int32 then (BitVec.ofNat 32 r.1).signExtend 64 else BitVec.ofNat 64 r.1)))

/-! ### Control transfers and local memory -/

/-- R273, R322, R376, R326: a branch goes to pc + 4 × its signed offset where its relation holds and to the next instruction
otherwise; LOOP decrements first and is taken while the result is not zero; JMP and CALL go to pc + 4 × offset, CALL with the
address of the next instruction in g31.
R327: RET and CALLR go to the address in ga when it is below 2^32 and a multiple of 4, CALLR with the address of the next
instruction in gd; any other value takes trap 0x03 with that value. -/
def Obligations.Jumps : Prop :=
  (∀ (s : State) (a b : Reg) (o : BitVec 13) (j : BitVec 26),
  let near := s.core.pc + BitVec.ofInt 32 (o.toInt * 4)
  let far := s.core.pc + BitVec.ofInt 32 (j.toInt * 4)
  let x := s.reg a
  let y := s.reg b
  exec (.br 0 a b o) s = .next (if x = y then jumped s near else passed s) ∧
  exec (.br 1 a b o) s = .next (if x ≠ y then jumped s near else passed s) ∧
  exec (.br 2 a b o) s = .next (if x.toInt < y.toInt then jumped s near else passed s) ∧
  exec (.br 3 a b o) s = .next (if y.toInt ≤ x.toInt then jumped s near else passed s) ∧
  exec (.br 4 a b o) s = .next (if x.toNat < y.toNat then jumped s near else passed s) ∧
  exec (.br 5 a b o) s = .next (if y.toNat ≤ x.toNat then jumped s near else passed s) ∧
  exec (.br 6 a b o) s = .next (if x &&& y ≠ 0 then jumped s near else passed s) ∧
  exec (.jmp j) s = .next (jumped s far) ∧
  (Canon s →
    exec (.loop a o) s = .next (s.setCore
      { s.core.setReg a (x - 1) with pc := if x - 1 ≠ 0 then near else s.core.pc + 4 }) ∧
    exec (.call j) s = .next (s.setCore { s.core.setReg 31 (BitVec.setWidth 64 (s.core.pc + 4)) with pc := far }))) ∧
  (∀ (s : State) (d a : Reg),
  let v := s.reg a
  (v.toNat < 2 ^ 32 → v.toNat % 4 = 0 →
    exec (.ret a) s = .next (jumped s (v.setWidth 32)) ∧
    (Canon s → exec (.callr d a) s =
      .next (s.setCore { s.core.setReg d (BitVec.setWidth 64 (s.core.pc + 4)) with pc := v.setWidth 32 }))) ∧
  (2 ^ 32 ≤ v.toNat ∨ v.toNat % 4 ≠ 0 →
    exec (.ret a) s = .next (s.takeTrap 3 v) ∧ exec (.callr d a) s = .next (s.takeTrap 3 v)))

/-- R366: JTAB. The table's first word holds the number of entries in its low half and the offset of the default in its high
half; an index below the number goes to the pc plus four times that entry. A table address of 256 KiB or more takes trap 0x05,
one that is no multiple of 4 trap 0x04, an entry beyond the scratchpad trap 0x05 with its address. -/
def Obligations.JumpTable : Prop := ∀ (s : State) (a b : Reg),
  let v := s.reg a
  let i := (s.reg b).toNat
  let word (x : Nat) : Word := BitVec.ofNat 32 ((s.tile s.focus).load x 4)
  let n := (word v.toNat).toNat % 65536
  let e := v.toNat + 4 + 4 * i
  (2 ^ 18 ≤ v.toNat → exec (.jtab a b) s = .next (s.takeTrap 5 v)) ∧
  (v.toNat < 2 ^ 18 → v.toNat % 4 ≠ 0 → exec (.jtab a b) s = .next (s.takeTrap 4 v)) ∧
  (v.toNat < 2 ^ 18 → v.toNat % 4 = 0 →
    (n ≤ i → exec (.jtab a b) s =
      .next (jumped s (s.core.pc + ((word v.toNat).extractLsb' 16 16).signExtend 32 * 4))) ∧
    (i < n → 0x3FFFC < e → exec (.jtab a b) s = .next (s.takeTrap 5 (BitVec.ofNat 64 e))) ∧
    (i < n → e ≤ 0x3FFFC → exec (.jtab a b) s = .next (jumped s (s.core.pc + word e * 4))))

/-- R373, R43, R274: LDL and STL. The address is gbase + offset; bytes outside the windows take trap 0x03, then an address that
is no multiple of the size trap 0x04. LDL reads 1, 2, 4 or 8 bytes in little-endian order, zero- or sign-extended; STL writes
the low bytes of the register and changes no other byte and no register. -/
def Obligations.LocalMemory : Prop := ∀ (s : State) (g b : Reg) (z : BitVec 2) (x : Bool) (o : BitVec 13),
  let la := s.reg b + o.signExtend 64
  let n := 2 ^ z.toNat
  let v := (s.tile s.focus).load la.toNat n
  (s.localOk la.toNat n = false →
    exec (.ldl g b z x o) s = .next (s.takeTrap 3 la) ∧ exec (.stl g b z o) s = .next (s.takeTrap 3 la)) ∧
  (s.localOk la.toNat n = true → la.toNat % n ≠ 0 →
    exec (.ldl g b z x o) s = .next (s.takeTrap 4 la) ∧ exec (.stl g b z o) s = .next (s.takeTrap 4 la)) ∧
  (s.localOk la.toNat n = true → la.toNat % n = 0 →
    exec (.ldl g b z x o) s = .next (wrote s g
      (if x ∧ 2 ^ (8 * n - 1) ≤ v then BitVec.ofInt 64 ((v : Int) - 2 ^ (8 * n)) else BitVec.ofNat 64 v)) ∧
    (Canon s → Answers (.stl g b z o) s fun t =>
      t.core = { s.core with pc := s.core.pc + 4 } ∧ t.mem = s.mem ∧ t.regions = s.regions ∧
      (∀ k, k ≠ s.focus → t.tile k = s.tile k) ∧
      ∀ p, (t.tile s.focus).byte p =
        if la.toNat ≤ p ∧ p < la.toNat + n then ((s.reg g) >>> (8 * (p - la.toNat))).setWidth 8
        else (s.tile s.focus).byte p))

/-! ### Tokens -/

/-- R395: RECV and PEEK read the head of an input that no solstice stands at: n payload doublewords from `first` (zero beyond the
payload) and, with sb, the sideband go to consecutive registers; RECV dequeues the head. An empty input reads as zeros and
0xF000 and nothing is dequeued. The call form reads the firing's call token and dequeues nothing. PEEK notes what the token it
reads orders before the actor (R153). -/
def Obligations.Receive : Prop := ∀ (s : State) (g : Reg) (p : Port) (n f : BitVec 3) (sb : Bool) (x : Actor),
  s.runActor = some x →
  let got (u : State) (l : List Dw) : State := u.setCore { u.core.setRegs g.toNat l with pc := u.core.pc + 4 }
  let words (t : Token) : List Dw := (List.range (n.toNat + 1)).map (fun j => t.dw (f.toNat + j)) ++
    (if sb then [BitVec.ofNat 64 (t.kind.toNat * 4096 + t.seq.toNat)] else [])
  let heard (l : List Dep) : State := s.modActor s.runner.1 s.runner.2 fun x => x.acquire l
  let none_ : List Dw := List.replicate (n.toNat + 1) 0 ++ (if sb then [0xF000] else [])
  (∀ t, x.head p.toNat = some t → t.kind ≠ 6 →
    exec (.peek g p n false sb f) s = .next (got (heard t.deps) (words t)) ∧
    exec (.recv g p n false sb f) s = .next (got (s.dequeue p.toNat) (words t))) ∧
  (x.head p.toNat = none →
    exec (.peek g p n false sb f) s = .next (got (heard []) none_) ∧ exec (.recv g p n false sb f) s = .next (got s none_)) ∧
  (∀ fr t, s.firing = some fr → fr.call = some t → t.kind ≠ 6 →
    exec (.peek g p n true sb f) s = .next (got (heard t.deps) (words t)) ∧ exec (.recv g p n true sb f) s = .next (got s (words t)))

/-- R23, R364, R406: SEND, SENDN, SENDE, SENDERR and HDR with a reservation on the output use one and send one token of their
kind: data or control of n registers, a null of one zero doubleword, an EOS with the error mark and the output's stream
count, an error token whose ASID, channel, tile and slot are the issuer's, a burst header.
R196: a data token of SEND at a mesh actor's mesh output port is sent as a vertex while fewer than Vmax have passed in the firing,
as a primitive while fewer than Pmax have; a further one is dropped and counted by the region, and a primitive whose word holds
the reserved identifier or an index of no vertex yet passed is culled and counted. Which tokens are primitives the spec leaves
to the task: the model's choice (notes/assumptions/98.md).
R23: without a reservation on the output the token is discarded, code 0x04 with the output and the first payload doubleword
goes to the error port, and the task goes on. The model's own choices in it: notes/assumptions/7.md, 98.md. -/
def Obligations.Sends : Prop :=
  (∀ (s : State) (g : Reg) (p : Port) (n : BitVec 3) (c e : Bool) (x : Actor),
  s.runActor = some x → s.reserved p.toNat ≠ 0 →
  let sent (kind : BitVec 4) (l : List Dw) : Res :=
    .next (passed ((s.useReserved p.toNat).sendOn s.runner.1 s.runner.2 p.toNat kind l))
  let place := packDw [(s.runAsid % 16384, 46), (s.outChan p.toNat, 38), (tileX s.focus, 32), (tileY s.focus, 28),
    (x.slot % 16, 24)]
  let words := s.core.regs g.toNat (n.toNat + 1)
  let u := s.useReserved p.toNat
  (c = true ∨ (∀ m, x.mesh = some m → m.port ≠ p.toNat) →
    exec (.send g p n c) s = sent (if c then 5 else 0) words) ∧
  (∀ m fr, x.mesh = some m → m.port = p.toNat → s.firing = some fr →
    let out (v : State) : Res := .next (passed (v.sendOn s.runner.1 s.runner.2 p.toNat 0 words))
    let counted (h : Region → Region) : Res := .next (passed ((u.modRegion s.runner.1 h).reportMesh s.runner.1))
    (Sys2Proof.Config.meshIndexes words = none →
      exec (.send g p n false) s = if fr.verts < m.vmax then out (u.modFiring fun y => { y with verts := y.verts + 1 })
        else counted fun y => { y with vdrop := satInc y.vdrop }) ∧
    (∀ l, Sys2Proof.Config.meshIndexes words = some l →
      exec (.send g p n false) s =
        if (words.getD 4 0).toNat / 2 ^ 32 = 0xFFFFFFFF ∨ (∃ i ∈ l, fr.verts ≤ i) then
          counted fun y => { y with pcull := satInc y.pcull }
        else if fr.prims < m.pmax then out (u.modFiring fun y => { y with prims := y.prims + 1 })
        else counted fun y => { y with pdrop := satInc y.pdrop })) ∧
  exec (.sendn p) s = sent 1 [0] ∧
  exec (.sende p e) s = sent 2 [packDw [(b2n e, 0), ((x.outp p.toNat).count.toNat, 32)]] ∧
  exec (.senderr g p) s = sent 4 [(s.reg g &&& 0xF000000000FFFFFF) ||| place, s.reg (g + 1)] ∧
  exec (.hdr g p) s = sent 3 [s.reg g]) ∧
  (∀ (s : State) (g : Reg) (p : Port) (n : BitVec 3) (c : Bool) (x : Actor),
  s.runActor = some x → s.reserved p.toNat = 0 →
  let lost (d : Dw) : Res := .next (passed (s.errorAt s.runner.1 s.runner.2 (s.outChan p.toNat) p.toNat 0x04 d))
  exec (.send g p n c) s = lost (s.reg g) ∧ exec (.sendn p) s = lost 0 ∧ exec (.hdr g p) s = lost (s.reg g))

/-- R14, R406: a send puts the token at the end of its output's channel with the output's number, which then advances by one
modulo 4,096; the stream count grows by one for data and nulls and returns to zero at an EOS; every other channel of the
region and every other actor stay as they were. -/
def Obligations.ChannelSend : Prop := ∀ (s : State) (r a p ci : Nat) (kind : BitVec 4) (l : List Dw) (g : Region) (x : Actor)
    (c : Chan),
  s.region r = some g → g.actor a = some x → g.chanOf (.actor a p) = some (ci, c) → g.chan ci = some c →
  swf ({} : OutPort) x.out = true →
  ∃ g', (s.sendOn r a p kind l).region r = some g' ∧
    (∃ f : Flit, g'.chan ci = some { c with wire := c.wire ++ [f] } ∧
      f.tok.kind = kind ∧ f.tok.seq = (x.outp p).seq ∧ f.tok.payload = l) ∧
    (∀ k, k ≠ ci → g'.chan k = g.chan k) ∧ (∀ b, b ≠ a → g'.actor b = g.actor b) ∧
    (∃ x', g'.actor a = some x' ∧ (x'.outp p).seq = (x.outp p).seq + 1 ∧
      (x'.outp p).count = (if kind = 2 then 0 else if kind = 0 ∨ kind = 1 then (x.outp p).count + 1 else (x.outp p).count) ∧
      x'.inp = x.inp ∧ ∀ q, q ≠ p → x'.outp q = x.outp q)

/-- R361, R402, R333: FWD dequeues the head of an input and sends it on unread; RSV reserves n slots of an output and writes 1, or
reserves nothing and writes 0; CHQ writes the snapshot of an input, an output, or the credits and quota. -/
def Obligations.ForwardReserveQuery : Prop := ∀ (s : State) (g : Reg) (i p : Port) (n : BitVec 3),
  (∀ x t, s.runActor = some x → x.head i.toNat = some t → t.kind ≠ 6 →
    exec (.fwd i p) s = .next (passed ((s.dequeue i.toNat).sendHere p.toNat t.kind t.payload))) ∧
  (∀ gr ci c, s.region s.runner.1 = some gr → gr.chanOf (.actor s.runner.2 p.toNat) = some (ci, c) →
    (n.toNat + 1 ≤ gr.freeSlots c ∧ s.reserved p.toNat + (n.toNat + 1) ≤ 256 →
      exec (.rsv g p n) s = .next (wrote
        ((s.setRegion s.runner.1 (gr.setChan ci { c with reserved := c.reserved + (n.toNat + 1) })).modFiring fun f =>
          { f with rsv := sset 0 f.rsv p.toNat (sget 0 f.rsv p.toNat + (n.toNat + 1)) }) g 1)) ∧
    (gr.freeSlots c < n.toNat + 1 → exec (.rsv g p n) s = .next (wrote s g 0))) ∧
  (∀ x, s.runActor = some x →
    (x.head p.toNat = none → exec (.chq g p 0) s = .next (wrote s g 0xF000)) ∧
    (∀ gr, s.region s.runner.1 = some gr → exec (.chq g p 1) s = .next (wrote s g
      (packDw [((x.outp p.toNat).seq.toNat, 18), (s.reserved p.toNat, 9), (gr.outFree s.runner.2 p.toNat, 0)]))) ∧
    exec (.chq g 0 2) s = .next (wrote s g
      (packDw ((x.quota - x.quotaUsed, 56) :: (List.range 8).map fun j => ((x.port j).freeCredits, 7 * j)))))

/-- R192, R410, R411: WEMIT uses one reserved slot of the edge's child and puts one record of the child's size at the end of its
queue, and in its slot of the backing store (R191); WRSV reserves n further slots and writes 1, or reserves none and writes 0; an
edge that the actor's node lacks, or a length other than the record size, takes trap 0x01. Without a reserved slot the record is
discarded with code 0x04. The model's own choices in it: notes/assumptions/81.md. -/
def Obligations.WorkGraph : Prop := ∀ (s : State) (g : Reg) (e n : BitVec 3) (m : BitVec 8),
  (s.edgeHere e = none →
    exec (.wemit g e n) s = .next (s.takeTrap 1 s.wordHere) ∧ exec (.wrsv g e m) s = .next (s.takeTrap 1 s.wordHere)) ∧
  (∀ k w, s.edgeHere e = some (k, w) →
    (w.size ≠ 8 * (n.toNat + 1) → exec (.wemit g e n) s = .next (s.takeTrap 1 s.wordHere)) ∧
    (∀ f x gr, w.size = 8 * (n.toNat + 1) → s.firing = some f → sget 0 f.wrsv k ≠ 0 → s.runActor = some x →
      s.region s.runner.1 = some gr →
      let words := s.core.regs g.toNat (n.toNat + 1)
      ∃ after, exec (.wemit g e n) s = .next (passed
        (((s.storeRecord gr w words).modFiring fun f =>
          { f with wrsv := sset 0 f.wrsv k (sget 0 f.wrsv k - 1) }).modRegion s.runner.1 fun gr =>
            gr.setNode k { w with recs := w.recs ++ [{ tok := { payload := words }, after := after }]
                                  reserved := w.reserved - 1 }))) ∧
    (∀ f, w.size = 8 * (n.toNat + 1) → s.firing = some f → sget 0 f.wrsv k = 0 →
      exec (.wemit g e n) s = .next (passed (s.errorAt s.runner.1 s.runner.2 0xFF (8 + e.toNat) 0x04 (s.reg g)))) ∧
    (∀ gr, s.region s.runner.1 = some gr →
    (m.toNat + 1 ≤ gr.nodeFree w →
      exec (.wrsv g e m) s = .next (wrote
        ((s.modFiring fun f => { f with wrsv := sset 0 f.wrsv k (sget 0 f.wrsv k + (m.toNat + 1)) }).modRegion s.runner.1
          fun gr => gr.setNode k { w with reserved := w.reserved + (m.toNat + 1) }) g 1)) ∧
    (gr.nodeFree w < m.toNat + 1 → exec (.wrsv g e m) s = .next (wrote s g 0))))

/-! ### Requests to memory and to other units -/

/-- R118, R119, R371, R319, R328, R359, R334: a request with a response, on a declared response port with a free credit, takes
one credit and puts its access into the tile's memory port, and the task goes on.
R118, R119, R135: a request on a port that is not declared a response port takes trap 0x01; one without a free credit is
discarded with code 0x1A, and the task goes on. -/
def Obligations.Requests : Prop :=
  (∀ (s : State) (g b : Reg) (p : Port) (f : BitVec 5) (sc o : BitVec 2) (acq : Bool),
  s.isResp p = true → s.hasCredit p = true →
  let issued (k : ReqKind) (data : List Byte) (exp : Dw) (ord : BitVec 2) : Res :=
    .next (passed ((s.takeCredit p).pushAccess
      { kind := k, va := s.reg b, data := data, exp := exp, sc := sc, ord := ord, port := p.toNat }))
  exec (.ldg b p f sc acq) s = issued (.read (sizeBytes f.toNat) (decide (8 ≤ f.toNat))) [] 0 (if acq then 1 else 0) ∧
  exec (.atom g b p f sc o) s = issued (.atomic f.toNat) (dwBytes (s.reg g)) 0 o ∧
  exec (.cas g b p sc o) s = issued .cas (dwBytes (s.reg g)) (s.reg (g + 1)) o ∧
  exec (.futGet b p sc o) s = issued .futGet [] 0 o ∧
  exec (.futPut g b p sc o) s = issued .futPut (dwBytes (s.reg g)) 0 o ∧
  exec (.futClear b p sc o) s = issued .futClear [] 0 o ∧
  exec (.cwb b p sc) s = .next (passed ((s.takeCredit p).pushAccess
    { kind := .writeBack, va := BitVec.ofNat 64 ((s.reg b).toNat / 128 * 128), sc := sc, port := p.toNat }))) ∧
  (∀ (s : State) (g b : Reg) (p : Port) (f : BitVec 5) (sc o : BitVec 2) (acq : Bool),
  (s.isResp p = false →
    let trap : Res := .next (s.takeTrap 1 s.wordHere)
    exec (.ldg b p f sc acq) s = trap ∧ exec (.atom g b p f sc o) s = trap ∧ exec (.cas g b p sc o) s = trap ∧
    exec (.futGet b p sc o) s = trap ∧ exec (.futPut g b p sc o) s = trap ∧ exec (.futClear b p sc o) s = trap ∧
    exec (.cwb b p sc) s = trap) ∧
  (s.isResp p = true → s.hasCredit p = false →
    let lost (kind bytes : Nat) : Res :=
      .next (passed (s.errorAt s.runner.1 s.runner.2 0xFF (kind + 256 * (min (bytes - 1) 255)) 0x1A (s.reg b)))
    exec (.ldg b p f sc acq) s = lost 0 (sizeBytes f.toNat) ∧ exec (.cas g b p sc o) s = lost 2 8 ∧
    exec (.futGet b p sc o) s = lost 3 8 ∧ exec (.futPut g b p sc o) s = lost 3 8 ∧ exec (.futClear b p sc o) s = lost 3 8))

/-- R119, R408: STG takes one unit of the store quota and puts a write of the registers' bytes into the port; with the quota
used up it is discarded with code 0x1A.
R141, R155, R334, R394: ORD fences the running actor at its scope, PRF with ord 1 as an acquire. PRF marks the leaf that grants
its line (R127); where the line translates with r permission and is not poisoned it makes the tile a sharer of it, unless its range is
not to be held by read caches (R124), and any other does nothing more. CINV changes nothing but the directory. -/
def Obligations.StoresAndFences : Prop :=
  (∀ (s : State) (g b : Reg) (f : BitVec 5) (sc o : BitVec 2) (x : Actor),
  s.runActor = some x →
  let n := sizeBytes f.toNat
  (x.quotaUsed < x.quota → exec (.stg g b f sc o) s =
    .next (passed ((s.modActor s.runner.1 s.runner.2 fun x => { x with quotaUsed := x.quotaUsed + 1 }).pushAccess
      { kind := .write n, va := s.reg b, sc := sc, ord := o
        data := if f.toNat < 8 then dwsBytes (s.core.regs g.toNat (f.toNat + 1)) else leBytes n (s.reg g).toNat }))) ∧
  (x.quota ≤ x.quotaUsed → exec (.stg g b f sc o) s =
    .next (passed (s.errorAt s.runner.1 s.runner.2 0xFF (1 + 256 * (min (n - 1) 255)) 0x1A (s.reg b))))) ∧
  (∀ (s : State) (b : Reg) (sc o : BitVec 2),
  let line := BitVec.ofNat 64 ((s.reg b).toNat / 128 * 128)
  let xl := s.xlate (dieOf s.focus) s.runAsid (s.tile s.focus).ranges { r := true } 1 line.toNat 1
  let m := s.mark false (s.leaves (dieOf s.focus) s.runAsid (s.tile s.focus).ranges { r := true } 1 line.toNat 1)
  exec (.ord sc o) s = .next (passed (s.fenceHere sc o)) ∧
  (∀ ps ms, xl = .ok ps ms → s.anyPoison ps = false →
    let u := m.fill s.focus s.runAsid line ps
    exec (.prf b sc true) s = .next (passed (u.fenceHere sc 1)) ∧ exec (.prf b sc false) s = .next (passed u)) ∧
  ((∀ ps ms, xl = .ok ps ms → s.anyPoison ps = true) →
    exec (.prf b sc true) s = .next (passed (m.fenceHere sc 1)) ∧ exec (.prf b sc false) s = .next (passed m)) ∧
  (∃ d, exec (.cinv b) s = .next (passed { s with sharers := d })))

/-- R155, R156, R119, R125: the access joins the end of the tile's memory port under a fresh name, with its actor's region and ASID,
held behind what the actor's fences name for it; a release annotation holds a write behind every earlier access of the actor that is
not yet performed at its scope, and stays as a release ORD does. Every earlier access and everything else of the tile stay as they
were. -/
def Obligations.AccessJoinsPort : Prop := ∀ (s : State) (acc : Access) (x : Actor),
  Canon s → s.runActor = some x → acc.ord.toNat % 2 = 0 →
  let t := s.pushAccess acc
  (∃ l k d i, (t.tile s.focus) = { s.tile s.focus with port := (s.tile s.focus).port ++
    [{ acc with
        id := s.nextId, region := s.runner.1, actor := s.runner.2, asid := s.runAsid, after := l
        behind := s.carried x, rel := k, relIf := i, relDeps := d }] } ∧
    (∀ q ∈ x.fence.all, q ∈ l) ∧
    (acc.kind.writes = true → ∀ q ∈ x.fence.rel, q ∈ l) ∧
    (acc.kind.writes = true → 2 ≤ acc.ord.toNat → ∀ q ∈ s.releaseSet acc.sc, q ∈ l)) ∧
  (2 ≤ acc.ord.toNat → ∃ y, t.runActor = some y ∧ y.fence.rel = x.fence.rel ++ s.releaseSet acc.sc) ∧
  t.nextId = s.nextId + 1 ∧ t.mem = s.mem ∧
  (acc.kind.writes = false → acc.ord = 0 → t.regions = s.regions) ∧ ∀ k, k ≠ s.focus → t.tile k = s.tile k

/-- R109, R307, R329, R386, R396: a request to an abacus actor, to the placement controller or for a cut, on a declared response
port with a free credit, takes one credit, puts an engine access into the port that its answer will use, and acts.
R108, R110: what a shadow-plane request does to an abacus actor. ABLOAD is busy (status 3) while the shadow loads, waits to
swap or is loaded, refuses an address that is no multiple of 8 (status 2), and otherwise starts loading and owes its answer;
ABSWAP is busy while the shadow loads or waits, and otherwise waits to swap; ABDROP is busy then too, and otherwise empties
the shadow and answers status 0; ABQRY always answers status 0 with the states of both planes and, in doubleword 1, the beads with
sticky flags in the active plane in [15:0] and in the shadow plane in [31:16], and with its clear bit the active plane's are then
clear. The model's own choices in it: notes/assumptions/41.md, 90.md. -/
def Obligations.UnitRequests : Prop :=
  (∀ (s : State) (a b : Reg) (p : Port),
  s.isResp p = true → s.hasCredit p = true →
  let s1 (va : Dw) : State := (s.takeCredit p).pushAccess { kind := .engine, va := va, port := p.toNat }
  let o : Owed := { actor := s.runner.2, port := p.toNat, id := s.nextId }
  exec (.abload a b p) s = .next (passed ((s1 (s.reg a)).abRequest 0 (s.reg a) (s.reg b) false o)) ∧
  exec (.abswap b p) s = .next (passed ((s1 0).abRequest 1 0 (s.reg b) false o)) ∧
  exec (.abdrop b p) s = .next (passed ((s1 0).abRequest 2 0 (s.reg b) false o)) ∧
  exec (.abqry a b p) s = .next (passed ((s1 0).abRequest 3 0 (s.reg b) ((s.reg a).getLsbD 0) o)) ∧
  exec (.cfgload a b p) s = .next (passed ((s1 (s.reg a)).askLoad false (s.reg a) (s.reg b) o)) ∧
  exec (.cfgloadRestore a b p) s = .next (passed ((s1 (s.reg a)).askLoad true (s.reg a) (s.reg b) o)) ∧
  exec (.place a b p) s = .next (passed (((s1 (s.reg a)).placeOp (s.reg a) (s.reg b)).1.answer s.runner.1 o
    ((s1 (s.reg a)).placeOp (s.reg a) (s.reg b)).2)) ∧
  exec (.mark a p) s = .next (passed ((s1 0).markRegion (s.reg a) o))) ∧
  (∀ (b : Abacus) (va : Dw) (clear : Bool) (o : Owed),
  let busy := b.shState = .loading ∨ b.shState = .swapPending
  let flags (p : Option Plane) : Nat := match p with | some q => q.sticky.length % 65536 | none => 0
  (busy ∨ b.shState = .loaded → b.request 0 va clear o = (b, some (b.reply 0 3 0 0))) ∧
  (b.shState = .empty → va.toNat % 8 ≠ 0 → b.request 0 va clear o = (b, some (b.reply 0 2 0 1))) ∧
  (b.shState = .empty → va.toNat % 8 = 0 → ∃ b', b.request 0 va clear o = (b', none) ∧ b'.shState = .loading ∧
    b'.owedLoad = some o ∧ b'.active = b.active) ∧
  (busy → b.request 1 va clear o = (b, some (b.reply 1 3 0 0)) ∧ b.request 2 va clear o = (b, some (b.reply 2 3 0 0))) ∧
  (¬ busy → (∃ b', b.request 1 va clear o = (b', none) ∧ b'.shState = .swapPending ∧ b'.owedSwap = some o ∧
      b'.shadow = b.shadow ∧ b'.active = b.active) ∧
    b.request 2 va clear o = ({ b with shadow := none, shState := .empty },
      some [packDw [(0, 32), (b.activeCode, 20), (0, 16), (0, 8), (2, 0)], 0])) ∧
  b.request 3 va clear o =
    (if clear then { b with active := b.active.map fun p => { p with sticky := [] } } else b,
      some [packDw [(0, 32), (b.activeCode, 20), (b.shState.code, 16), (0, 8), (3, 0)],
        packDw [(flags b.active, 0), (flags b.shadow, 16)]]))

/-! ### Special registers, traps, tasks and power -/

/-- R50, R344: CSRR reads, CSRW writes and CSRX does both in one step where the mode may; an unassigned number takes trap 0x01
in either mode, a register closed to graph mode trap 0x02 there, and a write of a read-only register trap 0x01 in system and
0x02 in graph mode. -/
def Obligations.SpecialRegisterAccess : Prop := ∀ (s : State) (g a : Reg) (c : BitVec 12),
  let open_ : List Nat := [0, 1, 2, 3, 4, 0x20, 0x21, 0x41]
  let closed : List Nat := [5, 0x10, 0x11, 0x12, 0x13, 0x14, 0x15]
  let both : List Nat := [0x30, 0x31]
  let n := c.toNat
  let stop (k : BitVec 8) : Res := .next (s.takeTrap k s.wordHere)
  let wr := s.csrWrite n (s.reg a)
  (n ∈ open_ ∨ n ∈ both ∨ n = 0x40 ∨ (n ∈ closed ∧ s.core.sys = true) → exec (.csrr g c) s = .next (wrote s g (s.csrRead n))) ∧
  (n ∈ both ∨ ((n ∈ closed ∨ n = 0x40) ∧ s.core.sys = true) →
    exec (.csrw a c) s = .next (passed wr) ∧ exec (.csrx g a c) s = .next (wrote wr g (s.csrRead n))) ∧
  (n ∉ open_ → n ∉ both → n ∉ closed → n ≠ 0x40 →
    exec (.csrr g c) s = stop 1 ∧ exec (.csrw a c) s = stop 1 ∧ exec (.csrx g a c) s = stop 1) ∧
  (n ∈ closed → s.core.sys = false →
    exec (.csrr g c) s = stop 2 ∧ exec (.csrw a c) s = stop 2 ∧ exec (.csrx g a c) s = stop 2) ∧
  (n ∈ open_ ∨ (n = 0x40 ∧ s.core.sys = false) →
    let k : BitVec 8 := if s.core.sys then 1 else 2
    exec (.csrw a c) s = stop k ∧ exec (.csrx g a c) s = stop k)

/-- R49: what each register reads, from the core, the running actor, its region or its die; and that a written register reads
back the bits of its width, TVEC without its low 2 bits and CTXB without its low 12, of which the spec says only that the value is
a multiple of 4 and of 4,096: the model's choice. The model's own choices in it: notes/assumptions/66.md. -/
def Obligations.SpecialRegisterValues : Prop := ∀ (s : State) (x : Actor) (g : Region) (v : Dw),
  s.runActor = some x → s.region s.runner.1 = some g →
  s.csrRead 0 = packDw [(x.slot % 16, 0), (s.runner.2 % 65536, 4)] ∧
  s.csrRead 1 = packDw [(tileX s.focus, 0), (tileY s.focus, 6), (dieOf s.focus, 10)] ∧
  s.csrRead 2 = packDw [(g.ox, 0), (g.oy, 6), (g.w - 1, 10), (g.h - 1, 16), (g.num % 65536, 20)] ∧
  s.csrRead 3 = packDw [(g.asid % 16384, 0)] ∧ s.csrRead 4 = packDw [(s.core.cls.toNat, 0), (x.cls.toNat, 2)] ∧
  s.csrRead 5 = s.core.bypass.setWidth 64 ∧ s.csrRead 0x10 = s.core.tstat.setWidth 64 ∧
  s.csrRead 0x11 = s.core.tcause.setWidth 64 ∧ s.csrRead 0x12 = s.core.tepc.setWidth 64 ∧ s.csrRead 0x13 = s.core.tval ∧
  s.csrRead 0x14 = s.core.tvec.setWidth 64 ∧ s.csrRead 0x15 = g.ctxb ∧
  s.csrRead 0x20 = (s.die (dieOf s.focus)).eqt ∧ s.csrRead 0x21 = (s.die (dieOf s.focus)).eqe ∧
  s.csrRead 0x30 = x.fctl.setWidth 64 ∧ s.csrRead 0x31 = x.fflags.setWidth 64 ∧ s.csrRead 0x40 = g.racec.setWidth 64 ∧
  s.csrRead 0x41 = packDw [(g.credit % 65536, 0), (g.refusals.toNat, 16)] ∧
  (Canon s → swf (none : Option Actor) g.actors = true →
    let back (n w : Nat) : Prop := (s.csrWrite n v).csrRead n = v &&& BitVec.ofNat 64 (2 ^ w - 1)
    back 5 4 ∧ back 0x10 6 ∧ back 0x11 8 ∧ back 0x12 32 ∧ back 0x13 64 ∧ back 0x30 4 ∧ back 0x31 5 ∧ back 0x40 32 ∧
    (s.csrWrite 0x14 v).csrRead 0x14 = v &&& 0xFFFFFFFC ∧ (s.csrWrite 0x15 v).csrRead 0x15 = v &&& 0xFFFFFFFFFFFFF000)

/-- R344, R47, R169: KRD reads and KWR writes a k register of the running actor, and KRD sees the KWR before it; TIME writes EQT
and EQE of the tile's die to two consecutive registers.
R194, R398, R397, R189: PWREQ moves n credits from the region's bucket to the firing's grant and writes 1, or counts a refusal
and writes 0; PWREL returns the unused grant, capped at the depth; PRIO sets the class of future firings to the least of its
operand and the launch's class cap. -/
def Obligations.KRegistersTimeAndPower : Prop :=
  (∀ (s : State) (g a : Reg) (k : BitVec 4) (x : Actor),
  s.runActor = some x →
  exec (.krd g k) s = .next (wrote s g (sget 0 x.k k.toNat)) ∧
  exec (.kwr a k) s = .next (passed
    (s.modActor s.runner.1 s.runner.2 fun x => { x with k := sset 0 x.k k.toNat (s.reg a) })) ∧
  (swf (0 : Dw) x.k = true → ∀ j, sget 0 (sset 0 x.k k.toNat (s.reg a)) j = if j = k.toNat then s.reg a else sget 0 x.k j) ∧
  exec (.time g) s = .next (s.setCore
    { s.core.setRegs g.toNat [(s.die (dieOf s.focus)).eqt, (s.die (dieOf s.focus)).eqe] with pc := s.core.pc + 4 })) ∧
  (∀ (s : State) (d a : Reg) (c : BitVec 2) (g : Region) (f : Firing) (l : Launch),
  s.region s.runner.1 = some g → s.firing = some f → g.launch = some l →
  let n := (s.reg a).toNat
  (n ≤ g.credit → exec (.pwreq d a) s = .next (wrote
    ((s.setRegion s.runner.1 { g with credit := g.credit - n }).modFiring fun f => { f with grant := f.grant + n }) d 1)) ∧
  (g.credit < n → exec (.pwreq d a) s = .next (wrote (s.setRegion s.runner.1 { g with refusals := g.refusals + 1 }) d 0)) ∧
  exec .pwrel s = .next (passed ((s.modRegion s.runner.1 fun g => { g with credit := min (g.credit + f.grant) g.bdepth }).modFiring
    fun f => { f with grant := 0 })) ∧
  exec (.prio c) s = .next (passed (s.modActor s.runner.1 s.runner.2 fun x =>
    { x with cls := if c.toNat ≤ l.ccap.toNat then c else l.ccap })))

/-- R320, R321, R158: BARSET and BARADD act on a slot of the issuer's region and the task goes on; BARSET takes the target from
bits [19:0] and the handler entry from bits [23:20] of its second register.
R158, R159, R160: the transitions of a barrier slot. BARSET on an idle slot arms it with the counter, the target and a new phase,
which for n = 0 completes at once; on an armed one it first completes the old phase as abandoned. BARADD arms an idle slot with its
old target and kept status, does nothing for n = 0, and adds to an armed one, saturating with the overcount bit. A subtraction on an
idle slot is discarded with the overcount bit set; on an armed slot it counts down, bytes that failed setting the error bit and the
first code and not counting as written, and one that reaches the pending count completes the phase, with the overcount bit where it
passes it. A completed phase goes idle and calls the wake target. The model's own choices in it: notes/assumptions/16.md. -/
def Obligations.Barriers : Prop :=
  (∀ (s : State) (a b : Reg) (sl : BitVec 6),
  exec (.barset a b sl) s = .next (passed (s.barSet s.runner.1 sl.toNat (s.reg a) ((s.reg b).toNat % 2 ^ 20)
    ((s.reg b).extractLsb' 20 4))) ∧
  exec (.baradd a sl) s = .next (passed (s.barAdd s.runner.1 sl.toNat (s.reg a)))) ∧
  (∀ (s : State) (r slot : Nat) (g : Region) (n : Dw) (target : Nat) (entry : BitVec 4)
    (m : Nat) (code : Byte),
  s.region r = some g →
  let b := g.barrier slot
  let put (b' : Barrier) : State := s.setRegion r (g.setBarrier slot b')
  (b.armed = false → n ≠ 0 → s.barSet r slot n target entry = put
    { armed := true, pending := n, written := 0, target := target, entry := entry
      cls := ((g.actor target).map (·.cls)).getD 0, phase := b.phase + 1 }) ∧
  (b.armed = false → s.barSet r slot 0 target entry = (put
    { armed := true, pending := 0, written := 0, target := target, entry := entry
      cls := ((g.actor target).map (·.cls)).getD 0, phase := b.phase + 1 }).barComplete r slot) ∧
  (b.armed = true → swf ({} : Barrier) g.barriers = true → s.barSet r slot n target entry =
    ((put { b with abandoned := true }).barComplete r slot).barSet r slot n target entry) ∧
  (b.armed = false → n ≠ 0 → s.barAdd r slot n = put { b with armed := true, pending := n, written := 0, phase := b.phase + 1 }) ∧
  (b.armed = false → s.barAdd r slot 0 = s) ∧
  (b.armed = true → b.pending.toNat + n.toNat < 2 ^ 64 → s.barAdd r slot n = put { b with pending := b.pending + n }) ∧
  (b.armed = true → 2 ^ 64 ≤ b.pending.toNat + n.toNat →
    s.barAdd r slot n = put { b with pending := BitVec.allOnes 64, overcount := true }) ∧
  (b.armed = false → s.barSub r slot m false 0 = put { b with overcount := true }) ∧
  (b.armed = true → m < b.pending.toNat → s.barSub r slot m false 0 = put
    { b with written := b.written + BitVec.ofNat 64 m, pending := b.pending - BitVec.ofNat 64 m }) ∧
  (b.armed = true → m < b.pending.toNat → s.barSub r slot m true code = put
    { b with err := true, code := if b.code = 0 then code else b.code, pending := b.pending - BitVec.ofNat 64 m }) ∧
  (b.armed = true → b.pending.toNat ≤ m → s.barSub r slot m false 0 = (put
    { b with written := b.written + BitVec.ofNat 64 m, pending := 0
             overcount := b.overcount || decide (b.pending.toNat < m) }).barComplete r slot) ∧
  (s.barComplete r slot = (put { b with
      armed := false, pending := 0, err := false, overcount := false, abandoned := false, code := 0 }).netCall r b.target
    b.entry.toNat b.written (b.statusWord slot)))

/-- R217, R325, R22, R218: TRAP takes trap 0x09 with its code, BRK trap 0x08 with zero, a task at its 4,097th instruction trap
0x06 with 4,096; a handler at its 65,537th instruction ends the launch with record 0x59.
R217, R218, R220, R44: taking a trap. In graph mode with a handler: cause, pc and value saved, TSTAT holding graph mode,
the class and the handler bit, system mode at TVEC in class 3, and nothing else of the machine changed; in system mode with
TSTAT[3] clear the same with mode 1, class 3 and TSTAT[4] kept; with TSTAT[3] set record 0x51; in graph mode without a handler
record 0x5A. The model's own choices in it: notes/assumptions/17.md. -/
def Obligations.Traps : Prop :=
  (∀ (s : State) (c : BitVec 12) (f : Firing), s.firing = some f →
  exec (.trap c) s = .next (s.takeTrap 9 (c.setWidth 64)) ∧
  exec .brk s = .next (s.takeTrap 8 0) ∧
  exec .taskLengthExceeded s = .next (s.takeTrap 6 4096) ∧
  exec .handlerLimitExceeded s = .next (s.fatalHere 0x59 (s.core.pc.setWidth 64) (BitVec.ofNat 64 f.hcount))) ∧
  (∀ (s : State) (code : BitVec 8) (v : Dw),
  let c := s.core
  let in_ (tstat : BitVec 6) : State := s.setCore
    { c with
      tcause := code, tepc := c.pc, tval := v, tstat := tstat, sys := true, pc := c.tvec
      firing := c.firing.map fun f => { f with cls := 3, over6 := f.over6 || decide (code = 6) } }
  (c.sys = false → (s.tile s.focus).hasHandler = true → s.takeTrap code v = in_ (0b001000 ||| (c.cls.setWidth 6 <<< 1))) ∧
  (c.sys = true → c.tstat.getLsbD 3 = false → s.takeTrap code v = in_ (0b001111 ||| (c.tstat &&& 0b010000))) ∧
  (c.sys = true → c.tstat.getLsbD 3 = true →
    s.takeTrap code v = s.fatalHere 0x51 (packDw [(code.toNat, 0), (c.pc.toNat, 32)]) 0) ∧
  (c.sys = false → (s.tile s.focus).hasHandler = false → ∃ e : ErrRec, e.code = 0x5A ∧ e.cause = code.toNat ∧ e.tile = s.focus ∧
    e.tepc = c.pc ∧ e.tval = v ∧ s.takeTrap code v = s.fatalIn s.runner.1 e))

/-- R219, R349, R222: ERET takes trap 0x02 in graph mode; with TSTAT[0] clear and TSTAT[4] set record 0x53 ends the launch; else
mode, class and pc return from TSTAT and TEPC, TSTAT[3] and TSTAT[5] clear, TSTAT[4] stays on a return to system mode, and
nothing else changes. -/
def Obligations.TrapReturn : Prop := ∀ (s : State),
  let c := s.core
  (c.sys = false → exec .eret s = .next (s.takeTrap 2 s.wordHere)) ∧
  (c.sys = true → c.tstat.getLsbD 0 = false → c.tstat.getLsbD 4 = true → exec .eret s = .next (s.fatalHere 0x53 0 0)) ∧
  (c.sys = true → (c.tstat.getLsbD 0 = true ∨ c.tstat.getLsbD 4 = false) → exec .eret s = .next (s.setCore
    { c with
      sys := c.tstat.getLsbD 0, pc := c.tepc, tstat := c.tstat &&& 0b010111
      firing := c.firing.map fun f => { f with cls := if c.tstat.getLsbD 0 then 3 else c.tstat.extractLsb' 1 2 } }))

/-- R22, R348, R363, R220: END and ENDR in graph mode retire the running firing, with and without its triggers, free the core,
and in system mode take trap 0x01; HALT in graph mode retires it and halts the region, or in a cut marks the launch to end at
the snapshot, and in system mode ends the launch with record 0x54; NOP only goes on.
The model's own choices in it: notes/assumptions/19.md. -/
def Obligations.TaskEnds : Prop := ∀ (s : State) (f : Firing), s.firing = some f →
  let ended (consume : Bool) : State :=
    let t := s.modRegion f.region fun g => g.retireFiring f consume
    (t.setCore { t.core with firing := none, sys := false }).refresh f.region
  (s.core.sys = false → exec .endTask s = .next (ended true) ∧ exec .endrTask s = .next (ended false) ∧
    exec .halt s = .next ((ended true).modRegion f.region fun g =>
      if g.cutBy.isSome then { g with haltInCut := true } else { g with halted := true })) ∧
  (s.core.sys = true → exec .endTask s = .next (s.takeTrap 1 s.wordHere) ∧ exec .endrTask s = .next (s.takeTrap 1 s.wordHere) ∧
    exec .halt s = .next (s.fatalHere 0x54 0 0)) ∧
  exec .nop s = .next (passed s)

/-- R365, R284, R221: ISSUE sends the patched pool entry as two doublewords on its output; an entry outside the local window
takes trap 0x03; a matrix command in a handler before MXSAVE is refused, the first time by TSTAT[5] and a restart at TVEC. -/
def Obligations.Issue : Prop := ∀ (s : State) (o : BitVec 3) (e : BitVec 11) (m : BitVec 4) (p : BitVec 5),
  let la := 16 * e.toNat
  let w (j : Nat) : Word := if m.getLsbD j then low (s.reg (p + BitVec.ofNat 5 j)) else
    BitVec.ofNat 32 ((s.tile s.focus).load (la + 4 * j) 4)
  let matrix := (w 0).toNat / 2 ^ 24 = 5 ∨ (w 0).toNat / 2 ^ 24 = 6 ∨ (w 0).toNat / 2 ^ 24 = 7
  let barred := s.core.sys = true ∧ s.core.tstat.getLsbD 3 = true ∧ s.core.tstat.getLsbD 4 = false
  (s.localOk la 16 = false → exec (.issue o e m p) s = .next (s.takeTrap 3 (BitVec.ofNat 64 la))) ∧
  (s.localOk la 16 = true → ¬ (barred ∧ matrix) →
    exec (.issue o e m p) s = .next (passed (s.sendHere o.toNat 0 [w 1 ++ w 0, w 3 ++ w 2]))) ∧
  (s.localOk la 16 = true → barred → matrix → exec (.issue o e m p) s = .next
    (if s.core.tstat.getLsbD 5 then s.fatalHere 0x52 s.wordHere 0
     else s.setCore { s.core with tstat := s.core.tstat ||| 0b100000, pc := s.core.tvec }))

/-- R222, R392, R221: MXSAVE and MXREST take trap 0x02 in graph mode. MXSAVE with TSTAT[4] set does nothing; with nothing held it
sets TSTAT[4]; else it writes the accumulator area, puts the batches aside and sets TSTAT[4], and a fault on the write ends the
launch with record 0x58. MXREST with TSTAT[4] clear is refused as matrix use; with nothing held it clears TSTAT[4].
The model's own choices in it: notes/assumptions/73.md. -/
def Obligations.MatrixState : Prop := ∀ (s : State) (g : Region) (x : Actor),
  s.region s.runner.1 = some g → s.actor s.runner.1 s.runner.2 = some x →
  let c := s.core
  let area := dwsBytes (accArea (s.tile x.tile) x.acc (g.batchesOf s.runner.2 false))
  let write := s.areaWrite g (g.accOffset s.runner.2 x) area
  let saved (t : State) : Res := .next (passed (t.setCore { t.core with tstat := t.core.tstat ||| 0b010000 }))
  (c.sys = false → exec .mxsave s = .next (s.takeTrap 2 s.wordHere) ∧ exec .mxrest s = .next (s.takeTrap 2 s.wordHere)) ∧
  (c.sys = true → c.tstat.getLsbD 4 = true → exec .mxsave s = .next (passed s)) ∧
  (c.sys = true → c.tstat.getLsbD 4 = false →
    (x.acc = 0 ∧ g.batchesOf s.runner.2 false = [] → exec .mxsave s = saved s) ∧
    (¬ (x.acc = 0 ∧ g.batchesOf s.runner.2 false = []) →
      (∀ t, write = .ok t → exec .mxsave s = saved (t.modIssued s.runner.1 s.runner.2 fun b => { b with held := true })) ∧
      (∀ d v, write = .error (d, v) → exec .mxsave s = .next (s.fatalHere 0x58 v (BitVec.ofNat 64 d)))) ∧
    exec .mxrest s = .next (if c.tstat.getLsbD 5 then s.fatalHere 0x52 s.wordHere 0
      else s.setCore { c with tstat := c.tstat ||| 0b100000, pc := c.tvec })) ∧
  (c.sys = true → c.tstat.getLsbD 4 = true → g.matrixBusy s.runner.2 = false → x.acc = 0 → g.batchesOf s.runner.2 true = [] →
    exec .mxrest s = .next (passed (s.setCore { c with tstat := c.tstat &&& 0b101111 })))

/-! ### Stream commands -/

/-- R190, R304, R337, R338, R342, R362, R404: a copy engine serving a well-formed CPY, GATH or SCAT that waits for no write first
starts it; then moves whole units of at most 4 KiB at a turn (how many is the model's free value, log 43) once the region's power
covers them, their data can cross between the dies (R244) and no read cache holds a line that it writes (R142), counting what it
moved; and at the end completes it. While read caches hold such lines it sends the invalidations.
A command whose operands or shapes do not fit is refused. Where an element goes: CPY in destination order, transposed where
asked; GATH from the row that the index list names; SCAT to it.
R323, R324, R304: a bank engine serving a well-formed BRED reduces one element at a turn, at the home of its target, counts it
and goes to the next; after the last it completes the command. Data that cannot cross between the dies, or a line that read caches
hold, hold an element back: nothing changes, or the caches are sent invalidations (R244, R142). A value or target tensor or an
extension block that may not be used is refused with code 0x20, and shapes, formats or an operation that do not agree with 0x21.
The model's own choices in it: notes/assumptions/39.md, 43.md, 44.md. -/
def Obligations.MoveAndReduceCommands : Prop :=
  (∀ (s : State) (die eng k : Nat) (c : Cmd) (g : Region) (x : Actor) (h : CmdHead) (d : Command)
    (i : Instr),
  (i, opOf c.w) ∈ [(Instr.cpy die eng, 1), (Instr.gath die eng, 2), (Instr.scat die eng, 3)] →
  s.engineCmd (.copy die eng) = some (k, c) → s.region c.region = some g → g.actor c.actor = some x → c.bad = false →
  decodeCommand c.w = some (h, d) → s.cmdWaits c = false →
  let e := s.viaOf c die
  let t := s.tile x.tile
  let fo := match d with | .cpy _ fo .. => fo | _ => false
  (∀ m, moveOf x t d = .ok m →
    (c.started = false → exec i s = becomes (s.startMove k c g t fo m) c.region) ∧
    (∀ sc, c.started = true → c.scale = some sc → m.units ≤ c.pos →
      exec i s = becomes (s.finishCmd k c m.ext (m.reported c)) c.region) ∧
    (∀ sc s1 s2 gt, c.started = true → c.scale = some sc → c.pos < m.units →
      let n := s.moveChunk e m c
      s.moveReach e m (c.pos * m.unitElems) (n * m.unitElems) = true →
      (s.free.2).gather e m c.before sc n c.pos [] = (s1, .done gt) → s1.partialPoison gt = none →
      let keys := gt.flatMap (·.keys)
      s1.chargeBytes c.region c.moved keys.length = some s2 → s.linesReach e.die (keyLines keys) = true →
      n * m.unitBytes ≤ 4096 ∧
      (s.linesFree none (keyLines keys) = true → exec i s = becomes (s2.performMove e k c m gt) c.region) ∧
      ((∃ n ∈ keyLines keys, s.toInvalidate none n ≠ []) →
        exec i s = becomes (s.sendInvs none (keyLines keys)) c.region)) ∧
    (∀ l, m.op = 1 → m.at_ t l = .ok (if m.tr then ((m.dst.split l).2.1, (m.dst.split l).1, (m.dst.split l).2.2)
      else m.dst.split l, m.dst.split l)) ∧
    (∀ l, m.op = 2 ∨ m.op = 3 →
      let row (q : Tensor) (j : Nat) : Nat × Nat × Nat := (l % m.rowLen, j % q.n1, j / q.n1)
      let j := m.ext.index t (l / m.rowLen)
      m.ext.badIndex (if m.op = 2 then m.src.n1 * m.src.n2 else m.dst.n1 * m.dst.n2) j = false →
      m.at_ t l = .ok (if m.op = 2 then (row m.src j, row m.dst (l / m.rowLen))
        else (row m.src (l / m.rowLen), row m.dst j)))) ∧
  (∀ code, moveOf x t d = .error code → code ≠ 0x23 → ∃ ext,
    exec i s = becomes (s.refuseCmd k c code (opOf c.w) (c.w.extractLsb' 0 64) (refusedBytes x t d) ext) c.region)) ∧
  (∀ (s : State) (die k : Nat) (c : Cmd) (g : Region) (x : Actor) (h : CmdHead)
    (op : BitVec 4) (v t : BitVec 18) (ea : Option (BitVec 18)),
  s.engineCmd (.bank die) = some (k, c) → s.region c.region = some g → g.actor c.actor = some x → c.bad = false →
  decodeCommand c.w = some (h, .bred op v t ea) → opOf c.w = 4 → s.cmdWaits c = false →
  let u := s.tile x.tile
  let m : Reduce := { op := op.toNat, val := (tensorAt u v.toNat).1, tgt := (tensorAt u t.toNat).1, ext := extOf u ea }
  let usable := x.tensorOk u v.toNat && x.tensorOk u t.toNat &&
    (match ea with | some a => x.extOk u a.toNat (·.lists) | none => true)
  let refused (code : Nat) : State :=
    s.refuseCmd k c code 4 (c.w.extractLsb' 0 64) (refusedBytes x u (.bred op v t ea)) m.ext
  let e := s.viaOf c die
  (usable = false → exec (.bred die) s = becomes (refused 0x20) c.region) ∧
  (usable = true → m.ok = false → exec (.bred die) s = becomes (refused 0x21) c.region) ∧
  (usable = true → m.ok = true → m.val.count ≤ c.pos → exec (.bred die) s = becomes (s.finishCmd k c m.ext 0) c.region) ∧
  (usable = true → m.ok = true → c.pos < m.val.count →
    (s.readsReach e m.val [m.val.split c.pos] = false → exec (.bred die) s = .next s) ∧
    (∀ s1 s2 keys, s.readsReach e m.val [m.val.split c.pos] = true → s.reduceOne e m c.pos = .done keys s1 →
      (s1.chargeBytes c.region c.moved m.size = none → exec (.bred die) s = .next s) ∧
      (s1.chargeBytes c.region c.moved m.size = some s2 →
        (s.linesReach e.die (keyLines keys) = false → exec (.bred die) s = .next s) ∧
        (s.linesReach e.die (keyLines keys) = true → (∃ n ∈ keyLines keys, s.toInvalidate none n ≠ []) →
          exec (.bred die) s = becomes (s.sendInvs none (keyLines keys)) c.region) ∧
        (s.linesReach e.die (keyLines keys) = true → s.linesFree none (keyLines keys) = true →
          exec (.bred die) s = becomes ((s2.count c m.size false 0).setCmd k
            { c with
              pos := c.pos + 1, left := c.leftAfter m.size, counted := c.counted + m.size, fault := none
              written := c.written + m.size, moved := c.moved + m.size }) c.region)))))

/-- R401, R385: a link engine serving a well-formed RSEND over a link that serves the slice starts it, queues at most 256 bytes of
whole units at a turn and completes it at the end; a link that does not serve the slice refuses it with code 0x26. A part
queued first on a link that is up and enabled is performed at the peer, or turned away there; on another link it is lost.
R140, R159, R341: what commands leave behind is delivered: the completion token as a call to its target, where the narrow plane
reaches from the engine's die to the region's (R242); bytes of a subtraction, one at least, to their barrier slot (how many at once
is the model's free value, log 43); and a follow-on, oldest of its actor first, into the actor's queue while fewer than four wait there.
The model's own choices in it: notes/assumptions/39.md, 46.md. -/
def Obligations.RemoteSendsAndDeliveries : Prop :=
  ((∀ (s : State) (die k : Nat) (c : Cmd) (g : Region) (x : Actor) (h : CmdHead) (l : BitVec 3) (a b : BitVec 18),
    s.engineCmd (.link die) = some (k, c) → s.region c.region = some g → g.actor c.actor = some x → c.bad = false →
    decodeCommand c.w = some (h, .rsend l a b none) → opOf c.w = 10 → s.cmdWaits c = false →
    let t := s.tile x.tile
    let m : Move := { op := 1, src := (tensorAt t a.toNat).1, dst := (tensorAt t b.toNat).1, ext := extOf t none }
    x.tensorOk t a.toNat = true → x.tensorOk t b.toNat = true → m.dst.loc = false → m.ext.cv = false → m.src.fmt = m.dst.fmt →
    m.shapes = true →
    (c.started = false → s.linkServes g.slice l.toNat = true →
      exec (.rsend die) s = becomes (s.setCmd k { c with started := true, scale := some 127 }) c.region) ∧
    (c.started = false → s.linkServes g.slice l.toNat = false →
      exec (.rsend die) s = becomes (s.refuseCmd k c 0x26 l.toNat (c.w.extractLsb' 0 64) m.total m.ext) c.region) ∧
    (c.started = true → m.units ≤ c.pos → exec (.rsend die) s = becomes (s.finishCmd k c m.ext 0) c.region) ∧
    (∀ u, c.started = true → c.pos < m.units →
      let n := min (256 / m.unitBytes) (m.units - c.pos)
      s.readsReach (s.viaOf c die) m.src ((List.range (n * m.unitElems)).map fun i => m.src.split (c.pos * m.unitElems + i)) = true →
      s.sendPart (s.viaOf c die) k c m l.toNat n = some u → exec (.rsend die) s = becomes u c.region)) ∧
  (∀ (s : State) (k : Nat) (m : Remote), s.remotes[k]? = some m → ((s.remotes.take k).any fun q => decide (q.link = m.link)) = false →
    let s1 : State := { s with remotes := ldrop s.remotes k }
    let subs (failed : Bool) (code : Byte) (u : State) : State := match m.barrier with
      | some b => { u with subs := u.subs ++
          [{ region := m.region, slot := b, bytes := m.cells.length, failed := failed, code := code }] }
      | none => u
    (∀ q, m.comp = some q → exec (.rsendRemoteDelivery k) s = becomes { s1 with comps := s1.comps ++ [q] } m.region) ∧
    (m.comp = none → (s.link m.link).live = false →
      exec (.rsendRemoteDelivery k) s = becomes (s1.remoteLost m (subs true 0x18)) m.region) ∧
    (m.comp = none → (s.link m.link).live = true → (∀ p ∈ m.cells, p.1 < 2 ^ 40) →
      exec (.rsendRemoteDelivery k) s = becomes (if dwBit s1.free.1 0 then s1.free.2.remoteLost m (subs true 0x18)
        else subs false 0 (m.cells.foldl (fun u p => u.wrByte (sisterPa m.link p.1) p.2) s1.free.2)) m.region))) ∧
  (∀ (s : State) (k : Nat),
  (∀ c g, s.comps[k]? = some c → s.region c.region = some g →
    let u : State := { s with comps := ldrop s.comps k }
    (s.narrowWay c.die g.die = true → exec (.completionToken k) s =
      becomes (u.netCall c.region c.actor c.entry (BitVec.ofNat 64 c.bytes) c.status) c.region) ∧
    (s.narrowWay c.die g.die = false → exec (.completionToken k) s = .next s)) ∧
  (∀ b, s.subs[k]? = some b →
    let n := s.subLen b
    exec (.barrierSubtract k) s = becomes (((s.free.2).takeSub k b n).barSub b.region b.slot n b.failed b.code) b.region ∧
    n ≤ b.bytes ∧ (0 < b.bytes → 0 < n)) ∧
  (∀ f x, s.follows[k]? = some f →
    ((s.follows.take k).any fun q => decide (q.region = f.region) && decide (q.actor = f.actor)) = false →
    s.actor f.region f.actor = some x → x.cut = .run →
    let u : State := { s with follows := ldrop s.follows k }
    (x.follow.length < 4 → exec (.followOnDelivery k) s = becomes (u.modActor f.region f.actor fun x =>
        { x with follow := x.follow ++ [{ ahead := (x.port 7).q.length, issuer := f.issuer, by_ := f.by_, w := f.w }] }) f.region) ∧
    (4 ≤ x.follow.length → exec (.followOnDelivery k) s = .next s)))

/-- R388, R390, R310, R194, R88: an MMA or MMAC that stands next at a free matrix actor is taken once its charge is covered: its
batch opens, and the accumulator is cleared where the command asks; HEAVY_COMMAND_HOLD does so for a heavy one. A group whose
operands are there is added to the 4,096 words of the accumulator; with the last step the batch ends. After HALT the actor completes the commands
issued to it the same way (R363). An ACCRD that stands next is taken, and then sends its blocks token by token: a block's header, then its data tokens, and the next block; after the last
the accumulator is cleared where the command asks. The accumulators that a command of a handler may name are the
interrupted actor's (R222). The model's own choices in it: notes/assumptions/40.md. -/
def Obligations.MatrixCommands : Prop := ∀ (s : State) (r a issuer by_ : Nat) (w : BitVec 128) (fo : Bool) (g : Region) (x : Actor)
    (l : List Batch),
  s.region r = some g → g.actor a = some x → x.body = .matrix l → g.serves x = true → x.holdsNone = true →
  (∀ m, g.nextCommand a x = some (.cmd issuer by_ w fo) → decodeCommand w ≠ none → runBatch l = none →
    matCmd w = some m → m.refusal (s.accHolder r issuer x fo) w = none →
    let took (s1 : State) : State :=
      let s2 := s1.modActor r a fun x => x.popCommand fo
      let s3 := if m.clear then s2.modTile x.tile fun t => t.clearAcc m.d else s2
      s3.modBatches r a fun l => l ++ [m.open_ (s2.tile x.tile) issuer w]
    ∀ s1, s.chargeCommand r issuer by_ m.charge = some s1 →
      (opOf w = 5 → exec (.mma r a) s = becomes (took s1) r) ∧
      (opOf w = 6 → exec (.mmac r a) s = becomes (took s1) r) ∧
      (opOf w = 5 ∨ opOf w = 6 → s.isHeavy r m.charge = true → exec (.heavyCommandHold r a) s = becomes (took s1) r)) ∧
  (∀ n b m e, runBatch l = some (n, b) → matCmd b.cmd = some m → b.failed = false → b.groupEnd m 16 b.nextK = some e →
    let added := s.modTile x.tile (Tile.addGroup b m b.nextK e 4096)
    exec (.matrixGroupAdd r a) s = becomes
      (if m.k ≤ e then added.endBatch r a n else added.setBatch r a n { b with nextK := e }) r) ∧
  (∀ c, g.nextCommand a x = some (.cmd issuer by_ w fo) → decodeCommand w ≠ none → runBatch l = none → opOf w = 7 →
    accRead w = some c → c.refusal g a (s.accHolder r issuer x fo) w = none →
    exec (.accrd r a) s = becomes ((s.modActor r a fun x => x.popCommand fo).modBatches r a fun l =>
      l ++ [{ cmd := w, issuer := issuer }]) r) ∧
  (∀ n b c, runBatch l = some (n, b) → accRead b.cmd = some c → g.outReady a c.out = true → b.hdrA = none →
    let hd := (c.block (s.tile x.tile) (b.nextK / c.len * c.len)).1
    exec (.accrd r a) s = becomes ((s.setBatch r a n { b with hdrA := some hd }).sendOn r a c.out 3 [hd]) r) ∧
  (∀ n b c hd, runBatch l = some (n, b) → accRead b.cmd = some c → g.outReady a c.out = true → b.hdrA = some hd →
    let per := perToken ((Fmt.ofCode c.f).getD .fp32).width
    let start := b.nextK / c.len * c.len
    let len := min c.len (4096 - start)
    let done := min (b.nextK - start + per) len
    let s1 := s.sendOn r a c.out 0 (((c.block (s.tile x.tile) start).2[(b.nextK - start) / per]?).getD [0])
    (start + done < 4096 → exec (.accrd r a) s = becomes (s1.setBatch r a n
      { b with nextK := start + done, hdrA := if done = len then none else some hd }) r) ∧
    (4096 ≤ start + done → exec (.accrd r a) s = becomes
      (if c.clear then (s1.endBatch r a n).modTile x.tile fun t => t.clearAcc c.d else s1.endBatch r a n) r))

/-! ### Lanes -/

/-- R56, R58, R351: each lane operation takes the group at the head of its lane's queue: the lane's turn changes the tile, what it
yields leaves as tokens in order behind what waits, and the segment sends as far as slots are free. LSEL with routing 5 is the
switch. The model's own choices in it: notes/assumptions/30.md. -/
def Obligations.LaneOperations : Prop := ∀ (s : State) (tile lane r a : Nat) (x : Actor) (seg : LaneSeg) (gp : Group)
    (rest : List Group) (g : Region),
  s.laneOwner tile lane = some (r, a, x, seg) → ((s.tile tile).laneSt lane).q = gp :: rest → s.region r = some g →
  let t := s.tile tile
  let w := t.laneWord lane
  let turn := t.laneTurn seg (g.segFmt a) (burstType (g.segType a)) (g.burstOuts a) lane LaneCtx.run
  let toks := turn.2.flatMap (Yield.tokens (g.segOut a t seg gp.scale.toNat))
  let after := (((s.setTile tile turn.1).modSeg r a fun l =>
    { l with pend := l.pend ++ toks, hdr := if lane = seg.last ∧ gp.burstLast then none else l.hdr })).drainPend r a
  (∀ i op, (i, op) ∈ [(Instr.ladd tile lane, 1), (Instr.lsub tile lane, 2), (Instr.lmul tile lane, 3), (Instr.lfma tile lane, 4),
      (Instr.lmin tile lane, 5), (Instr.lmax tile lane, 6), (Instr.lcvt tile lane, 7), (Instr.lexp2 tile lane, 8),
      (Instr.lrcp tile lane, 9), (Instr.lrsq tile lane, 10), (Instr.lsel tile lane, 11), (Instr.lcmp tile lane, 12),
      (Instr.lshf tile lane, 13), (Instr.llog tile lane, 14), (Instr.lpass tile lane, 15), (Instr.ldly tile lane, 16),
      (Instr.lrow tile lane, 17), (Instr.lscale tile lane, 18), (Instr.lacc tile lane, 19), (Instr.lred tile lane, 20),
      (Instr.lperm tile lane, 21)] →
    w.op = op → ¬ (op = 11 ∧ w.out = 5) → exec i s = becomes after r) ∧
  (w.op = 11 → w.out = 5 → exec (.lselSwitch tile lane) s = becomes after r)

/-- R368, R369, R370, R375, R377, R381 to R383: what the element-wise lane operations make of one element. On integers the sum,
difference, product and fused sum are exact and then wrapped, or saturated under sat; on floats they are exact and then
rounded once; LMIN and LMAX order by value; LSEL takes A where C is not zero, and as a switch passes A on (R28); LCMP gives 1 or 0; LSCALE gives the canonical
NaN under an invalid block scale. A float difference adds the negation, a NaN staying as it is.
The model's own choices in it: notes/assumptions/33.md, 49.md. -/
def Obligations.LaneElements : Prop := ∀ (c : LaneCtx) (g : Group),
  let f := c.fmt
  let p := c.w.pol
  let A := c.a g
  let B := c.b g
  let is (op : Nat) (v : Nat → Nat) : Prop := c.w.op = op → c.run g = c.plain g v
  let int (i : Int → Int → Int) (a b : Nat) : Nat := intResult f p (i (sextNat a f.width) (sextNat b f.width))
  (f.isInt = true → is 1 (fun j => int (· + ·) (A j) (B j)) ∧ is 2 (fun j => int (· - ·) (A j) (B j)) ∧
    is 3 (fun j => int (· * ·) (A j) (B j)) ∧
    is 4 (fun j => intResult f p (sextNat (A j) f.width * sextNat (B j) f.width + sextNat (c.c_ g j) f.width))) ∧
  (f.isInt = false → is 1 (fun j => laneRound f p ((f.operand p (A j)).add (f.operand p (B j)) 0)) ∧
    is 2 (fun j => laneRound f p ((f.operand p (A j)).add
      (if (f.operand p (B j)).isNaN then f.operand p (B j) else (f.operand p (B j)).neg) 0)) ∧
    is 3 (fun j => laneRound f p ((f.operand p (A j)).mul (f.operand p (B j)))) ∧
    is 4 (fun j => laneRound f p ((f.operand p (A j)).fma (f.operand p (B j)) (f.operand p (c.c_ g j)) 0))) ∧
  is 5 (fun j => (minMax false f p (A j) (B j)).1) ∧ is 6 (fun j => (minMax true f p (A j) (B j)).1) ∧
  is 7 (fun j => laneCvt f p (c.t.param c.w) (A j)) ∧ is 8 (fun j => laneExp2 f p (A j)) ∧ is 9 (fun j => laneRcp f p (A j)) ∧
  is 10 (fun j => laneRsq f p (A j)) ∧ is 11 (fun j => if c.c_ g j ≠ 0 ∨ c.w.out = 5 then A j else B j) ∧
  is 12 (fun j => laneCmp f p (c.t.param c.w % 8) (A j) (B j)) ∧ is 13 (fun j => laneShift f p (A j) (B j)) ∧
  is 14 (fun j => laneLog f p (A j)) ∧ is 15 (fun j => if f.isInt then A j else (toFormat (f.operand p (A j)) f p 0).getD 0) ∧
  is 18 (fun j => if g.scale = 0xFF then (f.canonNaN).getD 0 else laneScale f p g.scale.toNat (A j) (B j))

/-- R346, R335, R200, R201, R202, R399, R403, R204: the rendering lanes. EDGE replaces the mask of a window and reports a malformed
one with code 0x46. COVER adds its tokens to the resolver's store or to its outputs. The resolver empties its store at a tile
begin, keeps the least word at a sample, reports another tile's sample with code 0x45, and passes the tile done on o0. APLANE,
RBOX and RTRI make their results of their own functions.
R204, R203: the blender. A fragment or a primitive end whose tag lies within the window of credits is kept and every complete
tag then applied; a token that begins a tile, and that R203 does not let be a
fragment, restarts the tags; a token outside the window is discarded with code 0x44, whose
detail names the next tag and the tile (R216). The model's own choices in it: notes/assumptions/33.md, 34.md, 35.md. -/
def Obligations.RenderingLanesAndBlender : Prop :=
  (∀ (s : State) (tile lane r a : Nat) (x : Actor) (seg : LaneSeg),
  s.laneOwner tile lane = some (r, a, x, seg) →
  let t := s.tile tile
  let w := t.laneWord lane
  let gone := t.tookSample lane id
  let toO0 (l : List Dw) : State := ((s.setTile tile gone).modSeg r a fun g =>
    { g with pend := g.pend ++ [(0, { payload := l.take 2 })] }).drainPend r a
  (∀ g, t.headGroup lane = some g →
    (∀ u, s.laneStep tile lane 0x18 false LaneCtx.edge = some u →
      let l := g.tokA w
      let bad := winNs l = 3 ∨ winReserved l = true
      (g.void = false → bad → exec (.edge tile lane) s = becomes
        (u.errorAt r a 0xFF (winNs l + 4 * b2n (winReserved l)) 0x46 (pdw l 5)) r) ∧
      (g.void = true ∨ ¬ bad → exec (.edge tile lane) s = becomes u r)) ∧
    (∀ c : LaneCtx, c.edge g = if g.void then { t := c.t, g := g } else
      let record := edgeRecord (g.tokA c.w) (c.t.param c.w)
      { t := c.t, g := { g with tokX := record }
        toks := ([0, 1].filter (routes c.w.out)).map fun p => (p, { payload := record }) }) ∧
    (g.void = false → w.op = 0x19 →
      let made := s.coverTokens w.pol (g.tokA w) ({ t := t, seg := seg, inF := .fp32, i := lane, w := w : LaneCtx }.b g 0)
        (t.laneSt lane).tag
      let run (c : LaneCtx) (q : Group) : LaneOut :=
        let st := c.t.laneSt c.i
        if w.out = 6 then { t := c.t.setLaneSt c.i { st with
            tag := made.2.1, samples := st.samples ++ made.1.map (sampleEntry (winNs (q.tokA w))) }, g := q }
        else { t := c.t.setLaneSt c.i { st with tag := made.2.1 }, g := q
               toks := made.1.flatMap fun k => ([0, 1].filter (routes w.out)).map fun p => (p, { payload := k.2 }) }
      ∀ u, made.2.2.laneStep tile lane 0x19 false run = some u → exec (.cover tile lane) s = becomes u r)) ∧
  (∀ l, t.sampleHead lane = some l → t.resolver lane = true →
    (isFragment l = false → sampleRk l = 1 →
      let lo := max (t.storeBase lane) x.locB
      let hi := min (t.storeBase lane + 8 * 1024 * 2 ^ (pdw l 2).toNat) x.locL
      exec (.resolverTileBegin tile lane) s = becomes (s.setTile tile
      ((t.tookSample lane fun st => { st with openTile := some (sampleTile l) }).setBytes lo
        (List.replicate (hi - lo) 0xFF))) r) ∧
    (isFragment l = false → sampleRk l = 2 → exec (.resolverTileDone tile lane) s = becomes (toO0 l) r) ∧
    (isFragment l = true → exec (.resolverSample tile lane) s = becomes (toO0 l) r) ∧
    (isFragment l = false → sampleRk l = 0 → (t.laneSt lane).openTile = some (sampleTile l) →
      let at_ := t.storeBase lane + 8 * ((32 * dwAt (pdw l 1) 5 5 + dwAt (pdw l 1) 0 5) * 2 ^ (pdw l 2).toNat + dwAt (pdw l 1) 10 2)
      exec (.resolverSample tile lane) s = becomes (s.setTile tile
        (if within at_ 8 x.locB x.locL ∧ (pdw l 0).toNat < t.load at_ 8 then gone.setBytes at_ (dwBytes (pdw l 0)) else gone)) r) ∧
    (isFragment l = false → sampleRk l = 0 → (t.laneSt lane).openTile ≠ some (sampleTile l) →
      exec (.resolverSample tile lane) s = becomes ((s.setTile tile gone).errorAt r a 0xFF (dwAt (pdw l 1) 0 10) 0x45
        (packDw [((sampleTile l).1, 0), ((sampleTile l).2, 12)])) r)) ∧
  (∀ u, s.laneStep tile lane 0x1A false (LaneCtx.aplane x.locB x.locL) = some u → exec (.aplane tile lane) s = becomes u r) ∧
  (∀ u, s.laneStep tile lane 0x1C false (LaneCtx.pair boxToken) = some u → exec (.rbox tile lane) s = becomes u r) ∧
  (∀ u, s.laneStep tile lane 0x1D false (LaneCtx.pair triToken) = some u → exec (.rtri tile lane) s = becomes u r) ∧
  (∀ (op : Nat) (f : LaneCtx → Group → LaneOut) (gp : Group) (rest : List Group), w.op = op → op ≠ 11 →
    (t.laneSt lane).q = gp :: rest → (s.laneStep tile lane op false f).isSome = true)) ∧
  (∀ (s : State) (r a credit win : Nat) (g : Region) (x : Actor) (seg : LaneSeg) (t : Token),
  s.region r = some g → g.actor a = some x → s.creditOf r a = some (credit, win) → x.body = .lane seg → x.head 0 = some t →
  g.active x = true → t.kind = 0 → (s.tile x.tile).drained seg = true →
  let l := t.payload
  let s1 := s.modActor r a fun x => x.popPort 0
  let st := (s.tile x.tile).laneSt seg.first
  let upd (f : LaneSt → LaneSt) : State := s1.modTile x.tile fun u => u.setLaneSt seg.first (f (u.laneSt seg.first))
  let inside := (BitVec.ofNat 16 (fragTag l) - st.next).toNat < win
  (dwAt (pdw l 0) 28 36 = 0 → tileBegin l = none) ∧
  (dwAt (pdw l 0) 28 36 ≠ 0 → sampleRk l = 1 → dwAt (pdw l 1) 36 24 = 0 → tileBegin l = some (some (sampleTile l))) ∧
  (∀ tile, tileBegin l = some tile → exec (.blenderToken r a) s =
    becomes (upd fun st => { st with next := 0, frags := [], ends := [], openTile := tile }) r) ∧
  (tileBegin l = none → inside → exec (.blenderToken r a) s = becomes
    ((if fragRk l = 3 then upd fun st => { st with ends := st.ends ++ [(fragTag l, dwAt (pdw l 0) 32 32)] }
      else upd fun st => { st with frags := st.frags ++ [(fragTag l, l)] }).applyTags r a x seg credit win) r) ∧
  (tileBegin l = none → ¬ inside → ∃ detail, exec (.blenderToken r a) s = becomes
    (s1.free.2.errorAt r a (chanField (g.chanTo a 0)) (fragTag l) 0x44 detail) r ∧ dwAt detail 0 16 = st.next.toNat ∧
    ∀ xy, st.openTile = some xy → xy.1 < 4096 → xy.2 < 4096 → dwAt detail 16 12 = xy.1 ∧ dwAt detail 28 12 = xy.2))

/-! ### Tokens, streams and controllers -/

/-- R64, R14, R84, R52, R425: tokens on their way. A flit that stands behind no other at its router and has a router before it
moves on by one, between two dies only while a circuit carries its channel there; where its channel's filter sits there it
leaves as the filter makes it, after what an earlier launch's unfinished burst left there; a held burst leaves whole once it is complete. The first flit at the end of its path is taken
once the accesses its send released are performed: into the input of its actor, with the number expected there, or into its
engine; those not performed at package scope stay with it. The oldest held error token is sent when a slot is free,
and, with none held, the oldest held diversion to the fault sink.
The model's own choices in it: notes/assumptions/11.md, 24.md, 25.md. -/
def Obligations.TokensMove : Prop := ∀ (s : State) (r ch : Nat) (g : Region) (c : Chan),
  s.region r = some g → g.chan ch = some c →
  (∀ k x, c.wire[k]? = some x → x.tok.kind.toNat < 8 → (∀ y ∈ c.wire.take k, x.pos < y.pos) →
    let a := dieOf ((c.path[x.pos]?).getD 0)
    let b := ((c.path[x.pos + 1]?).map dieOf).getD a
    let put (way : Bool) (c1 : Chan) (out : List Flit) : State := (if way then s.crossed a b else s).modRegion r fun g => g.setChan ch
      { c1 with wire := c1.wire.take k ++ out ++ c1.wire.drop (k + 1) }
    (∀ way, s.crossing c a b = some way → x.pos + 1 < c.path.length → (c.filt = none ∨ x.pos ≠ c.fhop) →
      exec (.routerHop r ch k) s = becomes (put way c [x.past (x.pos + 1) x.tok]) r) ∧
    (∀ f way, s.crossing c a b = some way → x.pos = c.fhop → c.filt = some f → c.lacks ≠ some 0 →
      let made := (c.turned f x).1.filterFlit f x
      exec (.routerHop r ch k) s = becomes (put way made.1 ((c.turned f x).2 ++ made.2)) r)) ∧
  (∀ f way, c.filt = some f → c.lacks = some 0 → (burstOut f c.held).2 = none →
    let a := dieOf ((c.path[c.fhop]?).getD 0)
    let b := ((c.path[c.fhop + 1]?).map dieOf).getD a
    let out := (burstOut f c.held).1.map fun t => ({
      pos := c.fhop + 1, tok := t, after := (c.held.flatMap (·.after)).eraseDups, old := (c.held.head?.map (·.old)).getD 0 } : Flit)
    let fresh := ({ c with held := [] }).stamped out
    let ahead := c.wire.takeWhile fun x => decide (c.fhop < x.pos)
    s.crossing c a b = some way →
    exec (.filterBurstEmit r ch) s = becomes ((if way then s.crossed a b else s).modRegion r fun g => g.setChan ch
      { fresh.1 with wire := ahead ++ fresh.2 ++ c.wire.drop ahead.length }) r) ∧
  (∀ x rest, c.wire = x :: rest → c.atEnd x = true → x.tok.kind.toNat < 8 → (∀ d ∈ x.after, s.depDone d = true) →
    let s1 := s.modRegion r fun g => g.setChan ch { c with wire := rest, older := x.old }
    (∀ a p y, c.dst = .actor a p → g.actor a = some y →
      let took := arriveAs g.asid ch y.tile y.slot p (if x.old < c.older then 0 else (y.port p).exp) x.tok
      let left := x.after.filter fun u => !s.performedAt u.tile u.id 2
      exec (.tokenReceive r ch) s = becomes (s1.modActor r a fun z => z.setPort p
        { y.port p with exp := took.2, q := (y.port p).q ++ [{ took.1 with deps := took.1.deps ++ left }] }) r) ∧
    (∀ d n, c.dst = .copy d n → x.tok.kind ≠ 6 → s.openCmds r ch < c.slots →
      exec (.tokenReceive r ch) s = becomes (s1.accept r ch (.copy d n) c x.cls x.tok x.after) r)) ∧
  (∀ a y t l s1, g.actor a = some y → y.held = t :: l → s.trySendError r a t.payload = some s1 →
    exec (.heldErrorSend r a) s = becomes (s1.modActor r a fun y => { y with held := l }) r) ∧
  (∀ a y p l s1, g.actor a = some y → y.held = [] → y.diverted = p :: l → s.feed r p = some s1 →
    exec (.heldErrorSend r a) s = becomes (s1.modActor r a fun y => { y with diverted := l }) r) ∧
  (∀ asid tile slot p exp t, (t.seq ≠ exp → ∃ l, arriveAs asid ch tile slot p exp t =
      ({ kind := 4, seq := t.seq, payload := l }, t.seq + 1) ∧ dwAt (l.getD 0 0) 0 8 = 2) ∧
    (t.seq = exp → t.kind ≠ 5 → arriveAs asid ch tile slot p exp t = (t, exp + 1)))

/-- R29, R32, R30, R31, R136: nulls, ends of streams and merges of an actor that may act. A null at a head takes one position from
every named input and leaves a null on every named output. EOS at every named input leaves one EOS on every named output,
with the error mark of any of them. EOS beside other tokens at an element-wise node gives code 0x03, and the other inputs
discard up to their own EOS. An ordered merge takes one position of each input and passes its one data token on; an arrival
merge passes what arrives and drops nulls. The model's own choices in it: notes/assumptions/26.md, 27.md, 28.md. -/
def Obligations.StreamRules : Prop := ∀ (s : State) (r a : Nat) (g : Region) (x : Actor),
  s.region r = some g → g.actor a = some x → g.active x = true →
  (∀ ins outs p, x.joinsEos = true → s.notBusy r a x = true → s.settled x = true → (x.isTask = true → x.nullVis = false) →
    g.mergeOf a x = none → (x.headsOf (List.range 8) 1).head? = some p → s.named g a x p = some (ins, outs) →
    ins.all x.hasPosition = true → x.headsOf ins 2 = [] → (x.isTask = false → x.headsOf ins 4 = []) → x.dropping ins = false →
    g.outsFree a outs = true → s.framed r a x ins = true →
    exec (.nullPropagate r a) s = becomes ((s.modActor r a fun x => if x.isTask then x.popPorts ins else x.takePositions ins).sendAll
      r a 1 [0] outs) r) ∧
  (∀ ins outs p, x.joinsEos = true → s.notBusy r a x = true → s.settled x = true → (x.isTask = true → x.eosVis = false) →
    (x.headsOf x.allPorts 2).head? = some p → s.named g a x p = some (ins, outs) → s.framed r a x ins = true →
    (∀ q ∈ ins, x.headKind q = some 2 ∧ (x.port q).drop = false) → g.outsFree a outs = true →
    (∀ l, x.body = .lane l → (s.tile x.tile).holdsPart l = false) →
    exec (.eosJoin r a) s = becomes ((s.modActor r a fun x => x.popPorts ins).eosAll r a (x.anyErr ins) outs) r) ∧
  (∀ ins outs p, s.notBusy r a x = true → s.settled x = true → (∀ q ∈ x.allPorts, (x.port q).drop = false) →
    (x.headsOf x.allPorts 2).head? = some p → s.named g a x p = some (ins, outs) → x.elementWise ins = true →
    x.dropping ins = false → s.framed r a x ins = true → ins.any x.counts = true → x.amidPosition ins = false → (x.isTask = true → g.outsFree a outs = true) →
    let ended := x.headsOf ins 2
    exec (.shapeError r a) s = becomes
      (((s.errorAt r a (chanField (g.chanTo a p)) p 0x03 (BitVec.ofNat 64 (x.port p).taken)).modActor r a fun x =>
        x.popPorts ended).modActor r a fun x =>
          { x with inp := (ins.filter fun q => !ended.contains q).foldl (fun m q =>
              sset {} m q { x.port q with drop := true }) x.inp }) r) ∧
  (∀ ins, g.mergeOf a x = some (false, ins) → (∀ q ∈ ins, (x.port q).drop = false) → x.skipping ins = none →
    x.openBurst ins = none → x.controlPort ins = none → ins.all x.hasPosition = true → x.headsOf ins 2 = [] →
    x.headsOf ins 4 = [] → g.outReady a 0 = true →
    exec (.orderedMergePosition r a) s = becomes (s.mergeHeads r a x ins) r) ∧
  (∀ m eos err p t, x.body = .merge true m eos err → x.head p = some t → m.getLsbD p = true → eos.getLsbD p = false →
    (∀ q, x.openBurst (maskList m) = some q → q = p) → t.kind ≠ 2 → t.kind ≠ 6 → t.isCall = false →
    (t.kind = 1 → exec (.arrivalMergeToken r a p) s = becomes (s.modActor r a fun x => x.takeTracked p) r) ∧
    (t.kind ≠ 1 → g.outReady a 0 = true → exec (.arrivalMergeToken r a p) s = becomes
      ((s.modActor r a fun x => x.takeTracked p).sendOn r a 0 t.kind t.payload) r))

/-- R34, R35, R36, R25, R426: an enabled counter chain emits the index tokens of every iteration in order and then one EOS with
done for the last; an enable starts a controller that is not under way, or a counter chain; a done for an iteration enabled and
not yet reported lets the controller go on, and any other is counted; a call at an actor with a valid entry joins its calls
(each where the narrow plane reaches, R242), and one that names no actor goes to the fault sink with code 0x07, as the tile and slot it has none of being free values.
The model's own choices in it: notes/assumptions/29.md, 38.md. -/
def Obligations.CountersAndControllers : Prop := ∀ (s : State) (r : Nat) (g : Region), s.region r = some g →
  (∀ a x c, g.actor a = some x → x.body = .counter c → g.active x = true → x.srcCut = false → c.enabled = true →
    c.eosSent = false → g.outReady a 0 = true →
    (c.emitted < c.total → exec (.counterIndexEmit r a) s = becomes
      ((s.modActor r a fun x => { x with body := .counter { c with emitted := c.emitted + 1 } }).sendOn r a 0 0
        (indexToken c.spec (c.emitted % chainSize c.spec))) r) ∧
    (c.total ≤ c.emitted → exec (.counterEosEmit r a) s = becomes
      (((s.modActor r a fun x => { x with body := .counter { c with enabled := false, eosSent := true } }).sendEos r a 0
        false).modRegion r fun g => g.sendDone (.actor a) (c.first + c.span - 1)) r)) ∧
  (∀ k first span,
    let g1 : Region := { g with net := ldrop g.net k }
    (∀ c y, g.net[k]? = some (.enable (.ctrl c) first span) → g.ctrl c = some y → y.enabled = false → y.cut = .run →
      s.netReaches g (.ctrl c) = true →
      exec (.controllerEnableReceive r k) s = becomes (s.setRegion r ((g1.setCtrl c
        { y with
          enabled := true, doneSent := false, first := first, span := g.spanOf (.ctrl c) first span
          kidEn := [], kidDone := [] }).advanceCtrl c)) r) ∧
    (∀ a x c, g.net[k]? = some (.enable (.actor a) first span) → g.actor a = some x → x.cut = .run → x.body = .counter c →
      c.enabled = false → s.netReaches g (.actor a) = true → exec (.controllerEnableReceive r k) s = becomes (s.setRegion r (g1.setActor a
        { x with body := .counter { c with
            enabled := true, first := first, span := g.spanOf (.actor a) first span, emitted := 0, eosSent := false } })) r) ∧
    (∀ c j iter y, g.net[k]? = some (.done c j iter) → g.ctrl c = some y → y.cut = .run →
      s.kidReaches g c j = true →
      let due := y.enabled = true ∧ iter < sget 0 y.kidEn j ∧ sget 0 y.kidDone j ≤ iter
      (due → exec (.controllerDoneReceive r k) s = becomes (s.setRegion r ((g1.setCtrl c
        { y with kidDone := sset 0 y.kidDone j (iter + 1) }).advanceCtrl c)) r) ∧
      (¬ due → exec (.controllerDoneReceive r k) s = becomes ((s.setRegion r g1).bumpFault r 8 0) r)) ∧
    (∀ a t x, g.net[k]? = some (.call a t) → g.actor a = some x → x.cut = .run →
      (∀ m ∈ g.net.take k, ∀ u, m ≠ .call a u) → s.netReaches g (.actor a) = true →
      (x.validEntry (dwAt (t.dw 0) 8 4) = true → exec (.handlerCallArrival r k) s = becomes
        ((s.setRegion r g1).modActor r a fun x => { x with calls := x.calls ++ [t] }) r) ∧
      (x.validEntry (dwAt (t.dw 0) 8 4) = false → exec (.handlerCallArrival r k) s = becomes
        ((s.setRegion r g1).divertCall r a 0xFF t) r)) ∧
    (∀ a t, g.net[k]? = some (.call a t) → g.actor a = none → (∀ m ∈ g.net.take k, ∀ u, m ≠ .call a u) →
      ∃ tile slot, exec (.handlerCallArrival r k) s = becomes
        ({ s.setRegion r g1 with fresh := s.fresh + 1 }.feedError r tile slot 0xFF (dwAt (t.dw 0) 8 4) 0x07 (t.dw 0)) r))

/-! ### Launches, selection and tasks -/

/-- R38, R174, R193, R165, R363, R419, R192: a launch token that waits at a free region enters once its charge is covered: the
launch begins, the root controller is enabled, the charge leaves both buckets and the ingress input takes the token. A launch
whose writes and commands are done ends on its root's done and its sinks' EOS, or after HALT once no task of it runs, no
command waits and no unit goes on with one, which frees an unpinned graph. A work record is delivered to the deepest node that can take one. For each
microsecond of EQT a refill adds the rate up to the depth.
The model's own choices in it: notes/assumptions/15.md, 37.md, 56.md. -/
def Obligations.LaunchesRun : Prop := ∀ (s : State) (r : Nat) (g : Region), s.region r = some g →
  (∀ l rest, g.launch = none → g.ingressQ = l :: rest → g.cutBy = none → tokenCharge l.payload ≤ g.credit →
    tokenCharge l.payload ≤ g.ingCredit →
    let g1 : Region := { g with
      launch := some { l with started := (s.die g.die).eqt }, ingressQ := rest, rootDone := false
      credit := g.credit - tokenCharge l.payload, ingCredit := g.ingCredit - tokenCharge l.payload
      net := g.net ++ [.enable (.ctrl g.root) 0 0] }
    let g2 := match g.ingress with
      | none => g1
      | some (a, p) => g1.modActor a fun x => x.setPort p { x.port p with
          exp := (x.port p).exp + 1, q := (x.port p).q ++ [{ kind := 7, seq := (x.port p).exp, payload := l.payload }] }
    let entered := ((s.setRegion r g2).areaPut g2 0 (dwsBytes (g2.headerWords 0 0 0))).checkEdges r
    exec (.launchTokenArrival r) s = becomes entered r ∧ exec (.ingressCreditWait r) s = becomes entered r) ∧
  (∀ l, g.launch = some l → s.writesDone r = true → s.commandsDone r l.sysc = true → g.cutBy = none →
    (g.halted = false → g.rootDone = true → g.sinksDone = true → exec (.launchEnd r) s = becomes (s.endLaunch r false) r) ∧
    (g.halted = true → s.noneRuns r = true → g.commandsWait = false → s.unitsGoOn r g = false → exec (.launchEnd r) s = becomes
      (if g.pinned = true ∨ g.ingressQ ≠ [] then s.endLaunch r true else (s.endLaunch r true).unplace r) r)) ∧
  (∀ k w f rest, s.nextNode g = some (k, w) → w.recs = f :: rest →
    exec (.workRecordDelivery r) s = becomes (((s.storeSeen g { r := true } (g.slotVa w 0) w.size).touchHeader g w).setRegion r
      ((g.setNode k { w with recs := rest, head := (w.head + 1) % max 1 w.qlen }).modActor w.actor fun x =>
        let p := x.recordPort
        let tok : Token := { f.tok with
          payload := s.recordAt g w f.tok.payload, seq := (x.port p).exp
          deps := f.after.filter fun u => !s.performedAt u.tile u.id 2 }
        x.setPort p { x.port p with exp := (x.port p).exp + 1, q := (x.port p).q ++ [tok] })) r) ∧
  (let now := (s.die g.die).eqt
   ((usecUnits : Int) ≤ (now - g.refilled).toInt → exec (.powerRefill r) s = .next (s.setRegion r
      { g with
        credit := min (g.credit + g.rate) g.bdepth, ingCredit := min (g.ingCredit + g.rate) g.bdepth
        refilled := g.refilled + BitVec.ofNat 64 usecUnits })) ∧
   ((now - g.refilled).toInt < usecUnits → exec (.powerRefill r) s = .next s))

/-- R184, R185, R187, R426, R21, R25: the selector of a tile with a free shadow slot picks, in the class its rotation serves, the
oldest resident candidate, or the oldest one when that has been passed over to its limit; the rotation advances unless class 0
was served. The picked actor's oldest call fires, else its lowest satisfied rule, with one slot reserved on each of its
outputs. The task that was selected first starts on a free core at its handler's entry, with g1 to g31 zero when the ASID has
changed; with its triggers its actor receives what they order. The model's own choices in it: notes/assumptions/38.md, 80.md. -/
def Obligations.Selection : Prop := ∀ (s : State) (tile : Nat),
  (let u := s.refreshSlots tile (List.range 16)
   let cs := u.candsOf tile
   let c := rotationClass cs (u.tile tile).rot
   ∀ r a x k byp, (u.tile tile).shadow.length < 2 →
     pickOf (cs.filter fun y => decide (y.2.2.1.cls.toNat = c)) (u.tile tile).core.bypass.toNat = some ((r, a, x, k), byp) →
     let s1 := match byp with
       | some (r', a') => u.modActor r' a' fun x => { x with cand := x.cand.map Cand.passed }
       | none => u
     let s2 := if c = 0 then s1 else s1.modTile tile fun t => { t with rot := (t.rot + 1) % 7 }
     exec (.firingSelect tile) s = .next (((s2.modActor r a fun x => { x with cand := none }).selectFor tile r a).refresh r)) ∧
  (∀ l limit o h, oldestOf l = some o → oldestOf (l.filter fun c => c.2.2.2.hit) = some h →
    (o.2.2.2.bypass < limit → o.2.2.2.hit = false → pickOf l limit = some (h, some (o.1, o.2.1))) ∧
    (limit ≤ o.2.2.2.bypass ∨ o.2.2.2.hit = true → pickOf l limit = some (o, none))) ∧
  (∀ r a g x n ru, s.region r = some g → g.actor a = some x → x.noteCalls.waits = [] → g.ruleOf a x = some (n, ru) →
    x.validEntry ru.entry.toNat = true →
    let outs := g.joinedOf a (maskList ru.outMask)
    let f : Firing := {
      id := s.nextId + 1, region := r, actor := a, rule := some n, entry := ru.entry.toNat
      trig := (maskList ru.inMask).filterMap fun p => (x.head p).map fun t => (p, t, false)
      rsv := outs.foldl (fun m p => sset 0 m p 1) [], wrsv := budgets (g.edgesOf a), cls := x.cls }
    s.selectFor tile r a = ({ s with nextId := s.nextId + 1 }.setRegion r ((g.reserveOuts a outs).reserveNodes (g.edgesOf a))).modTile tile fun v =>
      { v with shadow := v.shadow ++ [f] }) ∧
  (∀ r a g x l u rest, s.region r = some g → g.actor a = some x → x.noteCalls.waits = none :: l → x.calls = u :: rest →
    x.validEntry (dwAt (u.dw 0) 8 4) = true →
    let s1 := s.modActor r a fun x => { x with calls := x.calls.drop 1, waits := l }
    let f : Firing := {
      id := s.nextId + 1, region := r, actor := a, rule := none, entry := dwAt (u.dw 0) 8 4, call := some u, cls := x.cls }
    s.selectFor tile r a = { s1 with nextId := s.nextId + 1 }.modTile tile fun v => { v with shadow := v.shadow ++ [f] }) ∧
  (∀ r a g x c k present, s.region r = some g → s.actor r a = some x → x.cand = some c → x.probe = some k →
    ∃ hit, exec (.residencyProbe r a present) s = .next (s.modActor r a fun x => { x with cand := some { c with hit := hit } }) ∧
      (hit = true → present = true)) ∧
  (∀ f rest g x, (s.tile tile).core.firing = none → (s.tile tile).shadow = f :: rest → s.region f.region = some g →
    s.actor f.region f.actor = some x → x.holdsNone = true → g.halted = false →
    let deps := f.trig.flatMap (·.2.1.deps) ++ (f.call.map (·.deps)).getD []
    exec (.taskStart tile) s = .next ((s.modActor f.region f.actor fun x => x.acquire deps).modTile tile fun t =>
      let kept := if t.core.lastAsid = some g.asid then t.core.g else []
      { t with shadow := rest, core := { t.core with
          g := kept, sys := false, pc := BitVec.ofNat 32 (x.codeB + dwAt (sget 0 x.htab f.entry) 0 32)
          lastAsid := some g.asid, firing := some f } }))

/-- R181, R182, R183, R208, R416, R417: an elastic stage. In each microsecond of EQT a sample adds each replica's occupied slots.
At the end of a window of EQT at most one change is made: none in a cut or while one is under way; a replica more where one is
above the high mark and the limit allows it, at once or, where the stage keeps order, at a position; the newest replica less
where two windows running have all been below the low mark. An arrival stage sends a data token to the least loaded replica with
a free slot, and holds an EOS until nothing stands inside; a stage that keeps order gives data to one replica and nulls to the
others. A new ray enters while fewer than the limit are inside. A retiring replica goes, and a change of membership happens,
once nothing stands there. The model's own choices in it: notes/assumptions/74.md, 75.md. -/
def Obligations.ElasticStages : Prop := ∀ (s : State) (r k : Nat) (g : Region) (t : Stage) (x y : Actor),
  s.region r = some g → g.stage k = some t → g.actor t.dist = some x → g.actor t.coll = some y →
  ((usecUnits : Int) ≤ ((s.die g.die).eqt - t.sampled).toInt → t.samples < t.window →
    exec (.elasticSample r k) s = becomes (s.setStage r k
      { t with
        samples := t.samples + 1, sums := t.replicas.foldl (fun m p => sset 0 m p.1 (sget 0 m p.1 + g.load k t p.1)) t.sums
        counts := t.replicas.foldl (fun m p => sset 0 m p.1 (sget 0 m p.1 + 1)) t.counts
        sampled := t.sampled + BitVec.ofNat 64 usecUnits }) r) ∧
  (t.window ≤ t.samples → ((t.window * usecUnits : Nat) : Int) ≤ ((s.die g.die).eqt - t.wstart).toInt →
    let low := !t.replicas.isEmpty && t.replicas.all fun p => t.below (g.inSlots t) p.1
    let wins := if low then t.lowWins + 1 else 0
    let fresh (u : Stage) : Stage :=
      { u with samples := 0, sums := [], counts := [], wstart := t.wstart + BitVec.ofNat 64 (t.window * usecUnits) }
    let idle := g.cutBy = none ∧ g.cutWait = none ∧ t.change = none ∧ t.retiring = none
    let more := (∃ p ∈ t.replicas, t.above (g.inSlots t) p.1 = true) ∧ t.replicas.length < t.lim
    let fewer := 2 ≤ wins ∧ t.m < t.replicas.length
    (¬ idle ∨ (¬ more ∧ ¬ fewer) → exec (.elasticWindowEnd r k) s = becomes (s.setStage r k (fresh { t with lowWins := wins })) r) ∧
    (idle → more → t.ordered = true → exec (.elasticWindowEnd r k) s = becomes (s.setStage r k (fresh { t with
      lowWins := 0, change := if (s.growTile g t).isSome then some (t.position, none) else none })) r) ∧
    (idle → more → t.ordered = false → exec (.elasticWindowEnd r k) s = becomes
      (((s.setStage r k { t with lowWins := 0 }).grow r k).modRegion r fun g => match g.stage k with
        | some u => g.setStage k (fresh u)
        | none => g) r) ∧
    (∀ p, idle → ¬ more → fewer → t.replicas.getLast? = some p →
      exec (.elasticWindowEnd r k) s = becomes (s.setStage r k (fresh (if t.ordered then
        { t with lowWins := wins, change := some (t.position, some p.1) }
        else { t with lowWins := wins, retiring := some p.1 }))) r)) ∧
  (∀ tok, g.active x = true → t.change = none → t.part = false → t.eos = none → x.head 0 = some tok → t.ordered = false →
    (∀ key, tok.kind = 0 → (x.port 0).left = 0 → g.leastLoaded k t t.taking = some key → g.takes k t key = true →
      exec (.distributorRoute r k) s = becomes (((s.modActor r t.dist fun x => x.takeTracked 0).toReplica r g k t key tok).setStage
        r k { t with burstTo := some key, position := t.position + 1 }) r) ∧
    (tok.kind = 2 → exec (.distributorRoute r k) s = becomes ((s.modActor r t.dist fun x => x.takeTracked 0).setStage r k
      { t with eos := some tok.eosErr }) r)) ∧
  (∀ tok key, g.active x = true → t.change = none → t.part = false → t.eos = none → x.head 0 = some tok → t.ordered = true →
    tok.kind = 0 → (x.port 0).left = 0 → g.leastLoaded k t t.replicas = some key →
    (t.replicas.map (·.1)).all (g.takes k t) = true → g.takes k t key = true →
    exec (.distributorRoute r k) s = becomes (((((t.replicas.map (·.1)).filter fun o => decide (o ≠ key)).foldl
      (fun u o => u.toReplica r g k t o { kind := 1, payload := [0] })
      ((s.modActor r t.dist fun x => x.takeTracked 0).toReplica r g k t key tok))).setStage r k
        { t with position := t.position + 1, burstTo := some key }) r) ∧
  (∀ e, t.eos = some e → g.active y = true → s.stageEmpty r g k t = true → g.outReady t.coll 0 = true →
    exec (.distributorEosRelease r k) s = becomes ((s.sendEos r t.coll 0 e).setStage r k { t with eos := none }) r) ∧
  (∀ tok key, g.active x = true → t.part = true → t.eos = none → g.migrating k t x = none → t.inside < t.limit →
    x.head 0 = some tok → tok.kind = 0 →
    g.leastLoaded k t (t.taking.filter fun p => decide (p.2 = rayPart tok)) = some key → g.takes k t key = true →
    exec (.rayAdmission r k) s = becomes (((s.modActor r t.dist fun x => x.takeTracked 0).toReplica r g k t key tok).setStage r k
      { t with inside := t.inside + 1 }) r) ∧
  (∀ key, t.retiring = some key → (x.port 0).left = 0 → s.replicaEmpty r g k t key = true →
    exec (.replicaRetire r k) s = becomes ((s.dropReplica r k key).resumeCut r) r) ∧
  (∀ n key, (x.port 0).left = 0 → s.stageEmpty r g k t = true →
    let s1 := s.setStage r k { t with change := none }
    (t.change = some (n, none) → exec (.orderedMembershipChange r k) s = becomes ((s1.grow r k).resumeCut r) r) ∧
    (t.change = some (n, some key) → exec (.orderedMembershipChange r k) s = becomes ((s1.dropReplica r k key).resumeCut r) r))

/-! ### Memory -/

/-- R119, R120, R121, R122, R133, R137, R138, R139, R142, R319, R328, R371, R334: accesses of a tile's port that translate to unpoisoned
bytes and that nothing before them holds back, while the spill queue has room. A load or write-back is answered with its value;
a store is accepted and its quota returns; each of several 8-byte units goes by itself. A bank operation or CAS answers the old
value and writes the new one at the home, a CAS that fails writing nothing; a get of a full future answers its value, and one of an empty future waits, or is
withdrawn in a cut or refused at a full bank with a free value; a put fills an empty future, answers every waiting get, and
leaves a full one; a clear empties it. A write goes on to its die and its home, unless its store meets a poisoned line; where a read cache holds its line it sends the
invalidations first. A response joins its port in issue order.
The model's own choices in it: notes/assumptions/10.md, 77.md, 83.md. -/
def Obligations.AccessesPerformed : Prop := ∀ (s : State) (tile k : Nat) (a : Access) (ps ms : List Nat),
  s.portAt tile k = some a → a.spilled = none →
  (∀ n w, a.kind = .read n w → a.st = .issued → s.portFull tile = false → s.ready tile k a.sc.toNat a = true →
    s.xlOf tile a = .ok ps ms → s.served tile a.sc ps = true → s.anyPoison ps = false → a.elem = none →
    (ps.length = n → a.got = [] → ((ps.map (· / 8)).eraseDups).length ≤ 1 →
      let src := (s.sources tile a.sc ps).map fun u => (u.1, u.2.id)
      let filled := (s.mark false ms).fill tile a.asid a.va ps
      exec (.requestResponse tile k false) s = becomes
        ((if src = [] then filled else filled.modActor a.region a.actor fun x => { x with seen := x.seen ++ src }).answerNow
          tile k a (loadPayload n w (s.seenBytes tile a.sc ps)) (a.deps ++ s.sourceDeps tile a.sc ps)) a.region) ∧
    (∀ u s1, s.pickUnit ps ((List.range n).filter fun i => !(a.got.any fun q => decide (q.1 = i))) = (u, s1) →
      u.length < ((List.range n).filter fun i => !(a.got.any fun q => decide (q.1 = i))).length →
      let us := u.map fun i => ps.getD i 0
      let src := (s1.sources tile a.sc us).map fun u => (u.1, u.2.id)
      let filled := (s1.mark false ms).fill tile a.asid a.va us
      exec (.requestResponse tile k false) s = becomes
        ((if src = [] then filled else filled.modActor a.region a.actor fun x => { x with seen := x.seen ++ src }).setAccess tile k
          { a with
            pas := ps, got := a.got ++ u.zip (s1.seenBytes tile a.sc us)
            deps := a.deps ++ s1.sourceDeps tile a.sc us }) a.region)) ∧
  (a.st = .issued → s.portFull tile = false → s.ready tile k 2 a = true → s.accessXl tile a = .ok ps ms →
    s.anyPoison ps = false →
    let old : Dw := BitVec.ofNat 64 (leNat (ps.map s.rdByte))
    let v : Dw := BitVec.ofNat 64 (leNat a.data)
    let full := sget false s.full (ps.headD 0 / 8)
    let deps := s.sourceDeps tile 2 ps
    let r := s.mark false ms
    let w := s.mark true ms
    let holes := ∃ n ∈ linesOf ps, s.toInvalidate none n ≠ []
    (a.kind = .writeBack → exec (.requestResponse tile k false) s =
      becomes (r.setAccess tile k { a with spilled := none, st := .answered { payload := [0] } }) a.region) ∧
    (s.linesReach (dieOf tile) (linesOf ps) = true →
      (∀ op, a.kind = .atomic op →
        (s.linesFree none (linesOf ps) = true → exec (.bankOperationPerform tile k) s = becomes
          (((w.homeWrite ps (leBytes ps.length (bankOp op old v).toNat) (s.relOf tile a)).settleRel tile a true).answerNow
            tile k a [old] deps) a.region) ∧
        (holes → exec (.bankOperationPerform tile k) s = becomes (s.sendInvs none (linesOf ps)) a.region)) ∧
      (a.kind = .cas → s.linesFree none (linesOf ps) = true →
        (old = a.exp → exec (.bankOperationPerform tile k) s = becomes
          (((w.homeWrite ps (leBytes ps.length v.toNat) (s.relOf tile a)).settleRel tile a true).answerNow tile k a [old] deps)
            a.region) ∧
        (old ≠ a.exp → exec (.bankOperationPerform tile k) s = becomes
          ((w.settleRel tile a false).answerNow tile k a [old] deps) a.region)) ∧
      (a.kind = .futGet →
        (full = true → exec (.futureGetPerform tile k) s =
          becomes (r.answerNow tile k a (futAnswer old 0 0).payload deps) a.region) ∧
        (full = false → r.cutting a.region = true → ∃ x, exec (.futureGetPerform tile k) s =
          becomes ({ r with fresh := r.fresh + 1 }.answerNow tile k a (futAnswer x 3 0).payload []) a.region) ∧
        (full = false → r.cutting a.region = false → 32 ≤ r.bankDeferred (ps.headD 0) → ∃ x, exec (.futureGetPerform tile k) s =
          becomes ({ r with fresh := r.fresh + 1 }.answerNow tile k a (futAnswer x 1 0).payload []) a.region) ∧
        (full = false → r.cutting a.region = false → r.bankDeferred (ps.headD 0) < 32 →
          let u : State := { r with deferred := r.deferred ++ [{ pa := ps.headD 0, tile := tile, id := a.id }] }
          exec (.futureGetPerform tile k) s =
            becomes (u.setAccess tile k { a with spilled := none, st := .deferred }) a.region)) ∧
      (a.kind = .futPut →
        (full = true → exec (.futurePutPerform tile k) s =
          becomes ((w.answerNow tile k a (futAnswer old 2 1).payload deps).settleRel tile a false) a.region) ∧
        (full = false → w.linesFree none (linesOf ps) = true →
          let u : State := { w.homeWrite ps a.data (w.relOf tile a) with full := sset false w.full (ps.headD 0 / 8) true }
          exec (.futurePutPerform tile k) s = becomes
            (((u.answerGets (ps.headD 0) v tile a).answerNow tile k a (futAnswer v 0 1).payload []).settleRel tile a true)
              a.region)) ∧
      (a.kind = .futClear →
        (full = true → exec (.futureClearPerform tile k) s =
          becomes ({ w with full := sset false w.full (ps.headD 0 / 8) false }.answerNow tile k a
            (futAnswer old 0 2).payload deps) a.region) ∧
        (full = false → exec (.futureClearPerform tile k) s =
          becomes (w.answerNow tile k a (futAnswer 0 0 2).payload deps) a.region)))) ∧
  (∀ n, a.kind = .write n →
    (a.st = .issued → s.portFull tile = false → s.ready tile k 0 a = true → s.xlOf tile a = .ok ps ms → a.elem = none →
      ((ps.map (· / 8)).eraseDups).length ≤ 1 → a.data.length = ps.length →
      (∀ b ∈ (s.tile tile).port.take k, b.spilled = none) →
      let w := s.mark true ms
      exec (.storeAccept tile k) s = becomes
        (({ w with nextId := w.nextId + 1 }.modActor a.region a.actor fun x => { x with quotaUsed := x.quotaUsed - 1 }).setAccess
          tile k { a with spilled := none, st := .accepted, pas := ps, stamp := s.nextId }) a.region) ∧
    (a.st = .accepted → s.ready tile k 1 a = true → s.firstOf tile a = true → exec (.writePerform tile k) s = becomes
      ({ s with nextId := s.nextId + 1 }.setAccess tile k { a with st := .atDie, stamp := s.nextId }) a.region) ∧
    (a.st = .atDie → s.ready tile k 2 a = true → s.firstOf tile a = true →
      s.linesReach (dieOf tile) (linesOf a.pas) = true →
      (s.anyPoison ((s.tile tile).storeBytes a.id) = true → exec (.writePerform tile k) s =
        becomes (s.failAccess tile k a 0x16 a.va) a.region) ∧
      (s.anyPoison ((s.tile tile).storeBytes a.id) = false →
      (s.linesFree (some tile) (linesOf a.pas) = true → exec (.writePerform tile k) s =
        becomes ((s.homeWrite a.pas a.data (s.relOf tile a)).dropAccess tile k) a.region) ∧
      ((∃ n ∈ linesOf a.pas, s.toInvalidate (some tile) n ≠ []) → exec (.writePerform tile k) s =
        becomes (s.sendInvs (some tile) (linesOf a.pas)) a.region))) ∧
    (a.st = .atDie → s.ready tile k 2 a = true → tile < 1024 → s.deviceLines a.pas ≠ [] → exec (.metadataError tile k) s =
      becomes (((s.deviceLines a.pas).foldl State.poisonLine s).failAccess tile k a 0x19 a.va) a.region)) ∧
  (∀ t, a.st = .answered t → a.elem = none →
    (∀ b ∈ (s.tile tile).port.take k, b.region = a.region → b.actor = a.actor → b.port ≠ a.port) →
    exec (.requestResponse tile k true) s =
      becomes ((s.dropAccess tile k).respond a.region a.actor a.port t.kind t.payload t.deps) a.region) ∧
  (∀ line, s.narrowWay (homeDie (128 * line)) (dieOf tile) = true →
    exec (.invalidationAck line tile) s = .next (s.ackInv line tile) ∧
    exec (.evictionNotice line tile) s = .next ((s.setDir line ((s.dir line).drop tile)).ackInv line tile))

/-- R127, R133, R135: a walk marks and caches the leaf of each page of an access that fails in nothing else, and diverts the access to
the spill queue where a page is not there; a diverted access is tried again in each retry interval and performed when the retry
translates, a page it finds absent being recorded, and past the slice's fault window code 0x15 takes its place.
The model's own choices in it: notes/assumptions/18.md. -/
def Obligations.WalksAndSpills : Prop := ∀ (s : State) (tile k : Nat) (a : Access), s.portAt tile k = some a →
  (∀ e p, a.st = .issued → a.spilled = none → a.pas = [] →
    ((s.tile tile).ranges.find? fun e => decide (e.asid = a.asid) && e.covers (va56 a.va.toNat)) = some e →
    (∀ ps ms v addr, e.paged = true → a.pages = [p] → s.accessXl tile a = .ok ps ms →
      s.walk (dieOf tile) a.asid (p * 65536) = .leaf v addr →
      let u := s.mark (a.kind.need.writes && leafAllows v a.kind.need) [addr]
      exec (.pageWalk tile k) s = .next (u.modDie (dieOf tile) fun d =>
        { d with tlb := { asid := a.asid, page := p, leaf := u.rd64 addr } ::
            d.tlb.filter fun t => !(decide (t.asid = a.asid) && decide (t.page = p)) })) ∧
    (∀ u v, s.accessXl tile a = .page v → s.spill tile k a v = some u → exec (.pageWalk tile k) s = .next u) ∧
    (∀ c d, s.accessXl tile a = .fail c d → exec (.pageWalk tile k) s = .next s)) ∧
  (∀ t0, a.spilled = some t0 →
    let now := (s.die (dieOf tile)).eqt
    (retryUnits ≤ (now - a.tried).toNat →
      (∀ ps ms u, s.accessXl tile a = .ok ps ms → (s.setAccess tile k { a with spilled := none }).perform tile k = some u →
        exec (.spillRetry tile k) s = becomes u a.region) ∧
      (∀ v, s.accessXl tile a = .page v → exec (.spillRetry tile k) s =
        .next ((s.recordPage (dieOf tile) a.asid v (s.pageFaultRecord tile a v)).setAccess tile k { a with tried := now }))) ∧
    ((now - a.tried).toNat < retryUnits → exec (.spillRetry tile k) s = .next s) ∧
    (∀ n, s.sliceOfDie (dieOf tile) = some n → (s.slice n).fwin.toNat * 64000000 ≤ (now - t0).toNat →
      exec (.faultWindowExpiry tile k) s = becomes (s.failAccess tile k a 0x15 a.va) a.region))

/-- R132, R142, R146, R166, R249, R145, R148, R237, R238: R147: the host and peers read and write the lines they may reach and get status
0x18 outside them and 0x16 on poison, and a write whose metadata was lost 0x19; a write is posted, and a read does not pass a posted
write to its bytes. Errors in data or in its metadata poison a line, end the launches of a tile with record 0x55, or are stamped against their unit, of
which the third within 24 hours puts a spare row in, adds a fault record, disables a way or makes a tile unplaceable; a die reset
poisons the lines of which the die held the only dirty copy, ends its launches with record 0x56 and resets the die.
The model's own choices in it: notes/assumptions/21.md, 78.md, 83.md, 87.md, 93.md. -/
def Obligations.OutsideAccesses : Prop := ∀ (s : State) (fn link pa n : Nat) (data : List Byte),
  (let pas := (List.range n).map (pa + ·)
   let free := ∀ w ∈ s.posted, shareByte (s.postedPas w) pas = false
   (free → (∀ p ∈ pas, s.hostAdmits fn p = true) → s.anyPoison pas = false → exec (.hostRead fn pa n) s = .next
     { s with reply := 0 :: bytesDws ((n + 7) / 8) (s.hostBytes pa n), fresh := s.fresh + n / 8 + 2 }) ∧
   (free → (∃ p ∈ pas, s.hostAdmits fn p = false) → exec (.hostRead fn pa n) s = .next { s with reply := [0x18] }) ∧
   (free → (∀ p ∈ pas, s.hostAdmits fn p = true) → s.anyPoison pas = true →
     exec (.hostRead fn pa n) s = .next { s with reply := [0x16] }) ∧
   (¬ free → exec (.hostRead fn pa n) s = .next s)) ∧
  (let pas := (List.range data.length).map (pa + ·)
   ((∃ p ∈ pas, s.hostAdmits fn p = false) → exec (.hostWrite fn pa data) s = .next { s with reply := [0x18] }) ∧
   ((∀ p ∈ pas, s.hostAdmits fn p = true) →
     (s.metaLost pas = true → exec (.hostWrite fn pa data) s = .next (s.metaTold pas)) ∧
     (s.metaLost pas = false → s.anyPoison pas = true → exec (.hostWrite fn pa data) s = .next { s with reply := [0x16] }) ∧
     (s.metaLost pas = false → s.anyPoison pas = false →
       exec (.hostWrite fn pa data) s = .next { s.post pas data with reply := [0] }))) ∧
  (∀ write, let pas := (List.range (if write then data.length else n)).map (pa + ·)
   let l := s.link link
   let ok := l.enabled = true ∧ l.up = true ∧ ∀ p ∈ pas, l.low ≤ p ∧ p ≤ l.high ∧ s.inDevice p = true ∧
     (l.pkg = true ∨ (s.slice l.owner).hasDie (homeDie p) = true)
   let free := ∀ w ∈ s.posted, shareByte (s.postedPas w) pas = false
   (¬ ok → exec (.peerAccess link pa n write data) s = .next { s with reply := [0x18] }) ∧
   (ok → write = true → s.metaLost pas = true → exec (.peerAccess link pa n write data) s = .next (s.metaTold pas)) ∧
   (ok → (write = true → s.metaLost pas = false) →
     (s.anyPoison pas = true → exec (.peerAccess link pa n write data) s = .next { s with reply := [0x16] }) ∧
     (s.anyPoison pas = false → write = true →
       exec (.peerAccess link pa n write data) s = .next { s.post pas data with reply := [0] }) ∧
     (s.anyPoison pas = false → write = false → free → exec (.peerAccess link pa n write data) s =
       .next { s with reply := 0 :: bytesDws ((n + 7) / 8) (pas.map s.rdByte) }) ∧
     (s.anyPoison pas = false → write = false → ¬ free → exec (.peerAccess link pa n write data) s = .next s))) ∧
  (s.posted = [] → s.dues = [] → ∀ pas : List Nat, s.anyPoison pas = false → s.linesFree none (linesOf pas) = true →
    s.post pas data = s.homeWrite pas data) ∧
  (let u := s.setPoison (lineOf pa) true
   exec (.uncorrectableLineError pa) s = .next { u with sharers := sset (.ptrs []) s.sharers (lineOf pa) (.ptrs []) }) ∧
  (s.inDevice pa = true → exec (.metadataError 1025 (lineOf pa)) s =
    .next { s.poisonLine (lineOf pa) with badMeta := sset false s.badMeta (lineOf pa) true }) ∧
  (∀ tile detail, exec (.scratchpadUncorrectable tile detail) s =
    .next (s.endOn (fun t => decide (t = tile)) 0x55 (BitVec.ofNat 64 detail) 0)) ∧
  (∀ die kind unit page,
    let d := s.die die
    let old := d.errs.find? fun u => decide (u.kind = kind) && decide (u.unit = unit)
    let third := ∃ u o, old = some u ∧ u.older = some o ∧ (d.eqt - o).toNat ≤ 24 * 3600 * 1000000000 * 64
    let d1 := { d with errs := putUnit d.errs { kind := kind, unit := unit, newer := d.eqt, older := old.map (·.newer) } }
    let d2 := { d1 with lasting := if d.lasting.contains (kind, unit) then d.lasting else d.lasting ++ [(kind, unit)] }
    let used := sget 0 d.spares (unit % 256)
    let ends (t : State) : Prop := exec (.correctedError die kind unit page) s = .next t
    (¬ third → ends (s.setDie die d1)) ∧
    (third → kind = 0 → used < 8 → ends (s.setDie die { d2 with spares := sset 0 d.spares (unit % 256) (used + 1) })) ∧
    (third → kind = 0 → 8 ≤ used → ends ((s.setDie die d2).faultRecord ((s.sliceOfDie die).getD 0)
      [BitVec.ofNat 64 (page / 65536 * 65536), packDw [(die, 29), (2, 0)], d.eqt, packDw [(unit % 2 ^ 26, 0)]])) ∧
    (third → kind = 1 → ends (s.setDie die { d2 with ways := sset 0 d.ways unit (sget 0 d.ways unit + 1) })) ∧
    (third → 2 ≤ kind → ends ((s.setDie die d2).modTile (tileInDie die (unit / 256)) fun t => { t with unplaceable := true }))) ∧
  (∀ die named,
    let dirty := (((s.dieWrites die).flatMap fun w => linesOf w.2.pas).eraseDups).filter fun l => decide (homeDie (128 * l) ≠ die)
    let s1 := dirty.foldl (fun (s : State) l =>
      { s.setPoison l true with sharers := sset (.ptrs []) s.sharers l (.ptrs []) }) s
    let gone := s1.regionsOn fun t => decide (dieOf t = die)
    let s2 : State := { s1 with cmds := s1.cmds.filter fun c => !(decide (c.eng.die = some die) && gone.contains c.region) }
    exec (.dieReset die named) s = .next ((s2.endAndRemove (fun t => decide (dieOf t = die)) 0x56 (BitVec.ofNat 64 die)
      (BitVec.ofNat 64 dirty.length)).resetDie die))

/-! ### Engine actors -/

/-- R24, R27, R32, R134, R136, R137, R301, R427: the steps of engine actors. ENGINE_ELEMENT_STEP does the step of the actor's
kind; a lane actor takes one token from every named input at once, headers only into an empty segment; a bank actor takes
headers, which yield nothing, or one operand token from each input and puts the operation they name, a free value of them (notes/assumptions/23.md), at its port,
copies errors, and sends what the element yields on every output. A configuration token takes effect in its place, when the
segment is empty, and one inside a burst at its end. A load memory actor starts or goes on with
its pass, one element at a time; a store one takes its token and writes; the EOS leaves once all is there.
The model's own choices in it: notes/assumptions/23.md, 30.md. -/
def Obligations.EngineSteps : Prop := ∀ (s : State) (r a : Nat) (g : Region) (x : Actor),
  s.region r = some g → g.actor a = some x →
  (∀ l u, x.body = .lane l → s.laneElement r a g x l = some u → exec (.engineElementStep r a) s = becomes u r) ∧
  (∀ l, x.body = .lane l → l.pend = [] → l.cfg = [] → g.active x = true →
    let ins := (s.engineNamed g a x).1
    let outs := (s.engineNamed g a x).2
    (∀ p ∈ ins, (x.port p).drop = false ∧ s.framing r a p = none ∧ (x.headKind p = some 0 ∨ x.headKind p = some 7)) →
    s.errorStep r a g x ins outs = none → g.outsFree a outs = true → s.creditOf r a = none →
    exec (.engineElementStep r a) s = becomes (s.laneData r a g x l ins) r) ∧
  (∀ l, x.body = .lane l → l.pend = [] → l.cfg = [] → g.active x = true → (s.tile x.tile).drained l = true →
    let ins := (s.engineNamed g a x).1
    let outs := (s.engineNamed g a x).2
    ins ≠ [] → (∀ p ∈ ins, (x.port p).drop = false ∧ s.framing r a p = none ∧ x.headKind p = some 3 ∧
      s.laneBadHeader r a g x p = none) → s.errorStep r a g x ins outs = none → g.outsFree a outs = true →
    exec (.engineElementStep r a) s = becomes (s.laneHeaders r a g x l ins outs) r) ∧
  (∀ l u, x.body = .matrix l → s.matrixElement r a g x = some u → exec (.engineElementStep r a) s = becomes u r) ∧
  (∀ b u, x.body = .abacus b → s.abInput r a = some u → exec (.engineElementStep r a) s = becomes u r) ∧
  (∀ u, x.body = .bank →
    let ins := x.fedInputs
    let outs := g.joined a
    (∀ k q t, s.bankAt x = some (k, q) → q.st = .answered t → g.outsFree a outs = true →
      exec (.engineElementStep r a) s = becomes
        (outs.foldl (fun s p => s.sendOn r a p t.kind t.payload t.deps) (s.dropAccess x.tile k)) r) ∧
    (s.bankAt x = none → g.active x = true → ins ≠ [] → (∀ p ∈ ins, s.framing r a p = none) →
      (s.errorStep r a g x ins outs = some u → exec (.engineElementStep r a) s = becomes u r) ∧
      (s.errorStep r a g x ins outs = none → (∀ p ∈ ins, x.headKind p = some 3 ∧ burstType (g.inType a p) = true ∧
          x.hasPosition p = true ∧ (x.port p).drop = false) → g.outsFree a outs = true →
        exec (.engineElementStep r a) s = becomes (s.modActor r a fun x => ins.foldl Actor.takeTracked x) r) ∧
      ((∀ p ∈ ins, x.headKind p = some 0 ∧ (x.port p).drop = false) → g.outsFree a outs = true →
        exec (.engineElementStep r a) s = becomes ((s.modActor r a fun x => ins.foldl Actor.takeTracked x).pushBank r a g x
          (ins.map fun p => ((x.head p).getD {}).payload)) r))) ∧
  (∀ l p t, x.body = .lane l → g.active x = true → (x.controlPort ((s.engineNamed g a x).1.filter fun p =>
      decide (p ≠ 7))) = some p → (s.engineNamed g a x).1 ≠ [] → x.head p = some t → t.subtype = 4 →
    let took := s.modActor r a fun x => x.popPort p
    (x.inBurst = true → exec (.engineConfigApply r a) s =
      becomes (took.modSeg r a fun l => { l with cfg := l.cfg ++ [t.payload] }) r) ∧
    (x.inBurst = false → l.cfg = [] → (s.tile x.tile).drained l = true → exec (.engineConfigApply r a) s =
      becomes (took.configLanes x.tile l l.lanes) r)) ∧
  (∀ l, x.body = .lane l → g.active x = true → l.cfg ≠ [] → (s.tile x.tile).drained l = true → x.inBurst = false →
    exec (.engineConfigApply r a) s =
      becomes ((s.configLanes x.tile l l.lanes).modSeg r a fun l => { l with cfg := l.cfg.drop 1 }) r) ∧
  (∀ m t, x.body = .memory m → m.store = false → m.indexed = false → m.self = false → m.pass = false → m.held = [] →
    m.eos = none → g.active x = true → s.framing r a 0 = none → (x.port 0).drop = false → s.elemRoom r a x m = true →
    x.head 0 = some t → t.kind = 0 → g.outReady a 0 = true →
    exec (.memoryActorLoad r a) s = becomes ((s.modActor r a fun x => x.takeTracked 0).modGen r a fun m =>
      { m with pass := true, pos := 0 }) r) ∧
  (∀ m, x.body = .memory m → m.store = false → m.held = [] → m.pass = true → m.pos < m.total → g.active x = true →
    x.srcCut = false → s.elemRoom r a x m = true → g.outReady a 0 = true →
    exec (.memoryActorLoad r a) s = becomes ((s.pushElem r a g x m (m.va m.pos) none).modGen r a fun m =>
      { m with pos := m.pos + 1 }) r) ∧
  (∀ m t, x.body = .memory m → m.store = true → m.indexed = false → g.active x = true → m.eos = none → s.framing r a 0 = none →
    (x.port 0).drop = false → s.elemRoom r a x m = true → x.head 0 = some t → t.kind = 0 →
    g.outsFree a (s.engineNamed g a x).2 = true →
    exec (.memoryActorStore r a) s = becomes ((s.modActor r a fun x => x.takeTracked 0).storeNext r a g x m t) r) ∧
  (∀ m err, x.body = .memory m → m.eos = some err → g.active x = true → s.streamSettled r a x m = true →
    g.outsFree a (s.engineNamed g a x).2 = true →
    let u := (s.modGen r a fun m => { m with eos := none, strm := 0, pos := 0, enabled := false }).eosAll r a err
      (s.engineNamed g a x).2
    exec (.memoryActorEosForward r a) s = becomes
      (if m.self then u.modRegion r fun g => g.sendDone (.actor a) (m.first + m.span - 1) else u) r)

/-- R384, R309: LSTR runs on the segment's lanes between element groups; ABRUN runs one vector at a turn and ends after the last,
a vector that faults or has no scale giving zeros; each is taken from the command input when its operands fit and, for ABRUN, its charge is covered.
R97, R98, R108, R111, R112, R113: an abacus actor takes a burst of i0 token by token and a null, EOS or error in place, a header
off a burst channel with code 0x05; its answers leave on o0 in order. A load that completes fills the shadow and answers; a pending
swap exchanges the planes whole at a burst boundary and answers. A configuration token inside a burst is taken and waits for the
boundary; at a boundary the shadow loads the image of the oldest such, else of the one at the head of i0, which is swapped in once it
is there; a bad one is refused. The model's own choices in it: notes/assumptions/41.md, 45.md. -/
def Obligations.CommandsAtUnits : Prop :=
  (∀ (s : State) (r a : Nat) (g : Region) (x : Actor),
  s.region r = some g → g.actor a = some x →
  (∀ k c h num xa da ya l u m, s.unitCmd r a = some (k, c) → decodeCommand c.w = some (h, .lstr num xa da ya) →
    x.body = .lane l → g.actor c.actor = some u → (s.tile x.tile).drained l = true → s.cmdWaits c = false →
    laneStream u (s.tile u.tile) xa da ya = some m →
    ∀ w, s.runStream r a k c x l m = some w → exec (.lstr r a) s = becomes w r) ∧
  (∀ i by_ w fo h num xa da ya l u m, s.unitCmd r a = none → g.active x = true → g.nextCommand a x = some (.cmd i by_ w fo) →
    opOf w = 8 → decodeCommand w = some (h, .lstr num xa da ya) → x.body = .lane l → g.actor i = some u →
    laneStream u (s.tile u.tile) xa da ya = some m →
    let own := decide (num.toNat = s.segNumber x.tile l)
    (m.misfit g a (s.tile x.tile) l own = false → exec (.lstr r a) s = becomes (s.takeUnit r a i w) r) ∧
    (m.misfit g a (s.tile x.tile) l own = true → exec (.lstr r a) s = becomes (s.refuseUnit r a i w 0x21 (opOf w)
      (w.extractLsb' 0 64) (refusedBytes u (s.tile u.tile) (.lstr num xa da ya))) r)) ∧
  (∀ k c h xa da sc b p u, s.unitCmd r a = some (k, c) → decodeCommand c.w = some (h, .abrun xa da sc) → x.abacus = some b →
    b.active = some p → g.actor c.actor = some u → s.cmdWaits c = false →
    let xt := (tensorAt (s.tile u.tile) xa.toNat).1
    let dt := (tensorAt (s.tile u.tile) da.toNat).1
    (xt.n1 * xt.n2 ≤ c.pos → exec (.abrun r a) s = becomes (s.dropCmd k) r) ∧
    (∀ w, c.pos < xt.n1 * xt.n2 → s.runOne r a k c x p xt dt sc.toNat = some w → exec (.abrun r a) s = becomes w r)) ∧
  (∀ i by_ w fo h xa da e b p u, s.unitCmd r a = none → g.active x = true → g.nextCommand a x = some (.cmd i by_ w fo) → opOf w = 9 →
    decodeCommand w = some (h, .abrun xa da e) → x.abacus = some b → g.actor i = some u → x.atBoundary = true →
    b.outq = [] → b.active = some p → u.tensorOk (s.tile u.tile) xa.toNat = true → u.tensorOk (s.tile u.tile) da.toNat = true →
    let xt := (tensorAt (s.tile u.tile) xa.toNat).1
    p.reck.fits xt (tensorAt (s.tile u.tile) da.toNat).1 = true →
    ∀ s1, s.chargeCommand r i by_ (p.reck.charge (xt.n1 * xt.n2)) = some s1 →
      exec (.abrun r a) s = becomes (s1.takeUnit r a i w) r) ∧
  (∀ k sc es, let out := k.run (k.mantissas es)
    (sc = 0xFF ∨ k.scaleOut sc < 0 ∨ 254 < k.scaleOut sc → runVector k sc es = (List.replicate k.nout 0, some 0x24, none, [])) ∧
    (sc ≠ 0xFF → 0 ≤ k.scaleOut sc → k.scaleOut sc ≤ 254 →
      (∀ q, out.fault = some q → runVector k sc es = (List.replicate k.nout 0, some 0x31, some q, out.sticky)) ∧
      (out.fault = none → runVector k sc es = (k.outputs out, none, none, out.sticky))))) ∧
  (∀ (s : State) (r a : Nat) (g : Region) (x : Actor) (b : Abacus),
  s.region r = some g → g.actor a = some x → x.body = .abacus b →
  let took := s.modActor r a fun x => x.takeTracked 0
  (∀ t, g.active x = true → (x.atBoundary = true → b.config = [] ∧ x.configHead = none ∧ b.shState ≠ .swapPending) →
    s.unitBusy r a = false → (x.port 0).drop = false → b.outq = [] → g.outReady a 0 = true → s.framing r a 0 = none → x.head 0 = some t →
    (t.kind = 3 → burstType (g.inType a 0) = true →
      exec (.abacusInputBurst r a) s = becomes (took.modAbacus r a fun b => { b with part := [] }) r) ∧
    (t.kind = 3 → burstType (g.inType a 0) = false →
      exec (.abacusInputBurst r a) s = becomes (took.errorAt r a (chanField (g.chanTo a 0)) 0 0x05 0) r) ∧
    (t.kind = 0 → exec (.abacusInputBurst r a) s = becomes (s.abData r a g x b t) r) ∧
    (t.kind = 1 → exec (.abacusInputBurst r a) s = becomes (took.sendOn r a 0 1 [0]) r) ∧
    (t.kind = 2 → exec (.abacusInputBurst r a) s = becomes (took.sendEos r a 0 t.eosErr) r) ∧
    (t.kind = 4 → exec (.abacusInputBurst r a) s = becomes (took.sendOn r a 0 4 t.payload) r)) ∧
  (∀ t l, b.outq = t :: l → g.outReady a 0 = true → x.holdsNone = true → x.cut = .run →
    exec (.abacusVectorOutput r a) s = becomes ((s.modAbacus r a fun b => { b with outq := l }).sendOn r a 0 t.kind t.payload) r) ∧
  (b.shState = .loading → x.cut = .run → s.unitBusy r a = false →
    let va := (b.shadow.map (·.va)).getD 0
    (∀ u p, s.loadImage r a g x va.toNat = (u, .loaded p) →
      let b1 : Abacus := { b with shadow := some p, shState := .loaded, owedLoad := none, fault := none }
      (b.cfgLoad = true → exec (.abacusLoadComplete r a) s = becomes (u.configDone r a (some p)) r) ∧
      (b.cfgLoad = false → b.owedLoad = none → exec (.abacusLoadComplete r a) s = becomes (u.modAbacus r a fun _ => b1) r) ∧
      (∀ o, b.cfgLoad = false → b.owedLoad = some o → exec (.abacusLoadComplete r a) s = becomes
        ((u.modAbacus r a fun _ => b1).answer r o (b1.reply 0 0 p.reck.len (BitVec.ofNat 64 p.reck.beads))) r)) ∧
    (∀ u st d, s.loadImage r a g x va.toNat = (u, .refused st d) →
      exec (.abacusLoadComplete r a) s = becomes (u.abRefuse r a g x va st d) r)) ∧
  (b.shState = .swapPending → x.atBoundary = true → x.cut = .run → s.unitBusy r a = false →
    let b1 : Abacus := { b with
      active := b.shadow, shadow := b.active, shState := if b.active.isSome then .loaded else .empty, owedSwap := none }
    exec (.abacusSwapEffect r a) s = becomes (match b.owedSwap with
      | some o => (s.modAbacus r a fun _ => b1).answer r o (b1.reply 1 0 0 0)
      | none => s.modAbacus r a fun _ => b1) r) ∧
  (∀ t, g.active x = true → x.atBoundary = false → x.head 0 = some t → t.kind = 5 → t.subtype = 4 →
    exec (.abacusConfigToken r a) s = becomes ((s.modActor r a fun x => x.popPort 0).modAbacus r a fun b =>
      { b with config := b.config ++ [t.payload] }) r) ∧
  (∀ c, g.active x = true → x.atBoundary = true → s.unitBusy r a = false → b.shState ≠ .swapPending → b.shState ≠ .loading →
    ((∃ l, b.config = c :: l) ∨
      b.config = [] ∧ ∃ t, x.head 0 = some t ∧ t.kind = 5 ∧ t.subtype = 4 ∧ t.payload = c) →
    let va := c.getD 1 0
    let bad := (∃ v ∈ c.drop 2, v ≠ 0) ∨ va.toNat % 8 ≠ 0
    (bad → exec (.abacusConfigToken r a) s = becomes (s.configRefused r a x g va 2) r) ∧
    (¬ bad → exec (.abacusConfigToken r a) s = becomes (s.modAbacus r a fun b =>
      { b with shadow := some { va := va }, shState := .loading, cfgLoad := true, fault := none }) r)))

/-! ### The front end and the display -/

/-- R172, R9, R176, R407, R178, R173, R331, R179: the front end. A doorbell replaces a queue's tail and notes its order; a
configuration write is ignored while the queue is enabled, keeps no reserved bit, and enables a queue that is in order. A selection
takes the first head, from the highest priority, that can go. A request at the launch port becomes a launch held for the front
end, or is answered with code 0x27. A load's search ends with the origin found; a launch whose given origin lies outside its slice
ends with status 2. A load whose search is over completes; a launch past its quantum is cut for one of higher priority. A register
of a queue answers at its slice's own page.
R211 to R214, R3, R252: a frame start scans the latest present surface, counts the frame, and gives it to the session or the
write-back surface, or notes a fault; a present token queues its surface; a head's and a session's control registers act as R212
and R214 say, where the page of the slice that owns the die is open; a finished frame goes to its ring, and without space, or where a
write fails, is dropped with the next a key frame, the session's rate state and references being free values.
The model's own choices in it: notes/assumptions/52.md, 53.md, 54.md, 55.md, 57.md, 58.md, 70.md, 100.md. -/
def Obligations.FrontEndAndDisplay : Prop :=
  (∀ (s : State) (n q k : Nat) (v : Word) (c : Dw),
  let u := (s.slice n).queue q
  let kept := c &&& 0x0000FFFFFFE00003
  (q < 64 → s.pageAdmits n = true → exec (.qdbWrite n q v) s = .next (s.setSlice n
    ({ s.slice n with stamp := (s.slice n).stamp + 1 }.setQueue q (u.doorbell v ((s.slice n).stamp + 1))))) ∧
  (∀ o, (u.doorbell v o).db = v ∧ (u.doorbell v o).head = u.head ∧ (u.doorbell v o).bells = u.ring v o) ∧
  (q < 64 → s.pageAdmits n = true → exec (.qcfgWrite n q c) s = .next (s.modQueue n q fun u => u.configure (s.slice n) c)) ∧
  (s.pageAdmits n = false → exec (.qdbWrite n q v) s = .next s ∧ exec (.qcfgWrite n q c) s = .next s) ∧
  (u.on = true → u.configure (s.slice n) c = u) ∧
  (u.on = false → c.getLsbD 0 = false → u.configure (s.slice n) c = { u with cfg := kept }) ∧
  (u.on = false → c.getLsbD 0 = true → (u.configOk (s.slice n) c = true →
      u.configure (s.slice n) c = { u with cfg := kept, stat := 0, head := u.db, bells := [] }) ∧
    (u.configOk (s.slice n) c = false →
      u.configure (s.slice n) c = { u with cfg := kept &&& ~~~1, stat := u.stat ||| 4 })) ∧
  (∀ p h w, (s.slice n).on = true → p ≤ 255 → firstAt (s.slice n).heads p = some h → s.takeHead n h = some w →
    (∀ p' h', p < p' → firstAt (s.slice n).heads p' = some h' → s.takeHead n h' = none) →
    exec (.frontEndSelect n) s = .next w) ∧
  (∀ r ch g ca t rest a x, s.region r = some g → g.chan ch = some ca → ca.dst = .launch → ca.q = t :: rest →
    ca.fromActor = some a → g.actor a = some x →
    let s1 := s.setRegion r (g.setChan ch { ca with q := rest })
    (∀ why, requestReason t = some why → exec (.launchPortRequest r ch) s =
      becomes (s1.sendError r a (errPayload g.asid 0xFF x.tile x.slot why 0x27 (t.dw 0))) r) ∧
    (requestReason t = none → ∃ l : Launch, l.asid = g.asid ∧ l.image = t.dw 0 ∧ l.arg = t.dw 1 ∧ l.imm = t.dw 2 ∧
      l.order = stampOrder ((s.slice g.slice).stamp + 1) ∧
      exec (.launchPortRequest r ch) s = becomes (s1.setSlice g.slice { s.slice g.slice with
        fabric := (s.slice g.slice).fabric + 1, stamp := (s.slice g.slice).stamp + 1
        waiting := (s.slice g.slice).waiting ++ [{ launch := l, stamp := l.order }] }) r)) ∧
  (∀ l va asid m, s.loads[k]? = some l → l.slice = n → l.found = false → s.searchBehind n l = false → s.loadVa l = .ok (va, asid) →
    s.readImage (s.slice n).firstDie asid va.toNat = .ok m →
    let given := if l.any then none else some (l.ox, l.oy)
    (l.launch = none → m.refusals s n asid va.toNat given = [] →
      exec (.placementSearch n k) s = .next (s.setLoad k { l with
        found := true, spot := if l.any then m.search s (m.entries s (s.slice n).firstDie asid) n else given })) ∧
    (∀ w, l.launch = some w → l.any = false → m.headerErrs va.toNat = [] →
      s.rectOk n l.ox l.oy m.region.w m.region.h = false →
      exec (.placementSearch n k) s = .next ((s.dropLoad k).refuseLaunch n w 2 0)) ∧
    (∀ w, l.launch = some w → l.any = true → m.refusals s n asid va.toNat none = [] → m.tooLarge s n = true →
      exec (.placementSearch n k) s = .next ((s.dropLoad k).refuseLaunch n w 5 0)) ∧
    (∀ w s1 p, l.launch = some w → l.any = true → m.refusals s n asid va.toNat none = [] → m.tooLarge s n = false →
      s.searchEvict m n asid none true (s.regions.length + 1) = (s1, some p) →
      exec (.placementSearch n k) s = .next (s1.setLoad k { l with found := true, spot := some p }))) ∧
  (∀ l, s.loads[k]? = some l → l.found = true →
    exec (.cfgloadLoadComplete k) s = .next (if l.restore then s.finishRestore k l else s.finishLoad k l)) ∧
  (∀ w, s.preempt n = some w → exec (.quantumPreempt n) s = .next w ∧ ∃ r, w = s.beginCut r .frontEnd)) ∧
  (∀ (s : State) (die k : Nat) (v : Dw),
  let d := s.die die
  (let h := d.head k
   let surface := (h.pending.getLast?).orElse fun _ => h.surface
   let h1 : Head := { h with
     frames := h.frames + 1, frame := h.frame + 1, pending := [], surface := surface
     replaced := h.replaced + BitVec.ofNat 16 (h.pending.length - 1) }
   let done (u : State) (h : Head) : State := u.modDie die fun d => d.setHead k h
   let toEnc (u : State) : State := u.modDie die fun d => d.setSession (dwAt h.dctl 2 2)
     ((d.session (dwAt h.dctl 2 2)).give d.eqt)
   h.on = true → h.cut = none → h.dper ≠ 0 → h.dt0.toNat + h.frame * h.dper.toNat ≤ d.eqt.toNat →
   (surface = none → h.dctl.getLsbD 1 = false → exec (.displayFrameStart die k) s = .next (toEnc (done s h1))) ∧
   (∀ va u l, surface = some va → s.scan die h va.toNat h.height = (u, some l) →
     (h.dctl.getLsbD 1 = false → exec (.displayFrameStart die k) s = .next (toEnc (done u h1))) ∧
     (h.dctl.getLsbD 1 = true → exec (.displayFrameStart die k) s =
       .next (done (u.writeBack die h h.dwb.toNat l).1 { h1 with fault := h1.fault || !(u.writeBack die h h.dwb.toNat l).2 }))) ∧
   (∀ va u, surface = some va → s.scan die h va.toNat h.height = (u, none) →
     exec (.displayFrameStart die k) s = .next (toEnc (done u { h1 with fault := true })))) ∧
  (k < 2 → s.dieAdmits die = true →
    exec (.dctlWrite die k v) s = .next (s.modDie die fun d => d.setHead k ((d.head k).control v d.eqt))) ∧
  (2 ≤ k ∨ s.dieAdmits die = false → exec (.dctlWrite die k v) s = .next s) ∧
  (∀ h : Head, h.on = true → h.control v d.eqt = if v.getLsbD 0 then h else { h with dctl := h.dctl &&& ~~~1 }) ∧
  (∀ h : Head, h.on = false → v.getLsbD 0 = true →
    (v &&& ~~~0x3FFFF = 0 ∧ dwAt h.dgeom 48 2 ≠ 3 →
      h.control v d.eqt = { h with dctl := v &&& 0x3FFFF, frame := h.nextFrame d.eqt, cut := none }) ∧
    (v &&& ~~~0x3FFFF ≠ 0 ∨ dwAt h.dgeom 48 2 = 3 → h.control v d.eqt = { h with dctl := v &&& 0x3FFFF &&& ~~~1 })) ∧
  (∀ r ch g c t rest, s.region r = some g → g.chan ch = some c → c.dst = .head die k → c.q = t :: rest → t.kind = 0 →
    t.payload.length = 1 → exec (.presentToken r ch) s = becomes ((s.modChan r ch fun c => { c with q := rest }).modDie die
      fun x => x.setHead k { x.head k with pending := (x.head k).pending ++ [t.dw 0] }) r) ∧
  (k < 4 → s.dieAdmits die = true → exec (.esctlWrite die k v) s = .next (s.modDie die fun d => d.control k v)) ∧
  (4 ≤ k ∨ s.dieAdmits die = false → exec (.esctlWrite die k v) s = .next s) ∧
  (∀ frame, (d.session k).on = true → (d.session k).coding = true → s.sessionChan die k = none →
    let e := d.session k
    let s1 : State := { s with fresh := s.fresh + 2 }
    (∀ u wrote, frame.length ≤ e.ersize.toNat → e.ersize ≠ 0 →
      s1.ringWrite die (dwAt e.esctl 4 14) e.ering.toNat e.ersize.toNat e.off frame = (u, wrote) →
      ∃ rate refs, exec (.encoderFrameDone die k frame) s = .next (u.modDie die fun d => d.setSession k (if wrote then { e with
          rate := rate, refs := refs, coding := false, coded := e.coded + 1, key := false
          off := (e.off + frame.length) % e.ersize.toNat }
        else { e with rate := rate, refs := refs, coding := false, key := true }))) ∧
    (e.ersize.toNat < frame.length → ∃ rate refs, exec (.encoderFrameDone die k frame) s =
      .next (s1.modDie die fun d => d.setSession k { e with rate := rate, refs := refs, coding := false, key := true }))))

/-! ### Cuts, checkpoints, links and time -/

/-- R227, R229, R230, R215, R253, R386, R363: a cut. A request for a region with a running launch begins one and says so in CUTSTAT;
another is refused there. A solstice at an input, before which no configuration is still to be applied, closes it and takes an actor
in RUN to FINISH; an actor in FINISH with nothing in progress writes its entry, with the commands and work records already delivered
to it, sends its solstices and goes to RECORD, where it records every token that still comes; when all have reported and the region's
heads and sessions have finished, the snapshot is written and the front end frees the region and holds its launch, in its old place,
to resume.
R235, R236: with no launch running and a valid safe tier, a checkpoint is begun with its 96 parts; an engine that is done copies
one of them with its poison, and the copy stays open until every byte is counted. The restore copies each part back. Every byte
of device memory lies in one of the parts. The model's own choices in it: notes/assumptions/59.md, 70.md, 72.md, 100.md. -/
def Obligations.CutsAndCheckpoints : Prop :=
  (∀ (s : State) (r a p : Nat) (g : Region) (v : Word),
  s.region r = some g →
  (let n := r / 65536
   let asked (st : Nat) : State := s.setSlice n { s.slice n with
     cutreq := v, cutstat := BitVec.ofNat 32 (65536 * (v.toNat % 65536) + st) }
   r = regionKey n (v.toNat % 65536) → s.pageAdmits n = true → (s.slice n).cutstat.toNat % 4 ≠ 1 → g.cutBy = none → g.cutWait = none →
   (g.launch ≠ none → exec (.cutreqWrite n v) s = .next ((asked 1).beginCut r (.host n))) ∧
   (g.launch = none → exec (.cutreqWrite n v) s = .next (asked 3))) ∧
  (∀ x t, a < 2 ^ 40 → g.actor a = some x → g.cutBy ≠ none → p < 2 ^ 16 → x.head p = some t → t.kind = 6 →
    (p = 0 → x.abacus.bind x.configNext = none) → g.ingress ≠ some (a, p) →
    exec (.solsticeArrival r a p) s = becomes (((s.modActor r a fun x =>
      x.setPort p { x.port p with q := (x.port p).q.drop 1, closed := true, exp := t.seq }).enterFinish r a).settleCut r) r) ∧
  (∀ x u, g.actor a = some x → x.cut = .finish → s.idle r a x = true →
    let y := { x.recordWaiting with cut := .record }
    s.writeEntry r g a y = .ok u →
    let v := (u.forward r a).modActor r a fun x => { x.recordWaiting with cut := .record }
    exec (.actorSave r a) s = becomes ((if y.recd = [] then v else v.orFault r a (v.writeRecorded g a y)).settleCut r) r) ∧
  (∀ x t l, a < 2 ^ 40 → g.actor a = some x → x.cut = .record → p < 2 ^ 16 → (x.port p).q = t :: l → t.kind ≠ 6 →
    (x.port p).closed = false →
    let y := x.setPort p { x.port p with
      q := l, credits := if (x.port p).resp.isSome then (x.port p).credits - 1 else (x.port p).credits }
    let z : Actor := { y with recd := y.recd ++ [{ port := p, response := (x.port p).resp.isSome, tok := t }] }
    let s1 := s.modActor r a fun _ => z
    exec (.recordToken r a p) s = becomes ((s1.orFault r a (s1.writeRecorded g a z)).settleCut r) r) ∧
  (∀ u l, g.cutBy ≠ none → s.displayDone r = true → g.allCut = true → s.commandsRecorded r g = true → s.storesDone r = true →
    let g1 : Region := { g with cuts := g.cuts + 1 }
    s.writeSnapshot g1 = .ok u → g.haltInCut = false → g.launch = some l →
    let freed := (((((u.setRegion r { g1 with cutBy := none }).cutOver g1 true).keep r { g1 with cutBy := none }).dropPorts r).unplace r)
    exec (.snapshotComplete r) s = becomes (freed.modSlice g.slice fun n =>
      { n with waiting := n.waiting ++ [{ launch := l, saved := some (g.ctxb, g.num), stamp := l.order }] }) r)) ∧
  (∀ (s : State) (base : Nat),
  let begun (back : Bool) : State := { s with
    ckpt := some { base := base, back := back, parts := List.range 96, lacks := s.fitted }, ckptDone := false, ckptBad := [] }
  (s.quiet = true → s.safeTier base = true → s.ckpt = none →
    exec (.checkpointCopy base) s = .next (begun false) ∧ exec (.checkpointRestoreCopy base) s = .next (begun true)) ∧
  (∀ c, s.quiet = true → s.safeTier base = true → s.ckpt = some c → c.base = base → c.parts ≠ [] →
    let s1 : State := { s with fresh := s.fresh + 1 }
    let rest (i : Nat) : PackageCopy := { c with parts := c.parts.erase i, lacks := c.lacks - (partSpan s.fitted i).2 }
    (c.back = false → ∃ i ∈ c.parts, exec (.checkpointCopy base) s = .next { s1.partOut base i with ckpt := some (rest i) }) ∧
    (c.back = true → ∃ i ∈ c.parts,
      exec (.checkpointRestoreCopy base) s = .next { s1.partBack base i with ckpt := some (rest i) })) ∧
  (∀ c, s.ckpt = some c →
    (c.lacks = 0 → exec .checkpointCopyDone s = .next { s with ckpt := none, ckptDone := true }) ∧
    (c.lacks ≠ 0 → exec .checkpointCopyDone s = .next s)) ∧
  (∀ pa, pa < s.fitted → ∃ i, i < 96 ∧ (partSpan s.fitted i).1 ≤ pa ∧ pa < (partSpan s.fitted i).1 + (partSpan s.fitted i).2))

/-- R242, R243: the connection table. A write that sets v installs the entry with RDY clear, or is refused with the first reason of
R242 in CTSTAT; clearing an entry in use is refused with reason 6, and a bulk circuit drains first. Calibration sets RDY, a drained
circuit goes, and CTSTAT bit 31 clears the sticky bit. The management page must be open to the access.
R245, R249, R251: links. A failed flit is counted up to 16 in a row; after that the edge goes down once, and every launch across
it ends; each channel that a link carries in fails when the link goes down, placed or not; one that is enabled and comes up says so; a token that
reaches a link port with room waits there and goes on as far as slots are free; a link that is not enabled does neither.
R167, R168, R250, R247, R255: time and trust. A sync message on a locked die sets its bound and a correction to slew; a lock ends
the unbounded period and may step EQT, once the default connection table is in: each only while the reference chosen is served and a
ready narrow circuit brings it to the die, with a bound that holds of the reference and keeps within R168, and else nothing happens. A write of TROOT leaves every die unlocked. An integrity failure of a locked or
running interface stops its slice, and a change of state, of which the recovery state has none, measures the slice again.
The model's own choices in it: notes/assumptions/60.md, 62.md, 63.md, 64.md, 68.md, 100.md. -/
def Obligations.ConnectionsLinksAndTime : Prop :=
  (∀ (s : State) (e : Nat) (v : Dw) (w : Word),
  let old := s.entry e
  let open_ (x : Dw) : Prop := entV x = true → s.frozenDie (entA x) = false ∧ s.frozenDie (entB x) = false
  (e < 256 → s.mgmtAdmits = true → open_ old → open_ v →
    (entV v = true → s.refuseEntry e v = none →
      let u := s.setEntry e (v &&& 0xBFFFFFFFFFFFFFFF)
      exec (.connectionEntryWrite e v) s = .next { u with draining := sset false s.draining e false }) ∧
    (∀ why, entV v = true → s.refuseEntry e v = some why → exec (.connectionEntryWrite e v) s = .next
      { s with ctEntry := BitVec.ofNat 8 e, ctReason := BitVec.ofNat 3 why, ctSticky := true }) ∧
    (entV v = false → entV old = true → s.circuitUsed e old = true → exec (.connectionEntryWrite e v) s = .next
      { s with ctEntry := BitVec.ofNat 8 e, ctReason := 6, ctSticky := true }) ∧
    (entV v = false → entV old = true → s.circuitUsed e old = false → entBulk old = true →
      let u := s.setEntry e (old &&& 0xBFFFFFFFFFFFFFFF)
      exec (.connectionEntryWrite e v) s = .next { u with draining := sset false s.draining e true })) ∧
  (entV old = true → entRdy old = false → sget false s.draining e = false →
    exec (.circuitCalibrated e) s = .next (s.setEntry e (old ||| 0x4000000000000000))) ∧
  (sget false s.draining e = true →
    let u := s.setEntry e (old &&& 0x7FFFFFFFFFFFFFFF)
    exec (.bulkCircuitDrain e) s = .next { u with draining := sset false s.draining e false }) ∧
  (s.mgmtAdmits = true → exec (.ctstatWrite w) s = .next (if w.getLsbD 31 then { s with ctSticky := false } else s)) ∧
  (s.mgmtAdmits = false → exec (.connectionEntryWrite e v) s = .next s ∧ exec (.ctstatWrite w) s = .next s)) ∧
  (∀ (s : State) (e k n : Nat) (tok : List Dw) (sb : BitVec 16),
  (e < 10 → exec (.flitReplay e) s = .next { s with replays := sset 0 s.replays e (min 16 (sget 0 s.replays e + 1)) }) ∧
  (16 ≤ sget 0 s.replays e → sget false s.edgesDown e = false →
    let hit := s.regions.filterMap fun g => match g.2 with
      | some v => if s.crossesEdge v e && v.launch.isSome then some g.1 else none
      | none => none
    exec (.dieEdgeDown e) s = .next (hit.foldl
      (fun s r => s.endRegion r (BitVec.ofNat 64 (((edgeBlocks[e]?).map (·.1)).getD 0)) 0)
      { s with edgesDown := sset false s.edgesDown e true })) ∧
  ((s.link k).up = true →
    let s1 := s.setLink k { s.link k with cfg := (s.link k).cfg ^^^ 0x100, owed := [] }
    exec (.sisterLinkDown k) s = .next ((s1.linkNumbers k).foldl (fun s n => s.deliverHalf k n)
      ((s1.linkNumbers k).foldl (fun s n => s.failHalf k n) s1))) ∧
  (k < 8 → (s.link k).enabled = true →
    exec (.sisterLinkUp k) s = .next (s.setLink k { s.link k with cfg := (s.link k).cfg ||| 0x100 })) ∧
  ((s.link k).enabled = false → exec (.sisterLinkUp k) s = .next s ∧ (tok ≠ [] → exec (.linkChannelToken k n tok sb) s = .next s)) ∧
  (tok ≠ [] → (s.link k).enabled = true → (s.link k).up = true → (s.link k).pkg = false →
    (sget [] (s.link k).recv n).length < 256 →
    exec (.linkChannelToken k n tok sb) s = .next ((s.setLink k { s.link k with
      recv := sset [] (s.link k).recv n (sget [] (s.link k).recv n ++
        [{ kind := sb.extractLsb' 12 4, seq := sb.extractLsb' 0 12, payload := tok }])
      nexts := sset none (s.link k).nexts n (some (sb.extractLsb' 0 12 + 1)) }).deliverHalf k n))) ∧
  (∀ (s : State) (d n : Nat) (fwd : Bool) (step : Nat) (eqt eqe : Dw) (v : Word) (st : TdiState),
  let off : Int := ((s.die d).eqt - s.ref).toInt
  let c : Int := if fwd then (step : Int) else -(step : Int)
  let ok := s.timeReaches d = true ∧ s.boundOk d eqe = true
  (((s.die d).locked = true ∧ ok ∧ off.natAbs ≤ eqe.toNat ∧ (off + c).natAbs ≤ eqe.toNat →
      exec (.equinoxSyncMessage d fwd step eqe) s = .next (s.modDie d fun d => { d with eqe := eqe, holdover := 0, slew := c })) ∧
    (¬ ((s.die d).locked = true ∧ ok ∧ off.natAbs ≤ eqe.toNat ∧ (off + c).natAbs ≤ eqe.toNat) →
      exec (.equinoxSyncMessage d fwd step eqe) s = .next s)) ∧
  ((s.set = true ∧ (s.die d).locked = false ∧ ok ∧ (eqt - s.ref).toInt.natAbs ≤ eqe.toNat → exec (.equinoxLock d eqt eqe) s = .next (s.modDie d fun d =>
      { d with eqt := eqt, eqe := eqe, locked := true, holdover := 0, slew := 0 })) ∧
    (¬ (s.set = true ∧ (s.die d).locked = false ∧ ok ∧ (eqt - s.ref).toInt.natAbs ≤ eqe.toNat) → exec (.equinoxLock d eqt eqe) s = .next s)) ∧
  (s.boundOk d eqe = true → eqe.toNat ≤ 192 ∧ ∀ j, j < 8 → j ≠ d → (s.die j).updated = true → eqe.toNat + (s.die j).eqe.toNat ≤ 192) ∧
  (s.mgmtAdmits = true → ∃ u, exec (.trootWrite v) s = .next u ∧ u.troot = v &&& 0x3F ∧
    (timeSource v = 0 → u.ref = s.ioClock) ∧
    (∀ j, swf ({} : Die) s.dies = true → j < 8 → (u.die j).locked = false ∧ (u.die j).eqe = 0xFFFFFFFFFFFFFFFF)) ∧
  (s.mgmtAdmits = false → exec (.trootWrite v) s = .next s) ∧
  ((s.slice n).tdi = .locked ∨ (s.slice n).tdi = .run → exec (.ideIntegrityFailure n) s =
    .next (((s.modSlice n fun n => { n with tdi := .error }).stopSlice n).remeasure n)) ∧
  (s.recovery = true → exec (.tdiStateChange n st) s = .next s) ∧
  (s.recovery = false → (s.slice n).tdi ≠ st → exec (.tdiStateChange n st) s = .next ((s.modSlice n fun n => { n with tdi := st }).remeasure n)))

/-! ### The package -/

/-- R252, R253, R129, R143, R44, R9: slices and management registers. A descriptor that fits beside the others takes effect; on an
enabled slice only a clear of its enable acts: it stops the slice, whose dies are then a former slice's. Such a die is zeroed. An invalidation starts with
TINV1 and ends when its accesses are performed. A hotness window's counters read and clear in one step. The handler range of a
tile changes where it meets no resident window, and TRDATA reads and writes the bytes in it and advances. Each register takes an
access only by a function that its page is open to (R246 to R248, log entry 100): else a write changes nothing and a read answers zero.
R254, R255, R256, R257, R258, R259, R260: bring-up and the package as a whole. Power-good starts stage 0; each stage runs after the
one before, measured into its register first; stage 1 derives the alias key, stage 3 takes the configuration record, trains the
memories and installs the default table, and stage 4 waits for the time lock and measures every enabled slice, its register extended anew from zero. An image that does not
verify, and a record that is none or whose values disagree, enter the recovery state, BOOTSTAT naming the stage, from which only a
verified recovery image leads; enumeration needs PERST# released and stage 4 or recovery. A verified debug response resets the package with debug unlocked,
after which the clocks can be frozen. Every SPDM request is answered. Throttling lowers a die's clock no lower than the record's
limit, and a shutdown stops the package. What a record's bytes mean and whether training succeeds are free values (log entry 99).
The model's own choices in it: notes/assumptions/65.md, 66.md, 69.md, 84.md, 85.md, 86.md, 99.md, 100.md. -/
def Obligations.ManagementAndBringUp : Prop :=
  (∀ (s : State) (n j : Nat) (d : BitVec 128) (v : Dw) (reg : MgmtReg),
  (n < 8 → s.mgmtAdmits = true → (s.slice n).frozen = false → (s.slice n).on = false →
    let new : Slice := { s.slice n with desc := d &&& 0xFFFF03FF }
    (s.refuseDesc n new = false → exec (.sldescWrite n d) s = .next
      (if new.on then (s.setSlice n new).remeasure n else s.setSlice n new)) ∧
    (s.refuseDesc n new = true → exec (.sldescWrite n d) s = .next s)) ∧
  (n < 8 → (s.slice n).frozen = false → (s.slice n).on = true → d.getLsbD 8 = true → exec (.sldescWrite n d) s = .next s) ∧
  (n < 8 → s.mgmtAdmits = true → (s.slice n).frozen = false → (s.slice n).on = true → d.getLsbD 8 = false →
    let s1 := (s.stopSlice n).modSlice n fun x => { x with desc := x.desc &&& 0xFFFF02FF }
    exec (.sldescWrite n d) s = .next ((List.range 8).foldl
      (fun u j => if (s.slice n).hasDie j then u.modDie j fun x => { x with former := some n } else u) s1)) ∧
  (s.mgmtAdmits = false → exec (.sldescWrite n d) s = .next s) ∧
  (s.pageAdmits n = false → exec (.tinv0Write n v) s = .next s ∧ exec (.tinv1Write n v) s = .next s) ∧
  (s.dieAdmits j = false → exec (.hwcntRead j) s = .next { s with reply := [0] } ∧ exec (.trdataRead j) s = .next { s with reply := [0] } ∧
    exec (.trresWrite j v) s = .next s ∧ exec (.trdataWrite j v) s = .next s) ∧
  ((s.die j).former ≠ none → s.sliceOfDie j = none → ∃ u, exec (.dieStateCleared j) s = .next u ∧
    (∀ c ∈ u.mem, ¬ (c.1 < 2 ^ 40 ∧ homeDie c.1 = j)) ∧ (∀ c ∈ s.mem, ¬ (c.1 < 2 ^ 40 ∧ homeDie c.1 = j) → c ∈ u.mem)) ∧
  (s.pageAdmits n = true → exec (.tinv0Write n v) s = .next (s.modSlice n fun n =>
    if n.tinvDone then { n with tinv0 := v &&& 0x803FFFFFFFFFFFFF } else { n with tinvRefused := true })) ∧
  (s.pageAdmits n = true → (s.slice n).tinvDone = true → (s.slice n).hasAsid (dwAt (s.slice n).tinv0 40 14) = true → exec (.tinv1Write n v) s =
    .next (s.setSlice n { s.slice n with tinvPages := v.extractLsb' 0 32, tinvDone := false })) ∧
  ((s.slice n).tinvDone = false → (∀ t ∈ s.tiles, ∀ a ∈ t.2.port, a.pas = [] ∨ a.performed 2 = true) →
    exec (.tinvDone n) s = .next (((List.range 8).foldl (fun u d => if (s.slice n).hasDie d then u.modDie d fun x =>
      { x with tlb := x.tlb.filter fun e => !(s.slice n).invalidates e.asid e.page } else u) s).setSlice n
        { s.slice n with tinvDone := true })) ∧
  (s.dieAdmits j = true →
   let t := s.hwTile j
   let k := s.hwWin j
   let w := (s.tile t).win k
   let u := s.modTile t fun u => { u with hot := sset {} u.hot k { w with delivered := 0, starved := 0 } }
   exec (.hwcntRead j) s = .next { u with reply := [packDw [(w.delivered.toNat, 0), (w.starved.toNat, 32)]] }) ∧
  (s.dieAdmits j = true → (s.die j).trsel.getLsbD 31 = false →
    let t := tileInDie j (s.die j).trsel.toNat
    let base := v.extractLsb' 0 13
    let limit := v.extractLsb' 16 13
    let at_ := (s.die j).traddr.toNat
    let inside := within at_ 8 (64 * (s.tile t).hrBase.toNat) (64 * (s.tile t).hrLimit.toNat)
    let next (u : State) : State := u.modDie j fun d => { d with traddr := (d.traddr + 8) &&& 0x3FFF8 }
    (base.toNat ≤ 4096 → limit.toNat ≤ 4096 → exec (.trresWrite j v) s = .next
      (if s.meetsWindow t base.toNat limit.toNat then s else s.modTile t fun u => { u with hrBase := base, hrLimit := limit })) ∧
    exec (.trdataRead j) s =
      .next { next s with reply := [if inside then BitVec.ofNat 64 ((s.tile t).load at_ 8) else 0] } ∧
    (inside = true → exec (.trdataWrite j v) s = .next (next (s.modTile t fun u =>
      if within at_ 8 (64 * u.hrBase.toNat) (64 * u.hrLimit.toNat) then u.setBytes at_ (dwBytes v) else u)))) ∧
  exec (.registerWrite reg d) s = .next (if s.regAdmits reg then s.writeReg reg d else s) ∧
  (∀ m, (s.writeReg (.fwin m) d) = if 1 ≤ (d.setWidth 32).toNat ∧ (d.setWidth 32).toNat ≤ 10000 then
    s.modSlice m fun x => { x with fwin := d.setWidth 32 } else s)) ∧
  (∀ (s : State) (stage fn j mhz : Nat) (l : List Byte) (v : Word),
  (s.powered = false → exec .powerGood s = .next { s with powered := true, stage := 0, failure := 0 }) ∧
  (s.powered = true → s.recovery = false → stage = s.stage.toNat + 1 →
    let s1 := s.extend (stage - 1) (Sys2Proof.Config.sha3 l)
    let s3 : State := { s1 with stage := 3 }
    (stage < 4 → exec (.bootStage stage l false) s = .next (s1.bootFails stage).enumerate) ∧
    (stage = 1 → exec (.bootStage stage l true) s = .next (State.enumerate
      { s1 with stage := 1, aliasKey := Sys2Proof.Config.aliasKey (sget 0 s1.meas 0) })) ∧
    (stage = 2 → exec (.bootStage stage l true) s = .next (State.enumerate { s1 with stage := 2 })) ∧
    (stage = 3 → ∀ r, Sys2Proof.Config.bootRecord l = some r →
      (recordOk r = true → exec (.bootStage stage l true) s = .next (State.enumerate
        { (s3.configure r).train.dropUntrained with conn := defaultConn, draining := [] })) ∧
      (recordOk r = false → exec (.bootStage stage l true) s = .next (s1.bootFails stage).enumerate)) ∧
    (stage = 3 → Sys2Proof.Config.bootRecord l = none → exec (.bootStage stage l true) s = .next (s1.bootFails stage).enumerate) ∧
    (stage = 4 → (∃ d, d < 8 ∧ (s.die d).trained = true ∧ (s.die d).locked = false) → exec (.bootStage stage l true) s = .next s) ∧
    (stage = 4 → (∀ d, d < 8 → (s.die d).trained = true → (s.die d).locked = true) → ∃ u,
      exec (.bootStage stage l true) s = .next (State.enumerate u) ∧ u.stage = 4 ∧ u.regions = s.regions ∧ u.mem = s.mem ∧
      (swf 0 s.meas = true → ∀ n, n < 8 → sget 0 u.meas (8 + n) = if (s.slice n).on then
        Sys2Proof.Config.sha3 (digestBytes 0 ++ digestBytes (Sys2Proof.Config.sha3 (s.sliceImage n))) else sget 0 s.meas (8 + n))) ∧
    (swf 0 s.meas = true → sget 0 s1.meas (stage - 1) =
      Sys2Proof.Config.sha3 (digestBytes (sget 0 s.meas (stage - 1)) ++ digestBytes (Sys2Proof.Config.sha3 l)))) ∧
  (∀ r, (s.configure r).qm900 = r.module_ ∧ (s.configure r).fitted = r.fitted ∧ (s.configure r).limits.dvfsLow = r.dvfsLow ∧
    (s.configure r).limits.dvfsHigh = r.dvfsHigh ∧
    (∀ n, n < r.slices.length → ((s.configure r).slice n).desc = r.slices.getD n 0)) ∧
  (∃ c u, s.bootFails stage = { u with failure := c, recovery := true, stage := BitVec.ofNat 4 stage } ∧ c ≠ 0 ∧ u = s.free.2) ∧
  (s.recovery = true → l ≠ [] →
    exec (.recoveryImage l true) s = .next { s with recovery := false, failure := 0, stage := 0, enumerated := false } ∧
    exec (.recoveryImage l false) s = .next s) ∧
  exec .perstRelease s = .next (State.enumerate { s with perst := true }) ∧
  s.enumerate = (if s.perst = true ∧ (s.recovery = true ∨ s.stage = 4) then { s with enumerated := true } else s) ∧
  (s.recovery = false → ∃ u, exec (.debugUnlock true) s = .next u ∧ u.debug = true ∧ u.mem = [] ∧ u.regions = [] ∧ u.frz = false) ∧
  (s.recovery = true → exec (.debugUnlock true) s = .next s) ∧
  exec (.debugUnlock false) s = .next s ∧
  exec (.frzWrite v) s = .next (if s.mgmtAdmits = true ∧ s.debug = true ∧ v.getLsbD 0 = true then { s with frz := true } else s) ∧
  exec .freezeInput s = .next (if s.debug = true then { s with frz := true } else s) ∧
  (∀ i code, (i, code) ∈ [(Instr.spdmGetVersion fn l, 0), (Instr.spdmGetCapabilities fn l, 1),
      (Instr.spdmNegotiateAlgorithms fn l, 2), (Instr.spdmGetDigests fn l, 3), (Instr.spdmGetCertificate fn l, 4),
      (Instr.spdmKeyExchange fn l, 7), (Instr.spdmFinish fn l, 8)] → exec i s = .next (s.spdm code fn l [])) ∧
  exec (.spdmChallenge fn l) s = .next (s.spdm 5 fn l (s.blocks fn)) ∧
  (let u := s.spdm 6 fn l (s.blocks fn)
   exec (.spdmGetMeasurements fn l) s = .next (if s.recovery = true ∨ s.presents fn = false then u else { u with
     reply := (s.blocks fn).flatMap (fun m => bytesDws 4 (digestBytes m)) ++ u.reply })) ∧
  (0 < fn → s.blocks fn = [sget 0 s.meas 0, sget 0 s.meas 1, sget 0 s.meas 2, sget 0 s.meas (8 + (fn - 1))]) ∧
  (s.limits.dvfsLow ≤ mhz → mhz ≤ (s.die j).mhz → exec (.thermalThrottle j mhz) s = .next (s.modDie j fun d => { d with mhz := mhz })) ∧
  (mhz < s.limits.dvfsLow → exec (.thermalThrottle j mhz) s = .next s) ∧
  exec .thermalShutdown s = .next { s with stopped := true })

/-! ### The machine as a whole -/

/-- R272, R275 to R285: words written out in the spec, and one of each major group, decode to the instructions they stand for; an
unassigned major, a reserved function and a set field that must be zero are refused. -/
def Obligations.DecodeSamples : Prop :=
  decode 0x00642800 = .ok (.add 3 4 5 false) ∧ decode 0x0043204A = .ok (.sar 2 3 4 true) ∧
  decode 0x1042FFFF = .ok (.addi 2 2 0xFFFF) ∧ decode 0x2CC00010 = .ok (.addpc 6 0x10) ∧ decode 0x28E01234 = .ok (.ldhi 7 0x1234) ∧
  decode 0x0C8531D0 = .ok (.sel 4 5 6 7) ∧ decode 0x0C853991 = .ok (.ins 4 5 7 6) ∧ decode 0x40841FFD = .ok (.br 1 1 0 0x1FFD) ∧
  decode 0x4C000070 = .ok (.call 0x70) ∧ decode 0x501F0000 = .ok (.ret 31) ∧ decode 0x53E90002 = .ok (.callr 31 9) ∧
  decode 0x54000001 = .ok .endrTask ∧ decode 0x6025C010 = .ok (.ldl 1 5 3 false 16) ∧ decode 0x70E56080 = .ok (.atom 7 5 3 0 2 0) ∧
  decode 0x792641A0 = .ok (.futPut 9 6 2 2 2) ∧ decode 0xC4043050 = .ok (.barset 4 6 5) ∧ decode 0xC4040051 = .ok (.baradd 4 5) ∧
  decode 0xE0800310 = .ok (.csrr 4 0x31) ∧ decode 0xE0070034 = .ok (.kwr 7 3) ∧ decode 0xE4800000 = .ok (.time 4) ∧
  decode 0xE8001230 = .ok (.trap 0x123) ∧ decode 0xE8000001 = .ok .eret ∧ decode 0xD4850000 = .ok (.pwreq 4 5) ∧
  decode 0xD8000002 = .ok (.prio 2) ∧ decode 0xFC000000 = .ok .nop ∧
  decode 0xFC000001 = .error .mustBeZero ∧ decode 0x00642880 = .error .mustBeZero ∧ decode 0x00642807 = .error .reservedFunction ∧
  decode 0x30000000 = .error .unassignedMajor ∧ decode 0x43840000 = .error .badField

/-- R275 to R286: decoding and encoding agree. The word of a well-formed instruction decodes to it, with every operand at every
value; and a word that decodes to an instruction is that instruction's only word, so the decoder reads every bit. -/
def Obligations.DecodeEncode : Prop :=
  (∀ (i : Instr) (w : Word), i.wf = true → encode i = some w → decode w = .ok i) ∧
  (∀ (i : Instr) (w : Word), decode w = .ok i → encode i = some w ∧ i.wf = true)

/-- R287, R288, R292, R293: a stream command or lane word that is accepted is the encoding of the fields read from it, so two
accepted words never mean the same and no bit of one is dropped; an unassigned opcode is refused.
The model's own choices in it: notes/assumptions/101.md. -/
def Obligations.CommandAndLaneWords : Prop :=
  (∀ (w : BitVec 128) (h : CmdHead) (c : Command), decodeCommand w = some (h, c) → encodeCommand h c = w) ∧
  (∀ (w : Word) (l : LaneWord), decodeLane w = some l → encodeLane l = w) ∧
  (∀ w : BitVec 128, (w.toNat / 2 ^ 24 % 256 = 0 ∨ 0x0A < w.toNat / 2 ^ 24 % 256) → decodeCommand w = none) ∧
  (∀ w : Word, 0x1D < w.toNat / 2 ^ 26 → decodeLane w = none)

/-- R41, R42, R218, R272: a step of a core. With the clocks running and no turn named, where the bytes at the pc may be fetched,
decode to an instruction and meet no limit, the step is that instruction at the state that has counted it: one more instruction
of the task, or of its handlers in system mode, and nothing else. A named turn is taken in the same way, an event's turn is that
event, and a core without a firing does nothing. A host turn is its event with the function it comes through in hand, for that event
alone (R246); a clock turn moves a die's clock within the record's limits (R3, R257); the turns are the model's (log entry 1).
The model's own choices in it: notes/assumptions/1.md, 85.md. -/
def Obligations.StepRunsDecoded : Prop := ∀ (s : State) (i : Instr), s.frz = false → s.stopped = false →
  (∀ u f, ((s.agenda = [] ∧ u = s) ∨ ∃ t l, s.agenda = .core t :: l ∧ u = { s with focus := t, agenda := l }) →
    (u.firing = none → step s = .next u) ∧
    (u.firing = some f → u.fetchOk = true → (if u.core.sys then f.hcount < 65536 else f.count < 4096 ∧ f.over6 = false) →
      decodeBytes ((u.tile u.focus).bytes u.core.pc.toNat 4) = .ok (i, []) →
      let f' : Firing := if u.core.sys then { f with hcount := f.hcount + 1 } else { f with count := f.count + 1 }
      step s = exec i (u.setCore { u.core with firing := some f' }))) ∧
  (∀ l, s.agenda = .unit i :: l → encode i = none → step s = exec i { s with agenda := l }) ∧
  (∀ fn l, s.agenda = .host fn i :: l → encode i = none → ∀ t, exec i { s with agenda := l, fn := some fn } = .next t →
    step s = .next { t with fn := none }) ∧
  (∀ d mhz l, s.agenda = .dvfs d mhz :: l → step s = .next (State.moveClock { s with agenda := l } d mhz)) ∧
  (∀ d mhz, s.moveClock d mhz = if s.limits.dvfsLow ≤ mhz ∧ mhz ≤ s.limits.dvfsHigh then s.modDie d fun x => { x with mhz := mhz } else s) ∧
  (∀ n l, s.agenda = .elapse n :: l → ∃ t, step s = .next t ∧ t.mem = s.mem ∧ t.tiles = s.tiles ∧ t.regions = s.regions)

/-- R274: the order of traps. A fetch that is not allowed takes trap 0x03 whatever stands there; then an instruction past the
limit trap 0x06, be it an instruction or not; then a word that is no instruction, or that names an unassigned special register,
trap 0x01 with the word; then a privileged instruction or register in graph mode trap 0x02, whatever its operands; then the operand traps 0x03, 0x04 and 0x05;
then 0x08 and 0x09. -/
def Obligations.TrapOrder : Prop := ∀ (s : State) (f : Firing),
  s.frz = false → s.stopped = false → s.agenda = [] → s.firing = some f →
  (s.fetchOk = false → step s = .next (s.takeTrap 3 (s.core.pc.setWidth 64))) ∧
  (s.fetchOk = true → s.core.sys = false →
    (f.over6 = false ∧ 4096 ≤ f.count) ∨ (f.over6 = true ∧ decode s.fetched ≠ .ok .endTask ∧ decode s.fetched ≠ .ok .endrTask) →
    step s = .next (s.takeTrap 6 4096)) ∧
  (s.fetchOk = true → s.limitOf f s.fetched = none →
    (∀ e, decode s.fetched = .error e → step s = .next (s.counted.takeTrap 1 (s.fetched.setWidth 64))) ∧
    (∀ g a c, c.toNat ∉ [0, 1, 2, 3, 4, 5, 0x10, 0x11, 0x12, 0x13, 0x14, 0x15, 0x20, 0x21, 0x30, 0x31, 0x40, 0x41] →
      decode s.fetched = .ok (.csrr g c) ∨ decode s.fetched = .ok (.csrw a c) ∨ decode s.fetched = .ok (.csrx g a c) →
      step s = .next (s.counted.takeTrap 1 s.counted.wordHere)) ∧
    (s.core.sys = false → ∀ i, i ∈ [Instr.eret, .mxsave, .mxrest] → decode s.fetched = .ok i →
      step s = .next (s.counted.takeTrap 2 s.counted.wordHere)) ∧
    (s.core.sys = false → ∀ g a c, c.toNat ∈ [5, 0x10, 0x11, 0x12, 0x13, 0x14, 0x15] →
      decode s.fetched = .ok (.csrr g c) ∨ decode s.fetched = .ok (.csrw a c) ∨ decode s.fetched = .ok (.csrx g a c) →
      step s = .next (s.counted.takeTrap 2 s.counted.wordHere)) ∧
    (∀ g b z x o, decode s.fetched = .ok (.ldl g b z x o) ∨ decode s.fetched = .ok (.stl g b z o) →
      let la := s.counted.reg b + o.signExtend 64
      (s.counted.localOk la.toNat (2 ^ z.toNat) = false → step s = .next (s.counted.takeTrap 3 la)) ∧
      (s.counted.localOk la.toNat (2 ^ z.toNat) = true → la.toNat % 2 ^ z.toNat ≠ 0 →
        step s = .next (s.counted.takeTrap 4 la))) ∧
    (∀ a b, decode s.fetched = .ok (.jtab a b) →
      let v := s.counted.reg a
      let n := (s.counted.tile s.counted.focus).load v.toNat 4 % 65536
      let i := (s.counted.reg b).toNat
      let e := v.toNat + 4 + 4 * i
      (2 ^ 18 ≤ v.toNat → step s = .next (s.counted.takeTrap 5 v)) ∧
      (v.toNat < 2 ^ 18 → v.toNat % 4 ≠ 0 → step s = .next (s.counted.takeTrap 4 v)) ∧
      (v.toNat < 2 ^ 18 → v.toNat % 4 = 0 → i < n → 0x3FFFC < e → step s = .next (s.counted.takeTrap 5 (BitVec.ofNat 64 e)))) ∧
    (decode s.fetched = .ok .brk → step s = .next (s.counted.takeTrap 8 0)) ∧
    (∀ c, decode s.fetched = .ok (.trap c) → step s = .next (s.counted.takeTrap 9 (c.setWidth 64))))

/-- R44, R49, R133, R138, R212, R241, R244, R248, R253: the machine after reset. No task runs anywhere, every core is in graph mode with the
reset values of its registers and no handler range; no slot, region, request or command is held; every future is empty; the
fault window of a slice is 50 ms; heads and sessions are off; the registers of the package page, TINV1, the fault queue, heads,
sessions and handler ranges read as their tables say; the default connection table is installed, one narrow and sixteen
bulk circuits, ready, on each of the ten edges. The state has the canonical form of its maps. Slice 0 and the values of general registers and memory
are the model's choices (notes/assumptions/3.md, 4.md and 5.md).
The model's own choices in it: notes/assumptions/99.md, 100.md. -/
def Obligations.ResetState : Prop := ∀ (t d n k : Nat),
  let s := State.reset
  (s.tile t).core.firing = none ∧ (s.tile t).core.sys = false ∧ (s.tile t).core.bypass = 8 ∧ (s.tile t).core.tstat = 0 ∧
  (s.tile t).core.tcause = 0 ∧ (s.tile t).core.tepc = 0 ∧ (s.tile t).core.tval = 0 ∧ (s.tile t).core.tvec = 0 ∧
  (s.tile t).hrBase = 0 ∧ (s.tile t).hrLimit = 0 ∧ (s.tile t).ranges = [] ∧ (s.tile t).slots = [] ∧ (s.tile t).port = [] ∧
  s.fn = none ∧ s.invs = [] ∧ s.sharers = [] ∧ s.posted = [] ∧ s.dues = [] ∧ s.badMeta = [] ∧ s.rels = [] ∧ s.loads = [] ∧ s.remotes = [] ∧ s.ckpt = none ∧
  s.perst = false ∧ s.enumerated = false ∧ s.recovery = false ∧ s.limits.dvfsLow = 760 ∧ s.limits.dvfsHigh = 1020 ∧
  (∀ r, s.reg r = 0) ∧ s.regions = [] ∧ s.cmds = [] ∧ s.deferred = [] ∧ s.full = [] ∧ s.poison = [] ∧
  ((s.die d).head k).on = false ∧ ((s.die d).session k).on = false ∧ (s.slice n).fwin = 50 ∧ (s.slice n).cutstat = 0 ∧
  (s.slice n).tinvDone = true ∧ ((s.slice n).queue k).on = false ∧ (s.link k).up = false ∧
  s.conn = defaultConn ∧
  (∀ e, e < 170 → entV (s.entry e) = true ∧ entRdy (s.entry e) = true ∧ (entBulk (s.entry e) = true ↔ e % 17 ≠ 0) ∧
    edgeNum (entA (s.entry e)) (entB (s.entry e)) = some (e / 17)) ∧
  (∀ e, 170 ≤ e → s.entry e = 0) ∧
  s.pkgid = 0x900 ∧ s.bootstat = 0 ∧ s.ctstat = 0 ∧ s.frzWord = 0 ∧ s.asidtb = 0 ∧ s.troot = 0 ∧ (s.slice n).tinv1 = 0x8000000000000000 ∧
  (s.slice n).fqcfgWord = 0 ∧ ((s.die d).head k).dstat = 0 ∧ ((s.die d).session k).estat = 0 ∧ (s.tile t).trres = 0 ∧
  (∀ pa, s.rdByte pa = 0) ∧ Memory.wf s.mem ∧ Canon s

/-- R73, R45, R46, R277: what an instruction that computes a value leaves unchanged. Its one destination register changes, or
nothing where that is g0; every other general register, of either bank, keeps its value; the pc goes to the next instruction and
every other register of the core, every scratchpad, all of memory and the rest of the machine stay, but that a float
instruction adds flags to the running actor's FFLAGS. -/
def Obligations.ValueFrame : Prop := ∀ (i : Instr) (d : Reg) (s t : State),
  Canon s → valueDest i = some d ∨ floatDest i = some d → exec i s = .next t →
  (∃ v, t.core = { s.core.setReg d v with pc := s.core.pc + 4 } ∧ (d ≠ 0 → t.reg d = v)) ∧
  t.reg 0 = 0 ∧ (∀ r, r ≠ d → t.reg r = s.reg r) ∧
  (∀ r, 0 < r → r < 32 → (r ≠ d.toNat ∨ (s.core.sys = true ∧ 24 ≤ r)) → sget 0 t.core.g r = sget 0 s.core.g r) ∧
  (∀ r, (r ≠ d.toNat ∨ s.core.sys = false) → sget 0 t.core.sb r = sget 0 s.core.sb r) ∧
  (t.tile s.focus).spad = (s.tile s.focus).spad ∧ (t.tile s.focus).port = (s.tile s.focus).port ∧
  (∀ k, k ≠ s.focus → t.tile k = s.tile k) ∧ t.mem = s.mem ∧ t.full = s.full ∧ t.dies = s.dies ∧ t.slices = s.slices ∧
  (valueDest i = some d → t.regions = s.regions) ∧
  (floatDest i = some d → ∃ fl : BitVec 5, t.regions = (s.modActor s.runner.1 s.runner.2 fun x => { x with fflags := x.fflags ||| fl }).regions)

/-- R45, R46, R273: no scalar instruction writes a general register that its entry does not name, in either bank, whatever comes
of it: a trap, a refused request or the end of the launch leave them all as they were. And but for STL none writes a
scratchpad, of any tile. -/
def Obligations.OnlyNamedRegisters : Prop := ∀ (i : Instr) (w : Word) (s t : State),
  Canon s → decode w = .ok i → exec i s = .next t →
  (∀ r, r ∉ dests i → sget 0 (t.tile s.focus).core.g r = sget 0 (s.tile s.focus).core.g r ∧
    sget 0 (t.tile s.focus).core.sb r = sget 0 (s.tile s.focus).core.sb r) ∧
  (s.core.sys = false → ∀ r, sget 0 (t.tile s.focus).core.sb r = sget 0 (s.tile s.focus).core.sb r) ∧
  (∀ k, k ≠ s.focus → (t.tile k).core.g = (s.tile k).core.g ∧ (t.tile k).core.sb = (s.tile k).core.sb) ∧
  (∀ k, (t.tile k).spad = (s.tile k).spad ∨ (k = s.focus ∧ ∃ g b z o, i = .stl g b z o))

/-- R41, R217: only a trap leads from graph mode to system mode. A scalar instruction that a core runs in graph mode and that
leaves it in system mode has taken a trap with some cause, at its own state. -/
def Obligations.SystemModeByTrap : Prop := ∀ (i : Instr) (w : Word) (s t : State),
  Canon s → decode w = .ok i → s.core.sys = false → exec i s = .next t → (t.tile s.focus).core.sys = true →
  ∃ code v, t = s.takeTrap code v

/-- R6, R130, R43: memory reads back. Bytes written from an address read back from it, every other byte of memory keeps its value,
nothing else of the machine changes and memory keeps its canonical form; and the same of a tile's scratchpad. -/
def Obligations.MemoryReadsBack : Prop := ∀ (s : State) (u : Tile) (pa : Nat) (l : List Byte),
  Memory.wf s.mem → swf (0 : Byte) u.spad = true →
  let t := s.wrBytes pa l
  t.rdBytes pa l.length = l ∧ (∀ a, a < pa ∨ pa + l.length ≤ a → t.rdByte a = s.rdByte a) ∧ Memory.wf t.mem ∧
  t = { s with mem := t.mem } ∧
  (let v := u.setBytes pa l
   v.bytes pa l.length = l ∧ (∀ a, a < pa ∨ pa + l.length ≤ a → v.byte a = u.byte a) ∧ swf (0 : Byte) v.spad = true ∧
   v = { u with spad := v.spad })

/-- Every step keeps memory in its canonical form: addresses strictly rising and no byte listed that reads as an unlisted one, so
that memories which read alike are equal. It holds of every turn, of a core, of a unit or of time (R6, R130; the form is the
model's own, notes/assumptions/3.md). -/
def Obligations.StepKeepsMemoryForm : Prop := ∀ (s t : State), Memory.wf s.mem → step s = .next t → Memory.wf t.mem
end

