-- ==== Sys2Proof/Laws/Maps.lean ====
section
/-! SUPPORT. Laws of sparse maps and of lists changed at one place: a read after a write, writes that leave other keys
alone, and the canonical form that every map operation keeps. -/

namespace Sys2Proof.Machine

variable {α : Type} [DecidableEq α]

/-- A value other than the unlisted one is read back, whatever the map. -/
theorem sget_sset_same_of_ne (d v : α) (h : v ≠ d) (m : Sparse α) (k : Nat) : sget d (sset d m k v) k = v := by
  induction m with
  | nil => simp [sset, sget, h]
  | cons p m ih =>
    obtain ⟨j, u⟩ := p
    by_cases h1 : k = j
    · simp [sset, sget, h1, h]
    · by_cases h2 : k < j
      · simp [sset, sget, h1, h2, h]
      · simp [sset, sget, h1, h2, ih]

/-- Writing a value other than the unlisted one leaves every other key alone, whatever the map. -/
theorem sget_sset_other_of_ne (d v : α) (h : v ≠ d) (m : Sparse α) (k i : Nat) (hi : i ≠ k) :
    sget d (sset d m k v) i = sget d m i := by
  induction m with
  | nil => simp [sset, sget, h, hi]
  | cons p m ih =>
    obtain ⟨j, u⟩ := p
    by_cases h1 : k = j
    · subst h1; simp [sset, sget, h, hi]
    · by_cases h2 : k < j
      · by_cases h3 : i < k
        · have : i < j := by omega
          have : i ≠ j := by omega
          simp [sset, sget, h1, h2, h, hi, *]
        · simp [sset, sget, h1, h2, h, hi, h3]
      · by_cases h3 : i = j <;> by_cases h4 : i < j <;> simp [sset, sget, h1, h2, h3, h4, ih]

/-- Below every listed key a map reads as unlisted. -/
theorem sget_of_swfFrom (d : α) (m : Sparse α) (b k : Nat) (h : swfFrom d (some b) m = true) (hk : k ≤ b) : sget d m k = d := by
  cases m with
  | nil => rfl
  | cons p m =>
    obtain ⟨j, u⟩ := p
    simp only [swfFrom, Bool.and_eq_true, decide_eq_true_eq] at h
    have h1 : k ≠ j := by omega
    have h2 : k < j := by omega
    simp [sget, h1, h2]

theorem swfFrom_none (d : α) (m : Sparse α) (b : Option Nat) (h : swfFrom d b m = true) : swf d m = true := by
  cases m with
  | nil => rfl
  | cons p m =>
    simp only [swf, swfFrom, Bool.and_eq_true, decide_eq_true_eq] at h ⊢
    exact ⟨⟨trivial, h.1.2⟩, h.2⟩

/-- What was written is read back from a canonical map. -/
theorem sget_sset_same (d v : α) (m : Sparse α) (k : Nat) (h : swf d m = true) : sget d (sset d m k v) k = v := by
  by_cases hv : v = d
  · subst hv
    induction m with
    | nil => simp [sset, sget]
    | cons p m ih =>
      obtain ⟨j, u⟩ := p
      have hm := h
      simp only [swf, swfFrom, Bool.and_eq_true, decide_eq_true_eq] at hm
      by_cases h1 : k = j
      · subst h1; simpa [sset] using sget_of_swfFrom v m k k hm.2 (Nat.le_refl k)
      · by_cases h2 : k < j
        · simp [sset, sget, h1, h2]
        · simp [sset, sget, h1, h2, ih (swfFrom_none _ _ _ hm.2)]
  · exact sget_sset_same_of_ne d v hv m k

/-- A write leaves every other key of a canonical map alone. -/
theorem sget_sset_other (d v : α) (m : Sparse α) (k i : Nat) (h : swf d m = true) (hi : i ≠ k) :
    sget d (sset d m k v) i = sget d m i := by
  by_cases hv : v = d
  · subst hv
    induction m with
    | nil => simp [sset, sget]
    | cons p m ih =>
      obtain ⟨j, u⟩ := p
      have hm := h
      simp only [swf, swfFrom, Bool.and_eq_true, decide_eq_true_eq] at hm
      by_cases h1 : k = j
      · subst h1
        by_cases h3 : i < k
        · simpa [sset, sget, hi, h3] using sget_of_swfFrom v m k i hm.2 (Nat.le_of_lt h3)
        · simp [sset, sget, hi, h3]
      · by_cases h2 : k < j
        · simp [sset, h1, h2]
        · by_cases h3 : i = j <;> by_cases h4 : i < j <;>
            simp [sset, sget, h1, h2, h3, h4, ih (swfFrom_none _ _ _ hm.2)]
  · exact sget_sset_other_of_ne d v hv m k i hi

theorem swfFrom_sset (d v : α) (m : Sparse α) (b : Option Nat) (k : Nat) (h : swfFrom d b m = true)
    (hk : ∀ i, b = some i → i < k) : swfFrom d b (sset d m k v) = true := by
  induction m generalizing b with
  | nil =>
    by_cases hv : v = d
    · simp [sset, hv, swfFrom]
    · cases b with
      | none => simp [sset, hv, swfFrom]
      | some i => simp [sset, hv, swfFrom, hk i rfl]
  | cons p m ih =>
    obtain ⟨j, u⟩ := p
    simp only [swfFrom, Bool.and_eq_true, decide_eq_true_eq] at h
    obtain ⟨⟨hb, hu⟩, hm⟩ := h
    by_cases h1 : k = j
    · subst h1
      by_cases hv : v = d
      · simp only [sset, if_pos, hv]
        cases m with
        | nil => rfl
        | cons q m =>
          obtain ⟨j', u'⟩ := q
          simp only [swfFrom, Bool.and_eq_true, decide_eq_true_eq] at hm ⊢
          refine ⟨⟨?_, hm.1.2⟩, hm.2⟩
          cases b with
          | none => rfl
          | some i => have := hk i rfl; have := hm.1.1; simp; omega
      · simp only [sset, if_pos, if_neg hv, swfFrom, Bool.and_eq_true, decide_eq_true_eq]
        exact ⟨⟨hb, hv⟩, hm⟩
    · by_cases h2 : k < j
      · by_cases hv : v = d
        · simp only [sset, if_neg h1, if_pos h2, if_pos hv, swfFrom, Bool.and_eq_true, decide_eq_true_eq]
          exact ⟨⟨hb, hu⟩, hm⟩
        · simp only [sset, if_neg h1, if_pos h2, if_neg hv, swfFrom, Bool.and_eq_true, decide_eq_true_eq]
          refine ⟨⟨?_, hv⟩, ⟨h2, hu⟩, hm⟩
          cases b with
          | none => rfl
          | some i => simpa using hk i rfl
      · simp only [sset, if_neg h1, if_neg h2, swfFrom, Bool.and_eq_true, decide_eq_true_eq]
        exact ⟨⟨hb, hu⟩, ih (some j) hm (fun i hi => by cases hi; omega)⟩

/-- A write keeps the canonical form. -/
theorem swf_sset (d v : α) (m : Sparse α) (k : Nat) (h : swf d m = true) : swf d (sset d m k v) = true :=
  swfFrom_sset d v m none k h (fun _ hi => by cases hi)

theorem swfFrom_mono (d : α) (m : Sparse α) (a b : Nat) (hab : a ≤ b) (h : swfFrom d (some b) m = true) :
    swfFrom d (some a) m = true := by
  cases m with
  | nil => rfl
  | cons p m =>
    simp only [swfFrom, Bool.and_eq_true, decide_eq_true_eq] at h ⊢
    exact ⟨⟨by omega, h.1.2⟩, h.2⟩

theorem swfFrom_smap (d : α) (f : Nat → α → α) (m : Sparse α) (b : Option Nat) (h : swfFrom d b m = true) :
    swfFrom d b (smap d f m) = true := by
  induction m generalizing b with
  | nil => rfl
  | cons p m ih =>
    obtain ⟨j, u⟩ := p
    simp only [swfFrom, Bool.and_eq_true, decide_eq_true_eq] at h
    obtain ⟨⟨hb, hu⟩, hm⟩ := h
    by_cases hf : f j u = d
    · simp only [smap, hf, if_pos]
      refine ih b ?_
      cases b with
      | none => exact swfFrom_none _ _ _ hm
      | some i => exact swfFrom_mono d m i j (Nat.le_of_lt (by simpa using hb)) hm
    · simp only [smap, if_neg hf, swfFrom, Bool.and_eq_true, decide_eq_true_eq]
      exact ⟨⟨hb, hf⟩, ih (some j) hm⟩

/-- Changing every value keeps the canonical form. -/
theorem swf_smap (d : α) (f : Nat → α → α) (m : Sparse α) (h : swf d m = true) : swf d (smap d f m) = true :=
  swfFrom_smap d f m none h

@[simp] theorem length_lset {β : Type} (l : List β) (k : Nat) (v : β) : (lset l k v).length = l.length := by
  induction l generalizing k with
  | nil => rfl
  | cons a l ih => cases k <;> simp [lset, ih]

theorem getElem?_lset {β : Type} (l : List β) (k i : Nat) (v : β) :
    (lset l k v)[i]? = if i = k then (l[i]?).map (fun _ => v) else l[i]? := by
  induction l generalizing k i with
  | nil => simp [lset]
  | cons a l ih =>
    cases k with
    | zero => cases i <;> simp [lset]
    | succ k => cases i <;> simp [lset, ih]

end Sys2Proof.Machine
end

