-- ==== Sys2Proof/Laws/State.lean ====
section
/-! SUPPORT. What the named updates of the state leave alone: one lemma for each field and update, and what each reads back
as. -/

namespace Sys2Proof.Machine

/-! ### setTile -/

@[simp] theorem State.setTile_focus (s : State) (t : Nat) (v : Tile) : (s.setTile t v).focus = s.focus := rfl
@[simp] theorem State.setTile_agenda (s : State) (t : Nat) (v : Tile) : (s.setTile t v).agenda = s.agenda := rfl
@[simp] theorem State.setTile_fresh (s : State) (t : Nat) (v : Tile) : (s.setTile t v).fresh = s.fresh := rfl
@[simp] theorem State.setTile_nextId (s : State) (t : Nat) (v : Tile) : (s.setTile t v).nextId = s.nextId := rfl
@[simp] theorem State.setTile_reply (s : State) (t : Nat) (v : Tile) : (s.setTile t v).reply = s.reply := rfl
@[simp] theorem State.setTile_fn (s : State) (t : Nat) (v : Tile) : (s.setTile t v).fn = s.fn := rfl
@[simp] theorem State.setTile_mem (s : State) (t : Nat) (v : Tile) : (s.setTile t v).mem = s.mem := rfl
@[simp] theorem State.setTile_fitted (s : State) (t : Nat) (v : Tile) : (s.setTile t v).fitted = s.fitted := rfl
@[simp] theorem State.setTile_full (s : State) (t : Nat) (v : Tile) : (s.setTile t v).full = s.full := rfl
@[simp] theorem State.setTile_poison (s : State) (t : Nat) (v : Tile) : (s.setTile t v).poison = s.poison := rfl
@[simp] theorem State.setTile_sharers (s : State) (t : Nat) (v : Tile) : (s.setTile t v).sharers = s.sharers := rfl
@[simp] theorem State.setTile_invs (s : State) (t : Nat) (v : Tile) : (s.setTile t v).invs = s.invs := rfl
@[simp] theorem State.setTile_posted (s : State) (t : Nat) (v : Tile) : (s.setTile t v).posted = s.posted := rfl
@[simp] theorem State.setTile_dues (s : State) (t : Nat) (v : Tile) : (s.setTile t v).dues = s.dues := rfl
@[simp] theorem State.setTile_badMeta (s : State) (t : Nat) (v : Tile) : (s.setTile t v).badMeta = s.badMeta := rfl
@[simp] theorem State.setTile_rels (s : State) (t : Nat) (v : Tile) : (s.setTile t v).rels = s.rels := rfl
@[simp] theorem State.setTile_deferred (s : State) (t : Nat) (v : Tile) : (s.setTile t v).deferred = s.deferred := rfl
@[simp] theorem State.setTile_dies (s : State) (t : Nat) (v : Tile) : (s.setTile t v).dies = s.dies := rfl
@[simp] theorem State.setTile_regions (s : State) (t : Nat) (v : Tile) : (s.setTile t v).regions = s.regions := rfl
@[simp] theorem State.setTile_slices (s : State) (t : Nat) (v : Tile) : (s.setTile t v).slices = s.slices := rfl
@[simp] theorem State.setTile_links (s : State) (t : Nat) (v : Tile) : (s.setTile t v).links = s.links := rfl
@[simp] theorem State.setTile_cmds (s : State) (t : Nat) (v : Tile) : (s.setTile t v).cmds = s.cmds := rfl
@[simp] theorem State.setTile_subs (s : State) (t : Nat) (v : Tile) : (s.setTile t v).subs = s.subs := rfl
@[simp] theorem State.setTile_comps (s : State) (t : Nat) (v : Tile) : (s.setTile t v).comps = s.comps := rfl
@[simp] theorem State.setTile_follows (s : State) (t : Nat) (v : Tile) : (s.setTile t v).follows = s.follows := rfl
@[simp] theorem State.setTile_remotes (s : State) (t : Nat) (v : Tile) : (s.setTile t v).remotes = s.remotes := rfl
@[simp] theorem State.setTile_loads (s : State) (t : Nat) (v : Tile) : (s.setTile t v).loads = s.loads := rfl
@[simp] theorem State.setTile_heldDone (s : State) (t : Nat) (v : Tile) : (s.setTile t v).heldDone = s.heldDone := rfl
@[simp] theorem State.setTile_kept (s : State) (t : Nat) (v : Tile) : (s.setTile t v).kept = s.kept := rfl
@[simp] theorem State.setTile_msix (s : State) (t : Nat) (v : Tile) : (s.setTile t v).msix = s.msix := rfl
@[simp] theorem State.setTile_replays (s : State) (t : Nat) (v : Tile) : (s.setTile t v).replays = s.replays := rfl
@[simp] theorem State.setTile_edgesDown (s : State) (t : Nat) (v : Tile) : (s.setTile t v).edgesDown = s.edgesDown := rfl
@[simp] theorem State.setTile_qm900 (s : State) (t : Nat) (v : Tile) : (s.setTile t v).qm900 = s.qm900 := rfl
@[simp] theorem State.setTile_stage (s : State) (t : Nat) (v : Tile) : (s.setTile t v).stage = s.stage := rfl
@[simp] theorem State.setTile_failure (s : State) (t : Nat) (v : Tile) : (s.setTile t v).failure = s.failure := rfl
@[simp] theorem State.setTile_debug (s : State) (t : Nat) (v : Tile) : (s.setTile t v).debug = s.debug := rfl
@[simp] theorem State.setTile_asidtb (s : State) (t : Nat) (v : Tile) : (s.setTile t v).asidtb = s.asidtb := rfl
@[simp] theorem State.setTile_troot (s : State) (t : Nat) (v : Tile) : (s.setTile t v).troot = s.troot := rfl
@[simp] theorem State.setTile_ioClock (s : State) (t : Nat) (v : Tile) : (s.setTile t v).ioClock = s.ioClock := rfl
@[simp] theorem State.setTile_ref (s : State) (t : Nat) (v : Tile) : (s.setTile t v).ref = s.ref := rfl
@[simp] theorem State.setTile_frz (s : State) (t : Nat) (v : Tile) : (s.setTile t v).frz = s.frz := rfl
@[simp] theorem State.setTile_conn (s : State) (t : Nat) (v : Tile) : (s.setTile t v).conn = s.conn := rfl
@[simp] theorem State.setTile_draining (s : State) (t : Nat) (v : Tile) : (s.setTile t v).draining = s.draining := rfl
@[simp] theorem State.setTile_ctEntry (s : State) (t : Nat) (v : Tile) : (s.setTile t v).ctEntry = s.ctEntry := rfl
@[simp] theorem State.setTile_ctReason (s : State) (t : Nat) (v : Tile) : (s.setTile t v).ctReason = s.ctReason := rfl
@[simp] theorem State.setTile_ctSticky (s : State) (t : Nat) (v : Tile) : (s.setTile t v).ctSticky = s.ctSticky := rfl
@[simp] theorem State.setTile_meas (s : State) (t : Nat) (v : Tile) : (s.setTile t v).meas = s.meas := rfl
@[simp] theorem State.setTile_aliasKey (s : State) (t : Nat) (v : Tile) : (s.setTile t v).aliasKey = s.aliasKey := rfl
@[simp] theorem State.setTile_limits (s : State) (t : Nat) (v : Tile) : (s.setTile t v).limits = s.limits := rfl
@[simp] theorem State.setTile_powered (s : State) (t : Nat) (v : Tile) : (s.setTile t v).powered = s.powered := rfl
@[simp] theorem State.setTile_recovery (s : State) (t : Nat) (v : Tile) : (s.setTile t v).recovery = s.recovery := rfl
@[simp] theorem State.setTile_perst (s : State) (t : Nat) (v : Tile) : (s.setTile t v).perst = s.perst := rfl
@[simp] theorem State.setTile_enumerated (s : State) (t : Nat) (v : Tile) : (s.setTile t v).enumerated = s.enumerated := rfl
@[simp] theorem State.setTile_stopped (s : State) (t : Nat) (v : Tile) : (s.setTile t v).stopped = s.stopped := rfl
@[simp] theorem State.setTile_ckpt (s : State) (t : Nat) (v : Tile) : (s.setTile t v).ckpt = s.ckpt := rfl
@[simp] theorem State.setTile_ckptDone (s : State) (t : Nat) (v : Tile) : (s.setTile t v).ckptDone = s.ckptDone := rfl
@[simp] theorem State.setTile_ckptBad (s : State) (t : Nat) (v : Tile) : (s.setTile t v).ckptBad = s.ckptBad := rfl

/-! ### setDie -/

@[simp] theorem State.setDie_focus (s : State) (d : Nat) (v : Die) : (s.setDie d v).focus = s.focus := rfl
@[simp] theorem State.setDie_agenda (s : State) (d : Nat) (v : Die) : (s.setDie d v).agenda = s.agenda := rfl
@[simp] theorem State.setDie_fresh (s : State) (d : Nat) (v : Die) : (s.setDie d v).fresh = s.fresh := rfl
@[simp] theorem State.setDie_nextId (s : State) (d : Nat) (v : Die) : (s.setDie d v).nextId = s.nextId := rfl
@[simp] theorem State.setDie_reply (s : State) (d : Nat) (v : Die) : (s.setDie d v).reply = s.reply := rfl
@[simp] theorem State.setDie_fn (s : State) (d : Nat) (v : Die) : (s.setDie d v).fn = s.fn := rfl
@[simp] theorem State.setDie_mem (s : State) (d : Nat) (v : Die) : (s.setDie d v).mem = s.mem := rfl
@[simp] theorem State.setDie_fitted (s : State) (d : Nat) (v : Die) : (s.setDie d v).fitted = s.fitted := rfl
@[simp] theorem State.setDie_full (s : State) (d : Nat) (v : Die) : (s.setDie d v).full = s.full := rfl
@[simp] theorem State.setDie_poison (s : State) (d : Nat) (v : Die) : (s.setDie d v).poison = s.poison := rfl
@[simp] theorem State.setDie_sharers (s : State) (d : Nat) (v : Die) : (s.setDie d v).sharers = s.sharers := rfl
@[simp] theorem State.setDie_invs (s : State) (d : Nat) (v : Die) : (s.setDie d v).invs = s.invs := rfl
@[simp] theorem State.setDie_posted (s : State) (d : Nat) (v : Die) : (s.setDie d v).posted = s.posted := rfl
@[simp] theorem State.setDie_dues (s : State) (d : Nat) (v : Die) : (s.setDie d v).dues = s.dues := rfl
@[simp] theorem State.setDie_badMeta (s : State) (d : Nat) (v : Die) : (s.setDie d v).badMeta = s.badMeta := rfl
@[simp] theorem State.setDie_rels (s : State) (d : Nat) (v : Die) : (s.setDie d v).rels = s.rels := rfl
@[simp] theorem State.setDie_deferred (s : State) (d : Nat) (v : Die) : (s.setDie d v).deferred = s.deferred := rfl
@[simp] theorem State.setDie_tiles (s : State) (d : Nat) (v : Die) : (s.setDie d v).tiles = s.tiles := rfl
@[simp] theorem State.setDie_regions (s : State) (d : Nat) (v : Die) : (s.setDie d v).regions = s.regions := rfl
@[simp] theorem State.setDie_slices (s : State) (d : Nat) (v : Die) : (s.setDie d v).slices = s.slices := rfl
@[simp] theorem State.setDie_links (s : State) (d : Nat) (v : Die) : (s.setDie d v).links = s.links := rfl
@[simp] theorem State.setDie_cmds (s : State) (d : Nat) (v : Die) : (s.setDie d v).cmds = s.cmds := rfl
@[simp] theorem State.setDie_subs (s : State) (d : Nat) (v : Die) : (s.setDie d v).subs = s.subs := rfl
@[simp] theorem State.setDie_comps (s : State) (d : Nat) (v : Die) : (s.setDie d v).comps = s.comps := rfl
@[simp] theorem State.setDie_follows (s : State) (d : Nat) (v : Die) : (s.setDie d v).follows = s.follows := rfl
@[simp] theorem State.setDie_remotes (s : State) (d : Nat) (v : Die) : (s.setDie d v).remotes = s.remotes := rfl
@[simp] theorem State.setDie_loads (s : State) (d : Nat) (v : Die) : (s.setDie d v).loads = s.loads := rfl
@[simp] theorem State.setDie_heldDone (s : State) (d : Nat) (v : Die) : (s.setDie d v).heldDone = s.heldDone := rfl
@[simp] theorem State.setDie_kept (s : State) (d : Nat) (v : Die) : (s.setDie d v).kept = s.kept := rfl
@[simp] theorem State.setDie_msix (s : State) (d : Nat) (v : Die) : (s.setDie d v).msix = s.msix := rfl
@[simp] theorem State.setDie_replays (s : State) (d : Nat) (v : Die) : (s.setDie d v).replays = s.replays := rfl
@[simp] theorem State.setDie_edgesDown (s : State) (d : Nat) (v : Die) : (s.setDie d v).edgesDown = s.edgesDown := rfl
@[simp] theorem State.setDie_qm900 (s : State) (d : Nat) (v : Die) : (s.setDie d v).qm900 = s.qm900 := rfl
@[simp] theorem State.setDie_stage (s : State) (d : Nat) (v : Die) : (s.setDie d v).stage = s.stage := rfl
@[simp] theorem State.setDie_failure (s : State) (d : Nat) (v : Die) : (s.setDie d v).failure = s.failure := rfl
@[simp] theorem State.setDie_debug (s : State) (d : Nat) (v : Die) : (s.setDie d v).debug = s.debug := rfl
@[simp] theorem State.setDie_asidtb (s : State) (d : Nat) (v : Die) : (s.setDie d v).asidtb = s.asidtb := rfl
@[simp] theorem State.setDie_troot (s : State) (d : Nat) (v : Die) : (s.setDie d v).troot = s.troot := rfl
@[simp] theorem State.setDie_ioClock (s : State) (d : Nat) (v : Die) : (s.setDie d v).ioClock = s.ioClock := rfl
@[simp] theorem State.setDie_ref (s : State) (d : Nat) (v : Die) : (s.setDie d v).ref = s.ref := rfl
@[simp] theorem State.setDie_frz (s : State) (d : Nat) (v : Die) : (s.setDie d v).frz = s.frz := rfl
@[simp] theorem State.setDie_conn (s : State) (d : Nat) (v : Die) : (s.setDie d v).conn = s.conn := rfl
@[simp] theorem State.setDie_draining (s : State) (d : Nat) (v : Die) : (s.setDie d v).draining = s.draining := rfl
@[simp] theorem State.setDie_ctEntry (s : State) (d : Nat) (v : Die) : (s.setDie d v).ctEntry = s.ctEntry := rfl
@[simp] theorem State.setDie_ctReason (s : State) (d : Nat) (v : Die) : (s.setDie d v).ctReason = s.ctReason := rfl
@[simp] theorem State.setDie_ctSticky (s : State) (d : Nat) (v : Die) : (s.setDie d v).ctSticky = s.ctSticky := rfl
@[simp] theorem State.setDie_meas (s : State) (d : Nat) (v : Die) : (s.setDie d v).meas = s.meas := rfl
@[simp] theorem State.setDie_aliasKey (s : State) (d : Nat) (v : Die) : (s.setDie d v).aliasKey = s.aliasKey := rfl
@[simp] theorem State.setDie_limits (s : State) (d : Nat) (v : Die) : (s.setDie d v).limits = s.limits := rfl
@[simp] theorem State.setDie_powered (s : State) (d : Nat) (v : Die) : (s.setDie d v).powered = s.powered := rfl
@[simp] theorem State.setDie_recovery (s : State) (d : Nat) (v : Die) : (s.setDie d v).recovery = s.recovery := rfl
@[simp] theorem State.setDie_perst (s : State) (d : Nat) (v : Die) : (s.setDie d v).perst = s.perst := rfl
@[simp] theorem State.setDie_enumerated (s : State) (d : Nat) (v : Die) : (s.setDie d v).enumerated = s.enumerated := rfl
@[simp] theorem State.setDie_stopped (s : State) (d : Nat) (v : Die) : (s.setDie d v).stopped = s.stopped := rfl
@[simp] theorem State.setDie_ckpt (s : State) (d : Nat) (v : Die) : (s.setDie d v).ckpt = s.ckpt := rfl
@[simp] theorem State.setDie_ckptDone (s : State) (d : Nat) (v : Die) : (s.setDie d v).ckptDone = s.ckptDone := rfl
@[simp] theorem State.setDie_ckptBad (s : State) (d : Nat) (v : Die) : (s.setDie d v).ckptBad = s.ckptBad := rfl

/-! ### setSlice -/

@[simp] theorem State.setSlice_focus (s : State) (n : Nat) (v : Slice) : (s.setSlice n v).focus = s.focus := rfl
@[simp] theorem State.setSlice_agenda (s : State) (n : Nat) (v : Slice) : (s.setSlice n v).agenda = s.agenda := rfl
@[simp] theorem State.setSlice_fresh (s : State) (n : Nat) (v : Slice) : (s.setSlice n v).fresh = s.fresh := rfl
@[simp] theorem State.setSlice_nextId (s : State) (n : Nat) (v : Slice) : (s.setSlice n v).nextId = s.nextId := rfl
@[simp] theorem State.setSlice_reply (s : State) (n : Nat) (v : Slice) : (s.setSlice n v).reply = s.reply := rfl
@[simp] theorem State.setSlice_fn (s : State) (n : Nat) (v : Slice) : (s.setSlice n v).fn = s.fn := rfl
@[simp] theorem State.setSlice_mem (s : State) (n : Nat) (v : Slice) : (s.setSlice n v).mem = s.mem := rfl
@[simp] theorem State.setSlice_fitted (s : State) (n : Nat) (v : Slice) : (s.setSlice n v).fitted = s.fitted := rfl
@[simp] theorem State.setSlice_full (s : State) (n : Nat) (v : Slice) : (s.setSlice n v).full = s.full := rfl
@[simp] theorem State.setSlice_poison (s : State) (n : Nat) (v : Slice) : (s.setSlice n v).poison = s.poison := rfl
@[simp] theorem State.setSlice_sharers (s : State) (n : Nat) (v : Slice) : (s.setSlice n v).sharers = s.sharers := rfl
@[simp] theorem State.setSlice_invs (s : State) (n : Nat) (v : Slice) : (s.setSlice n v).invs = s.invs := rfl
@[simp] theorem State.setSlice_posted (s : State) (n : Nat) (v : Slice) : (s.setSlice n v).posted = s.posted := rfl
@[simp] theorem State.setSlice_dues (s : State) (n : Nat) (v : Slice) : (s.setSlice n v).dues = s.dues := rfl
@[simp] theorem State.setSlice_badMeta (s : State) (n : Nat) (v : Slice) : (s.setSlice n v).badMeta = s.badMeta := rfl
@[simp] theorem State.setSlice_rels (s : State) (n : Nat) (v : Slice) : (s.setSlice n v).rels = s.rels := rfl
@[simp] theorem State.setSlice_deferred (s : State) (n : Nat) (v : Slice) : (s.setSlice n v).deferred = s.deferred := rfl
@[simp] theorem State.setSlice_tiles (s : State) (n : Nat) (v : Slice) : (s.setSlice n v).tiles = s.tiles := rfl
@[simp] theorem State.setSlice_dies (s : State) (n : Nat) (v : Slice) : (s.setSlice n v).dies = s.dies := rfl
@[simp] theorem State.setSlice_regions (s : State) (n : Nat) (v : Slice) : (s.setSlice n v).regions = s.regions := rfl
@[simp] theorem State.setSlice_links (s : State) (n : Nat) (v : Slice) : (s.setSlice n v).links = s.links := rfl
@[simp] theorem State.setSlice_cmds (s : State) (n : Nat) (v : Slice) : (s.setSlice n v).cmds = s.cmds := rfl
@[simp] theorem State.setSlice_subs (s : State) (n : Nat) (v : Slice) : (s.setSlice n v).subs = s.subs := rfl
@[simp] theorem State.setSlice_comps (s : State) (n : Nat) (v : Slice) : (s.setSlice n v).comps = s.comps := rfl
@[simp] theorem State.setSlice_follows (s : State) (n : Nat) (v : Slice) : (s.setSlice n v).follows = s.follows := rfl
@[simp] theorem State.setSlice_remotes (s : State) (n : Nat) (v : Slice) : (s.setSlice n v).remotes = s.remotes := rfl
@[simp] theorem State.setSlice_loads (s : State) (n : Nat) (v : Slice) : (s.setSlice n v).loads = s.loads := rfl
@[simp] theorem State.setSlice_heldDone (s : State) (n : Nat) (v : Slice) : (s.setSlice n v).heldDone = s.heldDone := rfl
@[simp] theorem State.setSlice_kept (s : State) (n : Nat) (v : Slice) : (s.setSlice n v).kept = s.kept := rfl
@[simp] theorem State.setSlice_msix (s : State) (n : Nat) (v : Slice) : (s.setSlice n v).msix = s.msix := rfl
@[simp] theorem State.setSlice_replays (s : State) (n : Nat) (v : Slice) : (s.setSlice n v).replays = s.replays := rfl
@[simp] theorem State.setSlice_edgesDown (s : State) (n : Nat) (v : Slice) : (s.setSlice n v).edgesDown = s.edgesDown := rfl
@[simp] theorem State.setSlice_qm900 (s : State) (n : Nat) (v : Slice) : (s.setSlice n v).qm900 = s.qm900 := rfl
@[simp] theorem State.setSlice_stage (s : State) (n : Nat) (v : Slice) : (s.setSlice n v).stage = s.stage := rfl
@[simp] theorem State.setSlice_failure (s : State) (n : Nat) (v : Slice) : (s.setSlice n v).failure = s.failure := rfl
@[simp] theorem State.setSlice_debug (s : State) (n : Nat) (v : Slice) : (s.setSlice n v).debug = s.debug := rfl
@[simp] theorem State.setSlice_asidtb (s : State) (n : Nat) (v : Slice) : (s.setSlice n v).asidtb = s.asidtb := rfl
@[simp] theorem State.setSlice_troot (s : State) (n : Nat) (v : Slice) : (s.setSlice n v).troot = s.troot := rfl
@[simp] theorem State.setSlice_ioClock (s : State) (n : Nat) (v : Slice) : (s.setSlice n v).ioClock = s.ioClock := rfl
@[simp] theorem State.setSlice_ref (s : State) (n : Nat) (v : Slice) : (s.setSlice n v).ref = s.ref := rfl
@[simp] theorem State.setSlice_frz (s : State) (n : Nat) (v : Slice) : (s.setSlice n v).frz = s.frz := rfl
@[simp] theorem State.setSlice_conn (s : State) (n : Nat) (v : Slice) : (s.setSlice n v).conn = s.conn := rfl
@[simp] theorem State.setSlice_draining (s : State) (n : Nat) (v : Slice) : (s.setSlice n v).draining = s.draining := rfl
@[simp] theorem State.setSlice_ctEntry (s : State) (n : Nat) (v : Slice) : (s.setSlice n v).ctEntry = s.ctEntry := rfl
@[simp] theorem State.setSlice_ctReason (s : State) (n : Nat) (v : Slice) : (s.setSlice n v).ctReason = s.ctReason := rfl
@[simp] theorem State.setSlice_ctSticky (s : State) (n : Nat) (v : Slice) : (s.setSlice n v).ctSticky = s.ctSticky := rfl
@[simp] theorem State.setSlice_meas (s : State) (n : Nat) (v : Slice) : (s.setSlice n v).meas = s.meas := rfl
@[simp] theorem State.setSlice_aliasKey (s : State) (n : Nat) (v : Slice) : (s.setSlice n v).aliasKey = s.aliasKey := rfl
@[simp] theorem State.setSlice_limits (s : State) (n : Nat) (v : Slice) : (s.setSlice n v).limits = s.limits := rfl
@[simp] theorem State.setSlice_powered (s : State) (n : Nat) (v : Slice) : (s.setSlice n v).powered = s.powered := rfl
@[simp] theorem State.setSlice_recovery (s : State) (n : Nat) (v : Slice) : (s.setSlice n v).recovery = s.recovery := rfl
@[simp] theorem State.setSlice_perst (s : State) (n : Nat) (v : Slice) : (s.setSlice n v).perst = s.perst := rfl
@[simp] theorem State.setSlice_enumerated (s : State) (n : Nat) (v : Slice) : (s.setSlice n v).enumerated = s.enumerated := rfl
@[simp] theorem State.setSlice_stopped (s : State) (n : Nat) (v : Slice) : (s.setSlice n v).stopped = s.stopped := rfl
@[simp] theorem State.setSlice_ckpt (s : State) (n : Nat) (v : Slice) : (s.setSlice n v).ckpt = s.ckpt := rfl
@[simp] theorem State.setSlice_ckptDone (s : State) (n : Nat) (v : Slice) : (s.setSlice n v).ckptDone = s.ckptDone := rfl
@[simp] theorem State.setSlice_ckptBad (s : State) (n : Nat) (v : Slice) : (s.setSlice n v).ckptBad = s.ckptBad := rfl

/-! ### setLink -/

@[simp] theorem State.setLink_focus (s : State) (k : Nat) (v : Link) : (s.setLink k v).focus = s.focus := rfl
@[simp] theorem State.setLink_agenda (s : State) (k : Nat) (v : Link) : (s.setLink k v).agenda = s.agenda := rfl
@[simp] theorem State.setLink_fresh (s : State) (k : Nat) (v : Link) : (s.setLink k v).fresh = s.fresh := rfl
@[simp] theorem State.setLink_nextId (s : State) (k : Nat) (v : Link) : (s.setLink k v).nextId = s.nextId := rfl
@[simp] theorem State.setLink_reply (s : State) (k : Nat) (v : Link) : (s.setLink k v).reply = s.reply := rfl
@[simp] theorem State.setLink_fn (s : State) (k : Nat) (v : Link) : (s.setLink k v).fn = s.fn := rfl
@[simp] theorem State.setLink_mem (s : State) (k : Nat) (v : Link) : (s.setLink k v).mem = s.mem := rfl
@[simp] theorem State.setLink_fitted (s : State) (k : Nat) (v : Link) : (s.setLink k v).fitted = s.fitted := rfl
@[simp] theorem State.setLink_full (s : State) (k : Nat) (v : Link) : (s.setLink k v).full = s.full := rfl
@[simp] theorem State.setLink_poison (s : State) (k : Nat) (v : Link) : (s.setLink k v).poison = s.poison := rfl
@[simp] theorem State.setLink_sharers (s : State) (k : Nat) (v : Link) : (s.setLink k v).sharers = s.sharers := rfl
@[simp] theorem State.setLink_invs (s : State) (k : Nat) (v : Link) : (s.setLink k v).invs = s.invs := rfl
@[simp] theorem State.setLink_posted (s : State) (k : Nat) (v : Link) : (s.setLink k v).posted = s.posted := rfl
@[simp] theorem State.setLink_dues (s : State) (k : Nat) (v : Link) : (s.setLink k v).dues = s.dues := rfl
@[simp] theorem State.setLink_badMeta (s : State) (k : Nat) (v : Link) : (s.setLink k v).badMeta = s.badMeta := rfl
@[simp] theorem State.setLink_rels (s : State) (k : Nat) (v : Link) : (s.setLink k v).rels = s.rels := rfl
@[simp] theorem State.setLink_deferred (s : State) (k : Nat) (v : Link) : (s.setLink k v).deferred = s.deferred := rfl
@[simp] theorem State.setLink_tiles (s : State) (k : Nat) (v : Link) : (s.setLink k v).tiles = s.tiles := rfl
@[simp] theorem State.setLink_dies (s : State) (k : Nat) (v : Link) : (s.setLink k v).dies = s.dies := rfl
@[simp] theorem State.setLink_regions (s : State) (k : Nat) (v : Link) : (s.setLink k v).regions = s.regions := rfl
@[simp] theorem State.setLink_slices (s : State) (k : Nat) (v : Link) : (s.setLink k v).slices = s.slices := rfl
@[simp] theorem State.setLink_cmds (s : State) (k : Nat) (v : Link) : (s.setLink k v).cmds = s.cmds := rfl
@[simp] theorem State.setLink_subs (s : State) (k : Nat) (v : Link) : (s.setLink k v).subs = s.subs := rfl
@[simp] theorem State.setLink_comps (s : State) (k : Nat) (v : Link) : (s.setLink k v).comps = s.comps := rfl
@[simp] theorem State.setLink_follows (s : State) (k : Nat) (v : Link) : (s.setLink k v).follows = s.follows := rfl
@[simp] theorem State.setLink_remotes (s : State) (k : Nat) (v : Link) : (s.setLink k v).remotes = s.remotes := rfl
@[simp] theorem State.setLink_loads (s : State) (k : Nat) (v : Link) : (s.setLink k v).loads = s.loads := rfl
@[simp] theorem State.setLink_heldDone (s : State) (k : Nat) (v : Link) : (s.setLink k v).heldDone = s.heldDone := rfl
@[simp] theorem State.setLink_kept (s : State) (k : Nat) (v : Link) : (s.setLink k v).kept = s.kept := rfl
@[simp] theorem State.setLink_msix (s : State) (k : Nat) (v : Link) : (s.setLink k v).msix = s.msix := rfl
@[simp] theorem State.setLink_replays (s : State) (k : Nat) (v : Link) : (s.setLink k v).replays = s.replays := rfl
@[simp] theorem State.setLink_edgesDown (s : State) (k : Nat) (v : Link) : (s.setLink k v).edgesDown = s.edgesDown := rfl
@[simp] theorem State.setLink_qm900 (s : State) (k : Nat) (v : Link) : (s.setLink k v).qm900 = s.qm900 := rfl
@[simp] theorem State.setLink_stage (s : State) (k : Nat) (v : Link) : (s.setLink k v).stage = s.stage := rfl
@[simp] theorem State.setLink_failure (s : State) (k : Nat) (v : Link) : (s.setLink k v).failure = s.failure := rfl
@[simp] theorem State.setLink_debug (s : State) (k : Nat) (v : Link) : (s.setLink k v).debug = s.debug := rfl
@[simp] theorem State.setLink_asidtb (s : State) (k : Nat) (v : Link) : (s.setLink k v).asidtb = s.asidtb := rfl
@[simp] theorem State.setLink_troot (s : State) (k : Nat) (v : Link) : (s.setLink k v).troot = s.troot := rfl
@[simp] theorem State.setLink_ioClock (s : State) (k : Nat) (v : Link) : (s.setLink k v).ioClock = s.ioClock := rfl
@[simp] theorem State.setLink_ref (s : State) (k : Nat) (v : Link) : (s.setLink k v).ref = s.ref := rfl
@[simp] theorem State.setLink_frz (s : State) (k : Nat) (v : Link) : (s.setLink k v).frz = s.frz := rfl
@[simp] theorem State.setLink_conn (s : State) (k : Nat) (v : Link) : (s.setLink k v).conn = s.conn := rfl
@[simp] theorem State.setLink_draining (s : State) (k : Nat) (v : Link) : (s.setLink k v).draining = s.draining := rfl
@[simp] theorem State.setLink_ctEntry (s : State) (k : Nat) (v : Link) : (s.setLink k v).ctEntry = s.ctEntry := rfl
@[simp] theorem State.setLink_ctReason (s : State) (k : Nat) (v : Link) : (s.setLink k v).ctReason = s.ctReason := rfl
@[simp] theorem State.setLink_ctSticky (s : State) (k : Nat) (v : Link) : (s.setLink k v).ctSticky = s.ctSticky := rfl
@[simp] theorem State.setLink_meas (s : State) (k : Nat) (v : Link) : (s.setLink k v).meas = s.meas := rfl
@[simp] theorem State.setLink_aliasKey (s : State) (k : Nat) (v : Link) : (s.setLink k v).aliasKey = s.aliasKey := rfl
@[simp] theorem State.setLink_limits (s : State) (k : Nat) (v : Link) : (s.setLink k v).limits = s.limits := rfl
@[simp] theorem State.setLink_powered (s : State) (k : Nat) (v : Link) : (s.setLink k v).powered = s.powered := rfl
@[simp] theorem State.setLink_recovery (s : State) (k : Nat) (v : Link) : (s.setLink k v).recovery = s.recovery := rfl
@[simp] theorem State.setLink_perst (s : State) (k : Nat) (v : Link) : (s.setLink k v).perst = s.perst := rfl
@[simp] theorem State.setLink_enumerated (s : State) (k : Nat) (v : Link) : (s.setLink k v).enumerated = s.enumerated := rfl
@[simp] theorem State.setLink_stopped (s : State) (k : Nat) (v : Link) : (s.setLink k v).stopped = s.stopped := rfl
@[simp] theorem State.setLink_ckpt (s : State) (k : Nat) (v : Link) : (s.setLink k v).ckpt = s.ckpt := rfl
@[simp] theorem State.setLink_ckptDone (s : State) (k : Nat) (v : Link) : (s.setLink k v).ckptDone = s.ckptDone := rfl
@[simp] theorem State.setLink_ckptBad (s : State) (k : Nat) (v : Link) : (s.setLink k v).ckptBad = s.ckptBad := rfl

/-! ### setRegion -/

@[simp] theorem State.setRegion_focus (s : State) (r : Nat) (g : Region) : (s.setRegion r g).focus = s.focus := rfl
@[simp] theorem State.setRegion_agenda (s : State) (r : Nat) (g : Region) : (s.setRegion r g).agenda = s.agenda := rfl
@[simp] theorem State.setRegion_fresh (s : State) (r : Nat) (g : Region) : (s.setRegion r g).fresh = s.fresh := rfl
@[simp] theorem State.setRegion_nextId (s : State) (r : Nat) (g : Region) : (s.setRegion r g).nextId = s.nextId := rfl
@[simp] theorem State.setRegion_reply (s : State) (r : Nat) (g : Region) : (s.setRegion r g).reply = s.reply := rfl
@[simp] theorem State.setRegion_fn (s : State) (r : Nat) (g : Region) : (s.setRegion r g).fn = s.fn := rfl
@[simp] theorem State.setRegion_mem (s : State) (r : Nat) (g : Region) : (s.setRegion r g).mem = s.mem := rfl
@[simp] theorem State.setRegion_fitted (s : State) (r : Nat) (g : Region) : (s.setRegion r g).fitted = s.fitted := rfl
@[simp] theorem State.setRegion_full (s : State) (r : Nat) (g : Region) : (s.setRegion r g).full = s.full := rfl
@[simp] theorem State.setRegion_poison (s : State) (r : Nat) (g : Region) : (s.setRegion r g).poison = s.poison := rfl
@[simp] theorem State.setRegion_sharers (s : State) (r : Nat) (g : Region) : (s.setRegion r g).sharers = s.sharers := rfl
@[simp] theorem State.setRegion_invs (s : State) (r : Nat) (g : Region) : (s.setRegion r g).invs = s.invs := rfl
@[simp] theorem State.setRegion_posted (s : State) (r : Nat) (g : Region) : (s.setRegion r g).posted = s.posted := rfl
@[simp] theorem State.setRegion_dues (s : State) (r : Nat) (g : Region) : (s.setRegion r g).dues = s.dues := rfl
@[simp] theorem State.setRegion_badMeta (s : State) (r : Nat) (g : Region) : (s.setRegion r g).badMeta = s.badMeta := rfl
@[simp] theorem State.setRegion_rels (s : State) (r : Nat) (g : Region) : (s.setRegion r g).rels = s.rels := rfl
@[simp] theorem State.setRegion_deferred (s : State) (r : Nat) (g : Region) : (s.setRegion r g).deferred = s.deferred := rfl
@[simp] theorem State.setRegion_tiles (s : State) (r : Nat) (g : Region) : (s.setRegion r g).tiles = s.tiles := rfl
@[simp] theorem State.setRegion_dies (s : State) (r : Nat) (g : Region) : (s.setRegion r g).dies = s.dies := rfl
@[simp] theorem State.setRegion_slices (s : State) (r : Nat) (g : Region) : (s.setRegion r g).slices = s.slices := rfl
@[simp] theorem State.setRegion_links (s : State) (r : Nat) (g : Region) : (s.setRegion r g).links = s.links := rfl
@[simp] theorem State.setRegion_cmds (s : State) (r : Nat) (g : Region) : (s.setRegion r g).cmds = s.cmds := rfl
@[simp] theorem State.setRegion_subs (s : State) (r : Nat) (g : Region) : (s.setRegion r g).subs = s.subs := rfl
@[simp] theorem State.setRegion_comps (s : State) (r : Nat) (g : Region) : (s.setRegion r g).comps = s.comps := rfl
@[simp] theorem State.setRegion_follows (s : State) (r : Nat) (g : Region) : (s.setRegion r g).follows = s.follows := rfl
@[simp] theorem State.setRegion_remotes (s : State) (r : Nat) (g : Region) : (s.setRegion r g).remotes = s.remotes := rfl
@[simp] theorem State.setRegion_loads (s : State) (r : Nat) (g : Region) : (s.setRegion r g).loads = s.loads := rfl
@[simp] theorem State.setRegion_heldDone (s : State) (r : Nat) (g : Region) : (s.setRegion r g).heldDone = s.heldDone := rfl
@[simp] theorem State.setRegion_kept (s : State) (r : Nat) (g : Region) : (s.setRegion r g).kept = s.kept := rfl
@[simp] theorem State.setRegion_msix (s : State) (r : Nat) (g : Region) : (s.setRegion r g).msix = s.msix := rfl
@[simp] theorem State.setRegion_replays (s : State) (r : Nat) (g : Region) : (s.setRegion r g).replays = s.replays := rfl
@[simp] theorem State.setRegion_edgesDown (s : State) (r : Nat) (g : Region) : (s.setRegion r g).edgesDown = s.edgesDown := rfl
@[simp] theorem State.setRegion_qm900 (s : State) (r : Nat) (g : Region) : (s.setRegion r g).qm900 = s.qm900 := rfl
@[simp] theorem State.setRegion_stage (s : State) (r : Nat) (g : Region) : (s.setRegion r g).stage = s.stage := rfl
@[simp] theorem State.setRegion_failure (s : State) (r : Nat) (g : Region) : (s.setRegion r g).failure = s.failure := rfl
@[simp] theorem State.setRegion_debug (s : State) (r : Nat) (g : Region) : (s.setRegion r g).debug = s.debug := rfl
@[simp] theorem State.setRegion_asidtb (s : State) (r : Nat) (g : Region) : (s.setRegion r g).asidtb = s.asidtb := rfl
@[simp] theorem State.setRegion_troot (s : State) (r : Nat) (g : Region) : (s.setRegion r g).troot = s.troot := rfl
@[simp] theorem State.setRegion_ioClock (s : State) (r : Nat) (g : Region) : (s.setRegion r g).ioClock = s.ioClock := rfl
@[simp] theorem State.setRegion_ref (s : State) (r : Nat) (g : Region) : (s.setRegion r g).ref = s.ref := rfl
@[simp] theorem State.setRegion_frz (s : State) (r : Nat) (g : Region) : (s.setRegion r g).frz = s.frz := rfl
@[simp] theorem State.setRegion_conn (s : State) (r : Nat) (g : Region) : (s.setRegion r g).conn = s.conn := rfl
@[simp] theorem State.setRegion_draining (s : State) (r : Nat) (g : Region) : (s.setRegion r g).draining = s.draining := rfl
@[simp] theorem State.setRegion_ctEntry (s : State) (r : Nat) (g : Region) : (s.setRegion r g).ctEntry = s.ctEntry := rfl
@[simp] theorem State.setRegion_ctReason (s : State) (r : Nat) (g : Region) : (s.setRegion r g).ctReason = s.ctReason := rfl
@[simp] theorem State.setRegion_ctSticky (s : State) (r : Nat) (g : Region) : (s.setRegion r g).ctSticky = s.ctSticky := rfl
@[simp] theorem State.setRegion_meas (s : State) (r : Nat) (g : Region) : (s.setRegion r g).meas = s.meas := rfl
@[simp] theorem State.setRegion_aliasKey (s : State) (r : Nat) (g : Region) : (s.setRegion r g).aliasKey = s.aliasKey := rfl
@[simp] theorem State.setRegion_limits (s : State) (r : Nat) (g : Region) : (s.setRegion r g).limits = s.limits := rfl
@[simp] theorem State.setRegion_powered (s : State) (r : Nat) (g : Region) : (s.setRegion r g).powered = s.powered := rfl
@[simp] theorem State.setRegion_recovery (s : State) (r : Nat) (g : Region) : (s.setRegion r g).recovery = s.recovery := rfl
@[simp] theorem State.setRegion_perst (s : State) (r : Nat) (g : Region) : (s.setRegion r g).perst = s.perst := rfl
@[simp] theorem State.setRegion_enumerated (s : State) (r : Nat) (g : Region) : (s.setRegion r g).enumerated = s.enumerated := rfl
@[simp] theorem State.setRegion_stopped (s : State) (r : Nat) (g : Region) : (s.setRegion r g).stopped = s.stopped := rfl
@[simp] theorem State.setRegion_ckpt (s : State) (r : Nat) (g : Region) : (s.setRegion r g).ckpt = s.ckpt := rfl
@[simp] theorem State.setRegion_ckptDone (s : State) (r : Nat) (g : Region) : (s.setRegion r g).ckptDone = s.ckptDone := rfl
@[simp] theorem State.setRegion_ckptBad (s : State) (r : Nat) (g : Region) : (s.setRegion r g).ckptBad = s.ckptBad := rfl

/-! ### dropRegion -/

@[simp] theorem State.dropRegion_focus (s : State) (r : Nat) : (s.dropRegion r).focus = s.focus := rfl
@[simp] theorem State.dropRegion_agenda (s : State) (r : Nat) : (s.dropRegion r).agenda = s.agenda := rfl
@[simp] theorem State.dropRegion_fresh (s : State) (r : Nat) : (s.dropRegion r).fresh = s.fresh := rfl
@[simp] theorem State.dropRegion_nextId (s : State) (r : Nat) : (s.dropRegion r).nextId = s.nextId := rfl
@[simp] theorem State.dropRegion_reply (s : State) (r : Nat) : (s.dropRegion r).reply = s.reply := rfl
@[simp] theorem State.dropRegion_fn (s : State) (r : Nat) : (s.dropRegion r).fn = s.fn := rfl
@[simp] theorem State.dropRegion_mem (s : State) (r : Nat) : (s.dropRegion r).mem = s.mem := rfl
@[simp] theorem State.dropRegion_fitted (s : State) (r : Nat) : (s.dropRegion r).fitted = s.fitted := rfl
@[simp] theorem State.dropRegion_full (s : State) (r : Nat) : (s.dropRegion r).full = s.full := rfl
@[simp] theorem State.dropRegion_poison (s : State) (r : Nat) : (s.dropRegion r).poison = s.poison := rfl
@[simp] theorem State.dropRegion_sharers (s : State) (r : Nat) : (s.dropRegion r).sharers = s.sharers := rfl
@[simp] theorem State.dropRegion_invs (s : State) (r : Nat) : (s.dropRegion r).invs = s.invs := rfl
@[simp] theorem State.dropRegion_posted (s : State) (r : Nat) : (s.dropRegion r).posted = s.posted := rfl
@[simp] theorem State.dropRegion_dues (s : State) (r : Nat) : (s.dropRegion r).dues = s.dues := rfl
@[simp] theorem State.dropRegion_badMeta (s : State) (r : Nat) : (s.dropRegion r).badMeta = s.badMeta := rfl
@[simp] theorem State.dropRegion_rels (s : State) (r : Nat) : (s.dropRegion r).rels = s.rels := rfl
@[simp] theorem State.dropRegion_deferred (s : State) (r : Nat) : (s.dropRegion r).deferred = s.deferred := rfl
@[simp] theorem State.dropRegion_tiles (s : State) (r : Nat) : (s.dropRegion r).tiles = s.tiles := rfl
@[simp] theorem State.dropRegion_dies (s : State) (r : Nat) : (s.dropRegion r).dies = s.dies := rfl
@[simp] theorem State.dropRegion_slices (s : State) (r : Nat) : (s.dropRegion r).slices = s.slices := rfl
@[simp] theorem State.dropRegion_links (s : State) (r : Nat) : (s.dropRegion r).links = s.links := rfl
@[simp] theorem State.dropRegion_cmds (s : State) (r : Nat) : (s.dropRegion r).cmds = s.cmds := rfl
@[simp] theorem State.dropRegion_subs (s : State) (r : Nat) : (s.dropRegion r).subs = s.subs := rfl
@[simp] theorem State.dropRegion_comps (s : State) (r : Nat) : (s.dropRegion r).comps = s.comps := rfl
@[simp] theorem State.dropRegion_follows (s : State) (r : Nat) : (s.dropRegion r).follows = s.follows := rfl
@[simp] theorem State.dropRegion_remotes (s : State) (r : Nat) : (s.dropRegion r).remotes = s.remotes := rfl
@[simp] theorem State.dropRegion_loads (s : State) (r : Nat) : (s.dropRegion r).loads = s.loads := rfl
@[simp] theorem State.dropRegion_heldDone (s : State) (r : Nat) : (s.dropRegion r).heldDone = s.heldDone := rfl
@[simp] theorem State.dropRegion_kept (s : State) (r : Nat) : (s.dropRegion r).kept = s.kept := rfl
@[simp] theorem State.dropRegion_msix (s : State) (r : Nat) : (s.dropRegion r).msix = s.msix := rfl
@[simp] theorem State.dropRegion_replays (s : State) (r : Nat) : (s.dropRegion r).replays = s.replays := rfl
@[simp] theorem State.dropRegion_edgesDown (s : State) (r : Nat) : (s.dropRegion r).edgesDown = s.edgesDown := rfl
@[simp] theorem State.dropRegion_qm900 (s : State) (r : Nat) : (s.dropRegion r).qm900 = s.qm900 := rfl
@[simp] theorem State.dropRegion_stage (s : State) (r : Nat) : (s.dropRegion r).stage = s.stage := rfl
@[simp] theorem State.dropRegion_failure (s : State) (r : Nat) : (s.dropRegion r).failure = s.failure := rfl
@[simp] theorem State.dropRegion_debug (s : State) (r : Nat) : (s.dropRegion r).debug = s.debug := rfl
@[simp] theorem State.dropRegion_asidtb (s : State) (r : Nat) : (s.dropRegion r).asidtb = s.asidtb := rfl
@[simp] theorem State.dropRegion_troot (s : State) (r : Nat) : (s.dropRegion r).troot = s.troot := rfl
@[simp] theorem State.dropRegion_ioClock (s : State) (r : Nat) : (s.dropRegion r).ioClock = s.ioClock := rfl
@[simp] theorem State.dropRegion_ref (s : State) (r : Nat) : (s.dropRegion r).ref = s.ref := rfl
@[simp] theorem State.dropRegion_frz (s : State) (r : Nat) : (s.dropRegion r).frz = s.frz := rfl
@[simp] theorem State.dropRegion_conn (s : State) (r : Nat) : (s.dropRegion r).conn = s.conn := rfl
@[simp] theorem State.dropRegion_draining (s : State) (r : Nat) : (s.dropRegion r).draining = s.draining := rfl
@[simp] theorem State.dropRegion_ctEntry (s : State) (r : Nat) : (s.dropRegion r).ctEntry = s.ctEntry := rfl
@[simp] theorem State.dropRegion_ctReason (s : State) (r : Nat) : (s.dropRegion r).ctReason = s.ctReason := rfl
@[simp] theorem State.dropRegion_ctSticky (s : State) (r : Nat) : (s.dropRegion r).ctSticky = s.ctSticky := rfl
@[simp] theorem State.dropRegion_meas (s : State) (r : Nat) : (s.dropRegion r).meas = s.meas := rfl
@[simp] theorem State.dropRegion_aliasKey (s : State) (r : Nat) : (s.dropRegion r).aliasKey = s.aliasKey := rfl
@[simp] theorem State.dropRegion_limits (s : State) (r : Nat) : (s.dropRegion r).limits = s.limits := rfl
@[simp] theorem State.dropRegion_powered (s : State) (r : Nat) : (s.dropRegion r).powered = s.powered := rfl
@[simp] theorem State.dropRegion_recovery (s : State) (r : Nat) : (s.dropRegion r).recovery = s.recovery := rfl
@[simp] theorem State.dropRegion_perst (s : State) (r : Nat) : (s.dropRegion r).perst = s.perst := rfl
@[simp] theorem State.dropRegion_enumerated (s : State) (r : Nat) : (s.dropRegion r).enumerated = s.enumerated := rfl
@[simp] theorem State.dropRegion_stopped (s : State) (r : Nat) : (s.dropRegion r).stopped = s.stopped := rfl
@[simp] theorem State.dropRegion_ckpt (s : State) (r : Nat) : (s.dropRegion r).ckpt = s.ckpt := rfl
@[simp] theorem State.dropRegion_ckptDone (s : State) (r : Nat) : (s.dropRegion r).ckptDone = s.ckptDone := rfl
@[simp] theorem State.dropRegion_ckptBad (s : State) (r : Nat) : (s.dropRegion r).ckptBad = s.ckptBad := rfl

/-! ### modTile -/

@[simp] theorem State.modTile_focus (s : State) (t : Nat) (f : Tile → Tile) : (s.modTile t f).focus = s.focus := rfl
@[simp] theorem State.modTile_agenda (s : State) (t : Nat) (f : Tile → Tile) : (s.modTile t f).agenda = s.agenda := rfl
@[simp] theorem State.modTile_fresh (s : State) (t : Nat) (f : Tile → Tile) : (s.modTile t f).fresh = s.fresh := rfl
@[simp] theorem State.modTile_nextId (s : State) (t : Nat) (f : Tile → Tile) : (s.modTile t f).nextId = s.nextId := rfl
@[simp] theorem State.modTile_reply (s : State) (t : Nat) (f : Tile → Tile) : (s.modTile t f).reply = s.reply := rfl
@[simp] theorem State.modTile_fn (s : State) (t : Nat) (f : Tile → Tile) : (s.modTile t f).fn = s.fn := rfl
@[simp] theorem State.modTile_mem (s : State) (t : Nat) (f : Tile → Tile) : (s.modTile t f).mem = s.mem := rfl
@[simp] theorem State.modTile_fitted (s : State) (t : Nat) (f : Tile → Tile) : (s.modTile t f).fitted = s.fitted := rfl
@[simp] theorem State.modTile_full (s : State) (t : Nat) (f : Tile → Tile) : (s.modTile t f).full = s.full := rfl
@[simp] theorem State.modTile_poison (s : State) (t : Nat) (f : Tile → Tile) : (s.modTile t f).poison = s.poison := rfl
@[simp] theorem State.modTile_sharers (s : State) (t : Nat) (f : Tile → Tile) : (s.modTile t f).sharers = s.sharers := rfl
@[simp] theorem State.modTile_invs (s : State) (t : Nat) (f : Tile → Tile) : (s.modTile t f).invs = s.invs := rfl
@[simp] theorem State.modTile_posted (s : State) (t : Nat) (f : Tile → Tile) : (s.modTile t f).posted = s.posted := rfl
@[simp] theorem State.modTile_dues (s : State) (t : Nat) (f : Tile → Tile) : (s.modTile t f).dues = s.dues := rfl
@[simp] theorem State.modTile_badMeta (s : State) (t : Nat) (f : Tile → Tile) : (s.modTile t f).badMeta = s.badMeta := rfl
@[simp] theorem State.modTile_rels (s : State) (t : Nat) (f : Tile → Tile) : (s.modTile t f).rels = s.rels := rfl
@[simp] theorem State.modTile_deferred (s : State) (t : Nat) (f : Tile → Tile) : (s.modTile t f).deferred = s.deferred := rfl
@[simp] theorem State.modTile_dies (s : State) (t : Nat) (f : Tile → Tile) : (s.modTile t f).dies = s.dies := rfl
@[simp] theorem State.modTile_regions (s : State) (t : Nat) (f : Tile → Tile) : (s.modTile t f).regions = s.regions := rfl
@[simp] theorem State.modTile_slices (s : State) (t : Nat) (f : Tile → Tile) : (s.modTile t f).slices = s.slices := rfl
@[simp] theorem State.modTile_links (s : State) (t : Nat) (f : Tile → Tile) : (s.modTile t f).links = s.links := rfl
@[simp] theorem State.modTile_cmds (s : State) (t : Nat) (f : Tile → Tile) : (s.modTile t f).cmds = s.cmds := rfl
@[simp] theorem State.modTile_subs (s : State) (t : Nat) (f : Tile → Tile) : (s.modTile t f).subs = s.subs := rfl
@[simp] theorem State.modTile_comps (s : State) (t : Nat) (f : Tile → Tile) : (s.modTile t f).comps = s.comps := rfl
@[simp] theorem State.modTile_follows (s : State) (t : Nat) (f : Tile → Tile) : (s.modTile t f).follows = s.follows := rfl
@[simp] theorem State.modTile_remotes (s : State) (t : Nat) (f : Tile → Tile) : (s.modTile t f).remotes = s.remotes := rfl
@[simp] theorem State.modTile_loads (s : State) (t : Nat) (f : Tile → Tile) : (s.modTile t f).loads = s.loads := rfl
@[simp] theorem State.modTile_heldDone (s : State) (t : Nat) (f : Tile → Tile) : (s.modTile t f).heldDone = s.heldDone := rfl
@[simp] theorem State.modTile_kept (s : State) (t : Nat) (f : Tile → Tile) : (s.modTile t f).kept = s.kept := rfl
@[simp] theorem State.modTile_msix (s : State) (t : Nat) (f : Tile → Tile) : (s.modTile t f).msix = s.msix := rfl
@[simp] theorem State.modTile_replays (s : State) (t : Nat) (f : Tile → Tile) : (s.modTile t f).replays = s.replays := rfl
@[simp] theorem State.modTile_edgesDown (s : State) (t : Nat) (f : Tile → Tile) : (s.modTile t f).edgesDown = s.edgesDown := rfl
@[simp] theorem State.modTile_qm900 (s : State) (t : Nat) (f : Tile → Tile) : (s.modTile t f).qm900 = s.qm900 := rfl
@[simp] theorem State.modTile_stage (s : State) (t : Nat) (f : Tile → Tile) : (s.modTile t f).stage = s.stage := rfl
@[simp] theorem State.modTile_failure (s : State) (t : Nat) (f : Tile → Tile) : (s.modTile t f).failure = s.failure := rfl
@[simp] theorem State.modTile_debug (s : State) (t : Nat) (f : Tile → Tile) : (s.modTile t f).debug = s.debug := rfl
@[simp] theorem State.modTile_asidtb (s : State) (t : Nat) (f : Tile → Tile) : (s.modTile t f).asidtb = s.asidtb := rfl
@[simp] theorem State.modTile_troot (s : State) (t : Nat) (f : Tile → Tile) : (s.modTile t f).troot = s.troot := rfl
@[simp] theorem State.modTile_ioClock (s : State) (t : Nat) (f : Tile → Tile) : (s.modTile t f).ioClock = s.ioClock := rfl
@[simp] theorem State.modTile_ref (s : State) (t : Nat) (f : Tile → Tile) : (s.modTile t f).ref = s.ref := rfl
@[simp] theorem State.modTile_frz (s : State) (t : Nat) (f : Tile → Tile) : (s.modTile t f).frz = s.frz := rfl
@[simp] theorem State.modTile_conn (s : State) (t : Nat) (f : Tile → Tile) : (s.modTile t f).conn = s.conn := rfl
@[simp] theorem State.modTile_draining (s : State) (t : Nat) (f : Tile → Tile) : (s.modTile t f).draining = s.draining := rfl
@[simp] theorem State.modTile_ctEntry (s : State) (t : Nat) (f : Tile → Tile) : (s.modTile t f).ctEntry = s.ctEntry := rfl
@[simp] theorem State.modTile_ctReason (s : State) (t : Nat) (f : Tile → Tile) : (s.modTile t f).ctReason = s.ctReason := rfl
@[simp] theorem State.modTile_ctSticky (s : State) (t : Nat) (f : Tile → Tile) : (s.modTile t f).ctSticky = s.ctSticky := rfl
@[simp] theorem State.modTile_meas (s : State) (t : Nat) (f : Tile → Tile) : (s.modTile t f).meas = s.meas := rfl
@[simp] theorem State.modTile_aliasKey (s : State) (t : Nat) (f : Tile → Tile) : (s.modTile t f).aliasKey = s.aliasKey := rfl
@[simp] theorem State.modTile_limits (s : State) (t : Nat) (f : Tile → Tile) : (s.modTile t f).limits = s.limits := rfl
@[simp] theorem State.modTile_powered (s : State) (t : Nat) (f : Tile → Tile) : (s.modTile t f).powered = s.powered := rfl
@[simp] theorem State.modTile_recovery (s : State) (t : Nat) (f : Tile → Tile) : (s.modTile t f).recovery = s.recovery := rfl
@[simp] theorem State.modTile_perst (s : State) (t : Nat) (f : Tile → Tile) : (s.modTile t f).perst = s.perst := rfl
@[simp] theorem State.modTile_enumerated (s : State) (t : Nat) (f : Tile → Tile) : (s.modTile t f).enumerated = s.enumerated := rfl
@[simp] theorem State.modTile_stopped (s : State) (t : Nat) (f : Tile → Tile) : (s.modTile t f).stopped = s.stopped := rfl
@[simp] theorem State.modTile_ckpt (s : State) (t : Nat) (f : Tile → Tile) : (s.modTile t f).ckpt = s.ckpt := rfl
@[simp] theorem State.modTile_ckptDone (s : State) (t : Nat) (f : Tile → Tile) : (s.modTile t f).ckptDone = s.ckptDone := rfl
@[simp] theorem State.modTile_ckptBad (s : State) (t : Nat) (f : Tile → Tile) : (s.modTile t f).ckptBad = s.ckptBad := rfl

/-! ### modDie -/

@[simp] theorem State.modDie_focus (s : State) (d : Nat) (f : Die → Die) : (s.modDie d f).focus = s.focus := rfl
@[simp] theorem State.modDie_agenda (s : State) (d : Nat) (f : Die → Die) : (s.modDie d f).agenda = s.agenda := rfl
@[simp] theorem State.modDie_fresh (s : State) (d : Nat) (f : Die → Die) : (s.modDie d f).fresh = s.fresh := rfl
@[simp] theorem State.modDie_nextId (s : State) (d : Nat) (f : Die → Die) : (s.modDie d f).nextId = s.nextId := rfl
@[simp] theorem State.modDie_reply (s : State) (d : Nat) (f : Die → Die) : (s.modDie d f).reply = s.reply := rfl
@[simp] theorem State.modDie_fn (s : State) (d : Nat) (f : Die → Die) : (s.modDie d f).fn = s.fn := rfl
@[simp] theorem State.modDie_mem (s : State) (d : Nat) (f : Die → Die) : (s.modDie d f).mem = s.mem := rfl
@[simp] theorem State.modDie_fitted (s : State) (d : Nat) (f : Die → Die) : (s.modDie d f).fitted = s.fitted := rfl
@[simp] theorem State.modDie_full (s : State) (d : Nat) (f : Die → Die) : (s.modDie d f).full = s.full := rfl
@[simp] theorem State.modDie_poison (s : State) (d : Nat) (f : Die → Die) : (s.modDie d f).poison = s.poison := rfl
@[simp] theorem State.modDie_sharers (s : State) (d : Nat) (f : Die → Die) : (s.modDie d f).sharers = s.sharers := rfl
@[simp] theorem State.modDie_invs (s : State) (d : Nat) (f : Die → Die) : (s.modDie d f).invs = s.invs := rfl
@[simp] theorem State.modDie_posted (s : State) (d : Nat) (f : Die → Die) : (s.modDie d f).posted = s.posted := rfl
@[simp] theorem State.modDie_dues (s : State) (d : Nat) (f : Die → Die) : (s.modDie d f).dues = s.dues := rfl
@[simp] theorem State.modDie_badMeta (s : State) (d : Nat) (f : Die → Die) : (s.modDie d f).badMeta = s.badMeta := rfl
@[simp] theorem State.modDie_rels (s : State) (d : Nat) (f : Die → Die) : (s.modDie d f).rels = s.rels := rfl
@[simp] theorem State.modDie_deferred (s : State) (d : Nat) (f : Die → Die) : (s.modDie d f).deferred = s.deferred := rfl
@[simp] theorem State.modDie_tiles (s : State) (d : Nat) (f : Die → Die) : (s.modDie d f).tiles = s.tiles := rfl
@[simp] theorem State.modDie_regions (s : State) (d : Nat) (f : Die → Die) : (s.modDie d f).regions = s.regions := rfl
@[simp] theorem State.modDie_slices (s : State) (d : Nat) (f : Die → Die) : (s.modDie d f).slices = s.slices := rfl
@[simp] theorem State.modDie_links (s : State) (d : Nat) (f : Die → Die) : (s.modDie d f).links = s.links := rfl
@[simp] theorem State.modDie_cmds (s : State) (d : Nat) (f : Die → Die) : (s.modDie d f).cmds = s.cmds := rfl
@[simp] theorem State.modDie_subs (s : State) (d : Nat) (f : Die → Die) : (s.modDie d f).subs = s.subs := rfl
@[simp] theorem State.modDie_comps (s : State) (d : Nat) (f : Die → Die) : (s.modDie d f).comps = s.comps := rfl
@[simp] theorem State.modDie_follows (s : State) (d : Nat) (f : Die → Die) : (s.modDie d f).follows = s.follows := rfl
@[simp] theorem State.modDie_remotes (s : State) (d : Nat) (f : Die → Die) : (s.modDie d f).remotes = s.remotes := rfl
@[simp] theorem State.modDie_loads (s : State) (d : Nat) (f : Die → Die) : (s.modDie d f).loads = s.loads := rfl
@[simp] theorem State.modDie_heldDone (s : State) (d : Nat) (f : Die → Die) : (s.modDie d f).heldDone = s.heldDone := rfl
@[simp] theorem State.modDie_kept (s : State) (d : Nat) (f : Die → Die) : (s.modDie d f).kept = s.kept := rfl
@[simp] theorem State.modDie_msix (s : State) (d : Nat) (f : Die → Die) : (s.modDie d f).msix = s.msix := rfl
@[simp] theorem State.modDie_replays (s : State) (d : Nat) (f : Die → Die) : (s.modDie d f).replays = s.replays := rfl
@[simp] theorem State.modDie_edgesDown (s : State) (d : Nat) (f : Die → Die) : (s.modDie d f).edgesDown = s.edgesDown := rfl
@[simp] theorem State.modDie_qm900 (s : State) (d : Nat) (f : Die → Die) : (s.modDie d f).qm900 = s.qm900 := rfl
@[simp] theorem State.modDie_stage (s : State) (d : Nat) (f : Die → Die) : (s.modDie d f).stage = s.stage := rfl
@[simp] theorem State.modDie_failure (s : State) (d : Nat) (f : Die → Die) : (s.modDie d f).failure = s.failure := rfl
@[simp] theorem State.modDie_debug (s : State) (d : Nat) (f : Die → Die) : (s.modDie d f).debug = s.debug := rfl
@[simp] theorem State.modDie_asidtb (s : State) (d : Nat) (f : Die → Die) : (s.modDie d f).asidtb = s.asidtb := rfl
@[simp] theorem State.modDie_troot (s : State) (d : Nat) (f : Die → Die) : (s.modDie d f).troot = s.troot := rfl
@[simp] theorem State.modDie_ioClock (s : State) (d : Nat) (f : Die → Die) : (s.modDie d f).ioClock = s.ioClock := rfl
@[simp] theorem State.modDie_ref (s : State) (d : Nat) (f : Die → Die) : (s.modDie d f).ref = s.ref := rfl
@[simp] theorem State.modDie_frz (s : State) (d : Nat) (f : Die → Die) : (s.modDie d f).frz = s.frz := rfl
@[simp] theorem State.modDie_conn (s : State) (d : Nat) (f : Die → Die) : (s.modDie d f).conn = s.conn := rfl
@[simp] theorem State.modDie_draining (s : State) (d : Nat) (f : Die → Die) : (s.modDie d f).draining = s.draining := rfl
@[simp] theorem State.modDie_ctEntry (s : State) (d : Nat) (f : Die → Die) : (s.modDie d f).ctEntry = s.ctEntry := rfl
@[simp] theorem State.modDie_ctReason (s : State) (d : Nat) (f : Die → Die) : (s.modDie d f).ctReason = s.ctReason := rfl
@[simp] theorem State.modDie_ctSticky (s : State) (d : Nat) (f : Die → Die) : (s.modDie d f).ctSticky = s.ctSticky := rfl
@[simp] theorem State.modDie_meas (s : State) (d : Nat) (f : Die → Die) : (s.modDie d f).meas = s.meas := rfl
@[simp] theorem State.modDie_aliasKey (s : State) (d : Nat) (f : Die → Die) : (s.modDie d f).aliasKey = s.aliasKey := rfl
@[simp] theorem State.modDie_limits (s : State) (d : Nat) (f : Die → Die) : (s.modDie d f).limits = s.limits := rfl
@[simp] theorem State.modDie_powered (s : State) (d : Nat) (f : Die → Die) : (s.modDie d f).powered = s.powered := rfl
@[simp] theorem State.modDie_recovery (s : State) (d : Nat) (f : Die → Die) : (s.modDie d f).recovery = s.recovery := rfl
@[simp] theorem State.modDie_perst (s : State) (d : Nat) (f : Die → Die) : (s.modDie d f).perst = s.perst := rfl
@[simp] theorem State.modDie_enumerated (s : State) (d : Nat) (f : Die → Die) : (s.modDie d f).enumerated = s.enumerated := rfl
@[simp] theorem State.modDie_stopped (s : State) (d : Nat) (f : Die → Die) : (s.modDie d f).stopped = s.stopped := rfl
@[simp] theorem State.modDie_ckpt (s : State) (d : Nat) (f : Die → Die) : (s.modDie d f).ckpt = s.ckpt := rfl
@[simp] theorem State.modDie_ckptDone (s : State) (d : Nat) (f : Die → Die) : (s.modDie d f).ckptDone = s.ckptDone := rfl
@[simp] theorem State.modDie_ckptBad (s : State) (d : Nat) (f : Die → Die) : (s.modDie d f).ckptBad = s.ckptBad := rfl

/-! ### modSlice -/

@[simp] theorem State.modSlice_focus (s : State) (n : Nat) (f : Slice → Slice) : (s.modSlice n f).focus = s.focus := rfl
@[simp] theorem State.modSlice_agenda (s : State) (n : Nat) (f : Slice → Slice) : (s.modSlice n f).agenda = s.agenda := rfl
@[simp] theorem State.modSlice_fresh (s : State) (n : Nat) (f : Slice → Slice) : (s.modSlice n f).fresh = s.fresh := rfl
@[simp] theorem State.modSlice_nextId (s : State) (n : Nat) (f : Slice → Slice) : (s.modSlice n f).nextId = s.nextId := rfl
@[simp] theorem State.modSlice_reply (s : State) (n : Nat) (f : Slice → Slice) : (s.modSlice n f).reply = s.reply := rfl
@[simp] theorem State.modSlice_fn (s : State) (n : Nat) (f : Slice → Slice) : (s.modSlice n f).fn = s.fn := rfl
@[simp] theorem State.modSlice_mem (s : State) (n : Nat) (f : Slice → Slice) : (s.modSlice n f).mem = s.mem := rfl
@[simp] theorem State.modSlice_fitted (s : State) (n : Nat) (f : Slice → Slice) : (s.modSlice n f).fitted = s.fitted := rfl
@[simp] theorem State.modSlice_full (s : State) (n : Nat) (f : Slice → Slice) : (s.modSlice n f).full = s.full := rfl
@[simp] theorem State.modSlice_poison (s : State) (n : Nat) (f : Slice → Slice) : (s.modSlice n f).poison = s.poison := rfl
@[simp] theorem State.modSlice_sharers (s : State) (n : Nat) (f : Slice → Slice) : (s.modSlice n f).sharers = s.sharers := rfl
@[simp] theorem State.modSlice_invs (s : State) (n : Nat) (f : Slice → Slice) : (s.modSlice n f).invs = s.invs := rfl
@[simp] theorem State.modSlice_posted (s : State) (n : Nat) (f : Slice → Slice) : (s.modSlice n f).posted = s.posted := rfl
@[simp] theorem State.modSlice_dues (s : State) (n : Nat) (f : Slice → Slice) : (s.modSlice n f).dues = s.dues := rfl
@[simp] theorem State.modSlice_badMeta (s : State) (n : Nat) (f : Slice → Slice) : (s.modSlice n f).badMeta = s.badMeta := rfl
@[simp] theorem State.modSlice_rels (s : State) (n : Nat) (f : Slice → Slice) : (s.modSlice n f).rels = s.rels := rfl
@[simp] theorem State.modSlice_deferred (s : State) (n : Nat) (f : Slice → Slice) : (s.modSlice n f).deferred = s.deferred := rfl
@[simp] theorem State.modSlice_tiles (s : State) (n : Nat) (f : Slice → Slice) : (s.modSlice n f).tiles = s.tiles := rfl
@[simp] theorem State.modSlice_dies (s : State) (n : Nat) (f : Slice → Slice) : (s.modSlice n f).dies = s.dies := rfl
@[simp] theorem State.modSlice_regions (s : State) (n : Nat) (f : Slice → Slice) : (s.modSlice n f).regions = s.regions := rfl
@[simp] theorem State.modSlice_links (s : State) (n : Nat) (f : Slice → Slice) : (s.modSlice n f).links = s.links := rfl
@[simp] theorem State.modSlice_cmds (s : State) (n : Nat) (f : Slice → Slice) : (s.modSlice n f).cmds = s.cmds := rfl
@[simp] theorem State.modSlice_subs (s : State) (n : Nat) (f : Slice → Slice) : (s.modSlice n f).subs = s.subs := rfl
@[simp] theorem State.modSlice_comps (s : State) (n : Nat) (f : Slice → Slice) : (s.modSlice n f).comps = s.comps := rfl
@[simp] theorem State.modSlice_follows (s : State) (n : Nat) (f : Slice → Slice) : (s.modSlice n f).follows = s.follows := rfl
@[simp] theorem State.modSlice_remotes (s : State) (n : Nat) (f : Slice → Slice) : (s.modSlice n f).remotes = s.remotes := rfl
@[simp] theorem State.modSlice_loads (s : State) (n : Nat) (f : Slice → Slice) : (s.modSlice n f).loads = s.loads := rfl
@[simp] theorem State.modSlice_heldDone (s : State) (n : Nat) (f : Slice → Slice) : (s.modSlice n f).heldDone = s.heldDone := rfl
@[simp] theorem State.modSlice_kept (s : State) (n : Nat) (f : Slice → Slice) : (s.modSlice n f).kept = s.kept := rfl
@[simp] theorem State.modSlice_msix (s : State) (n : Nat) (f : Slice → Slice) : (s.modSlice n f).msix = s.msix := rfl
@[simp] theorem State.modSlice_replays (s : State) (n : Nat) (f : Slice → Slice) : (s.modSlice n f).replays = s.replays := rfl
@[simp] theorem State.modSlice_edgesDown (s : State) (n : Nat) (f : Slice → Slice) : (s.modSlice n f).edgesDown = s.edgesDown := rfl
@[simp] theorem State.modSlice_qm900 (s : State) (n : Nat) (f : Slice → Slice) : (s.modSlice n f).qm900 = s.qm900 := rfl
@[simp] theorem State.modSlice_stage (s : State) (n : Nat) (f : Slice → Slice) : (s.modSlice n f).stage = s.stage := rfl
@[simp] theorem State.modSlice_failure (s : State) (n : Nat) (f : Slice → Slice) : (s.modSlice n f).failure = s.failure := rfl
@[simp] theorem State.modSlice_debug (s : State) (n : Nat) (f : Slice → Slice) : (s.modSlice n f).debug = s.debug := rfl
@[simp] theorem State.modSlice_asidtb (s : State) (n : Nat) (f : Slice → Slice) : (s.modSlice n f).asidtb = s.asidtb := rfl
@[simp] theorem State.modSlice_troot (s : State) (n : Nat) (f : Slice → Slice) : (s.modSlice n f).troot = s.troot := rfl
@[simp] theorem State.modSlice_ioClock (s : State) (n : Nat) (f : Slice → Slice) : (s.modSlice n f).ioClock = s.ioClock := rfl
@[simp] theorem State.modSlice_ref (s : State) (n : Nat) (f : Slice → Slice) : (s.modSlice n f).ref = s.ref := rfl
@[simp] theorem State.modSlice_frz (s : State) (n : Nat) (f : Slice → Slice) : (s.modSlice n f).frz = s.frz := rfl
@[simp] theorem State.modSlice_conn (s : State) (n : Nat) (f : Slice → Slice) : (s.modSlice n f).conn = s.conn := rfl
@[simp] theorem State.modSlice_draining (s : State) (n : Nat) (f : Slice → Slice) : (s.modSlice n f).draining = s.draining := rfl
@[simp] theorem State.modSlice_ctEntry (s : State) (n : Nat) (f : Slice → Slice) : (s.modSlice n f).ctEntry = s.ctEntry := rfl
@[simp] theorem State.modSlice_ctReason (s : State) (n : Nat) (f : Slice → Slice) : (s.modSlice n f).ctReason = s.ctReason := rfl
@[simp] theorem State.modSlice_ctSticky (s : State) (n : Nat) (f : Slice → Slice) : (s.modSlice n f).ctSticky = s.ctSticky := rfl
@[simp] theorem State.modSlice_meas (s : State) (n : Nat) (f : Slice → Slice) : (s.modSlice n f).meas = s.meas := rfl
@[simp] theorem State.modSlice_aliasKey (s : State) (n : Nat) (f : Slice → Slice) : (s.modSlice n f).aliasKey = s.aliasKey := rfl
@[simp] theorem State.modSlice_limits (s : State) (n : Nat) (f : Slice → Slice) : (s.modSlice n f).limits = s.limits := rfl
@[simp] theorem State.modSlice_powered (s : State) (n : Nat) (f : Slice → Slice) : (s.modSlice n f).powered = s.powered := rfl
@[simp] theorem State.modSlice_recovery (s : State) (n : Nat) (f : Slice → Slice) : (s.modSlice n f).recovery = s.recovery := rfl
@[simp] theorem State.modSlice_perst (s : State) (n : Nat) (f : Slice → Slice) : (s.modSlice n f).perst = s.perst := rfl
@[simp] theorem State.modSlice_enumerated (s : State) (n : Nat) (f : Slice → Slice) : (s.modSlice n f).enumerated = s.enumerated := rfl
@[simp] theorem State.modSlice_stopped (s : State) (n : Nat) (f : Slice → Slice) : (s.modSlice n f).stopped = s.stopped := rfl
@[simp] theorem State.modSlice_ckpt (s : State) (n : Nat) (f : Slice → Slice) : (s.modSlice n f).ckpt = s.ckpt := rfl
@[simp] theorem State.modSlice_ckptDone (s : State) (n : Nat) (f : Slice → Slice) : (s.modSlice n f).ckptDone = s.ckptDone := rfl
@[simp] theorem State.modSlice_ckptBad (s : State) (n : Nat) (f : Slice → Slice) : (s.modSlice n f).ckptBad = s.ckptBad := rfl

/-! ### setCore -/

@[simp] theorem State.setCore_focus (s : State) (c : Core) : (s.setCore c).focus = s.focus := rfl
@[simp] theorem State.setCore_agenda (s : State) (c : Core) : (s.setCore c).agenda = s.agenda := rfl
@[simp] theorem State.setCore_fresh (s : State) (c : Core) : (s.setCore c).fresh = s.fresh := rfl
@[simp] theorem State.setCore_nextId (s : State) (c : Core) : (s.setCore c).nextId = s.nextId := rfl
@[simp] theorem State.setCore_reply (s : State) (c : Core) : (s.setCore c).reply = s.reply := rfl
@[simp] theorem State.setCore_fn (s : State) (c : Core) : (s.setCore c).fn = s.fn := rfl
@[simp] theorem State.setCore_mem (s : State) (c : Core) : (s.setCore c).mem = s.mem := rfl
@[simp] theorem State.setCore_fitted (s : State) (c : Core) : (s.setCore c).fitted = s.fitted := rfl
@[simp] theorem State.setCore_full (s : State) (c : Core) : (s.setCore c).full = s.full := rfl
@[simp] theorem State.setCore_poison (s : State) (c : Core) : (s.setCore c).poison = s.poison := rfl
@[simp] theorem State.setCore_sharers (s : State) (c : Core) : (s.setCore c).sharers = s.sharers := rfl
@[simp] theorem State.setCore_invs (s : State) (c : Core) : (s.setCore c).invs = s.invs := rfl
@[simp] theorem State.setCore_posted (s : State) (c : Core) : (s.setCore c).posted = s.posted := rfl
@[simp] theorem State.setCore_dues (s : State) (c : Core) : (s.setCore c).dues = s.dues := rfl
@[simp] theorem State.setCore_badMeta (s : State) (c : Core) : (s.setCore c).badMeta = s.badMeta := rfl
@[simp] theorem State.setCore_rels (s : State) (c : Core) : (s.setCore c).rels = s.rels := rfl
@[simp] theorem State.setCore_deferred (s : State) (c : Core) : (s.setCore c).deferred = s.deferred := rfl
@[simp] theorem State.setCore_dies (s : State) (c : Core) : (s.setCore c).dies = s.dies := rfl
@[simp] theorem State.setCore_regions (s : State) (c : Core) : (s.setCore c).regions = s.regions := rfl
@[simp] theorem State.setCore_slices (s : State) (c : Core) : (s.setCore c).slices = s.slices := rfl
@[simp] theorem State.setCore_links (s : State) (c : Core) : (s.setCore c).links = s.links := rfl
@[simp] theorem State.setCore_cmds (s : State) (c : Core) : (s.setCore c).cmds = s.cmds := rfl
@[simp] theorem State.setCore_subs (s : State) (c : Core) : (s.setCore c).subs = s.subs := rfl
@[simp] theorem State.setCore_comps (s : State) (c : Core) : (s.setCore c).comps = s.comps := rfl
@[simp] theorem State.setCore_follows (s : State) (c : Core) : (s.setCore c).follows = s.follows := rfl
@[simp] theorem State.setCore_remotes (s : State) (c : Core) : (s.setCore c).remotes = s.remotes := rfl
@[simp] theorem State.setCore_loads (s : State) (c : Core) : (s.setCore c).loads = s.loads := rfl
@[simp] theorem State.setCore_heldDone (s : State) (c : Core) : (s.setCore c).heldDone = s.heldDone := rfl
@[simp] theorem State.setCore_kept (s : State) (c : Core) : (s.setCore c).kept = s.kept := rfl
@[simp] theorem State.setCore_msix (s : State) (c : Core) : (s.setCore c).msix = s.msix := rfl
@[simp] theorem State.setCore_replays (s : State) (c : Core) : (s.setCore c).replays = s.replays := rfl
@[simp] theorem State.setCore_edgesDown (s : State) (c : Core) : (s.setCore c).edgesDown = s.edgesDown := rfl
@[simp] theorem State.setCore_qm900 (s : State) (c : Core) : (s.setCore c).qm900 = s.qm900 := rfl
@[simp] theorem State.setCore_stage (s : State) (c : Core) : (s.setCore c).stage = s.stage := rfl
@[simp] theorem State.setCore_failure (s : State) (c : Core) : (s.setCore c).failure = s.failure := rfl
@[simp] theorem State.setCore_debug (s : State) (c : Core) : (s.setCore c).debug = s.debug := rfl
@[simp] theorem State.setCore_asidtb (s : State) (c : Core) : (s.setCore c).asidtb = s.asidtb := rfl
@[simp] theorem State.setCore_troot (s : State) (c : Core) : (s.setCore c).troot = s.troot := rfl
@[simp] theorem State.setCore_ioClock (s : State) (c : Core) : (s.setCore c).ioClock = s.ioClock := rfl
@[simp] theorem State.setCore_ref (s : State) (c : Core) : (s.setCore c).ref = s.ref := rfl
@[simp] theorem State.setCore_frz (s : State) (c : Core) : (s.setCore c).frz = s.frz := rfl
@[simp] theorem State.setCore_conn (s : State) (c : Core) : (s.setCore c).conn = s.conn := rfl
@[simp] theorem State.setCore_draining (s : State) (c : Core) : (s.setCore c).draining = s.draining := rfl
@[simp] theorem State.setCore_ctEntry (s : State) (c : Core) : (s.setCore c).ctEntry = s.ctEntry := rfl
@[simp] theorem State.setCore_ctReason (s : State) (c : Core) : (s.setCore c).ctReason = s.ctReason := rfl
@[simp] theorem State.setCore_ctSticky (s : State) (c : Core) : (s.setCore c).ctSticky = s.ctSticky := rfl
@[simp] theorem State.setCore_meas (s : State) (c : Core) : (s.setCore c).meas = s.meas := rfl
@[simp] theorem State.setCore_aliasKey (s : State) (c : Core) : (s.setCore c).aliasKey = s.aliasKey := rfl
@[simp] theorem State.setCore_limits (s : State) (c : Core) : (s.setCore c).limits = s.limits := rfl
@[simp] theorem State.setCore_powered (s : State) (c : Core) : (s.setCore c).powered = s.powered := rfl
@[simp] theorem State.setCore_recovery (s : State) (c : Core) : (s.setCore c).recovery = s.recovery := rfl
@[simp] theorem State.setCore_perst (s : State) (c : Core) : (s.setCore c).perst = s.perst := rfl
@[simp] theorem State.setCore_enumerated (s : State) (c : Core) : (s.setCore c).enumerated = s.enumerated := rfl
@[simp] theorem State.setCore_stopped (s : State) (c : Core) : (s.setCore c).stopped = s.stopped := rfl
@[simp] theorem State.setCore_ckpt (s : State) (c : Core) : (s.setCore c).ckpt = s.ckpt := rfl
@[simp] theorem State.setCore_ckptDone (s : State) (c : Core) : (s.setCore c).ckptDone = s.ckptDone := rfl
@[simp] theorem State.setCore_ckptBad (s : State) (c : Core) : (s.setCore c).ckptBad = s.ckptBad := rfl

/-! ### setReg -/

@[simp] theorem State.setReg_focus (s : State) (r : Reg) (v : Dw) : (s.setReg r v).focus = s.focus := rfl
@[simp] theorem State.setReg_agenda (s : State) (r : Reg) (v : Dw) : (s.setReg r v).agenda = s.agenda := rfl
@[simp] theorem State.setReg_fresh (s : State) (r : Reg) (v : Dw) : (s.setReg r v).fresh = s.fresh := rfl
@[simp] theorem State.setReg_nextId (s : State) (r : Reg) (v : Dw) : (s.setReg r v).nextId = s.nextId := rfl
@[simp] theorem State.setReg_reply (s : State) (r : Reg) (v : Dw) : (s.setReg r v).reply = s.reply := rfl
@[simp] theorem State.setReg_fn (s : State) (r : Reg) (v : Dw) : (s.setReg r v).fn = s.fn := rfl
@[simp] theorem State.setReg_mem (s : State) (r : Reg) (v : Dw) : (s.setReg r v).mem = s.mem := rfl
@[simp] theorem State.setReg_fitted (s : State) (r : Reg) (v : Dw) : (s.setReg r v).fitted = s.fitted := rfl
@[simp] theorem State.setReg_full (s : State) (r : Reg) (v : Dw) : (s.setReg r v).full = s.full := rfl
@[simp] theorem State.setReg_poison (s : State) (r : Reg) (v : Dw) : (s.setReg r v).poison = s.poison := rfl
@[simp] theorem State.setReg_sharers (s : State) (r : Reg) (v : Dw) : (s.setReg r v).sharers = s.sharers := rfl
@[simp] theorem State.setReg_invs (s : State) (r : Reg) (v : Dw) : (s.setReg r v).invs = s.invs := rfl
@[simp] theorem State.setReg_posted (s : State) (r : Reg) (v : Dw) : (s.setReg r v).posted = s.posted := rfl
@[simp] theorem State.setReg_dues (s : State) (r : Reg) (v : Dw) : (s.setReg r v).dues = s.dues := rfl
@[simp] theorem State.setReg_badMeta (s : State) (r : Reg) (v : Dw) : (s.setReg r v).badMeta = s.badMeta := rfl
@[simp] theorem State.setReg_rels (s : State) (r : Reg) (v : Dw) : (s.setReg r v).rels = s.rels := rfl
@[simp] theorem State.setReg_deferred (s : State) (r : Reg) (v : Dw) : (s.setReg r v).deferred = s.deferred := rfl
@[simp] theorem State.setReg_dies (s : State) (r : Reg) (v : Dw) : (s.setReg r v).dies = s.dies := rfl
@[simp] theorem State.setReg_regions (s : State) (r : Reg) (v : Dw) : (s.setReg r v).regions = s.regions := rfl
@[simp] theorem State.setReg_slices (s : State) (r : Reg) (v : Dw) : (s.setReg r v).slices = s.slices := rfl
@[simp] theorem State.setReg_links (s : State) (r : Reg) (v : Dw) : (s.setReg r v).links = s.links := rfl
@[simp] theorem State.setReg_cmds (s : State) (r : Reg) (v : Dw) : (s.setReg r v).cmds = s.cmds := rfl
@[simp] theorem State.setReg_subs (s : State) (r : Reg) (v : Dw) : (s.setReg r v).subs = s.subs := rfl
@[simp] theorem State.setReg_comps (s : State) (r : Reg) (v : Dw) : (s.setReg r v).comps = s.comps := rfl
@[simp] theorem State.setReg_follows (s : State) (r : Reg) (v : Dw) : (s.setReg r v).follows = s.follows := rfl
@[simp] theorem State.setReg_remotes (s : State) (r : Reg) (v : Dw) : (s.setReg r v).remotes = s.remotes := rfl
@[simp] theorem State.setReg_loads (s : State) (r : Reg) (v : Dw) : (s.setReg r v).loads = s.loads := rfl
@[simp] theorem State.setReg_heldDone (s : State) (r : Reg) (v : Dw) : (s.setReg r v).heldDone = s.heldDone := rfl
@[simp] theorem State.setReg_kept (s : State) (r : Reg) (v : Dw) : (s.setReg r v).kept = s.kept := rfl
@[simp] theorem State.setReg_msix (s : State) (r : Reg) (v : Dw) : (s.setReg r v).msix = s.msix := rfl
@[simp] theorem State.setReg_replays (s : State) (r : Reg) (v : Dw) : (s.setReg r v).replays = s.replays := rfl
@[simp] theorem State.setReg_edgesDown (s : State) (r : Reg) (v : Dw) : (s.setReg r v).edgesDown = s.edgesDown := rfl
@[simp] theorem State.setReg_qm900 (s : State) (r : Reg) (v : Dw) : (s.setReg r v).qm900 = s.qm900 := rfl
@[simp] theorem State.setReg_stage (s : State) (r : Reg) (v : Dw) : (s.setReg r v).stage = s.stage := rfl
@[simp] theorem State.setReg_failure (s : State) (r : Reg) (v : Dw) : (s.setReg r v).failure = s.failure := rfl
@[simp] theorem State.setReg_debug (s : State) (r : Reg) (v : Dw) : (s.setReg r v).debug = s.debug := rfl
@[simp] theorem State.setReg_asidtb (s : State) (r : Reg) (v : Dw) : (s.setReg r v).asidtb = s.asidtb := rfl
@[simp] theorem State.setReg_troot (s : State) (r : Reg) (v : Dw) : (s.setReg r v).troot = s.troot := rfl
@[simp] theorem State.setReg_ioClock (s : State) (r : Reg) (v : Dw) : (s.setReg r v).ioClock = s.ioClock := rfl
@[simp] theorem State.setReg_ref (s : State) (r : Reg) (v : Dw) : (s.setReg r v).ref = s.ref := rfl
@[simp] theorem State.setReg_frz (s : State) (r : Reg) (v : Dw) : (s.setReg r v).frz = s.frz := rfl
@[simp] theorem State.setReg_conn (s : State) (r : Reg) (v : Dw) : (s.setReg r v).conn = s.conn := rfl
@[simp] theorem State.setReg_draining (s : State) (r : Reg) (v : Dw) : (s.setReg r v).draining = s.draining := rfl
@[simp] theorem State.setReg_ctEntry (s : State) (r : Reg) (v : Dw) : (s.setReg r v).ctEntry = s.ctEntry := rfl
@[simp] theorem State.setReg_ctReason (s : State) (r : Reg) (v : Dw) : (s.setReg r v).ctReason = s.ctReason := rfl
@[simp] theorem State.setReg_ctSticky (s : State) (r : Reg) (v : Dw) : (s.setReg r v).ctSticky = s.ctSticky := rfl
@[simp] theorem State.setReg_meas (s : State) (r : Reg) (v : Dw) : (s.setReg r v).meas = s.meas := rfl
@[simp] theorem State.setReg_aliasKey (s : State) (r : Reg) (v : Dw) : (s.setReg r v).aliasKey = s.aliasKey := rfl
@[simp] theorem State.setReg_limits (s : State) (r : Reg) (v : Dw) : (s.setReg r v).limits = s.limits := rfl
@[simp] theorem State.setReg_powered (s : State) (r : Reg) (v : Dw) : (s.setReg r v).powered = s.powered := rfl
@[simp] theorem State.setReg_recovery (s : State) (r : Reg) (v : Dw) : (s.setReg r v).recovery = s.recovery := rfl
@[simp] theorem State.setReg_perst (s : State) (r : Reg) (v : Dw) : (s.setReg r v).perst = s.perst := rfl
@[simp] theorem State.setReg_enumerated (s : State) (r : Reg) (v : Dw) : (s.setReg r v).enumerated = s.enumerated := rfl
@[simp] theorem State.setReg_stopped (s : State) (r : Reg) (v : Dw) : (s.setReg r v).stopped = s.stopped := rfl
@[simp] theorem State.setReg_ckpt (s : State) (r : Reg) (v : Dw) : (s.setReg r v).ckpt = s.ckpt := rfl
@[simp] theorem State.setReg_ckptDone (s : State) (r : Reg) (v : Dw) : (s.setReg r v).ckptDone = s.ckptDone := rfl
@[simp] theorem State.setReg_ckptBad (s : State) (r : Reg) (v : Dw) : (s.setReg r v).ckptBad = s.ckptBad := rfl

/-! ### advance -/

@[simp] theorem State.advance_focus (s : State) : (s.advance).focus = s.focus := rfl
@[simp] theorem State.advance_agenda (s : State) : (s.advance).agenda = s.agenda := rfl
@[simp] theorem State.advance_fresh (s : State) : (s.advance).fresh = s.fresh := rfl
@[simp] theorem State.advance_nextId (s : State) : (s.advance).nextId = s.nextId := rfl
@[simp] theorem State.advance_reply (s : State) : (s.advance).reply = s.reply := rfl
@[simp] theorem State.advance_fn (s : State) : (s.advance).fn = s.fn := rfl
@[simp] theorem State.advance_mem (s : State) : (s.advance).mem = s.mem := rfl
@[simp] theorem State.advance_fitted (s : State) : (s.advance).fitted = s.fitted := rfl
@[simp] theorem State.advance_full (s : State) : (s.advance).full = s.full := rfl
@[simp] theorem State.advance_poison (s : State) : (s.advance).poison = s.poison := rfl
@[simp] theorem State.advance_sharers (s : State) : (s.advance).sharers = s.sharers := rfl
@[simp] theorem State.advance_invs (s : State) : (s.advance).invs = s.invs := rfl
@[simp] theorem State.advance_posted (s : State) : (s.advance).posted = s.posted := rfl
@[simp] theorem State.advance_dues (s : State) : (s.advance).dues = s.dues := rfl
@[simp] theorem State.advance_badMeta (s : State) : (s.advance).badMeta = s.badMeta := rfl
@[simp] theorem State.advance_rels (s : State) : (s.advance).rels = s.rels := rfl
@[simp] theorem State.advance_deferred (s : State) : (s.advance).deferred = s.deferred := rfl
@[simp] theorem State.advance_dies (s : State) : (s.advance).dies = s.dies := rfl
@[simp] theorem State.advance_regions (s : State) : (s.advance).regions = s.regions := rfl
@[simp] theorem State.advance_slices (s : State) : (s.advance).slices = s.slices := rfl
@[simp] theorem State.advance_links (s : State) : (s.advance).links = s.links := rfl
@[simp] theorem State.advance_cmds (s : State) : (s.advance).cmds = s.cmds := rfl
@[simp] theorem State.advance_subs (s : State) : (s.advance).subs = s.subs := rfl
@[simp] theorem State.advance_comps (s : State) : (s.advance).comps = s.comps := rfl
@[simp] theorem State.advance_follows (s : State) : (s.advance).follows = s.follows := rfl
@[simp] theorem State.advance_remotes (s : State) : (s.advance).remotes = s.remotes := rfl
@[simp] theorem State.advance_loads (s : State) : (s.advance).loads = s.loads := rfl
@[simp] theorem State.advance_heldDone (s : State) : (s.advance).heldDone = s.heldDone := rfl
@[simp] theorem State.advance_kept (s : State) : (s.advance).kept = s.kept := rfl
@[simp] theorem State.advance_msix (s : State) : (s.advance).msix = s.msix := rfl
@[simp] theorem State.advance_replays (s : State) : (s.advance).replays = s.replays := rfl
@[simp] theorem State.advance_edgesDown (s : State) : (s.advance).edgesDown = s.edgesDown := rfl
@[simp] theorem State.advance_qm900 (s : State) : (s.advance).qm900 = s.qm900 := rfl
@[simp] theorem State.advance_stage (s : State) : (s.advance).stage = s.stage := rfl
@[simp] theorem State.advance_failure (s : State) : (s.advance).failure = s.failure := rfl
@[simp] theorem State.advance_debug (s : State) : (s.advance).debug = s.debug := rfl
@[simp] theorem State.advance_asidtb (s : State) : (s.advance).asidtb = s.asidtb := rfl
@[simp] theorem State.advance_troot (s : State) : (s.advance).troot = s.troot := rfl
@[simp] theorem State.advance_ioClock (s : State) : (s.advance).ioClock = s.ioClock := rfl
@[simp] theorem State.advance_ref (s : State) : (s.advance).ref = s.ref := rfl
@[simp] theorem State.advance_frz (s : State) : (s.advance).frz = s.frz := rfl
@[simp] theorem State.advance_conn (s : State) : (s.advance).conn = s.conn := rfl
@[simp] theorem State.advance_draining (s : State) : (s.advance).draining = s.draining := rfl
@[simp] theorem State.advance_ctEntry (s : State) : (s.advance).ctEntry = s.ctEntry := rfl
@[simp] theorem State.advance_ctReason (s : State) : (s.advance).ctReason = s.ctReason := rfl
@[simp] theorem State.advance_ctSticky (s : State) : (s.advance).ctSticky = s.ctSticky := rfl
@[simp] theorem State.advance_meas (s : State) : (s.advance).meas = s.meas := rfl
@[simp] theorem State.advance_aliasKey (s : State) : (s.advance).aliasKey = s.aliasKey := rfl
@[simp] theorem State.advance_limits (s : State) : (s.advance).limits = s.limits := rfl
@[simp] theorem State.advance_powered (s : State) : (s.advance).powered = s.powered := rfl
@[simp] theorem State.advance_recovery (s : State) : (s.advance).recovery = s.recovery := rfl
@[simp] theorem State.advance_perst (s : State) : (s.advance).perst = s.perst := rfl
@[simp] theorem State.advance_enumerated (s : State) : (s.advance).enumerated = s.enumerated := rfl
@[simp] theorem State.advance_stopped (s : State) : (s.advance).stopped = s.stopped := rfl
@[simp] theorem State.advance_ckpt (s : State) : (s.advance).ckpt = s.ckpt := rfl
@[simp] theorem State.advance_ckptDone (s : State) : (s.advance).ckptDone = s.ckptDone := rfl
@[simp] theorem State.advance_ckptBad (s : State) : (s.advance).ckptBad = s.ckptBad := rfl

/-! ### wrByte -/

@[simp] theorem State.wrByte_focus (s : State) (pa : Nat) (b : Byte) : (s.wrByte pa b).focus = s.focus := rfl
@[simp] theorem State.wrByte_agenda (s : State) (pa : Nat) (b : Byte) : (s.wrByte pa b).agenda = s.agenda := rfl
@[simp] theorem State.wrByte_fresh (s : State) (pa : Nat) (b : Byte) : (s.wrByte pa b).fresh = s.fresh := rfl
@[simp] theorem State.wrByte_nextId (s : State) (pa : Nat) (b : Byte) : (s.wrByte pa b).nextId = s.nextId := rfl
@[simp] theorem State.wrByte_reply (s : State) (pa : Nat) (b : Byte) : (s.wrByte pa b).reply = s.reply := rfl
@[simp] theorem State.wrByte_fn (s : State) (pa : Nat) (b : Byte) : (s.wrByte pa b).fn = s.fn := rfl
@[simp] theorem State.wrByte_fitted (s : State) (pa : Nat) (b : Byte) : (s.wrByte pa b).fitted = s.fitted := rfl
@[simp] theorem State.wrByte_full (s : State) (pa : Nat) (b : Byte) : (s.wrByte pa b).full = s.full := rfl
@[simp] theorem State.wrByte_poison (s : State) (pa : Nat) (b : Byte) : (s.wrByte pa b).poison = s.poison := rfl
@[simp] theorem State.wrByte_sharers (s : State) (pa : Nat) (b : Byte) : (s.wrByte pa b).sharers = s.sharers := rfl
@[simp] theorem State.wrByte_invs (s : State) (pa : Nat) (b : Byte) : (s.wrByte pa b).invs = s.invs := rfl
@[simp] theorem State.wrByte_posted (s : State) (pa : Nat) (b : Byte) : (s.wrByte pa b).posted = s.posted := rfl
@[simp] theorem State.wrByte_dues (s : State) (pa : Nat) (b : Byte) : (s.wrByte pa b).dues = s.dues := rfl
@[simp] theorem State.wrByte_badMeta (s : State) (pa : Nat) (b : Byte) : (s.wrByte pa b).badMeta = s.badMeta := rfl
@[simp] theorem State.wrByte_rels (s : State) (pa : Nat) (b : Byte) : (s.wrByte pa b).rels = s.rels := rfl
@[simp] theorem State.wrByte_deferred (s : State) (pa : Nat) (b : Byte) : (s.wrByte pa b).deferred = s.deferred := rfl
@[simp] theorem State.wrByte_tiles (s : State) (pa : Nat) (b : Byte) : (s.wrByte pa b).tiles = s.tiles := rfl
@[simp] theorem State.wrByte_dies (s : State) (pa : Nat) (b : Byte) : (s.wrByte pa b).dies = s.dies := rfl
@[simp] theorem State.wrByte_regions (s : State) (pa : Nat) (b : Byte) : (s.wrByte pa b).regions = s.regions := rfl
@[simp] theorem State.wrByte_slices (s : State) (pa : Nat) (b : Byte) : (s.wrByte pa b).slices = s.slices := rfl
@[simp] theorem State.wrByte_links (s : State) (pa : Nat) (b : Byte) : (s.wrByte pa b).links = s.links := rfl
@[simp] theorem State.wrByte_cmds (s : State) (pa : Nat) (b : Byte) : (s.wrByte pa b).cmds = s.cmds := rfl
@[simp] theorem State.wrByte_subs (s : State) (pa : Nat) (b : Byte) : (s.wrByte pa b).subs = s.subs := rfl
@[simp] theorem State.wrByte_comps (s : State) (pa : Nat) (b : Byte) : (s.wrByte pa b).comps = s.comps := rfl
@[simp] theorem State.wrByte_follows (s : State) (pa : Nat) (b : Byte) : (s.wrByte pa b).follows = s.follows := rfl
@[simp] theorem State.wrByte_remotes (s : State) (pa : Nat) (b : Byte) : (s.wrByte pa b).remotes = s.remotes := rfl
@[simp] theorem State.wrByte_loads (s : State) (pa : Nat) (b : Byte) : (s.wrByte pa b).loads = s.loads := rfl
@[simp] theorem State.wrByte_heldDone (s : State) (pa : Nat) (b : Byte) : (s.wrByte pa b).heldDone = s.heldDone := rfl
@[simp] theorem State.wrByte_kept (s : State) (pa : Nat) (b : Byte) : (s.wrByte pa b).kept = s.kept := rfl
@[simp] theorem State.wrByte_msix (s : State) (pa : Nat) (b : Byte) : (s.wrByte pa b).msix = s.msix := rfl
@[simp] theorem State.wrByte_replays (s : State) (pa : Nat) (b : Byte) : (s.wrByte pa b).replays = s.replays := rfl
@[simp] theorem State.wrByte_edgesDown (s : State) (pa : Nat) (b : Byte) : (s.wrByte pa b).edgesDown = s.edgesDown := rfl
@[simp] theorem State.wrByte_qm900 (s : State) (pa : Nat) (b : Byte) : (s.wrByte pa b).qm900 = s.qm900 := rfl
@[simp] theorem State.wrByte_stage (s : State) (pa : Nat) (b : Byte) : (s.wrByte pa b).stage = s.stage := rfl
@[simp] theorem State.wrByte_failure (s : State) (pa : Nat) (b : Byte) : (s.wrByte pa b).failure = s.failure := rfl
@[simp] theorem State.wrByte_debug (s : State) (pa : Nat) (b : Byte) : (s.wrByte pa b).debug = s.debug := rfl
@[simp] theorem State.wrByte_asidtb (s : State) (pa : Nat) (b : Byte) : (s.wrByte pa b).asidtb = s.asidtb := rfl
@[simp] theorem State.wrByte_troot (s : State) (pa : Nat) (b : Byte) : (s.wrByte pa b).troot = s.troot := rfl
@[simp] theorem State.wrByte_ioClock (s : State) (pa : Nat) (b : Byte) : (s.wrByte pa b).ioClock = s.ioClock := rfl
@[simp] theorem State.wrByte_ref (s : State) (pa : Nat) (b : Byte) : (s.wrByte pa b).ref = s.ref := rfl
@[simp] theorem State.wrByte_frz (s : State) (pa : Nat) (b : Byte) : (s.wrByte pa b).frz = s.frz := rfl
@[simp] theorem State.wrByte_conn (s : State) (pa : Nat) (b : Byte) : (s.wrByte pa b).conn = s.conn := rfl
@[simp] theorem State.wrByte_draining (s : State) (pa : Nat) (b : Byte) : (s.wrByte pa b).draining = s.draining := rfl
@[simp] theorem State.wrByte_ctEntry (s : State) (pa : Nat) (b : Byte) : (s.wrByte pa b).ctEntry = s.ctEntry := rfl
@[simp] theorem State.wrByte_ctReason (s : State) (pa : Nat) (b : Byte) : (s.wrByte pa b).ctReason = s.ctReason := rfl
@[simp] theorem State.wrByte_ctSticky (s : State) (pa : Nat) (b : Byte) : (s.wrByte pa b).ctSticky = s.ctSticky := rfl
@[simp] theorem State.wrByte_meas (s : State) (pa : Nat) (b : Byte) : (s.wrByte pa b).meas = s.meas := rfl
@[simp] theorem State.wrByte_aliasKey (s : State) (pa : Nat) (b : Byte) : (s.wrByte pa b).aliasKey = s.aliasKey := rfl
@[simp] theorem State.wrByte_limits (s : State) (pa : Nat) (b : Byte) : (s.wrByte pa b).limits = s.limits := rfl
@[simp] theorem State.wrByte_powered (s : State) (pa : Nat) (b : Byte) : (s.wrByte pa b).powered = s.powered := rfl
@[simp] theorem State.wrByte_recovery (s : State) (pa : Nat) (b : Byte) : (s.wrByte pa b).recovery = s.recovery := rfl
@[simp] theorem State.wrByte_perst (s : State) (pa : Nat) (b : Byte) : (s.wrByte pa b).perst = s.perst := rfl
@[simp] theorem State.wrByte_enumerated (s : State) (pa : Nat) (b : Byte) : (s.wrByte pa b).enumerated = s.enumerated := rfl
@[simp] theorem State.wrByte_stopped (s : State) (pa : Nat) (b : Byte) : (s.wrByte pa b).stopped = s.stopped := rfl
@[simp] theorem State.wrByte_ckpt (s : State) (pa : Nat) (b : Byte) : (s.wrByte pa b).ckpt = s.ckpt := rfl
@[simp] theorem State.wrByte_ckptDone (s : State) (pa : Nat) (b : Byte) : (s.wrByte pa b).ckptDone = s.ckptDone := rfl
@[simp] theorem State.wrByte_ckptBad (s : State) (pa : Nat) (b : Byte) : (s.wrByte pa b).ckptBad = s.ckptBad := rfl

/-! ### setPoison -/

@[simp] theorem State.setPoison_focus (s : State) (n : Nat) (b : Bool) : (s.setPoison n b).focus = s.focus := rfl
@[simp] theorem State.setPoison_agenda (s : State) (n : Nat) (b : Bool) : (s.setPoison n b).agenda = s.agenda := rfl
@[simp] theorem State.setPoison_fresh (s : State) (n : Nat) (b : Bool) : (s.setPoison n b).fresh = s.fresh := rfl
@[simp] theorem State.setPoison_nextId (s : State) (n : Nat) (b : Bool) : (s.setPoison n b).nextId = s.nextId := rfl
@[simp] theorem State.setPoison_reply (s : State) (n : Nat) (b : Bool) : (s.setPoison n b).reply = s.reply := rfl
@[simp] theorem State.setPoison_fn (s : State) (n : Nat) (b : Bool) : (s.setPoison n b).fn = s.fn := rfl
@[simp] theorem State.setPoison_mem (s : State) (n : Nat) (b : Bool) : (s.setPoison n b).mem = s.mem := rfl
@[simp] theorem State.setPoison_fitted (s : State) (n : Nat) (b : Bool) : (s.setPoison n b).fitted = s.fitted := rfl
@[simp] theorem State.setPoison_full (s : State) (n : Nat) (b : Bool) : (s.setPoison n b).full = s.full := rfl
@[simp] theorem State.setPoison_sharers (s : State) (n : Nat) (b : Bool) : (s.setPoison n b).sharers = s.sharers := rfl
@[simp] theorem State.setPoison_invs (s : State) (n : Nat) (b : Bool) : (s.setPoison n b).invs = s.invs := rfl
@[simp] theorem State.setPoison_posted (s : State) (n : Nat) (b : Bool) : (s.setPoison n b).posted = s.posted := rfl
@[simp] theorem State.setPoison_dues (s : State) (n : Nat) (b : Bool) : (s.setPoison n b).dues = s.dues := rfl
@[simp] theorem State.setPoison_badMeta (s : State) (n : Nat) (b : Bool) : (s.setPoison n b).badMeta = s.badMeta := rfl
@[simp] theorem State.setPoison_rels (s : State) (n : Nat) (b : Bool) : (s.setPoison n b).rels = s.rels := rfl
@[simp] theorem State.setPoison_deferred (s : State) (n : Nat) (b : Bool) : (s.setPoison n b).deferred = s.deferred := rfl
@[simp] theorem State.setPoison_tiles (s : State) (n : Nat) (b : Bool) : (s.setPoison n b).tiles = s.tiles := rfl
@[simp] theorem State.setPoison_dies (s : State) (n : Nat) (b : Bool) : (s.setPoison n b).dies = s.dies := rfl
@[simp] theorem State.setPoison_regions (s : State) (n : Nat) (b : Bool) : (s.setPoison n b).regions = s.regions := rfl
@[simp] theorem State.setPoison_slices (s : State) (n : Nat) (b : Bool) : (s.setPoison n b).slices = s.slices := rfl
@[simp] theorem State.setPoison_links (s : State) (n : Nat) (b : Bool) : (s.setPoison n b).links = s.links := rfl
@[simp] theorem State.setPoison_cmds (s : State) (n : Nat) (b : Bool) : (s.setPoison n b).cmds = s.cmds := rfl
@[simp] theorem State.setPoison_subs (s : State) (n : Nat) (b : Bool) : (s.setPoison n b).subs = s.subs := rfl
@[simp] theorem State.setPoison_comps (s : State) (n : Nat) (b : Bool) : (s.setPoison n b).comps = s.comps := rfl
@[simp] theorem State.setPoison_follows (s : State) (n : Nat) (b : Bool) : (s.setPoison n b).follows = s.follows := rfl
@[simp] theorem State.setPoison_remotes (s : State) (n : Nat) (b : Bool) : (s.setPoison n b).remotes = s.remotes := rfl
@[simp] theorem State.setPoison_loads (s : State) (n : Nat) (b : Bool) : (s.setPoison n b).loads = s.loads := rfl
@[simp] theorem State.setPoison_heldDone (s : State) (n : Nat) (b : Bool) : (s.setPoison n b).heldDone = s.heldDone := rfl
@[simp] theorem State.setPoison_kept (s : State) (n : Nat) (b : Bool) : (s.setPoison n b).kept = s.kept := rfl
@[simp] theorem State.setPoison_msix (s : State) (n : Nat) (b : Bool) : (s.setPoison n b).msix = s.msix := rfl
@[simp] theorem State.setPoison_replays (s : State) (n : Nat) (b : Bool) : (s.setPoison n b).replays = s.replays := rfl
@[simp] theorem State.setPoison_edgesDown (s : State) (n : Nat) (b : Bool) : (s.setPoison n b).edgesDown = s.edgesDown := rfl
@[simp] theorem State.setPoison_qm900 (s : State) (n : Nat) (b : Bool) : (s.setPoison n b).qm900 = s.qm900 := rfl
@[simp] theorem State.setPoison_stage (s : State) (n : Nat) (b : Bool) : (s.setPoison n b).stage = s.stage := rfl
@[simp] theorem State.setPoison_failure (s : State) (n : Nat) (b : Bool) : (s.setPoison n b).failure = s.failure := rfl
@[simp] theorem State.setPoison_debug (s : State) (n : Nat) (b : Bool) : (s.setPoison n b).debug = s.debug := rfl
@[simp] theorem State.setPoison_asidtb (s : State) (n : Nat) (b : Bool) : (s.setPoison n b).asidtb = s.asidtb := rfl
@[simp] theorem State.setPoison_troot (s : State) (n : Nat) (b : Bool) : (s.setPoison n b).troot = s.troot := rfl
@[simp] theorem State.setPoison_ioClock (s : State) (n : Nat) (b : Bool) : (s.setPoison n b).ioClock = s.ioClock := rfl
@[simp] theorem State.setPoison_ref (s : State) (n : Nat) (b : Bool) : (s.setPoison n b).ref = s.ref := rfl
@[simp] theorem State.setPoison_frz (s : State) (n : Nat) (b : Bool) : (s.setPoison n b).frz = s.frz := rfl
@[simp] theorem State.setPoison_conn (s : State) (n : Nat) (b : Bool) : (s.setPoison n b).conn = s.conn := rfl
@[simp] theorem State.setPoison_draining (s : State) (n : Nat) (b : Bool) : (s.setPoison n b).draining = s.draining := rfl
@[simp] theorem State.setPoison_ctEntry (s : State) (n : Nat) (b : Bool) : (s.setPoison n b).ctEntry = s.ctEntry := rfl
@[simp] theorem State.setPoison_ctReason (s : State) (n : Nat) (b : Bool) : (s.setPoison n b).ctReason = s.ctReason := rfl
@[simp] theorem State.setPoison_ctSticky (s : State) (n : Nat) (b : Bool) : (s.setPoison n b).ctSticky = s.ctSticky := rfl
@[simp] theorem State.setPoison_meas (s : State) (n : Nat) (b : Bool) : (s.setPoison n b).meas = s.meas := rfl
@[simp] theorem State.setPoison_aliasKey (s : State) (n : Nat) (b : Bool) : (s.setPoison n b).aliasKey = s.aliasKey := rfl
@[simp] theorem State.setPoison_limits (s : State) (n : Nat) (b : Bool) : (s.setPoison n b).limits = s.limits := rfl
@[simp] theorem State.setPoison_powered (s : State) (n : Nat) (b : Bool) : (s.setPoison n b).powered = s.powered := rfl
@[simp] theorem State.setPoison_recovery (s : State) (n : Nat) (b : Bool) : (s.setPoison n b).recovery = s.recovery := rfl
@[simp] theorem State.setPoison_perst (s : State) (n : Nat) (b : Bool) : (s.setPoison n b).perst = s.perst := rfl
@[simp] theorem State.setPoison_enumerated (s : State) (n : Nat) (b : Bool) : (s.setPoison n b).enumerated = s.enumerated := rfl
@[simp] theorem State.setPoison_stopped (s : State) (n : Nat) (b : Bool) : (s.setPoison n b).stopped = s.stopped := rfl
@[simp] theorem State.setPoison_ckpt (s : State) (n : Nat) (b : Bool) : (s.setPoison n b).ckpt = s.ckpt := rfl
@[simp] theorem State.setPoison_ckptDone (s : State) (n : Nat) (b : Bool) : (s.setPoison n b).ckptDone = s.ckptDone := rfl
@[simp] theorem State.setPoison_ckptBad (s : State) (n : Nat) (b : Bool) : (s.setPoison n b).ckptBad = s.ckptBad := rfl

/-! ### modRegion -/

@[simp] theorem State.modRegion_focus (s : State) (r : Nat) (f : Region → Region) : (s.modRegion r f).focus = s.focus := by unfold State.modRegion; split <;> rfl
@[simp] theorem State.modRegion_agenda (s : State) (r : Nat) (f : Region → Region) : (s.modRegion r f).agenda = s.agenda := by unfold State.modRegion; split <;> rfl
@[simp] theorem State.modRegion_fresh (s : State) (r : Nat) (f : Region → Region) : (s.modRegion r f).fresh = s.fresh := by unfold State.modRegion; split <;> rfl
@[simp] theorem State.modRegion_nextId (s : State) (r : Nat) (f : Region → Region) : (s.modRegion r f).nextId = s.nextId := by unfold State.modRegion; split <;> rfl
@[simp] theorem State.modRegion_reply (s : State) (r : Nat) (f : Region → Region) : (s.modRegion r f).reply = s.reply := by unfold State.modRegion; split <;> rfl
@[simp] theorem State.modRegion_fn (s : State) (r : Nat) (f : Region → Region) : (s.modRegion r f).fn = s.fn := by unfold State.modRegion; split <;> rfl
@[simp] theorem State.modRegion_mem (s : State) (r : Nat) (f : Region → Region) : (s.modRegion r f).mem = s.mem := by unfold State.modRegion; split <;> rfl
@[simp] theorem State.modRegion_fitted (s : State) (r : Nat) (f : Region → Region) : (s.modRegion r f).fitted = s.fitted := by unfold State.modRegion; split <;> rfl
@[simp] theorem State.modRegion_full (s : State) (r : Nat) (f : Region → Region) : (s.modRegion r f).full = s.full := by unfold State.modRegion; split <;> rfl
@[simp] theorem State.modRegion_poison (s : State) (r : Nat) (f : Region → Region) : (s.modRegion r f).poison = s.poison := by unfold State.modRegion; split <;> rfl
@[simp] theorem State.modRegion_sharers (s : State) (r : Nat) (f : Region → Region) : (s.modRegion r f).sharers = s.sharers := by unfold State.modRegion; split <;> rfl
@[simp] theorem State.modRegion_invs (s : State) (r : Nat) (f : Region → Region) : (s.modRegion r f).invs = s.invs := by unfold State.modRegion; split <;> rfl
@[simp] theorem State.modRegion_posted (s : State) (r : Nat) (f : Region → Region) : (s.modRegion r f).posted = s.posted := by unfold State.modRegion; split <;> rfl
@[simp] theorem State.modRegion_dues (s : State) (r : Nat) (f : Region → Region) : (s.modRegion r f).dues = s.dues := by unfold State.modRegion; split <;> rfl
@[simp] theorem State.modRegion_badMeta (s : State) (r : Nat) (f : Region → Region) : (s.modRegion r f).badMeta = s.badMeta := by unfold State.modRegion; split <;> rfl
@[simp] theorem State.modRegion_rels (s : State) (r : Nat) (f : Region → Region) : (s.modRegion r f).rels = s.rels := by unfold State.modRegion; split <;> rfl
@[simp] theorem State.modRegion_deferred (s : State) (r : Nat) (f : Region → Region) : (s.modRegion r f).deferred = s.deferred := by unfold State.modRegion; split <;> rfl
@[simp] theorem State.modRegion_tiles (s : State) (r : Nat) (f : Region → Region) : (s.modRegion r f).tiles = s.tiles := by unfold State.modRegion; split <;> rfl
@[simp] theorem State.modRegion_dies (s : State) (r : Nat) (f : Region → Region) : (s.modRegion r f).dies = s.dies := by unfold State.modRegion; split <;> rfl
@[simp] theorem State.modRegion_slices (s : State) (r : Nat) (f : Region → Region) : (s.modRegion r f).slices = s.slices := by unfold State.modRegion; split <;> rfl
@[simp] theorem State.modRegion_links (s : State) (r : Nat) (f : Region → Region) : (s.modRegion r f).links = s.links := by unfold State.modRegion; split <;> rfl
@[simp] theorem State.modRegion_cmds (s : State) (r : Nat) (f : Region → Region) : (s.modRegion r f).cmds = s.cmds := by unfold State.modRegion; split <;> rfl
@[simp] theorem State.modRegion_subs (s : State) (r : Nat) (f : Region → Region) : (s.modRegion r f).subs = s.subs := by unfold State.modRegion; split <;> rfl
@[simp] theorem State.modRegion_comps (s : State) (r : Nat) (f : Region → Region) : (s.modRegion r f).comps = s.comps := by unfold State.modRegion; split <;> rfl
@[simp] theorem State.modRegion_follows (s : State) (r : Nat) (f : Region → Region) : (s.modRegion r f).follows = s.follows := by unfold State.modRegion; split <;> rfl
@[simp] theorem State.modRegion_remotes (s : State) (r : Nat) (f : Region → Region) : (s.modRegion r f).remotes = s.remotes := by unfold State.modRegion; split <;> rfl
@[simp] theorem State.modRegion_loads (s : State) (r : Nat) (f : Region → Region) : (s.modRegion r f).loads = s.loads := by unfold State.modRegion; split <;> rfl
@[simp] theorem State.modRegion_heldDone (s : State) (r : Nat) (f : Region → Region) : (s.modRegion r f).heldDone = s.heldDone := by unfold State.modRegion; split <;> rfl
@[simp] theorem State.modRegion_kept (s : State) (r : Nat) (f : Region → Region) : (s.modRegion r f).kept = s.kept := by unfold State.modRegion; split <;> rfl
@[simp] theorem State.modRegion_msix (s : State) (r : Nat) (f : Region → Region) : (s.modRegion r f).msix = s.msix := by unfold State.modRegion; split <;> rfl
@[simp] theorem State.modRegion_replays (s : State) (r : Nat) (f : Region → Region) : (s.modRegion r f).replays = s.replays := by unfold State.modRegion; split <;> rfl
@[simp] theorem State.modRegion_edgesDown (s : State) (r : Nat) (f : Region → Region) : (s.modRegion r f).edgesDown = s.edgesDown := by unfold State.modRegion; split <;> rfl
@[simp] theorem State.modRegion_qm900 (s : State) (r : Nat) (f : Region → Region) : (s.modRegion r f).qm900 = s.qm900 := by unfold State.modRegion; split <;> rfl
@[simp] theorem State.modRegion_stage (s : State) (r : Nat) (f : Region → Region) : (s.modRegion r f).stage = s.stage := by unfold State.modRegion; split <;> rfl
@[simp] theorem State.modRegion_failure (s : State) (r : Nat) (f : Region → Region) : (s.modRegion r f).failure = s.failure := by unfold State.modRegion; split <;> rfl
@[simp] theorem State.modRegion_debug (s : State) (r : Nat) (f : Region → Region) : (s.modRegion r f).debug = s.debug := by unfold State.modRegion; split <;> rfl
@[simp] theorem State.modRegion_asidtb (s : State) (r : Nat) (f : Region → Region) : (s.modRegion r f).asidtb = s.asidtb := by unfold State.modRegion; split <;> rfl
@[simp] theorem State.modRegion_troot (s : State) (r : Nat) (f : Region → Region) : (s.modRegion r f).troot = s.troot := by unfold State.modRegion; split <;> rfl
@[simp] theorem State.modRegion_ioClock (s : State) (r : Nat) (f : Region → Region) : (s.modRegion r f).ioClock = s.ioClock := by unfold State.modRegion; split <;> rfl
@[simp] theorem State.modRegion_ref (s : State) (r : Nat) (f : Region → Region) : (s.modRegion r f).ref = s.ref := by unfold State.modRegion; split <;> rfl
@[simp] theorem State.modRegion_frz (s : State) (r : Nat) (f : Region → Region) : (s.modRegion r f).frz = s.frz := by unfold State.modRegion; split <;> rfl
@[simp] theorem State.modRegion_conn (s : State) (r : Nat) (f : Region → Region) : (s.modRegion r f).conn = s.conn := by unfold State.modRegion; split <;> rfl
@[simp] theorem State.modRegion_draining (s : State) (r : Nat) (f : Region → Region) : (s.modRegion r f).draining = s.draining := by unfold State.modRegion; split <;> rfl
@[simp] theorem State.modRegion_ctEntry (s : State) (r : Nat) (f : Region → Region) : (s.modRegion r f).ctEntry = s.ctEntry := by unfold State.modRegion; split <;> rfl
@[simp] theorem State.modRegion_ctReason (s : State) (r : Nat) (f : Region → Region) : (s.modRegion r f).ctReason = s.ctReason := by unfold State.modRegion; split <;> rfl
@[simp] theorem State.modRegion_ctSticky (s : State) (r : Nat) (f : Region → Region) : (s.modRegion r f).ctSticky = s.ctSticky := by unfold State.modRegion; split <;> rfl
@[simp] theorem State.modRegion_meas (s : State) (r : Nat) (f : Region → Region) : (s.modRegion r f).meas = s.meas := by unfold State.modRegion; split <;> rfl
@[simp] theorem State.modRegion_aliasKey (s : State) (r : Nat) (f : Region → Region) : (s.modRegion r f).aliasKey = s.aliasKey := by unfold State.modRegion; split <;> rfl
@[simp] theorem State.modRegion_limits (s : State) (r : Nat) (f : Region → Region) : (s.modRegion r f).limits = s.limits := by unfold State.modRegion; split <;> rfl
@[simp] theorem State.modRegion_powered (s : State) (r : Nat) (f : Region → Region) : (s.modRegion r f).powered = s.powered := by unfold State.modRegion; split <;> rfl
@[simp] theorem State.modRegion_recovery (s : State) (r : Nat) (f : Region → Region) : (s.modRegion r f).recovery = s.recovery := by unfold State.modRegion; split <;> rfl
@[simp] theorem State.modRegion_perst (s : State) (r : Nat) (f : Region → Region) : (s.modRegion r f).perst = s.perst := by unfold State.modRegion; split <;> rfl
@[simp] theorem State.modRegion_enumerated (s : State) (r : Nat) (f : Region → Region) : (s.modRegion r f).enumerated = s.enumerated := by unfold State.modRegion; split <;> rfl
@[simp] theorem State.modRegion_stopped (s : State) (r : Nat) (f : Region → Region) : (s.modRegion r f).stopped = s.stopped := by unfold State.modRegion; split <;> rfl
@[simp] theorem State.modRegion_ckpt (s : State) (r : Nat) (f : Region → Region) : (s.modRegion r f).ckpt = s.ckpt := by unfold State.modRegion; split <;> rfl
@[simp] theorem State.modRegion_ckptDone (s : State) (r : Nat) (f : Region → Region) : (s.modRegion r f).ckptDone = s.ckptDone := by unfold State.modRegion; split <;> rfl
@[simp] theorem State.modRegion_ckptBad (s : State) (r : Nat) (f : Region → Region) : (s.modRegion r f).ckptBad = s.ckptBad := by unfold State.modRegion; split <;> rfl

/-! ### modActor -/

@[simp] theorem State.modActor_focus (s : State) (r a : Nat) (f : Actor → Actor) : (s.modActor r a f).focus = s.focus := by simp [State.modActor]
@[simp] theorem State.modActor_agenda (s : State) (r a : Nat) (f : Actor → Actor) : (s.modActor r a f).agenda = s.agenda := by simp [State.modActor]
@[simp] theorem State.modActor_fresh (s : State) (r a : Nat) (f : Actor → Actor) : (s.modActor r a f).fresh = s.fresh := by simp [State.modActor]
@[simp] theorem State.modActor_nextId (s : State) (r a : Nat) (f : Actor → Actor) : (s.modActor r a f).nextId = s.nextId := by simp [State.modActor]
@[simp] theorem State.modActor_reply (s : State) (r a : Nat) (f : Actor → Actor) : (s.modActor r a f).reply = s.reply := by simp [State.modActor]
@[simp] theorem State.modActor_fn (s : State) (r a : Nat) (f : Actor → Actor) : (s.modActor r a f).fn = s.fn := by simp [State.modActor]
@[simp] theorem State.modActor_mem (s : State) (r a : Nat) (f : Actor → Actor) : (s.modActor r a f).mem = s.mem := by simp [State.modActor]
@[simp] theorem State.modActor_fitted (s : State) (r a : Nat) (f : Actor → Actor) : (s.modActor r a f).fitted = s.fitted := by simp [State.modActor]
@[simp] theorem State.modActor_full (s : State) (r a : Nat) (f : Actor → Actor) : (s.modActor r a f).full = s.full := by simp [State.modActor]
@[simp] theorem State.modActor_poison (s : State) (r a : Nat) (f : Actor → Actor) : (s.modActor r a f).poison = s.poison := by simp [State.modActor]
@[simp] theorem State.modActor_sharers (s : State) (r a : Nat) (f : Actor → Actor) : (s.modActor r a f).sharers = s.sharers := by simp [State.modActor]
@[simp] theorem State.modActor_invs (s : State) (r a : Nat) (f : Actor → Actor) : (s.modActor r a f).invs = s.invs := by simp [State.modActor]
@[simp] theorem State.modActor_posted (s : State) (r a : Nat) (f : Actor → Actor) : (s.modActor r a f).posted = s.posted := by simp [State.modActor]
@[simp] theorem State.modActor_dues (s : State) (r a : Nat) (f : Actor → Actor) : (s.modActor r a f).dues = s.dues := by simp [State.modActor]
@[simp] theorem State.modActor_badMeta (s : State) (r a : Nat) (f : Actor → Actor) : (s.modActor r a f).badMeta = s.badMeta := by simp [State.modActor]
@[simp] theorem State.modActor_rels (s : State) (r a : Nat) (f : Actor → Actor) : (s.modActor r a f).rels = s.rels := by simp [State.modActor]
@[simp] theorem State.modActor_deferred (s : State) (r a : Nat) (f : Actor → Actor) : (s.modActor r a f).deferred = s.deferred := by simp [State.modActor]
@[simp] theorem State.modActor_tiles (s : State) (r a : Nat) (f : Actor → Actor) : (s.modActor r a f).tiles = s.tiles := by simp [State.modActor]
@[simp] theorem State.modActor_dies (s : State) (r a : Nat) (f : Actor → Actor) : (s.modActor r a f).dies = s.dies := by simp [State.modActor]
@[simp] theorem State.modActor_slices (s : State) (r a : Nat) (f : Actor → Actor) : (s.modActor r a f).slices = s.slices := by simp [State.modActor]
@[simp] theorem State.modActor_links (s : State) (r a : Nat) (f : Actor → Actor) : (s.modActor r a f).links = s.links := by simp [State.modActor]
@[simp] theorem State.modActor_cmds (s : State) (r a : Nat) (f : Actor → Actor) : (s.modActor r a f).cmds = s.cmds := by simp [State.modActor]
@[simp] theorem State.modActor_subs (s : State) (r a : Nat) (f : Actor → Actor) : (s.modActor r a f).subs = s.subs := by simp [State.modActor]
@[simp] theorem State.modActor_comps (s : State) (r a : Nat) (f : Actor → Actor) : (s.modActor r a f).comps = s.comps := by simp [State.modActor]
@[simp] theorem State.modActor_follows (s : State) (r a : Nat) (f : Actor → Actor) : (s.modActor r a f).follows = s.follows := by simp [State.modActor]
@[simp] theorem State.modActor_remotes (s : State) (r a : Nat) (f : Actor → Actor) : (s.modActor r a f).remotes = s.remotes := by simp [State.modActor]
@[simp] theorem State.modActor_loads (s : State) (r a : Nat) (f : Actor → Actor) : (s.modActor r a f).loads = s.loads := by simp [State.modActor]
@[simp] theorem State.modActor_heldDone (s : State) (r a : Nat) (f : Actor → Actor) : (s.modActor r a f).heldDone = s.heldDone := by simp [State.modActor]
@[simp] theorem State.modActor_kept (s : State) (r a : Nat) (f : Actor → Actor) : (s.modActor r a f).kept = s.kept := by simp [State.modActor]
@[simp] theorem State.modActor_msix (s : State) (r a : Nat) (f : Actor → Actor) : (s.modActor r a f).msix = s.msix := by simp [State.modActor]
@[simp] theorem State.modActor_replays (s : State) (r a : Nat) (f : Actor → Actor) : (s.modActor r a f).replays = s.replays := by simp [State.modActor]
@[simp] theorem State.modActor_edgesDown (s : State) (r a : Nat) (f : Actor → Actor) : (s.modActor r a f).edgesDown = s.edgesDown := by simp [State.modActor]
@[simp] theorem State.modActor_qm900 (s : State) (r a : Nat) (f : Actor → Actor) : (s.modActor r a f).qm900 = s.qm900 := by simp [State.modActor]
@[simp] theorem State.modActor_stage (s : State) (r a : Nat) (f : Actor → Actor) : (s.modActor r a f).stage = s.stage := by simp [State.modActor]
@[simp] theorem State.modActor_failure (s : State) (r a : Nat) (f : Actor → Actor) : (s.modActor r a f).failure = s.failure := by simp [State.modActor]
@[simp] theorem State.modActor_debug (s : State) (r a : Nat) (f : Actor → Actor) : (s.modActor r a f).debug = s.debug := by simp [State.modActor]
@[simp] theorem State.modActor_asidtb (s : State) (r a : Nat) (f : Actor → Actor) : (s.modActor r a f).asidtb = s.asidtb := by simp [State.modActor]
@[simp] theorem State.modActor_troot (s : State) (r a : Nat) (f : Actor → Actor) : (s.modActor r a f).troot = s.troot := by simp [State.modActor]
@[simp] theorem State.modActor_ioClock (s : State) (r a : Nat) (f : Actor → Actor) : (s.modActor r a f).ioClock = s.ioClock := by simp [State.modActor]
@[simp] theorem State.modActor_ref (s : State) (r a : Nat) (f : Actor → Actor) : (s.modActor r a f).ref = s.ref := by simp [State.modActor]
@[simp] theorem State.modActor_frz (s : State) (r a : Nat) (f : Actor → Actor) : (s.modActor r a f).frz = s.frz := by simp [State.modActor]
@[simp] theorem State.modActor_conn (s : State) (r a : Nat) (f : Actor → Actor) : (s.modActor r a f).conn = s.conn := by simp [State.modActor]
@[simp] theorem State.modActor_draining (s : State) (r a : Nat) (f : Actor → Actor) : (s.modActor r a f).draining = s.draining := by simp [State.modActor]
@[simp] theorem State.modActor_ctEntry (s : State) (r a : Nat) (f : Actor → Actor) : (s.modActor r a f).ctEntry = s.ctEntry := by simp [State.modActor]
@[simp] theorem State.modActor_ctReason (s : State) (r a : Nat) (f : Actor → Actor) : (s.modActor r a f).ctReason = s.ctReason := by simp [State.modActor]
@[simp] theorem State.modActor_ctSticky (s : State) (r a : Nat) (f : Actor → Actor) : (s.modActor r a f).ctSticky = s.ctSticky := by simp [State.modActor]
@[simp] theorem State.modActor_meas (s : State) (r a : Nat) (f : Actor → Actor) : (s.modActor r a f).meas = s.meas := by simp [State.modActor]
@[simp] theorem State.modActor_aliasKey (s : State) (r a : Nat) (f : Actor → Actor) : (s.modActor r a f).aliasKey = s.aliasKey := by simp [State.modActor]
@[simp] theorem State.modActor_limits (s : State) (r a : Nat) (f : Actor → Actor) : (s.modActor r a f).limits = s.limits := by simp [State.modActor]
@[simp] theorem State.modActor_powered (s : State) (r a : Nat) (f : Actor → Actor) : (s.modActor r a f).powered = s.powered := by simp [State.modActor]
@[simp] theorem State.modActor_recovery (s : State) (r a : Nat) (f : Actor → Actor) : (s.modActor r a f).recovery = s.recovery := by simp [State.modActor]
@[simp] theorem State.modActor_perst (s : State) (r a : Nat) (f : Actor → Actor) : (s.modActor r a f).perst = s.perst := by simp [State.modActor]
@[simp] theorem State.modActor_enumerated (s : State) (r a : Nat) (f : Actor → Actor) : (s.modActor r a f).enumerated = s.enumerated := by simp [State.modActor]
@[simp] theorem State.modActor_stopped (s : State) (r a : Nat) (f : Actor → Actor) : (s.modActor r a f).stopped = s.stopped := by simp [State.modActor]
@[simp] theorem State.modActor_ckpt (s : State) (r a : Nat) (f : Actor → Actor) : (s.modActor r a f).ckpt = s.ckpt := by simp [State.modActor]
@[simp] theorem State.modActor_ckptDone (s : State) (r a : Nat) (f : Actor → Actor) : (s.modActor r a f).ckptDone = s.ckptDone := by simp [State.modActor]
@[simp] theorem State.modActor_ckptBad (s : State) (r a : Nat) (f : Actor → Actor) : (s.modActor r a f).ckptBad = s.ckptBad := by simp [State.modActor]

/-! ### modChan -/

@[simp] theorem State.modChan_focus (s : State) (r c : Nat) (f : Chan → Chan) : (s.modChan r c f).focus = s.focus := by simp [State.modChan]
@[simp] theorem State.modChan_agenda (s : State) (r c : Nat) (f : Chan → Chan) : (s.modChan r c f).agenda = s.agenda := by simp [State.modChan]
@[simp] theorem State.modChan_fresh (s : State) (r c : Nat) (f : Chan → Chan) : (s.modChan r c f).fresh = s.fresh := by simp [State.modChan]
@[simp] theorem State.modChan_nextId (s : State) (r c : Nat) (f : Chan → Chan) : (s.modChan r c f).nextId = s.nextId := by simp [State.modChan]
@[simp] theorem State.modChan_reply (s : State) (r c : Nat) (f : Chan → Chan) : (s.modChan r c f).reply = s.reply := by simp [State.modChan]
@[simp] theorem State.modChan_fn (s : State) (r c : Nat) (f : Chan → Chan) : (s.modChan r c f).fn = s.fn := by simp [State.modChan]
@[simp] theorem State.modChan_mem (s : State) (r c : Nat) (f : Chan → Chan) : (s.modChan r c f).mem = s.mem := by simp [State.modChan]
@[simp] theorem State.modChan_fitted (s : State) (r c : Nat) (f : Chan → Chan) : (s.modChan r c f).fitted = s.fitted := by simp [State.modChan]
@[simp] theorem State.modChan_full (s : State) (r c : Nat) (f : Chan → Chan) : (s.modChan r c f).full = s.full := by simp [State.modChan]
@[simp] theorem State.modChan_poison (s : State) (r c : Nat) (f : Chan → Chan) : (s.modChan r c f).poison = s.poison := by simp [State.modChan]
@[simp] theorem State.modChan_sharers (s : State) (r c : Nat) (f : Chan → Chan) : (s.modChan r c f).sharers = s.sharers := by simp [State.modChan]
@[simp] theorem State.modChan_invs (s : State) (r c : Nat) (f : Chan → Chan) : (s.modChan r c f).invs = s.invs := by simp [State.modChan]
@[simp] theorem State.modChan_posted (s : State) (r c : Nat) (f : Chan → Chan) : (s.modChan r c f).posted = s.posted := by simp [State.modChan]
@[simp] theorem State.modChan_dues (s : State) (r c : Nat) (f : Chan → Chan) : (s.modChan r c f).dues = s.dues := by simp [State.modChan]
@[simp] theorem State.modChan_badMeta (s : State) (r c : Nat) (f : Chan → Chan) : (s.modChan r c f).badMeta = s.badMeta := by simp [State.modChan]
@[simp] theorem State.modChan_rels (s : State) (r c : Nat) (f : Chan → Chan) : (s.modChan r c f).rels = s.rels := by simp [State.modChan]
@[simp] theorem State.modChan_deferred (s : State) (r c : Nat) (f : Chan → Chan) : (s.modChan r c f).deferred = s.deferred := by simp [State.modChan]
@[simp] theorem State.modChan_tiles (s : State) (r c : Nat) (f : Chan → Chan) : (s.modChan r c f).tiles = s.tiles := by simp [State.modChan]
@[simp] theorem State.modChan_dies (s : State) (r c : Nat) (f : Chan → Chan) : (s.modChan r c f).dies = s.dies := by simp [State.modChan]
@[simp] theorem State.modChan_slices (s : State) (r c : Nat) (f : Chan → Chan) : (s.modChan r c f).slices = s.slices := by simp [State.modChan]
@[simp] theorem State.modChan_links (s : State) (r c : Nat) (f : Chan → Chan) : (s.modChan r c f).links = s.links := by simp [State.modChan]
@[simp] theorem State.modChan_cmds (s : State) (r c : Nat) (f : Chan → Chan) : (s.modChan r c f).cmds = s.cmds := by simp [State.modChan]
@[simp] theorem State.modChan_subs (s : State) (r c : Nat) (f : Chan → Chan) : (s.modChan r c f).subs = s.subs := by simp [State.modChan]
@[simp] theorem State.modChan_comps (s : State) (r c : Nat) (f : Chan → Chan) : (s.modChan r c f).comps = s.comps := by simp [State.modChan]
@[simp] theorem State.modChan_follows (s : State) (r c : Nat) (f : Chan → Chan) : (s.modChan r c f).follows = s.follows := by simp [State.modChan]
@[simp] theorem State.modChan_remotes (s : State) (r c : Nat) (f : Chan → Chan) : (s.modChan r c f).remotes = s.remotes := by simp [State.modChan]
@[simp] theorem State.modChan_loads (s : State) (r c : Nat) (f : Chan → Chan) : (s.modChan r c f).loads = s.loads := by simp [State.modChan]
@[simp] theorem State.modChan_heldDone (s : State) (r c : Nat) (f : Chan → Chan) : (s.modChan r c f).heldDone = s.heldDone := by simp [State.modChan]
@[simp] theorem State.modChan_kept (s : State) (r c : Nat) (f : Chan → Chan) : (s.modChan r c f).kept = s.kept := by simp [State.modChan]
@[simp] theorem State.modChan_msix (s : State) (r c : Nat) (f : Chan → Chan) : (s.modChan r c f).msix = s.msix := by simp [State.modChan]
@[simp] theorem State.modChan_replays (s : State) (r c : Nat) (f : Chan → Chan) : (s.modChan r c f).replays = s.replays := by simp [State.modChan]
@[simp] theorem State.modChan_edgesDown (s : State) (r c : Nat) (f : Chan → Chan) : (s.modChan r c f).edgesDown = s.edgesDown := by simp [State.modChan]
@[simp] theorem State.modChan_qm900 (s : State) (r c : Nat) (f : Chan → Chan) : (s.modChan r c f).qm900 = s.qm900 := by simp [State.modChan]
@[simp] theorem State.modChan_stage (s : State) (r c : Nat) (f : Chan → Chan) : (s.modChan r c f).stage = s.stage := by simp [State.modChan]
@[simp] theorem State.modChan_failure (s : State) (r c : Nat) (f : Chan → Chan) : (s.modChan r c f).failure = s.failure := by simp [State.modChan]
@[simp] theorem State.modChan_debug (s : State) (r c : Nat) (f : Chan → Chan) : (s.modChan r c f).debug = s.debug := by simp [State.modChan]
@[simp] theorem State.modChan_asidtb (s : State) (r c : Nat) (f : Chan → Chan) : (s.modChan r c f).asidtb = s.asidtb := by simp [State.modChan]
@[simp] theorem State.modChan_troot (s : State) (r c : Nat) (f : Chan → Chan) : (s.modChan r c f).troot = s.troot := by simp [State.modChan]
@[simp] theorem State.modChan_ioClock (s : State) (r c : Nat) (f : Chan → Chan) : (s.modChan r c f).ioClock = s.ioClock := by simp [State.modChan]
@[simp] theorem State.modChan_ref (s : State) (r c : Nat) (f : Chan → Chan) : (s.modChan r c f).ref = s.ref := by simp [State.modChan]
@[simp] theorem State.modChan_frz (s : State) (r c : Nat) (f : Chan → Chan) : (s.modChan r c f).frz = s.frz := by simp [State.modChan]
@[simp] theorem State.modChan_conn (s : State) (r c : Nat) (f : Chan → Chan) : (s.modChan r c f).conn = s.conn := by simp [State.modChan]
@[simp] theorem State.modChan_draining (s : State) (r c : Nat) (f : Chan → Chan) : (s.modChan r c f).draining = s.draining := by simp [State.modChan]
@[simp] theorem State.modChan_ctEntry (s : State) (r c : Nat) (f : Chan → Chan) : (s.modChan r c f).ctEntry = s.ctEntry := by simp [State.modChan]
@[simp] theorem State.modChan_ctReason (s : State) (r c : Nat) (f : Chan → Chan) : (s.modChan r c f).ctReason = s.ctReason := by simp [State.modChan]
@[simp] theorem State.modChan_ctSticky (s : State) (r c : Nat) (f : Chan → Chan) : (s.modChan r c f).ctSticky = s.ctSticky := by simp [State.modChan]
@[simp] theorem State.modChan_meas (s : State) (r c : Nat) (f : Chan → Chan) : (s.modChan r c f).meas = s.meas := by simp [State.modChan]
@[simp] theorem State.modChan_aliasKey (s : State) (r c : Nat) (f : Chan → Chan) : (s.modChan r c f).aliasKey = s.aliasKey := by simp [State.modChan]
@[simp] theorem State.modChan_limits (s : State) (r c : Nat) (f : Chan → Chan) : (s.modChan r c f).limits = s.limits := by simp [State.modChan]
@[simp] theorem State.modChan_powered (s : State) (r c : Nat) (f : Chan → Chan) : (s.modChan r c f).powered = s.powered := by simp [State.modChan]
@[simp] theorem State.modChan_recovery (s : State) (r c : Nat) (f : Chan → Chan) : (s.modChan r c f).recovery = s.recovery := by simp [State.modChan]
@[simp] theorem State.modChan_perst (s : State) (r c : Nat) (f : Chan → Chan) : (s.modChan r c f).perst = s.perst := by simp [State.modChan]
@[simp] theorem State.modChan_enumerated (s : State) (r c : Nat) (f : Chan → Chan) : (s.modChan r c f).enumerated = s.enumerated := by simp [State.modChan]
@[simp] theorem State.modChan_stopped (s : State) (r c : Nat) (f : Chan → Chan) : (s.modChan r c f).stopped = s.stopped := by simp [State.modChan]
@[simp] theorem State.modChan_ckpt (s : State) (r c : Nat) (f : Chan → Chan) : (s.modChan r c f).ckpt = s.ckpt := by simp [State.modChan]
@[simp] theorem State.modChan_ckptDone (s : State) (r c : Nat) (f : Chan → Chan) : (s.modChan r c f).ckptDone = s.ckptDone := by simp [State.modChan]
@[simp] theorem State.modChan_ckptBad (s : State) (r c : Nat) (f : Chan → Chan) : (s.modChan r c f).ckptBad = s.ckptBad := by simp [State.modChan]

/-! ### modFiring -/

@[simp] theorem State.modFiring_focus (s : State) (f : Firing → Firing) : (s.modFiring f).focus = s.focus := by unfold State.modFiring; split <;> rfl
@[simp] theorem State.modFiring_agenda (s : State) (f : Firing → Firing) : (s.modFiring f).agenda = s.agenda := by unfold State.modFiring; split <;> rfl
@[simp] theorem State.modFiring_fresh (s : State) (f : Firing → Firing) : (s.modFiring f).fresh = s.fresh := by unfold State.modFiring; split <;> rfl
@[simp] theorem State.modFiring_nextId (s : State) (f : Firing → Firing) : (s.modFiring f).nextId = s.nextId := by unfold State.modFiring; split <;> rfl
@[simp] theorem State.modFiring_reply (s : State) (f : Firing → Firing) : (s.modFiring f).reply = s.reply := by unfold State.modFiring; split <;> rfl
@[simp] theorem State.modFiring_fn (s : State) (f : Firing → Firing) : (s.modFiring f).fn = s.fn := by unfold State.modFiring; split <;> rfl
@[simp] theorem State.modFiring_mem (s : State) (f : Firing → Firing) : (s.modFiring f).mem = s.mem := by unfold State.modFiring; split <;> rfl
@[simp] theorem State.modFiring_fitted (s : State) (f : Firing → Firing) : (s.modFiring f).fitted = s.fitted := by unfold State.modFiring; split <;> rfl
@[simp] theorem State.modFiring_full (s : State) (f : Firing → Firing) : (s.modFiring f).full = s.full := by unfold State.modFiring; split <;> rfl
@[simp] theorem State.modFiring_poison (s : State) (f : Firing → Firing) : (s.modFiring f).poison = s.poison := by unfold State.modFiring; split <;> rfl
@[simp] theorem State.modFiring_sharers (s : State) (f : Firing → Firing) : (s.modFiring f).sharers = s.sharers := by unfold State.modFiring; split <;> rfl
@[simp] theorem State.modFiring_invs (s : State) (f : Firing → Firing) : (s.modFiring f).invs = s.invs := by unfold State.modFiring; split <;> rfl
@[simp] theorem State.modFiring_posted (s : State) (f : Firing → Firing) : (s.modFiring f).posted = s.posted := by unfold State.modFiring; split <;> rfl
@[simp] theorem State.modFiring_dues (s : State) (f : Firing → Firing) : (s.modFiring f).dues = s.dues := by unfold State.modFiring; split <;> rfl
@[simp] theorem State.modFiring_badMeta (s : State) (f : Firing → Firing) : (s.modFiring f).badMeta = s.badMeta := by unfold State.modFiring; split <;> rfl
@[simp] theorem State.modFiring_rels (s : State) (f : Firing → Firing) : (s.modFiring f).rels = s.rels := by unfold State.modFiring; split <;> rfl
@[simp] theorem State.modFiring_deferred (s : State) (f : Firing → Firing) : (s.modFiring f).deferred = s.deferred := by unfold State.modFiring; split <;> rfl
@[simp] theorem State.modFiring_dies (s : State) (f : Firing → Firing) : (s.modFiring f).dies = s.dies := by unfold State.modFiring; split <;> rfl
@[simp] theorem State.modFiring_regions (s : State) (f : Firing → Firing) : (s.modFiring f).regions = s.regions := by unfold State.modFiring; split <;> rfl
@[simp] theorem State.modFiring_slices (s : State) (f : Firing → Firing) : (s.modFiring f).slices = s.slices := by unfold State.modFiring; split <;> rfl
@[simp] theorem State.modFiring_links (s : State) (f : Firing → Firing) : (s.modFiring f).links = s.links := by unfold State.modFiring; split <;> rfl
@[simp] theorem State.modFiring_cmds (s : State) (f : Firing → Firing) : (s.modFiring f).cmds = s.cmds := by unfold State.modFiring; split <;> rfl
@[simp] theorem State.modFiring_subs (s : State) (f : Firing → Firing) : (s.modFiring f).subs = s.subs := by unfold State.modFiring; split <;> rfl
@[simp] theorem State.modFiring_comps (s : State) (f : Firing → Firing) : (s.modFiring f).comps = s.comps := by unfold State.modFiring; split <;> rfl
@[simp] theorem State.modFiring_follows (s : State) (f : Firing → Firing) : (s.modFiring f).follows = s.follows := by unfold State.modFiring; split <;> rfl
@[simp] theorem State.modFiring_remotes (s : State) (f : Firing → Firing) : (s.modFiring f).remotes = s.remotes := by unfold State.modFiring; split <;> rfl
@[simp] theorem State.modFiring_loads (s : State) (f : Firing → Firing) : (s.modFiring f).loads = s.loads := by unfold State.modFiring; split <;> rfl
@[simp] theorem State.modFiring_heldDone (s : State) (f : Firing → Firing) : (s.modFiring f).heldDone = s.heldDone := by unfold State.modFiring; split <;> rfl
@[simp] theorem State.modFiring_kept (s : State) (f : Firing → Firing) : (s.modFiring f).kept = s.kept := by unfold State.modFiring; split <;> rfl
@[simp] theorem State.modFiring_msix (s : State) (f : Firing → Firing) : (s.modFiring f).msix = s.msix := by unfold State.modFiring; split <;> rfl
@[simp] theorem State.modFiring_replays (s : State) (f : Firing → Firing) : (s.modFiring f).replays = s.replays := by unfold State.modFiring; split <;> rfl
@[simp] theorem State.modFiring_edgesDown (s : State) (f : Firing → Firing) : (s.modFiring f).edgesDown = s.edgesDown := by unfold State.modFiring; split <;> rfl
@[simp] theorem State.modFiring_qm900 (s : State) (f : Firing → Firing) : (s.modFiring f).qm900 = s.qm900 := by unfold State.modFiring; split <;> rfl
@[simp] theorem State.modFiring_stage (s : State) (f : Firing → Firing) : (s.modFiring f).stage = s.stage := by unfold State.modFiring; split <;> rfl
@[simp] theorem State.modFiring_failure (s : State) (f : Firing → Firing) : (s.modFiring f).failure = s.failure := by unfold State.modFiring; split <;> rfl
@[simp] theorem State.modFiring_debug (s : State) (f : Firing → Firing) : (s.modFiring f).debug = s.debug := by unfold State.modFiring; split <;> rfl
@[simp] theorem State.modFiring_asidtb (s : State) (f : Firing → Firing) : (s.modFiring f).asidtb = s.asidtb := by unfold State.modFiring; split <;> rfl
@[simp] theorem State.modFiring_troot (s : State) (f : Firing → Firing) : (s.modFiring f).troot = s.troot := by unfold State.modFiring; split <;> rfl
@[simp] theorem State.modFiring_ioClock (s : State) (f : Firing → Firing) : (s.modFiring f).ioClock = s.ioClock := by unfold State.modFiring; split <;> rfl
@[simp] theorem State.modFiring_ref (s : State) (f : Firing → Firing) : (s.modFiring f).ref = s.ref := by unfold State.modFiring; split <;> rfl
@[simp] theorem State.modFiring_frz (s : State) (f : Firing → Firing) : (s.modFiring f).frz = s.frz := by unfold State.modFiring; split <;> rfl
@[simp] theorem State.modFiring_conn (s : State) (f : Firing → Firing) : (s.modFiring f).conn = s.conn := by unfold State.modFiring; split <;> rfl
@[simp] theorem State.modFiring_draining (s : State) (f : Firing → Firing) : (s.modFiring f).draining = s.draining := by unfold State.modFiring; split <;> rfl
@[simp] theorem State.modFiring_ctEntry (s : State) (f : Firing → Firing) : (s.modFiring f).ctEntry = s.ctEntry := by unfold State.modFiring; split <;> rfl
@[simp] theorem State.modFiring_ctReason (s : State) (f : Firing → Firing) : (s.modFiring f).ctReason = s.ctReason := by unfold State.modFiring; split <;> rfl
@[simp] theorem State.modFiring_ctSticky (s : State) (f : Firing → Firing) : (s.modFiring f).ctSticky = s.ctSticky := by unfold State.modFiring; split <;> rfl
@[simp] theorem State.modFiring_meas (s : State) (f : Firing → Firing) : (s.modFiring f).meas = s.meas := by unfold State.modFiring; split <;> rfl
@[simp] theorem State.modFiring_aliasKey (s : State) (f : Firing → Firing) : (s.modFiring f).aliasKey = s.aliasKey := by unfold State.modFiring; split <;> rfl
@[simp] theorem State.modFiring_limits (s : State) (f : Firing → Firing) : (s.modFiring f).limits = s.limits := by unfold State.modFiring; split <;> rfl
@[simp] theorem State.modFiring_powered (s : State) (f : Firing → Firing) : (s.modFiring f).powered = s.powered := by unfold State.modFiring; split <;> rfl
@[simp] theorem State.modFiring_recovery (s : State) (f : Firing → Firing) : (s.modFiring f).recovery = s.recovery := by unfold State.modFiring; split <;> rfl
@[simp] theorem State.modFiring_perst (s : State) (f : Firing → Firing) : (s.modFiring f).perst = s.perst := by unfold State.modFiring; split <;> rfl
@[simp] theorem State.modFiring_enumerated (s : State) (f : Firing → Firing) : (s.modFiring f).enumerated = s.enumerated := by unfold State.modFiring; split <;> rfl
@[simp] theorem State.modFiring_stopped (s : State) (f : Firing → Firing) : (s.modFiring f).stopped = s.stopped := by unfold State.modFiring; split <;> rfl
@[simp] theorem State.modFiring_ckpt (s : State) (f : Firing → Firing) : (s.modFiring f).ckpt = s.ckpt := by unfold State.modFiring; split <;> rfl
@[simp] theorem State.modFiring_ckptDone (s : State) (f : Firing → Firing) : (s.modFiring f).ckptDone = s.ckptDone := by unfold State.modFiring; split <;> rfl
@[simp] theorem State.modFiring_ckptBad (s : State) (f : Firing → Firing) : (s.modFiring f).ckptBad = s.ckptBad := by unfold State.modFiring; split <;> rfl

/-! ### Read back -/

theorem State.tile_setTile_same (s : State) (t : Nat) (v : Tile) (h : swf ({} : Tile) s.tiles = true) : (s.setTile t v).tile t = v :=
  sget_sset_same ({} : Tile) v s.tiles t h

theorem State.tile_setTile_other (s : State) (t n : Nat) (v : Tile) (h : swf ({} : Tile) s.tiles = true) (hn : n ≠ t) :
    (s.setTile t v).tile n = s.tile n :=
  sget_sset_other ({} : Tile) v s.tiles t n h hn

theorem State.core_setCore (s : State) (c : Core) (h : swf ({} : Tile) s.tiles = true) : (s.setCore c).core = c := by
  simp only [State.core, State.setCore, State.setTile_focus]
  rw [State.tile_setTile_same _ _ _ h]

@[simp] theorem State.region_setRegion_same (s : State) (r : Nat) (g : Region) : (s.setRegion r g).region r = some g :=
  sget_sset_same_of_ne none (some g) (by simp) s.regions r

theorem State.region_setRegion_other (s : State) (r k : Nat) (g : Region) (hk : k ≠ r) :
    (s.setRegion r g).region k = s.region k :=
  sget_sset_other_of_ne none (some g) (by simp) s.regions r k hk

@[simp] theorem Region.actor_setActor_same (g : Region) (a : Nat) (x : Actor) : (g.setActor a x).actor a = some x :=
  sget_sset_same_of_ne none (some x) (by simp) g.actors a

theorem Region.actor_setActor_other (g : Region) (a b : Nat) (x : Actor) (h : b ≠ a) : (g.setActor a x).actor b = g.actor b :=
  sget_sset_other_of_ne none (some x) (by simp) g.actors a b h

@[simp] theorem Region.chan_setChan_same (g : Region) (c : Nat) (x : Chan) : (g.setChan c x).chan c = some x :=
  sget_sset_same_of_ne none (some x) (by simp) g.chans c

theorem Region.chan_setChan_other (g : Region) (c d : Nat) (x : Chan) (h : d ≠ c) : (g.setChan c x).chan d = g.chan d :=
  sget_sset_other_of_ne none (some x) (by simp) g.chans c d h

@[simp] theorem Region.ctrl_setCtrl_same (g : Region) (k : Nat) (x : Ctrl) : (g.setCtrl k x).ctrl k = some x :=
  sget_sset_same_of_ne none (some x) (by simp) g.ctrls k

@[simp] theorem Region.stage_setStage_same (g : Region) (k : Nat) (x : Stage) : (g.setStage k x).stage k = some x :=
  sget_sset_same_of_ne none (some x) (by simp) g.stages k

@[simp] theorem Region.node_setNode_same (g : Region) (k : Nat) (x : WNode) : (g.setNode k x).node k = some x :=
  sget_sset_same_of_ne none (some x) (by simp) g.nodes k

theorem State.modRegion_some (s : State) (r : Nat) (f : Region → Region) (g : Region) (h : s.region r = some g) :
    s.modRegion r f = s.setRegion r (f g) := by
  simp [State.modRegion, h]

theorem State.modRegion_none (s : State) (r : Nat) (f : Region → Region) (h : s.region r = none) : s.modRegion r f = s := by
  simp [State.modRegion, h]

@[simp] theorem State.region_setTile (s : State) (t r : Nat) (v : Tile) : (s.setTile t v).region r = s.region r := rfl
@[simp] theorem State.region_setCore (s : State) (c : Core) (r : Nat) : (s.setCore c).region r = s.region r := rfl
@[simp] theorem State.region_setReg (s : State) (d : Reg) (v : Dw) (r : Nat) : (s.setReg d v).region r = s.region r := rfl
@[simp] theorem State.region_modTile (s : State) (t r : Nat) (f : Tile → Tile) : (s.modTile t f).region r = s.region r := rfl
@[simp] theorem State.region_setSlice (s : State) (n r : Nat) (v : Slice) : (s.setSlice n v).region r = s.region r := rfl
@[simp] theorem State.region_setDie (s : State) (d r : Nat) (v : Die) : (s.setDie d v).region r = s.region r := rfl
@[simp] theorem State.region_setLink (s : State) (k r : Nat) (v : Link) : (s.setLink k v).region r = s.region r := rfl
@[simp] theorem State.tile_setRegion (s : State) (r t : Nat) (g : Region) : (s.setRegion r g).tile t = s.tile t := rfl
@[simp] theorem State.tile_setSlice (s : State) (n t : Nat) (v : Slice) : (s.setSlice n v).tile t = s.tile t := rfl
@[simp] theorem State.tile_setDie (s : State) (d t : Nat) (v : Die) : (s.setDie d v).tile t = s.tile t := rfl
@[simp] theorem State.slice_setRegion (s : State) (r n : Nat) (g : Region) : (s.setRegion r g).slice n = s.slice n := rfl
@[simp] theorem State.slice_setTile (s : State) (t n : Nat) (v : Tile) : (s.setTile t v).slice n = s.slice n := rfl
@[simp] theorem State.slice_setDie (s : State) (d n : Nat) (v : Die) : (s.setDie d v).slice n = s.slice n := rfl
@[simp] theorem State.die_setRegion (s : State) (r d : Nat) (g : Region) : (s.setRegion r g).die d = s.die d := rfl
@[simp] theorem State.die_setTile (s : State) (t d : Nat) (v : Tile) : (s.setTile t v).die d = s.die d := rfl
@[simp] theorem State.die_setSlice (s : State) (n d : Nat) (v : Slice) : (s.setSlice n v).die d = s.die d := rfl

end Sys2Proof.Machine
end

