-- ==== Sys2Proof/Laws/Memory.lean ====
section
/-! SUPPORT. What the operations on memory and scratchpad do to a byte and to the canonical form of the maps. -/

namespace Sys2Proof.Machine

/-- A byte written reads back, and every other keeps its value. -/
theorem State.rdByte_wrByte (s : State) (pa a : Nat) (b : Byte) (h : Memory.wf s.mem) :
    (s.wrByte pa b).rdByte a = if a = pa then b else s.rdByte a := by
  unfold State.rdByte State.wrByte
  split
  · next e => subst e; exact sget_sset_same _ _ _ _ h
  · next e => exact sget_sset_other _ _ _ _ _ h e

theorem State.wf_wrByte (s : State) (pa : Nat) (b : Byte) (h : Memory.wf s.mem) : Memory.wf (s.wrByte pa b).mem :=
  swf_sset _ _ _ _ h

theorem Tile.byte_setByte (t : Tile) (a i : Nat) (b : Byte) (h : swf (0 : Byte) t.spad = true) :
    (t.setByte a b).byte i = if i = a then b else t.byte i := by
  unfold Tile.byte Tile.setByte
  split
  · next e => subst e; exact sget_sset_same _ _ _ _ h
  · next e => exact sget_sset_other _ _ _ _ _ h e

theorem Tile.wf_setByte (t : Tile) (a : Nat) (b : Byte) (h : swf (0 : Byte) t.spad = true) :
    swf (0 : Byte) (t.setByte a b).spad = true := swf_sset _ _ _ _ h

/-- Bytes written at any addresses keep the form. -/
theorem State.wf_putBytes (ps : List Nat) (l : List Byte) (s : State) (h : Memory.wf s.mem) : Memory.wf (s.putBytes ps l).mem := by
  induction ps generalizing s l with
  | nil => cases l <;> exact h
  | cons p ps ih =>
    cases l with
    | nil => exact h
    | cons b l => exact ih l (s.wrByte p b) (s.wf_wrByte p b h)

/-- A write at the home keeps the form. -/
theorem State.wf_homeWrite (s : State) (ps : List Nat) (l : List Byte) (o : Option RelUnit) (h : Memory.wf s.mem) :
    Memory.wf (s.homeWrite ps l o).mem :=
  State.wf_putBytes ps l s h

/-- Invalidations leave memory alone. -/
@[simp] theorem State.sendInvs_mem (keep : Option Nat) (l : List Nat) (s : State) : (s.sendInvs keep l).mem = s.mem := by
  induction l generalizing s with
  | nil => rfl
  | cons n l ih => exact ih _

theorem State.invalidate_mem (s t : State) (keep : Option Nat) (l : List Nat) (e : s.invalidate keep l = some t) : t.mem = s.mem := by
  unfold State.invalidate at e
  split at e
  · cases e; exact State.sendInvs_mem keep l s
  · cases e

/-- Bytes written from an address keep the form. -/
theorem State.wf_wrBytes (l : List Byte) (s : State) (pa : Nat) (h : Memory.wf s.mem) : Memory.wf (s.wrBytes pa l).mem := by
  induction l generalizing s pa with
  | nil => exact h
  | cons b l ih => exact ih (s.wrByte pa b) (pa + 1) (s.wf_wrByte pa b h)

theorem State.wf_wr64 (s : State) (pa : Nat) (v : Dw) (h : Memory.wf s.mem) : Memory.wf (s.wr64 pa v).mem :=
  State.wf_wrBytes (dwBytes v) s pa h

/-- Updates of leaves taken up keep the form. -/
theorem State.wf_settleDues (l : List (Nat × Bool)) (s : State) (h : Memory.wf s.mem) : Memory.wf (s.settleDues l).mem := by
  induction l generalizing s with
  | nil => exact h
  | cons d l ih =>
    obtain ⟨a, w⟩ := d
    unfold State.settleDues
    split
    · exact ih _ h
    · split
      · exact ih _ (s.wf_wr64 a _ h)
      · refine ih _ ?_
        show Memory.wf ((s.invalidate none [lineOf a]).getD s).mem
        cases e : s.invalidate none [lineOf a] with
        | none => exact h
        | some t => simpa only [Option.getD_some, State.invalidate_mem s t _ _ e] using h

/-- The marks of a walk keep the form. -/
theorem State.wf_mark (w : Bool) (l : List Nat) (s : State) (h : Memory.wf s.mem) : Memory.wf (s.mark w l).mem := by
  induction l generalizing s with
  | nil => exact h
  | cons a l ih =>
    unfold State.mark
    refine ih _ ?_
    split
    · exact h
    · exact State.wf_settleDues _ s h

/-- Bytes of memory written leave every region alone. -/
@[simp] theorem State.wrBytes_regions (l : List Byte) (s : State) (pa : Nat) : (s.wrBytes pa l).regions = s.regions := by
  induction l generalizing s pa with
  | nil => rfl
  | cons b l ih => exact ih _ _

/-- Invalidations leave every region alone. -/
@[simp] theorem State.sendInvs_regions (keep : Option Nat) (l : List Nat) (s : State) : (s.sendInvs keep l).regions = s.regions := by
  induction l generalizing s with
  | nil => rfl
  | cons n l ih => exact ih _

/-- Updates of leaves taken up leave every region alone. -/
@[simp] theorem State.settleDues_regions (l : List (Nat × Bool)) (s : State) : (s.settleDues l).regions = s.regions := by
  induction l generalizing s with
  | nil => rfl
  | cons d l ih =>
    unfold State.settleDues State.invalidate
    split
    · exact ih _
    · split
      · exact (ih _).trans (State.wrBytes_regions _ _ _)
      · rw [ih]
        dsimp only
        split <;> simp

/-- The marks of a walk leave every region alone. -/
@[simp] theorem State.mark_regions (w : Bool) (l : List Nat) (s : State) : (s.mark w l).regions = s.regions := by
  induction l generalizing s with
  | nil => rfl
  | cons a l ih =>
    unfold State.mark
    rw [ih]
    split <;> simp

/-- A posted write performed keeps the form. -/
theorem State.wf_performPosted (s : State) (w : Posted) (h : Memory.wf s.mem) : Memory.wf (s.performPosted w).mem := by
  unfold State.performPosted
  split <;> exact s.wf_homeWrite _ _ none h

@[simp] theorem State.dropPosted_mem (s : State) (w : Posted) : (s.dropPosted w).mem = s.mem := by
  unfold State.dropPosted; split <;> rfl

/-- Posted writes taken up keep the form. -/
theorem State.wf_settlePosted (l : List Posted) (s : State) (h : Memory.wf s.mem) : Memory.wf (s.settlePosted l).mem := by
  induction l generalizing s with
  | nil => exact h
  | cons w l ih =>
    unfold State.settlePosted
    dsimp only
    split
    · exact ih _ h
    · split
      · exact ih _ (by rw [State.dropPosted_mem]; exact h)
      · split
        · exact ih _ (s.wf_performPosted w h)
        · refine ih _ ?_
          show Memory.wf ((s.invalidate none (linesOf (s.postedPas w))).getD s).mem
          cases e : s.invalidate none (linesOf (s.postedPas w)) with
          | none => exact h
          | some t => simpa only [Option.getD_some, State.invalidate_mem s t _ _ e] using h

theorem State.wf_settle (s : State) (h : Memory.wf s.mem) : Memory.wf s.settle.mem :=
  State.wf_settleDues _ _ (State.wf_settlePosted s.posted { s with posted := [] } h)

/-- A write of the host or of a peer keeps the form. -/
theorem State.wf_post (s : State) (ps : List Nat) (l : List Byte) (h : Memory.wf s.mem) : Memory.wf (s.post ps l).mem :=
  State.wf_settle _ h

/-- A write of the package's own hardware keeps the form. -/
theorem State.wf_hwWrite (s : State) (ps : List Nat) (l : List Byte) (h : Memory.wf s.mem) : Memory.wf (s.hwWrite ps l).mem :=
  s.wf_post ps l h

/-- A map with some keys taken out keeps the form. -/
theorem swfFrom_filter {α : Type} [DecidableEq α] (d : α) (p : Nat × α → Bool) (m : Sparse α) (b : Option Nat)
    (h : swfFrom d b m = true) : swfFrom d b (m.filter p) = true := by
  induction m generalizing b with
  | nil => simp [swfFrom]
  | cons x m ih =>
    obtain ⟨k, v⟩ := x
    simp only [swfFrom, Bool.and_eq_true] at h
    rw [List.filter_cons]
    split
    · simp only [swfFrom, Bool.and_eq_true]
      exact ⟨h.1, ih _ h.2⟩
    · cases b with
      | none => exact swfFrom_none d _ (some k) (ih _ h.2)
      | some b => exact swfFrom_mono d _ b k (by simp only [decide_eq_true_eq] at h; omega) (ih _ h.2)

theorem swf_filter {α : Type} [DecidableEq α] (d : α) (p : Nat × α → Bool) (m : Sparse α) (h : swf d m = true) :
    swf d (m.filter p) = true := swfFrom_filter d p m none h

/-- A list of writes into a map keeps the form. -/
theorem swf_foldl_sset {α β : Type} [DecidableEq α] (d : α) (k : β → Nat) (v : β → α) (l : List β) (m : Sparse α)
    (h : swf d m = true) : swf d (l.foldl (fun m c => sset d m (k c) (v c)) m) = true := by
  induction l generalizing m with
  | nil => exact h
  | cons c l ih => exact ih _ (swf_sset d _ _ _ h)

/-- A range copied keeps the form. -/
theorem State.wf_copyRange (s : State) (src dst n : Nat) (h : Memory.wf s.mem) : Memory.wf (s.copyRange src dst n).mem :=
  swf_foldl_sset (0 : Byte) (fun c : Nat × Byte => c.1) (fun c => c.2) _ _ (swf_filter 0 _ _ h)

/-- Changes of tiles leave memory alone. -/
theorem State.foldl_modTile_mem (l : List Nat) (f : Nat → Nat) (u : Tile → Tile) (s : State) :
    (l.foldl (fun s k => s.modTile (f k) u) s).mem = s.mem := by
  induction l generalizing s with
  | nil => rfl
  | cons k l ih => rw [List.foldl_cons, ih]; rfl

/-- A die's lines zeroed keep the form. -/
theorem State.wf_clearDie (s t : State) (die : Nat) (h : Memory.wf s.mem) (e : s.clearDie die = some t) : Memory.wf t.mem := by
  unfold State.clearDie at e
  simp only [] at e
  split at e
  · cases e
  · cases e
    refine swf_filter (0 : Byte) _ _ ?_
    simp only [State.foldl_modTile_mem]
    exact h

/-- Memory after reset has the form. -/
theorem Memory.wf_reset : Memory.wf State.reset.mem := rfl

end Sys2Proof.Machine
end

