-- ==== Sys2Proof/Laws/Abacus.lean ====
section
/-! SUPPORT. What the load of an abacus image does to the state: it marks the leaves of its walks and leaves every region alone. -/

namespace Sys2Proof.Machine

@[simp] theorem State.imgRead_regions (s : State) (tile asid va n : Nat) : (s.imgRead tile asid va n).1.regions = s.regions := by
  unfold State.imgRead
  split <;> simp

@[simp] theorem State.frameHeads_regions (home asid va n : Nat) (s : State) (off : Nat) (l : List (FrameRec × Nat × Nat)) :
    (s.frameHeads home asid va n off l).1.regions = s.regions := by
  induction n generalizing s off l with
  | zero => rfl
  | succ n ih =>
    have h1 := s.imgRead_regions home asid (va + off) 136
    unfold State.frameHeads
    split
    · next s1 h e =>
      rw [e] at h1
      have h2 := s1.imgRead_regions home asid (va + off + 136) (4 * (frameHdr (bytesAt h 0 8)).2.2)
      split
      · next s2 ts e2 => rw [e2] at h2; exact (ih _ _ _).trans (h2.trans h1)
      · next s2 x _ e2 => rw [e2] at h2; exact h2.trans h1
    · next s1 x _ e => rw [e] at h1; exact h1

@[simp] theorem State.readFrames_regions (g : Region) (home asid va : Nat) (l : List (FrameRec × Nat × Nat)) (s : State)
    (img : List Byte) : (s.readFrames g home asid va l img).1.regions = s.regions := by
  induction l generalizing s img with
  | nil => rfl
  | cons f l ih =>
    obtain ⟨f, off, len⟩ := f
    have h1 := s.imgRead_regions ((g.frameTile home f).getD home) asid (va + off) len
    unfold State.readFrames
    split
    · next s1 b e => rw [e] at h1; exact (ih _ _).trans h1
    · next s1 x _ e => rw [e] at h1; exact h1

/-- The load of an image leaves every region alone. -/
@[simp] theorem State.loadImage_regions (s : State) (r a : Nat) (g : Region) (x : Actor) (va : Nat) :
    (s.loadImage r a g x va).1.regions = s.regions := by
  have h1 := s.imgRead_regions x.tile g.asid va 32
  unfold State.loadImage
  split
  · next s1 hd e =>
    rw [e] at h1
    have h2 := State.frameHeads_regions x.tile g.asid va (abHeader hd).frames s1 32 []
    dsimp only
    split
    · next s2 er e2 => rw [e2] at h2; exact h2.trans h1
    · next s2 fs e2 =>
      rw [e2] at h2
      split
      · exact h2.trans h1
      · have h3 := State.readFrames_regions g x.tile g.asid va fs s2 hd
        split
        · next s3 body e3 =>
          rw [e3] at h3
          have h4 := s3.imgRead_regions x.tile g.asid (va + body.length) (up8 (4 * (abHeader hd).nout))
          split
          · next s4 tab e4 => rw [e4] at h4; exact h4.trans (h3.trans (h2.trans h1))
          · next s4 er _ e4 => rw [e4] at h4; exact h4.trans (h3.trans (h2.trans h1))
        · next s3 er _ e3 => rw [e3] at h3; exact h3.trans (h2.trans h1)
  · next s1 er _ e => rw [e] at h1; exact h1

end Sys2Proof.Machine
end

