-- ==== Sys2Proof/Laws/Encoding.lean ====
section
/-! SUPPORT. What each field of an encoded word reads as (R272): one lemma for each format and field, a part of the last
field, and one bit of it. They take decoding apart without unfolding a concatenation. -/

namespace Sys2Proof

/-- A field that lies within the low part of two joined bit strings, or within the high part. -/
theorem extract_low {v w : Nat} (x : BitVec v) (y : BitVec w) (lo n : Nat) (h : lo + n ≤ w) :
    (x ++ y).extractLsb' lo n = y.extractLsb' lo n := BitVec.extractLsb'_append_eq_of_add_le h
theorem extract_high {v w : Nat} (x : BitVec v) (y : BitVec w) (lo n : Nat) (h : w ≤ lo) :
    (x ++ y).extractLsb' lo n = x.extractLsb' (lo - w) n := BitVec.extractLsb'_append_eq_of_le h
theorem extract_all {w : Nat} (x : BitVec w) : x.extractLsb' 0 w = x := BitVec.extractLsb'_eq_self

/-! ### fmtR -/

@[simp] theorem fmtR_maj (maj : BitVec 6) (d : BitVec 5) (a : BitVec 5) (b : BitVec 5) (fn : BitVec 11) : fld (fmtR maj d a b fn) 26 6 = maj := by
  show BitVec.extractLsb' 26 6 (maj ++ d ++ a ++ b ++ fn) = maj
  rw [extract_high _ _ _ _ (by decide), extract_high _ _ _ _ (by decide), extract_high _ _ _ _ (by decide), extract_high _ _ _ _ (by decide), extract_all]
@[simp] theorem fmtR_d (maj : BitVec 6) (d : BitVec 5) (a : BitVec 5) (b : BitVec 5) (fn : BitVec 11) : fld (fmtR maj d a b fn) 21 5 = d := by
  show BitVec.extractLsb' 21 5 (maj ++ d ++ a ++ b ++ fn) = d
  rw [extract_high _ _ _ _ (by decide), extract_high _ _ _ _ (by decide), extract_high _ _ _ _ (by decide), extract_low _ _ _ _ (by decide), extract_all]
@[simp] theorem fmtR_a (maj : BitVec 6) (d : BitVec 5) (a : BitVec 5) (b : BitVec 5) (fn : BitVec 11) : fld (fmtR maj d a b fn) 16 5 = a := by
  show BitVec.extractLsb' 16 5 (maj ++ d ++ a ++ b ++ fn) = a
  rw [extract_high _ _ _ _ (by decide), extract_high _ _ _ _ (by decide), extract_low _ _ _ _ (by decide), extract_all]
@[simp] theorem fmtR_b (maj : BitVec 6) (d : BitVec 5) (a : BitVec 5) (b : BitVec 5) (fn : BitVec 11) : fld (fmtR maj d a b fn) 11 5 = b := by
  show BitVec.extractLsb' 11 5 (maj ++ d ++ a ++ b ++ fn) = b
  rw [extract_high _ _ _ _ (by decide), extract_low _ _ _ _ (by decide), extract_all]
@[simp] theorem fmtR_fn (maj : BitVec 6) (d : BitVec 5) (a : BitVec 5) (b : BitVec 5) (fn : BitVec 11) : fld (fmtR maj d a b fn) 0 11 = fn := by
  show BitVec.extractLsb' 0 11 (maj ++ d ++ a ++ b ++ fn) = fn
  rw [extract_low _ _ _ _ (by decide), extract_all]
theorem fmtR_in_fn (maj : BitVec 6) (d : BitVec 5) (a : BitVec 5) (b : BitVec 5) (fn : BitVec 11) (lo n : Nat) (h : lo + n ≤ 11) : fld (fmtR maj d a b fn) lo n = fn.extractLsb' lo n :=
  extract_low _ _ lo n h
theorem fmtR_bit (maj : BitVec 6) (d : BitVec 5) (a : BitVec 5) (b : BitVec 5) (fn : BitVec 11) (j : Nat) (h : j < 11) : (fmtR maj d a b fn).getLsbD j = fn.getLsbD j := by
  show (maj ++ d ++ a ++ b ++ fn).getLsbD j = _
  rw [BitVec.getLsbD_append, if_pos (by simpa using h)]

/-! ### fmtQ -/

@[simp] theorem fmtQ_maj (maj : BitVec 6) (d : BitVec 5) (a : BitVec 5) (b : BitVec 5) (c : BitVec 5) (fn : BitVec 6) : fld (fmtQ maj d a b c fn) 26 6 = maj := by
  show BitVec.extractLsb' 26 6 (maj ++ d ++ a ++ b ++ c ++ fn) = maj
  rw [extract_high _ _ _ _ (by decide), extract_high _ _ _ _ (by decide), extract_high _ _ _ _ (by decide), extract_high _ _ _ _ (by decide), extract_high _ _ _ _ (by decide), extract_all]
@[simp] theorem fmtQ_d (maj : BitVec 6) (d : BitVec 5) (a : BitVec 5) (b : BitVec 5) (c : BitVec 5) (fn : BitVec 6) : fld (fmtQ maj d a b c fn) 21 5 = d := by
  show BitVec.extractLsb' 21 5 (maj ++ d ++ a ++ b ++ c ++ fn) = d
  rw [extract_high _ _ _ _ (by decide), extract_high _ _ _ _ (by decide), extract_high _ _ _ _ (by decide), extract_high _ _ _ _ (by decide), extract_low _ _ _ _ (by decide), extract_all]
@[simp] theorem fmtQ_a (maj : BitVec 6) (d : BitVec 5) (a : BitVec 5) (b : BitVec 5) (c : BitVec 5) (fn : BitVec 6) : fld (fmtQ maj d a b c fn) 16 5 = a := by
  show BitVec.extractLsb' 16 5 (maj ++ d ++ a ++ b ++ c ++ fn) = a
  rw [extract_high _ _ _ _ (by decide), extract_high _ _ _ _ (by decide), extract_high _ _ _ _ (by decide), extract_low _ _ _ _ (by decide), extract_all]
@[simp] theorem fmtQ_b (maj : BitVec 6) (d : BitVec 5) (a : BitVec 5) (b : BitVec 5) (c : BitVec 5) (fn : BitVec 6) : fld (fmtQ maj d a b c fn) 11 5 = b := by
  show BitVec.extractLsb' 11 5 (maj ++ d ++ a ++ b ++ c ++ fn) = b
  rw [extract_high _ _ _ _ (by decide), extract_high _ _ _ _ (by decide), extract_low _ _ _ _ (by decide), extract_all]
@[simp] theorem fmtQ_c (maj : BitVec 6) (d : BitVec 5) (a : BitVec 5) (b : BitVec 5) (c : BitVec 5) (fn : BitVec 6) : fld (fmtQ maj d a b c fn) 6 5 = c := by
  show BitVec.extractLsb' 6 5 (maj ++ d ++ a ++ b ++ c ++ fn) = c
  rw [extract_high _ _ _ _ (by decide), extract_low _ _ _ _ (by decide), extract_all]
@[simp] theorem fmtQ_fn (maj : BitVec 6) (d : BitVec 5) (a : BitVec 5) (b : BitVec 5) (c : BitVec 5) (fn : BitVec 6) : fld (fmtQ maj d a b c fn) 0 6 = fn := by
  show BitVec.extractLsb' 0 6 (maj ++ d ++ a ++ b ++ c ++ fn) = fn
  rw [extract_low _ _ _ _ (by decide), extract_all]
theorem fmtQ_in_fn (maj : BitVec 6) (d : BitVec 5) (a : BitVec 5) (b : BitVec 5) (c : BitVec 5) (fn : BitVec 6) (lo n : Nat) (h : lo + n ≤ 6) : fld (fmtQ maj d a b c fn) lo n = fn.extractLsb' lo n :=
  extract_low _ _ lo n h
theorem fmtQ_bit (maj : BitVec 6) (d : BitVec 5) (a : BitVec 5) (b : BitVec 5) (c : BitVec 5) (fn : BitVec 6) (j : Nat) (h : j < 6) : (fmtQ maj d a b c fn).getLsbD j = fn.getLsbD j := by
  show (maj ++ d ++ a ++ b ++ c ++ fn).getLsbD j = _
  rw [BitVec.getLsbD_append, if_pos (by simpa using h)]

/-! ### fmtI -/

@[simp] theorem fmtI_maj (maj : BitVec 6) (d : BitVec 5) (a : BitVec 5) (imm : BitVec 16) : fld (fmtI maj d a imm) 26 6 = maj := by
  show BitVec.extractLsb' 26 6 (maj ++ d ++ a ++ imm) = maj
  rw [extract_high _ _ _ _ (by decide), extract_high _ _ _ _ (by decide), extract_high _ _ _ _ (by decide), extract_all]
@[simp] theorem fmtI_d (maj : BitVec 6) (d : BitVec 5) (a : BitVec 5) (imm : BitVec 16) : fld (fmtI maj d a imm) 21 5 = d := by
  show BitVec.extractLsb' 21 5 (maj ++ d ++ a ++ imm) = d
  rw [extract_high _ _ _ _ (by decide), extract_high _ _ _ _ (by decide), extract_low _ _ _ _ (by decide), extract_all]
@[simp] theorem fmtI_a (maj : BitVec 6) (d : BitVec 5) (a : BitVec 5) (imm : BitVec 16) : fld (fmtI maj d a imm) 16 5 = a := by
  show BitVec.extractLsb' 16 5 (maj ++ d ++ a ++ imm) = a
  rw [extract_high _ _ _ _ (by decide), extract_low _ _ _ _ (by decide), extract_all]
@[simp] theorem fmtI_imm (maj : BitVec 6) (d : BitVec 5) (a : BitVec 5) (imm : BitVec 16) : fld (fmtI maj d a imm) 0 16 = imm := by
  show BitVec.extractLsb' 0 16 (maj ++ d ++ a ++ imm) = imm
  rw [extract_low _ _ _ _ (by decide), extract_all]
theorem fmtI_in_imm (maj : BitVec 6) (d : BitVec 5) (a : BitVec 5) (imm : BitVec 16) (lo n : Nat) (h : lo + n ≤ 16) : fld (fmtI maj d a imm) lo n = imm.extractLsb' lo n :=
  extract_low _ _ lo n h
theorem fmtI_bit (maj : BitVec 6) (d : BitVec 5) (a : BitVec 5) (imm : BitVec 16) (j : Nat) (h : j < 16) : (fmtI maj d a imm).getLsbD j = imm.getLsbD j := by
  show (maj ++ d ++ a ++ imm).getLsbD j = _
  rw [BitVec.getLsbD_append, if_pos (by simpa using h)]

/-! ### fmtB -/

@[simp] theorem fmtB_maj (maj : BitVec 6) (cond : BitVec 3) (a : BitVec 5) (b : BitVec 5) (off : BitVec 13) : fld (fmtB maj cond a b off) 26 6 = maj := by
  show BitVec.extractLsb' 26 6 (maj ++ cond ++ a ++ b ++ off) = maj
  rw [extract_high _ _ _ _ (by decide), extract_high _ _ _ _ (by decide), extract_high _ _ _ _ (by decide), extract_high _ _ _ _ (by decide), extract_all]
@[simp] theorem fmtB_cond (maj : BitVec 6) (cond : BitVec 3) (a : BitVec 5) (b : BitVec 5) (off : BitVec 13) : fld (fmtB maj cond a b off) 23 3 = cond := by
  show BitVec.extractLsb' 23 3 (maj ++ cond ++ a ++ b ++ off) = cond
  rw [extract_high _ _ _ _ (by decide), extract_high _ _ _ _ (by decide), extract_high _ _ _ _ (by decide), extract_low _ _ _ _ (by decide), extract_all]
@[simp] theorem fmtB_a (maj : BitVec 6) (cond : BitVec 3) (a : BitVec 5) (b : BitVec 5) (off : BitVec 13) : fld (fmtB maj cond a b off) 18 5 = a := by
  show BitVec.extractLsb' 18 5 (maj ++ cond ++ a ++ b ++ off) = a
  rw [extract_high _ _ _ _ (by decide), extract_high _ _ _ _ (by decide), extract_low _ _ _ _ (by decide), extract_all]
@[simp] theorem fmtB_b (maj : BitVec 6) (cond : BitVec 3) (a : BitVec 5) (b : BitVec 5) (off : BitVec 13) : fld (fmtB maj cond a b off) 13 5 = b := by
  show BitVec.extractLsb' 13 5 (maj ++ cond ++ a ++ b ++ off) = b
  rw [extract_high _ _ _ _ (by decide), extract_low _ _ _ _ (by decide), extract_all]
@[simp] theorem fmtB_off (maj : BitVec 6) (cond : BitVec 3) (a : BitVec 5) (b : BitVec 5) (off : BitVec 13) : fld (fmtB maj cond a b off) 0 13 = off := by
  show BitVec.extractLsb' 0 13 (maj ++ cond ++ a ++ b ++ off) = off
  rw [extract_low _ _ _ _ (by decide), extract_all]
theorem fmtB_in_off (maj : BitVec 6) (cond : BitVec 3) (a : BitVec 5) (b : BitVec 5) (off : BitVec 13) (lo n : Nat) (h : lo + n ≤ 13) : fld (fmtB maj cond a b off) lo n = off.extractLsb' lo n :=
  extract_low _ _ lo n h
theorem fmtB_bit (maj : BitVec 6) (cond : BitVec 3) (a : BitVec 5) (b : BitVec 5) (off : BitVec 13) (j : Nat) (h : j < 13) : (fmtB maj cond a b off).getLsbD j = off.getLsbD j := by
  show (maj ++ cond ++ a ++ b ++ off).getLsbD j = _
  rw [BitVec.getLsbD_append, if_pos (by simpa using h)]

/-! ### fmtJ -/

@[simp] theorem fmtJ_maj (maj : BitVec 6) (off : BitVec 26) : fld (fmtJ maj off) 26 6 = maj := by
  show BitVec.extractLsb' 26 6 (maj ++ off) = maj
  rw [extract_high _ _ _ _ (by decide), extract_all]
@[simp] theorem fmtJ_off (maj : BitVec 6) (off : BitVec 26) : fld (fmtJ maj off) 0 26 = off := by
  show BitVec.extractLsb' 0 26 (maj ++ off) = off
  rw [extract_low _ _ _ _ (by decide), extract_all]
theorem fmtJ_in_off (maj : BitVec 6) (off : BitVec 26) (lo n : Nat) (h : lo + n ≤ 26) : fld (fmtJ maj off) lo n = off.extractLsb' lo n :=
  extract_low _ _ lo n h
theorem fmtJ_bit (maj : BitVec 6) (off : BitVec 26) (j : Nat) (h : j < 26) : (fmtJ maj off).getLsbD j = off.getLsbD j := by
  show (maj ++ off).getLsbD j = _
  rw [BitVec.getLsbD_append, if_pos (by simpa using h)]

/-! ### fmtML -/

@[simp] theorem fmtML_maj (maj : BitVec 6) (g : BitVec 5) (base : BitVec 5) (sz : BitVec 2) (sx : BitVec 1) (off : BitVec 13) : fld (fmtML maj g base sz sx off) 26 6 = maj := by
  show BitVec.extractLsb' 26 6 (maj ++ g ++ base ++ sz ++ sx ++ off) = maj
  rw [extract_high _ _ _ _ (by decide), extract_high _ _ _ _ (by decide), extract_high _ _ _ _ (by decide), extract_high _ _ _ _ (by decide), extract_high _ _ _ _ (by decide), extract_all]
@[simp] theorem fmtML_g (maj : BitVec 6) (g : BitVec 5) (base : BitVec 5) (sz : BitVec 2) (sx : BitVec 1) (off : BitVec 13) : fld (fmtML maj g base sz sx off) 21 5 = g := by
  show BitVec.extractLsb' 21 5 (maj ++ g ++ base ++ sz ++ sx ++ off) = g
  rw [extract_high _ _ _ _ (by decide), extract_high _ _ _ _ (by decide), extract_high _ _ _ _ (by decide), extract_high _ _ _ _ (by decide), extract_low _ _ _ _ (by decide), extract_all]
@[simp] theorem fmtML_base (maj : BitVec 6) (g : BitVec 5) (base : BitVec 5) (sz : BitVec 2) (sx : BitVec 1) (off : BitVec 13) : fld (fmtML maj g base sz sx off) 16 5 = base := by
  show BitVec.extractLsb' 16 5 (maj ++ g ++ base ++ sz ++ sx ++ off) = base
  rw [extract_high _ _ _ _ (by decide), extract_high _ _ _ _ (by decide), extract_high _ _ _ _ (by decide), extract_low _ _ _ _ (by decide), extract_all]
@[simp] theorem fmtML_sz (maj : BitVec 6) (g : BitVec 5) (base : BitVec 5) (sz : BitVec 2) (sx : BitVec 1) (off : BitVec 13) : fld (fmtML maj g base sz sx off) 14 2 = sz := by
  show BitVec.extractLsb' 14 2 (maj ++ g ++ base ++ sz ++ sx ++ off) = sz
  rw [extract_high _ _ _ _ (by decide), extract_high _ _ _ _ (by decide), extract_low _ _ _ _ (by decide), extract_all]
@[simp] theorem fmtML_sx (maj : BitVec 6) (g : BitVec 5) (base : BitVec 5) (sz : BitVec 2) (sx : BitVec 1) (off : BitVec 13) : fld (fmtML maj g base sz sx off) 13 1 = sx := by
  show BitVec.extractLsb' 13 1 (maj ++ g ++ base ++ sz ++ sx ++ off) = sx
  rw [extract_high _ _ _ _ (by decide), extract_low _ _ _ _ (by decide), extract_all]
@[simp] theorem fmtML_off (maj : BitVec 6) (g : BitVec 5) (base : BitVec 5) (sz : BitVec 2) (sx : BitVec 1) (off : BitVec 13) : fld (fmtML maj g base sz sx off) 0 13 = off := by
  show BitVec.extractLsb' 0 13 (maj ++ g ++ base ++ sz ++ sx ++ off) = off
  rw [extract_low _ _ _ _ (by decide), extract_all]
theorem fmtML_in_off (maj : BitVec 6) (g : BitVec 5) (base : BitVec 5) (sz : BitVec 2) (sx : BitVec 1) (off : BitVec 13) (lo n : Nat) (h : lo + n ≤ 13) : fld (fmtML maj g base sz sx off) lo n = off.extractLsb' lo n :=
  extract_low _ _ lo n h
theorem fmtML_bit (maj : BitVec 6) (g : BitVec 5) (base : BitVec 5) (sz : BitVec 2) (sx : BitVec 1) (off : BitVec 13) (j : Nat) (h : j < 13) : (fmtML maj g base sz sx off).getLsbD j = off.getLsbD j := by
  show (maj ++ g ++ base ++ sz ++ sx ++ off).getLsbD j = _
  rw [BitVec.getLsbD_append, if_pos (by simpa using h)]

/-! ### fmtMG -/

@[simp] theorem fmtMG_maj (maj : BitVec 6) (g : BitVec 5) (base : BitVec 5) (port : BitVec 3) (fn : BitVec 5) (sc : BitVec 2) (ord : BitVec 2) (z : BitVec 4) : fld (fmtMG maj g base port fn sc ord z) 26 6 = maj := by
  show BitVec.extractLsb' 26 6 (maj ++ g ++ base ++ port ++ fn ++ sc ++ ord ++ z) = maj
  rw [extract_high _ _ _ _ (by decide), extract_high _ _ _ _ (by decide), extract_high _ _ _ _ (by decide), extract_high _ _ _ _ (by decide), extract_high _ _ _ _ (by decide), extract_high _ _ _ _ (by decide), extract_high _ _ _ _ (by decide), extract_all]
@[simp] theorem fmtMG_g (maj : BitVec 6) (g : BitVec 5) (base : BitVec 5) (port : BitVec 3) (fn : BitVec 5) (sc : BitVec 2) (ord : BitVec 2) (z : BitVec 4) : fld (fmtMG maj g base port fn sc ord z) 21 5 = g := by
  show BitVec.extractLsb' 21 5 (maj ++ g ++ base ++ port ++ fn ++ sc ++ ord ++ z) = g
  rw [extract_high _ _ _ _ (by decide), extract_high _ _ _ _ (by decide), extract_high _ _ _ _ (by decide), extract_high _ _ _ _ (by decide), extract_high _ _ _ _ (by decide), extract_high _ _ _ _ (by decide), extract_low _ _ _ _ (by decide), extract_all]
@[simp] theorem fmtMG_base (maj : BitVec 6) (g : BitVec 5) (base : BitVec 5) (port : BitVec 3) (fn : BitVec 5) (sc : BitVec 2) (ord : BitVec 2) (z : BitVec 4) : fld (fmtMG maj g base port fn sc ord z) 16 5 = base := by
  show BitVec.extractLsb' 16 5 (maj ++ g ++ base ++ port ++ fn ++ sc ++ ord ++ z) = base
  rw [extract_high _ _ _ _ (by decide), extract_high _ _ _ _ (by decide), extract_high _ _ _ _ (by decide), extract_high _ _ _ _ (by decide), extract_high _ _ _ _ (by decide), extract_low _ _ _ _ (by decide), extract_all]
@[simp] theorem fmtMG_port (maj : BitVec 6) (g : BitVec 5) (base : BitVec 5) (port : BitVec 3) (fn : BitVec 5) (sc : BitVec 2) (ord : BitVec 2) (z : BitVec 4) : fld (fmtMG maj g base port fn sc ord z) 13 3 = port := by
  show BitVec.extractLsb' 13 3 (maj ++ g ++ base ++ port ++ fn ++ sc ++ ord ++ z) = port
  rw [extract_high _ _ _ _ (by decide), extract_high _ _ _ _ (by decide), extract_high _ _ _ _ (by decide), extract_high _ _ _ _ (by decide), extract_low _ _ _ _ (by decide), extract_all]
@[simp] theorem fmtMG_fn (maj : BitVec 6) (g : BitVec 5) (base : BitVec 5) (port : BitVec 3) (fn : BitVec 5) (sc : BitVec 2) (ord : BitVec 2) (z : BitVec 4) : fld (fmtMG maj g base port fn sc ord z) 8 5 = fn := by
  show BitVec.extractLsb' 8 5 (maj ++ g ++ base ++ port ++ fn ++ sc ++ ord ++ z) = fn
  rw [extract_high _ _ _ _ (by decide), extract_high _ _ _ _ (by decide), extract_high _ _ _ _ (by decide), extract_low _ _ _ _ (by decide), extract_all]
@[simp] theorem fmtMG_sc (maj : BitVec 6) (g : BitVec 5) (base : BitVec 5) (port : BitVec 3) (fn : BitVec 5) (sc : BitVec 2) (ord : BitVec 2) (z : BitVec 4) : fld (fmtMG maj g base port fn sc ord z) 6 2 = sc := by
  show BitVec.extractLsb' 6 2 (maj ++ g ++ base ++ port ++ fn ++ sc ++ ord ++ z) = sc
  rw [extract_high _ _ _ _ (by decide), extract_high _ _ _ _ (by decide), extract_low _ _ _ _ (by decide), extract_all]
@[simp] theorem fmtMG_ord (maj : BitVec 6) (g : BitVec 5) (base : BitVec 5) (port : BitVec 3) (fn : BitVec 5) (sc : BitVec 2) (ord : BitVec 2) (z : BitVec 4) : fld (fmtMG maj g base port fn sc ord z) 4 2 = ord := by
  show BitVec.extractLsb' 4 2 (maj ++ g ++ base ++ port ++ fn ++ sc ++ ord ++ z) = ord
  rw [extract_high _ _ _ _ (by decide), extract_low _ _ _ _ (by decide), extract_all]
@[simp] theorem fmtMG_z (maj : BitVec 6) (g : BitVec 5) (base : BitVec 5) (port : BitVec 3) (fn : BitVec 5) (sc : BitVec 2) (ord : BitVec 2) (z : BitVec 4) : fld (fmtMG maj g base port fn sc ord z) 0 4 = z := by
  show BitVec.extractLsb' 0 4 (maj ++ g ++ base ++ port ++ fn ++ sc ++ ord ++ z) = z
  rw [extract_low _ _ _ _ (by decide), extract_all]
theorem fmtMG_in_z (maj : BitVec 6) (g : BitVec 5) (base : BitVec 5) (port : BitVec 3) (fn : BitVec 5) (sc : BitVec 2) (ord : BitVec 2) (z : BitVec 4) (lo n : Nat) (h : lo + n ≤ 4) : fld (fmtMG maj g base port fn sc ord z) lo n = z.extractLsb' lo n :=
  extract_low _ _ lo n h
theorem fmtMG_bit (maj : BitVec 6) (g : BitVec 5) (base : BitVec 5) (port : BitVec 3) (fn : BitVec 5) (sc : BitVec 2) (ord : BitVec 2) (z : BitVec 4) (j : Nat) (h : j < 4) : (fmtMG maj g base port fn sc ord z).getLsbD j = z.getLsbD j := by
  show (maj ++ g ++ base ++ port ++ fn ++ sc ++ ord ++ z).getLsbD j = _
  rw [BitVec.getLsbD_append, if_pos (by simpa using h)]

/-! ### fmtT -/

@[simp] theorem fmtT_maj (maj : BitVec 6) (g : BitVec 5) (port : BitVec 3) (cnt : BitVec 3) (fl : BitVec 15) : fld (fmtT maj g port cnt fl) 26 6 = maj := by
  show BitVec.extractLsb' 26 6 (maj ++ g ++ port ++ cnt ++ fl) = maj
  rw [extract_high _ _ _ _ (by decide), extract_high _ _ _ _ (by decide), extract_high _ _ _ _ (by decide), extract_high _ _ _ _ (by decide), extract_all]
@[simp] theorem fmtT_g (maj : BitVec 6) (g : BitVec 5) (port : BitVec 3) (cnt : BitVec 3) (fl : BitVec 15) : fld (fmtT maj g port cnt fl) 21 5 = g := by
  show BitVec.extractLsb' 21 5 (maj ++ g ++ port ++ cnt ++ fl) = g
  rw [extract_high _ _ _ _ (by decide), extract_high _ _ _ _ (by decide), extract_high _ _ _ _ (by decide), extract_low _ _ _ _ (by decide), extract_all]
@[simp] theorem fmtT_port (maj : BitVec 6) (g : BitVec 5) (port : BitVec 3) (cnt : BitVec 3) (fl : BitVec 15) : fld (fmtT maj g port cnt fl) 18 3 = port := by
  show BitVec.extractLsb' 18 3 (maj ++ g ++ port ++ cnt ++ fl) = port
  rw [extract_high _ _ _ _ (by decide), extract_high _ _ _ _ (by decide), extract_low _ _ _ _ (by decide), extract_all]
@[simp] theorem fmtT_cnt (maj : BitVec 6) (g : BitVec 5) (port : BitVec 3) (cnt : BitVec 3) (fl : BitVec 15) : fld (fmtT maj g port cnt fl) 15 3 = cnt := by
  show BitVec.extractLsb' 15 3 (maj ++ g ++ port ++ cnt ++ fl) = cnt
  rw [extract_high _ _ _ _ (by decide), extract_low _ _ _ _ (by decide), extract_all]
@[simp] theorem fmtT_fl (maj : BitVec 6) (g : BitVec 5) (port : BitVec 3) (cnt : BitVec 3) (fl : BitVec 15) : fld (fmtT maj g port cnt fl) 0 15 = fl := by
  show BitVec.extractLsb' 0 15 (maj ++ g ++ port ++ cnt ++ fl) = fl
  rw [extract_low _ _ _ _ (by decide), extract_all]
theorem fmtT_in_fl (maj : BitVec 6) (g : BitVec 5) (port : BitVec 3) (cnt : BitVec 3) (fl : BitVec 15) (lo n : Nat) (h : lo + n ≤ 15) : fld (fmtT maj g port cnt fl) lo n = fl.extractLsb' lo n :=
  extract_low _ _ lo n h
theorem fmtT_bit (maj : BitVec 6) (g : BitVec 5) (port : BitVec 3) (cnt : BitVec 3) (fl : BitVec 15) (j : Nat) (h : j < 15) : (fmtT maj g port cnt fl).getLsbD j = fl.getLsbD j := by
  show (maj ++ g ++ port ++ cnt ++ fl).getLsbD j = _
  rw [BitVec.getLsbD_append, if_pos (by simpa using h)]

/-! ### fmtS -/

@[simp] theorem fmtS_maj (maj : BitVec 6) (g : BitVec 5) (a : BitVec 5) (csr : BitVec 12) (fn : BitVec 4) : fld (fmtS maj g a csr fn) 26 6 = maj := by
  show BitVec.extractLsb' 26 6 (maj ++ g ++ a ++ csr ++ fn) = maj
  rw [extract_high _ _ _ _ (by decide), extract_high _ _ _ _ (by decide), extract_high _ _ _ _ (by decide), extract_high _ _ _ _ (by decide), extract_all]
@[simp] theorem fmtS_g (maj : BitVec 6) (g : BitVec 5) (a : BitVec 5) (csr : BitVec 12) (fn : BitVec 4) : fld (fmtS maj g a csr fn) 21 5 = g := by
  show BitVec.extractLsb' 21 5 (maj ++ g ++ a ++ csr ++ fn) = g
  rw [extract_high _ _ _ _ (by decide), extract_high _ _ _ _ (by decide), extract_high _ _ _ _ (by decide), extract_low _ _ _ _ (by decide), extract_all]
@[simp] theorem fmtS_a (maj : BitVec 6) (g : BitVec 5) (a : BitVec 5) (csr : BitVec 12) (fn : BitVec 4) : fld (fmtS maj g a csr fn) 16 5 = a := by
  show BitVec.extractLsb' 16 5 (maj ++ g ++ a ++ csr ++ fn) = a
  rw [extract_high _ _ _ _ (by decide), extract_high _ _ _ _ (by decide), extract_low _ _ _ _ (by decide), extract_all]
@[simp] theorem fmtS_csr (maj : BitVec 6) (g : BitVec 5) (a : BitVec 5) (csr : BitVec 12) (fn : BitVec 4) : fld (fmtS maj g a csr fn) 4 12 = csr := by
  show BitVec.extractLsb' 4 12 (maj ++ g ++ a ++ csr ++ fn) = csr
  rw [extract_high _ _ _ _ (by decide), extract_low _ _ _ _ (by decide), extract_all]
@[simp] theorem fmtS_fn (maj : BitVec 6) (g : BitVec 5) (a : BitVec 5) (csr : BitVec 12) (fn : BitVec 4) : fld (fmtS maj g a csr fn) 0 4 = fn := by
  show BitVec.extractLsb' 0 4 (maj ++ g ++ a ++ csr ++ fn) = fn
  rw [extract_low _ _ _ _ (by decide), extract_all]
theorem fmtS_in_fn (maj : BitVec 6) (g : BitVec 5) (a : BitVec 5) (csr : BitVec 12) (fn : BitVec 4) (lo n : Nat) (h : lo + n ≤ 4) : fld (fmtS maj g a csr fn) lo n = fn.extractLsb' lo n :=
  extract_low _ _ lo n h
theorem fmtS_bit (maj : BitVec 6) (g : BitVec 5) (a : BitVec 5) (csr : BitVec 12) (fn : BitVec 4) (j : Nat) (h : j < 4) : (fmtS maj g a csr fn).getLsbD j = fn.getLsbD j := by
  show (maj ++ g ++ a ++ csr ++ fn).getLsbD j = _
  rw [BitVec.getLsbD_append, if_pos (by simpa using h)]

/-! ### fmtC -/

@[simp] theorem fmtC_maj (maj : BitVec 6) (oport : BitVec 3) (entry : BitVec 11) (mask : BitVec 4) (patch : BitVec 5) (z : BitVec 3) : fld (fmtC maj oport entry mask patch z) 26 6 = maj := by
  show BitVec.extractLsb' 26 6 (maj ++ oport ++ entry ++ mask ++ patch ++ z) = maj
  rw [extract_high _ _ _ _ (by decide), extract_high _ _ _ _ (by decide), extract_high _ _ _ _ (by decide), extract_high _ _ _ _ (by decide), extract_high _ _ _ _ (by decide), extract_all]
@[simp] theorem fmtC_oport (maj : BitVec 6) (oport : BitVec 3) (entry : BitVec 11) (mask : BitVec 4) (patch : BitVec 5) (z : BitVec 3) : fld (fmtC maj oport entry mask patch z) 23 3 = oport := by
  show BitVec.extractLsb' 23 3 (maj ++ oport ++ entry ++ mask ++ patch ++ z) = oport
  rw [extract_high _ _ _ _ (by decide), extract_high _ _ _ _ (by decide), extract_high _ _ _ _ (by decide), extract_high _ _ _ _ (by decide), extract_low _ _ _ _ (by decide), extract_all]
@[simp] theorem fmtC_entry (maj : BitVec 6) (oport : BitVec 3) (entry : BitVec 11) (mask : BitVec 4) (patch : BitVec 5) (z : BitVec 3) : fld (fmtC maj oport entry mask patch z) 12 11 = entry := by
  show BitVec.extractLsb' 12 11 (maj ++ oport ++ entry ++ mask ++ patch ++ z) = entry
  rw [extract_high _ _ _ _ (by decide), extract_high _ _ _ _ (by decide), extract_high _ _ _ _ (by decide), extract_low _ _ _ _ (by decide), extract_all]
@[simp] theorem fmtC_mask (maj : BitVec 6) (oport : BitVec 3) (entry : BitVec 11) (mask : BitVec 4) (patch : BitVec 5) (z : BitVec 3) : fld (fmtC maj oport entry mask patch z) 8 4 = mask := by
  show BitVec.extractLsb' 8 4 (maj ++ oport ++ entry ++ mask ++ patch ++ z) = mask
  rw [extract_high _ _ _ _ (by decide), extract_high _ _ _ _ (by decide), extract_low _ _ _ _ (by decide), extract_all]
@[simp] theorem fmtC_patch (maj : BitVec 6) (oport : BitVec 3) (entry : BitVec 11) (mask : BitVec 4) (patch : BitVec 5) (z : BitVec 3) : fld (fmtC maj oport entry mask patch z) 3 5 = patch := by
  show BitVec.extractLsb' 3 5 (maj ++ oport ++ entry ++ mask ++ patch ++ z) = patch
  rw [extract_high _ _ _ _ (by decide), extract_low _ _ _ _ (by decide), extract_all]
@[simp] theorem fmtC_z (maj : BitVec 6) (oport : BitVec 3) (entry : BitVec 11) (mask : BitVec 4) (patch : BitVec 5) (z : BitVec 3) : fld (fmtC maj oport entry mask patch z) 0 3 = z := by
  show BitVec.extractLsb' 0 3 (maj ++ oport ++ entry ++ mask ++ patch ++ z) = z
  rw [extract_low _ _ _ _ (by decide), extract_all]
theorem fmtC_in_z (maj : BitVec 6) (oport : BitVec 3) (entry : BitVec 11) (mask : BitVec 4) (patch : BitVec 5) (z : BitVec 3) (lo n : Nat) (h : lo + n ≤ 3) : fld (fmtC maj oport entry mask patch z) lo n = z.extractLsb' lo n :=
  extract_low _ _ lo n h
theorem fmtC_bit (maj : BitVec 6) (oport : BitVec 3) (entry : BitVec 11) (mask : BitVec 4) (patch : BitVec 5) (z : BitVec 3) (j : Nat) (h : j < 3) : (fmtC maj oport entry mask patch z).getLsbD j = z.getLsbD j := by
  show (maj ++ oport ++ entry ++ mask ++ patch ++ z).getLsbD j = _
  rw [BitVec.getLsbD_append, if_pos (by simpa using h)]

end Sys2Proof
end

