-- ==== Sys2Proof/Laws/Ops.lean ====
section
/-! SUPPORT. What the shared operations of registers, save area, launches and traps do: the register file, handler entry and
return, the cases of taking a trap, and that all of them keep memory's canonical form. -/

namespace Sys2Proof.Machine

/-! ### The register file (R45, R46) -/

@[simp] theorem Core.reg_zero (c : Core) : c.reg 0 = 0 := by simp [Core.reg]
@[simp] theorem Core.setReg_zero (c : Core) (v : Dw) : c.setReg 0 v = c := by simp [Core.setReg]

theorem Core.reg_setReg_same (c : Core) (r : Reg) (v : Dw) (hr : r ≠ 0) (hg : swf (0 : Dw) c.g = true)
    (hb : swf (0 : Dw) c.sb = true) : (c.setReg r v).reg r = v := by
  unfold Core.setReg Core.reg
  simp only [hr, if_false]
  split
  · next h => exact sget_sset_same _ _ _ _ hb
  · next h => exact sget_sset_same _ _ _ _ hg

theorem Core.reg_setReg_other (c : Core) (r q : Reg) (v : Dw) (hq : q ≠ r) (hg : swf (0 : Dw) c.g = true)
    (hb : swf (0 : Dw) c.sb = true) : (c.setReg r v).reg q = c.reg q := by
  have hn : q.toNat ≠ r.toNat := fun h => hq (BitVec.eq_of_toNat_eq h)
  unfold Core.setReg
  split
  · rfl
  · split
    · unfold Core.reg
      simp only [sget_sset_other 0 v c.sb r.toNat q.toNat hb hn]
    · unfold Core.reg
      simp only [sget_sset_other 0 v c.g r.toNat q.toNat hg hn]

@[simp] theorem Core.setReg_sys (c : Core) (r : Reg) (v : Dw) : (c.setReg r v).sys = c.sys := by
  unfold Core.setReg; repeat' split
  all_goals rfl
@[simp] theorem Core.setReg_pc (c : Core) (r : Reg) (v : Dw) : (c.setReg r v).pc = c.pc := by
  unfold Core.setReg; repeat' split
  all_goals rfl
@[simp] theorem Core.setReg_bypass (c : Core) (r : Reg) (v : Dw) : (c.setReg r v).bypass = c.bypass := by
  unfold Core.setReg; repeat' split
  all_goals rfl
@[simp] theorem Core.setReg_tstat (c : Core) (r : Reg) (v : Dw) : (c.setReg r v).tstat = c.tstat := by
  unfold Core.setReg; repeat' split
  all_goals rfl
@[simp] theorem Core.setReg_tcause (c : Core) (r : Reg) (v : Dw) : (c.setReg r v).tcause = c.tcause := by
  unfold Core.setReg; repeat' split
  all_goals rfl
@[simp] theorem Core.setReg_tepc (c : Core) (r : Reg) (v : Dw) : (c.setReg r v).tepc = c.tepc := by
  unfold Core.setReg; repeat' split
  all_goals rfl
@[simp] theorem Core.setReg_tval (c : Core) (r : Reg) (v : Dw) : (c.setReg r v).tval = c.tval := by
  unfold Core.setReg; repeat' split
  all_goals rfl
@[simp] theorem Core.setReg_tvec (c : Core) (r : Reg) (v : Dw) : (c.setReg r v).tvec = c.tvec := by
  unfold Core.setReg; repeat' split
  all_goals rfl
@[simp] theorem Core.setReg_firing (c : Core) (r : Reg) (v : Dw) : (c.setReg r v).firing = c.firing := by
  unfold Core.setReg; repeat' split
  all_goals rfl

/-! ### Handler entry and return (R218, R219) -/

@[simp] theorem Core.enter_sys (c : Core) (k : BitVec 8) (v : Dw) : (c.enter k v).sys = true := rfl
@[simp] theorem Core.enter_pc (c : Core) (k : BitVec 8) (v : Dw) : (c.enter k v).pc = c.tvec := rfl
@[simp] theorem Core.enter_tcause (c : Core) (k : BitVec 8) (v : Dw) : (c.enter k v).tcause = k := rfl
@[simp] theorem Core.enter_tepc (c : Core) (k : BitVec 8) (v : Dw) : (c.enter k v).tepc = c.pc := rfl
@[simp] theorem Core.enter_tval (c : Core) (k : BitVec 8) (v : Dw) : (c.enter k v).tval = v := rfl
@[simp] theorem Core.enter_tvec (c : Core) (k : BitVec 8) (v : Dw) : (c.enter k v).tvec = c.tvec := rfl
@[simp] theorem Core.enter_g (c : Core) (k : BitVec 8) (v : Dw) : (c.enter k v).g = c.g := rfl
@[simp] theorem Core.enter_sb (c : Core) (k : BitVec 8) (v : Dw) : (c.enter k v).sb = c.sb := rfl
@[simp] theorem Core.enter_bypass (c : Core) (k : BitVec 8) (v : Dw) : (c.enter k v).bypass = c.bypass := rfl
@[simp] theorem Core.leave_sys (c : Core) : c.leave.sys = c.tMode := rfl
@[simp] theorem Core.leave_pc (c : Core) : c.leave.pc = c.tepc := rfl
@[simp] theorem Core.leave_g (c : Core) : c.leave.g = c.g := rfl
@[simp] theorem Core.leave_sb (c : Core) : c.leave.sb = c.sb := rfl
@[simp] theorem Core.leave_tcause (c : Core) : c.leave.tcause = c.tcause := rfl
@[simp] theorem Core.leave_tval (c : Core) : c.leave.tval = c.tval := rfl
@[simp] theorem Core.leave_tvec (c : Core) : c.leave.tvec = c.tvec := rfl

/-! ### Saved and reported things keep memory's form -/

theorem State.wf_saveWrite (s t : State) (die asid va : Nat) (l : List Byte) (h : Memory.wf s.mem)
    (e : s.saveWrite die asid va l = .ok t) : Memory.wf t.mem := by
  unfold State.saveWrite at e
  split at e
  · cases e; exact h
  · split at e
    · next q _ => cases e; exact State.wf_hwWrite _ _ _ (State.wf_mark _ _ _ h)
    · cases e

theorem State.wf_areaWrite (s t : State) (g : Region) (off : Nat) (l : List Byte) (h : Memory.wf s.mem)
    (e : s.areaWrite g off l = .ok t) : Memory.wf t.mem :=
  State.wf_saveWrite s t _ _ _ l h e

theorem State.wf_syncFault (s : State) (r : Nat) (h : Memory.wf s.mem) : Memory.wf (s.syncFault r).mem := by
  unfold State.syncFault
  split
  · exact h
  · simp only [State.setRegion]
    split
    · next e => exact State.wf_areaWrite _ _ _ _ _ h e
    · exact h

theorem State.wf_bumpFault (s : State) (r off shift : Nat) (h : Memory.wf s.mem) : Memory.wf (s.bumpFault r off shift).mem := by
  unfold State.bumpFault
  split
  · exact h
  · split
    · exact h
    · split
      · next e => exact State.wf_areaWrite _ _ _ _ _ h e
      · exact h

theorem State.wf_writeRecord (s : State) (r : Nat) (e : ErrRec) (h : Memory.wf s.mem) : Memory.wf (s.writeRecord r e).mem := by
  unfold State.writeRecord
  split
  · exact h
  · simp only []
    split
    · exact h
    · next s1 e1 =>
      have h1 := State.wf_areaWrite _ _ _ _ _ h e1
      split
      · exact h
      · next s2 e2 =>
        have h2 : Memory.wf s2.mem := by
          split at e2
          · exact State.wf_areaWrite _ _ _ _ _ h1 e2
          · cases e2; exact h1
        split
        · exact h
        · next s3 e3 =>
          have h3 := State.wf_areaWrite _ s3 _ _ _ h2 e3
          exact h3

theorem State.wf_complete (s : State) (slice q idx : Nat) (irq : Bool) (tag : BitVec 16) (status : Nat) (x : Dw)
    (h : Memory.wf s.mem) : Memory.wf (s.complete slice q idx irq tag status x).mem := by
  unfold State.complete
  simp only []
  split
  · next ps ms _ =>
    have hp (l : List Byte) : Memory.wf ((s.mark true ms).hwWrite ps l).mem := State.wf_hwWrite _ ps l (State.wf_mark true ms s h)
    split <;> exact hp _
  · exact h

@[simp] theorem State.netCall_mem (s : State) (r a e : Nat) (x y : Dw) : (s.netCall r a e x y).mem = s.mem := by
  unfold State.netCall State.modRegion
  simp only [State.free]
  split <;> rfl

@[simp] theorem State.respond_mem (s : State) (r a p : Nat) (k : BitVec 4) (l : List Dw) (d : List Dep) :
    (s.respond r a p k l d).mem = s.mem := by
  unfold State.respond
  simp only [State.free, State.modActor_mem]

@[simp] theorem State.answer_mem (s : State) (r : Nat) (o : Owed) (l : List Dw) : (s.answer r o l).mem = s.mem := by
  unfold State.answer
  split
  · rfl
  · split
    · rfl
    · exact s.respond_mem _ _ _ _ _ _

@[simp] theorem State.cutOver_mem (s : State) (g : Region) (ok : Bool) : (s.cutOver g ok).mem = s.mem := by
  unfold State.cutOver
  split <;> first | exact State.answer_mem _ _ _ _ | rfl

theorem State.wf_failCut (s : State) (r : Nat) (h : Memory.wf s.mem) : Memory.wf (s.failCut r).mem := by
  unfold State.failCut
  split
  · exact h
  · simp only []
    split
    · exact h
    · simp only [State.modRegion_mem, State.resumeDisplay, State.modStopped, State.cutOver_mem]
      split
      · next e => exact State.wf_areaWrite _ _ _ _ _ h e
      · exact h

theorem State.foldl_modActor_mem {β : Type} (r : Nat) (a : β → Nat) (f : β → Actor → Actor) (l : List β) (s : State) :
    (l.foldl (fun s x => s.modActor r (a x) (f x)) s).mem = s.mem := by
  induction l generalizing s with
  | nil => rfl
  | cons x l ih => rw [List.foldl_cons, ih, State.modActor_mem]

@[simp] theorem State.dropGets_mem (s : State) (r : Nat) : (s.dropGets r).mem = s.mem := by
  unfold State.dropGets
  simp only [State.foldl_modActor_mem]

theorem State.wf_report (s : State) (slice : Nat) (l : Launch) (status : Nat) (x : Dw) (h : Memory.wf s.mem) :
    Memory.wf (s.report slice l status x).mem := by
  unfold State.report
  split
  · exact s.wf_complete _ _ _ _ _ _ _ h
  · exact h
  · split
    · split <;> exact h
    · split
      · exact h
      · split
        · exact h
        · rw [State.netCall_mem]; exact h

theorem State.wf_endLaunch (s : State) (r : Nat) (stop : Bool) (h : Memory.wf s.mem) : Memory.wf (s.endLaunch r stop).mem := by
  have h1 := s.wf_syncFault r h
  have h2 : Memory.wf (if stop = true then (((s.syncFault r).failCut r).dropWork r).modRegion r Region.discard
      else (s.syncFault r).dropGets r).mem := by
    split
    · rw [State.modRegion_mem]; exact State.wf_failCut _ r h1
    · rw [State.dropGets_mem]; exact h1
  unfold State.endLaunch
  split
  · exact h
  · split
    · exact h
    · exact State.wf_report _ _ _ _ _ h2

theorem State.wf_fatalIn (s : State) (r : Nat) (e : ErrRec) (h : Memory.wf s.mem) : Memory.wf (s.fatalIn r e).mem :=
  State.wf_endLaunch _ r true (s.wf_writeRecord r e h)

theorem State.wf_fatalHere (s : State) (k : Nat) (x y : Dw) (h : Memory.wf s.mem) : Memory.wf (s.fatalHere k x y).mem := by
  unfold State.fatalHere
  exact s.wf_fatalIn _ _ h

/-! ### Taking a trap (R44, R217, R218, R220) -/

/-- Everything that taking a trap can do: enter the handler, or end the launch with record 0x51 or 0x5A. -/
theorem State.takeTrap_cases (s : State) (k : BitVec 8) (v : Dw) :
    (s.core.sys = true ∧ s.core.inHandler = true ∧
      s.takeTrap k v = s.fatalHere 0x51 (packDw [(k.toNat, 0), (s.core.pc.toNat, 32)]) 0) ∨
    (s.core.sys = false ∧ (s.tile s.focus).hasHandler = false ∧ ∃ e : ErrRec, e.code = 0x5A ∧
      s.takeTrap k v = s.fatalIn s.runner.1 e) ∨
    ((s.core.sys = false ∨ s.core.inHandler = false) ∧ (s.core.sys = true ∨ (s.tile s.focus).hasHandler = true) ∧
      s.takeTrap k v = s.setCore (s.core.enter k v)) := by
  unfold State.takeTrap
  cases hs : s.core.sys <;> cases hi : s.core.inHandler <;> cases hh : (s.tile s.focus).hasHandler <;>
    first
    | exact .inl ⟨rfl, rfl, by simp [hs, hi]⟩
    | exact .inr (.inl ⟨rfl, rfl, _, rfl, by simp [hs, hi, hh]; rfl⟩)
    | exact .inr (.inr ⟨by simp, by simp, by simp [hs, hi, hh]⟩)

theorem State.takeTrap_enters (s : State) (k : BitVec 8) (v : Dw) (h1 : s.core.sys = false ∨ s.core.inHandler = false)
    (h2 : s.core.sys = true ∨ (s.tile s.focus).hasHandler = true) : s.takeTrap k v = s.setCore (s.core.enter k v) := by
  obtain ⟨a, b, -⟩ | ⟨a, b, -⟩ | ⟨-, -, h⟩ := s.takeTrap_cases k v
  · simp [a, b] at h1
  · simp [a, b] at h2
  · exact h

theorem State.wf_takeTrap (s : State) (k : BitVec 8) (v : Dw) (h : Memory.wf s.mem) : Memory.wf (s.takeTrap k v).mem := by
  obtain ⟨-, -, e⟩ | ⟨-, -, x, -, e⟩ | ⟨-, -, e⟩ := s.takeTrap_cases k v <;> rw [e]
  · exact s.wf_fatalHere _ _ _ h
  · exact s.wf_fatalIn _ _ h
  · exact h

/-! ### An event that occurs or does not -/

@[simp] theorem occur_some (s t : State) : occur s (some t) = .next t := rfl
@[simp] theorem occur_none (s : State) : occur s none = .next s := rfl

end Sys2Proof.Machine
end

