-- ==== Sys2Proof/Tests/Slice0.lean ====
section
/-! SUPPORT. The model's own tests. Decode words and worked examples are written from the spec's text; a `witness_` theorem shows
that the hypotheses of a statement can be met together. -/

namespace Sys2Proof.Tests

open Sys2Proof Sys2Proof.Machine Sys2Proof.Safety

set_option maxRecDepth 4000

/-! ### Well-formedness -/

/-- Each check of WellFormed refuses a term that fails it. -/
theorem test_wf_refuses : ([
    .fadd 1 2 3 4 0, .fmin 1 2 3 5, .fcvt 1 2 4 5 0, .fcvt 1 2 6 0 0, .frcp 1 2 4 0, .fsgnCp 1 2 3 4, .br 7 1 2 0, .loop 0 5,
    .ldl 1 2 3 true 0, .ldg 1 0 11 0 false, .stg 31 1 1 0 0, .atom 1 2 0 11 0 0, .cas 31 1 0 0 0, .ord 0 0,
    .recv 1 0 3 false false 5, .peek 1 1 0 true false 0, .send 30 0 2 false, .senderr 31 0, .chq 1 1 2, .wemit 31 0 1,
    .issue 0 0 0 1, .issue 0 0 8 29, .time 0, .time 31, .cpy 8 0, .gath 0 12, .bred 8, .rsend 8, .ladd 1024 0, .rtri 0 16,
    .firingSelect 1024, .peerAccess 8 0 0 true [], .dieReset 8 [], .qdbWrite 8 0 0, .qcfgWrite 0 64 0, .displayFrameStart 0 2,
    .esctlWrite 0 4 0, .connectionEntryWrite 256 0, .flitReplay 10, .bootStage 5 [] true, .arrivalMergeToken 0 0 8]
    : List Instr).all (fun i => !i.wf) = true := by decide

/-! ### Decoding -/

/-- R312, R345, R400: words of the ALU and shift groups. -/
theorem test_decode_alu : decode 0x00642800 = .ok (.add 3 4 5 false) ∧ decode 0x0043204A = .ok (.sar 2 3 4 true) ∧
    decode 0x04642804 = .ok (.div 3 4 5 false) ∧ decode 0x20642885 = .error .mustBeZero := by and_intros <;> rfl
/-- R277, R278: float words; format codes 4 and above are refused but in FCVT. -/
theorem test_decode_float : decode 0x08642802 = .ok (.fmul 3 4 5 0 0) ∧ decode 0x08642842 = .ok (.fmul 3 4 5 0 1) ∧
    decode 0x08642C02 = .error .badFormat ∧ decode 0x0C6428C0 = .ok (.fma 3 4 5 3 0 0) ∧
    decode 0x08640410 = .ok (.fcvt 3 4 0 4 0) := by and_intros <;> rfl
/-- R279, R315, R372: the immediate majors, with the spec's own words. -/
theorem test_decode_imm : decode 0x1042FFFF = .ok (.addi 2 2 0xFFFF) ∧ decode 0x28E01234 = .ok (.ldhi 7 0x1234) ∧
    decode 0x2CC00010 = .ok (.addpc 6 0x10) ∧ decode 0x28E11234 = .error .mustBeZero := by and_intros <;> rfl
/-- R322, R326, R327, R348: the control majors, with the spec's own words. -/
theorem test_decode_control : decode 0x40841FFD = .ok (.br 1 1 0 0x1FFD) ∧ decode 0x4C000070 = .ok (.call 0x70) ∧
    decode 0x501F0000 = .ok (.ret 31) ∧ decode 0x53E90002 = .ok (.callr 31 9) ∧ decode 0x54000000 = .ok .endTask := by and_intros <;> rfl
/-- R281, R318, R359: memory words, with the spec's own words. -/
theorem test_decode_memory : decode 0x6025C010 = .ok (.ldl 1 5 3 false 16) ∧ decode 0x70E56080 = .ok (.atom 7 5 3 0 2 0) ∧
    decode 0x78064090 = .ok (.futGet 6 2 2 1) ∧ decode 0x792641A0 = .ok (.futPut 9 6 2 2 2) ∧
    decode 0x78064280 = .ok (.futClear 6 2 2 0) := by and_intros <;> rfl
/-- R283: token words. -/
theorem test_decode_token : decode 0x98800000 = .ok (.send 4 0 0 false) ∧ decode 0x9C008000 = .error .mustBeZero ∧
    decode 0xA0440000 = .ok (.fwd 2 1) := by and_intros <;> rfl
/-- R320, R398, R397, R284: engine words, with the spec's own words. -/
theorem test_decode_engine : decode 0xC4043050 = .ok (.barset 4 6 5) ∧ decode 0xC4040051 = .ok (.baradd 4 5) ∧
    decode 0xD4850000 = .ok (.pwreq 4 5) ∧ decode 0xD4000001 = .ok .pwrel ∧ decode 0xD8000002 = .ok (.prio 2) := by and_intros <;> rfl
/-- R343, R325, R349, R169, R393: system words, with the spec's own words. -/
theorem test_decode_system : decode 0xE0800310 = .ok (.csrr 4 0x31) ∧ decode 0xE0050301 = .ok (.csrw 5 0x30) ∧
    decode 0xE0C00312 = .ok (.csrx 6 0 0x31) ∧ decode 0xE0E00033 = .ok (.krd 7 3) ∧ decode 0xE8001230 = .ok (.trap 0x123) ∧
    decode 0xE8000001 = .ok .eret ∧ decode 0xE8000003 = .ok .halt ∧ decode 0xE4800000 = .ok (.time 4) ∧
    decode 0xFC000000 = .ok .nop ∧ decode 0xFC000001 = .error .mustBeZero := by and_intros <;> rfl
/-- R292, R316, R346: lane words, with the spec's own words. -/
theorem test_decode_lane : (decodeLane 0x6880C002).map (fun l => (l.op, l.sa, l.out, l.p)) = some (0x1A, 1, 3, 2) ∧
    (decodeLane 0x60800000).map (fun l => (l.op, l.sa, l.out, l.p)) = some (0x18, 1, 0, 0) ∧ decodeLane 0x58000000 = none := by
  decide
/-- R287, R288: a GATH word laid out by hand, and a reserved op refused. -/
theorem test_decode_command :
    decodeCommand 0x800000A0_00000040_00000020_028B8000 = some (⟨some 5, 3, false⟩, .gath 0x20 0x40 0xA0) ∧
    decodeCommand 0x0B000000 = none := by decide

/-! ### Small states -/

def tok (k : BitVec 4) (l : List Dw) : Token := { kind := k, payload := l }
/-- A region of one actor, with a launch. -/
def reg1 (x : Actor) : Region := { actors := [(0, some x)], launch := some {} }
/-- A package in which a region is placed and its actor 0 runs on tile 0. -/
def stR (g : Region) : State :=
  { regions := [(0, some g)], tiles := [(0, { core := { pc := 8, firing := some { region := 0, actor := 0 } } })] }
/-- One task actor that runs on tile 0. -/
def stA (x : Actor) : State := stR (reg1 x)
/-- The same in system mode, in a handler. -/
def stSys (tstat : BitVec 6) : State :=
  { stA {} with tiles := [(0, { core := { sys := true, tstat := tstat, firing := some { region := 0, actor := 0 } } })] }
/-- With g1 holding a value. -/
def stG1 (v : Dw) : State :=
  { stA {} with tiles := [(0, { core := { g := [(1, v)], firing := some { region := 0, actor := 0 } } })] }
/-- A reservation held on output 0, which a channel to actor 1 leaves. -/
def outReg : Region := { reg1 {} with
  chans := [(0, some { src := .actor 0 0, dst := .actor 1 0, slots := 4, path := [0, 1], wire := [{ tok := tok 0 [5] }] })]
  actors := [(0, some { out := [(0, { seq := 7 })] }), (1, some { tile := 1 })] }
def stOut (n : Nat) : State :=
  { stR outReg with tiles := [(0, { core := { firing := some { region := 0, actor := 0, rsv := if n = 0 then [] else [(0, n)] } } })] }

theorem reset_canon : Canon State.reset := by
  refine ⟨by decide, by decide, by decide, fun t => ?_, fun t => ?_⟩ <;>
    rw [show State.reset.tile t = {} by simp [State.tile, State.reset, sget]]
  · exact ⟨rfl, rfl⟩
  · rfl

/-- A state whose one listed tile is tile 0 has the canonical form when that tile has it. -/
theorem canon_of_tile (s : State) (t : Tile) (hm : Memory.wf s.mem) (hs : s.tiles = [(0, t)]) (hd : t ≠ {})
    (hr : swf (none : Option Region) s.regions = true) (hg : swf (0 : Dw) t.core.g = true ∧ swf (0 : Dw) t.core.sb = true)
    (hp : swf (0 : Byte) t.spad = true) : Canon s := by
  have h : ∀ k, s.tile k = t ∨ s.tile k = {} := by
    intro k; rw [State.tile, hs, sget, sget]; split
    · exact .inl rfl
    · split <;> exact .inr rfl
  refine ⟨hm, ?_, hr, fun k => ?_, fun k => ?_⟩
  · rw [hs]; show (true && decide (t ≠ {}) && true) = true; rw [decide_eq_true hd]; rfl
  · rcases h k with h | h <;> rw [h]
    · exact hg
    · exact ⟨rfl, rfl⟩
  · rcases h k with h | h <;> rw [h]
    · exact hp
    · rfl

theorem stA_canon : Canon (stA {}) :=
  canon_of_tile _ _ (by decide) rfl (by decide) (by decide) (by decide) (by decide)

/-! ### Witnesses: scalar instructions -/

theorem witness_Jumps : Canon (stA {}) ∧ (((stG1 0xFFFFFFFC).reg 1).toNat < 2 ^ 32 ∧ ((stG1 0xFFFFFFFC).reg 1).toNat % 4 = 0) ∧
    2 ^ 32 ≤ ((stG1 0x100000000).reg 1).toNat ∧ ((stG1 2).reg 1).toNat % 4 ≠ 0 := by
  refine ⟨stA_canon, ?_⟩; decide
/-- A table at address 0 with one entry, at the bounds of its clauses. -/
theorem witness_JumpTable :
    let w (v : Dw) (i : Dw) : State :=
      { stA {} with tiles := [(0, { core := { g := [(1, v), (2, i)] }, spad := [(0, 1), (0x3FFF8, 2)] })] }
    (2 ^ 18 ≤ ((w 0x40000 1).reg 1).toNat) ∧ (((w 0x3FFFE 1).reg 1).toNat < 2 ^ 18 ∧ ((w 0x3FFFE 1).reg 1).toNat % 4 ≠ 0) ∧
    ((w 4 1).tile 0).load 4 4 % 65536 ≤ 1 ∧
    (0 < ((w 0x3FFF8 1).tile 0).load 0x3FFF8 4 % 65536 ∧ 1 < ((w 0x3FFF8 1).tile 0).load 0x3FFF8 4 ∧ 0x3FFFC < 0x3FFF8 + 4 + 4 * 1) ∧
    0 < ((w 4 1).tile 0).load 0 4 % 65536 := by decide
/-- A local window of 64 bytes: at its last doubleword, past it, and misaligned. -/
theorem witness_LocalMemory :
    let w : State := stA { locB := 0, locL := 64 }
    w.localOk 56 8 = true ∧ 56 % 8 = 0 ∧ w.localOk 57 8 = false ∧ (w.localOk 52 8 = true ∧ 52 % 8 ≠ 0) := by decide
theorem witness_Receive :
    let x (k : BitVec 4) : Actor := { inp := [(1, { q := [tok k [3, 4]] })] }
    ((stA (x 0)).runActor = some (x 0) ∧ (x 0).head 1 = some (tok 0 [3, 4]) ∧ (0 : BitVec 4) ≠ 6) ∧ (x 0).head 0 = none ∧
    (∃ f : Firing, f.call = some (tok 5 [1]) ∧
      ({ stA (x 0) with tiles := [(0, { core := { firing := some f } })] } : State).firing = some f) := by
  refine ⟨⟨rfl, rfl, by decide⟩, rfl, { call := some (tok 5 [1]) }, rfl, rfl⟩
theorem witness_Sends : (∃ x, (stOut 1).runActor = some x) ∧ (stOut 1).reserved 0 ≠ 0 ∧ (stOut 0).reserved 0 = 0 ∧
    (∃ x, (stOut 0).runActor = some x) := by
  refine ⟨⟨_, rfl⟩, by decide, by decide, ⟨_, rfl⟩⟩
/-- A mesh actor of two vertices and one primitive with a reservation on its mesh output port; one of its two clauses holds of any words. -/
theorem witness_Sends_mesh (words : List Dw) :
    let x : Actor := { mesh := some { port := 0, vmax := 2, pmax := 1 } }
    let g : Region := { outReg with actors := [(0, some x), (1, some { tile := 1 })] }
    let s : State := { stOut 1 with regions := [(0, some g)] }
    (s.runActor = some x ∧ x.mesh = some { port := 0, vmax := 2, pmax := 1 } ∧ (∃ f, s.firing = some f) ∧ s.reserved 0 ≠ 0) ∧
    (Sys2Proof.Config.meshIndexes words = none ∨ ∃ l, Sys2Proof.Config.meshIndexes words = some l) := by
  refine ⟨⟨rfl, rfl, ⟨_, rfl⟩, by decide⟩, ?_⟩
  cases Sys2Proof.Config.meshIndexes words
  · exact .inl rfl
  · exact .inr ⟨_, rfl⟩
theorem witness_ChannelSend : ∃ x c, (stOut 1).region 0 = some outReg ∧ outReg.actor 0 = some x ∧
    outReg.chanOf (.actor 0 0) = some (0, c) ∧ outReg.chan 0 = some c ∧ swf ({} : OutPort) x.out = true :=
  ⟨_, _, rfl, rfl, rfl, rfl, by decide⟩
theorem witness_ForwardReserveQuery :
    (∃ x t, (stA { inp := [(1, { q := [tok 0 [3]] })] }).runActor = some x ∧ x.head 1 = some t ∧ t.kind ≠ 6 ∧ x.head 0 = none) ∧
    (∃ c, (stOut 0).region (stOut 0).runner.1 = some outReg ∧ outReg.chanOf (.actor (stOut 0).runner.2 0) = some (0, c) ∧
      (2 + 1 ≤ outReg.freeSlots c ∧ (stOut 0).reserved 0 + 3 ≤ 256) ∧ outReg.freeSlots c < 3 + 1) := by
  refine ⟨⟨_, _, rfl, rfl, by decide, rfl⟩, ⟨_, rfl, rfl, ?_, ?_⟩⟩ <;> decide
/-- A node with an edge to a child of 16-byte records and two free slots, one of them reserved. -/
theorem witness_WorkGraph :
    let w : WNode := { actor := 1, size := 16, qlen := 4, recs := [{}], reserved := 1 }
    let g : Region := { reg1 {} with
      edges := [{ parent := 0, child := 1, num := 2 }], nodes := [(0, some { actor := 0 }), (1, some w)] }
    let s (n : Nat) : State :=
      { stR g with tiles := [(0, { core := { firing := some { region := 0, actor := 0, wrsv := [(1, n)] } } })] }
    (s 1).edgeHere 0 = none ∧ (s 1).edgeHere 2 = some (1, w) ∧ w.size ≠ 8 * (0 + 1) ∧ w.size = 8 * (1 + 1) ∧
    (s 1).firing = some { region := 0, actor := 0, wrsv := [(1, 1)] } ∧ (s 1).runActor = some {} ∧
    (s 1).region (s 1).runner.1 = some g ∧ 1 + 1 ≤ g.nodeFree w ∧ g.nodeFree w < 2 + 1 ∧
    ((s 0).firing = some { region := 0, actor := 0, wrsv := [(1, 0)] } ∧ sget 0 [(1, 0)] 1 = 0) := by
  and_intros <;> first | rfl | decide
theorem witness_Requests :
    let x : Actor := { inp := [(1, { resp := some 2, credits := 1 }), (2, { resp := some 2, credits := 2 })] }
    ((stA x).isResp 1 = true ∧ (stA x).hasCredit 1 = true) ∧ (stA x).isResp 0 = false ∧
    ((stA x).isResp 2 = true ∧ (stA x).hasCredit 2 = false) := by decide
theorem witness_StoresAndFences : (stA { quotaUsed := 7 }).runActor = some { quotaUsed := 7 } ∧ ({ quotaUsed := 7 } : Actor).quotaUsed < 8 ∧
    (stA { quotaUsed := 8 }).runActor = some { quotaUsed := 8 } ∧ (8 : Nat) ≤ ({ quotaUsed := 8 } : Actor).quotaUsed := by
  and_intros <;> first | rfl | decide
theorem witness_AccessJoinsPort : Canon (stA {}) ∧ (({ kind := .cas, ord := 2 } : Access).ord.toNat % 2 = 0 ∧ ReqKind.cas.writes = true) ∧
    (ReqKind.read 8 false).writes = false := ⟨stA_canon, by decide, rfl⟩
theorem witness_UnitRequests :
    let x : Actor := { inp := [(1, { resp := some 2, credits := 1 })] }
    ((stA x).isResp 1 = true ∧ (stA x).hasCredit 1 = true) ∧ ({ shState := .loading } : Abacus).shState = .loading ∧
    ({ shState := .swapPending } : Abacus).shState = .swapPending ∧ ({ shState := .loaded } : Abacus).shState = .loaded ∧
    (({} : Abacus).shState = .empty ∧ (12 : Dw).toNat % 8 ≠ 0 ∧ (16 : Dw).toNat % 8 = 0) := by decide
theorem witness_SpecialRegisterAccess : (stSys 0).core.sys = true ∧ (stA {}).core.sys = false ∧ (0x016 : BitVec 12).toNat ∉
    ([0, 1, 2, 3, 4, 0x20, 0x21, 0x41, 0x30, 0x31, 5, 0x10, 0x11, 0x12, 0x13, 0x14, 0x15, 0x40] : List Nat) := by decide
theorem witness_SpecialRegisterValues : (stA {}).runActor = some {} ∧ (stA {}).region (stA {}).runner.1 = some (reg1 {}) ∧
    Canon (stA {}) ∧ swf (none : Option Actor) (reg1 {}).actors = true := ⟨rfl, rfl, stA_canon, by decide⟩
theorem witness_KRegistersTimeAndPower :
    let g : Region := { reg1 {} with credit := 5 }
    let s : State := { stR g with tiles := [(0, { core := { g := [(1, 5), (2, 6)], firing := some { region := 0, actor := 0 } } })] }
    s.runActor = some {} ∧ swf (0 : Dw) ({} : Actor).k = true ∧ s.region s.runner.1 = some g ∧
    s.firing = some { region := 0, actor := 0 } ∧ g.launch = some {} ∧ (s.reg 1).toNat ≤ g.credit ∧ g.credit < (s.reg 2).toNat := by
  and_intros <;> first | rfl | decide
theorem witness_Barriers :
    let g (b : Barrier) : Region := { reg1 {} with barriers := [(3, b)] }
    (stR (g {})).region 0 = some (g {}) ∧ ((g {}).barrier 3).armed = false ∧ (1 : Dw) ≠ 0 ∧
    (let b : Barrier := { armed := true, pending := 0xFFFFFFFFFFFFFFFE }
     ((g b).barrier 3).armed = true ∧ ((g b).barrier 3).pending.toNat + (1 : Dw).toNat < 2 ^ 64 ∧
     2 ^ 64 ≤ ((g b).barrier 3).pending.toNat + (2 : Dw).toNat ∧ 0xFFFFFFFFFFFFFFFD < ((g b).barrier 3).pending.toNat) ∧
    (let b : Barrier := { armed := true, pending := 2 }
     swf ({} : Barrier) (g b).barriers = true ∧ 1 < b.pending.toNat ∧ b.pending.toNat ≤ 2 ∧ ¬ b.pending.toNat < 2 ∧ b.pending.toNat < 3) := by
  and_intros <;> first | rfl | decide
theorem witness_Traps :
    let s : State := { stA {} with tiles := [(0, { hrBase := 1, hrLimit := 2, core := { tvec := 124, firing := some {} } })] }
    s.firing = some {} ∧ (s.core.sys = false ∧ (s.tile 0).hasHandler = true) ∧
    ((stSys 0b010000).core.sys = true ∧ (stSys 0b010000).core.tstat.getLsbD 3 = false) ∧
    ((stSys 0b001000).core.sys = true ∧ (stSys 0b001000).core.tstat.getLsbD 3 = true) ∧
    ((stA {}).core.sys = false ∧ ((stA {}).tile 0).hasHandler = false) := by
  refine ⟨rfl, ?_⟩; decide
theorem witness_TrapReturn : (stA {}).core.sys = false ∧ ((stSys 0b010000).core.sys = true ∧
    (stSys 0b010000).core.tstat.getLsbD 0 = false ∧ (stSys 0b010000).core.tstat.getLsbD 4 = true) ∧
    (stSys 0b010001).core.tstat.getLsbD 0 = true ∧ (stSys 0).core.tstat.getLsbD 4 = false := by decide
theorem witness_TaskEnds : ∃ f, (stA {}).firing = some f ∧ (stA {}).core.sys = false ∧ (stSys 0).firing = some f ∧
    (stSys 0).core.sys = true := ⟨_, rfl, rfl, rfl, rfl⟩
/-- Pool entry 1 at bytes 16 to 31 of a window of 32, holding op 5. -/
theorem witness_Issue :
    let s (b : Bool) : State :=
      { stA { locL := 32 } with tiles := [(0, { spad := [(19, 5)], core :=
          { sys := b, tstat := 0b001000, firing := some { region := 0, actor := 0 } } })] }
    (s false).localOk 32 16 = false ∧ (s false).localOk 16 16 = true ∧ (s true).localOk 16 16 = true ∧
    ((s true).core.sys = true ∧ (s true).core.tstat.getLsbD 3 = true ∧ (s true).core.tstat.getLsbD 4 = false ∧
      ((s true).tile 0).load 16 4 / 2 ^ 24 = 5) ∧ (s false).core.sys = false := by decide
theorem witness_MatrixState :
    ((stSys 0).region (stSys 0).runner.1 = some (reg1 {}) ∧ (stSys 0).actor (stSys 0).runner.1 (stSys 0).runner.2 = some {}) ∧
    (stA {}).core.sys = false ∧ ((stSys 0b010000).core.tstat.getLsbD 4 = true ∧ (reg1 {}).matrixBusy 0 = false ∧
      ({} : Actor).acc = 0 ∧ (reg1 {}).batchesOf 0 true = []) ∧ (stSys 0).core.tstat.getLsbD 4 = false ∧
    ¬ (({ acc := 1 } : Actor).acc = 0) := by
  and_intros <;> first | rfl | decide
theorem witness_MatrixState_write : ∃ d v, (stSys 0).areaWrite (reg1 {}) 512 [1] = .error (d, v) := ⟨_, _, rfl⟩

/-! ### Witnesses: commands -/

/-- Two local tensors of `n` and `m` elements of a format, described at 0 and 64, and an extension block at 192 whose index list of
one entry stands at 224. -/
def cells (fmt n m : Byte) : List Host.Cell :=
  [(0, 128), (8, 64 + fmt), (16, n), (20, 1), (24, 1), (64, 160), (72, 64 + fmt), (80, m), (84, 1), (88, 1), (200, 224)]
/-- One command in a package whose issuer runs on tile 0. -/
def stCmd (l : List Host.Cell) (c : Cmd) : State :=
  { stA { locL := 1024 } with cmds := [c], tiles := [(0, { spad := l, core := { firing := some { region := 0, actor := 0 } } })] }
def cpyW : BitVec 128 := 0x00000000_00000040_00000000_01000000
def gathW : BitVec 128 := 0x800000C0_00000040_00000000_02000000
def bredW : BitVec 128 := 0x00000000_00000040_00000000_04000000
def sendW : BitVec 128 := 0x00000000_00000040_00000000_0A018000
def cmdOn (e : Engine) (w : BitVec 128) : Cmd := { eng := e, w := w }

/-- One unit that is left moves whatever the free value says. -/
theorem chunkLen_one (k : List Nat) (v : Nat) : chunkLen [k] v = 1 := by
  have h : List.range 2 = [0, 1] := rfl
  cases hu : uncut [k] 1 <;> simp [chunkLen, h, hu, Nat.mod_one]
/-- The first unit moved, the second to go. -/
theorem witness_MoveCommands :
    let c : Cmd := { cmdOn (.copy 0 0) cpyW with started := true, scale := some 127, pos := 1 }
    let s := stCmd (cells 9 2 2) c
    s.engineCmd (.copy 0 0) = some (0, c) ∧ opOf cpyW = 1 ∧ s.region 0 = some (reg1 { locL := 1024 }) ∧ s.cmdWaits c = false ∧
    (∃ h d m, decodeCommand cpyW = some (h, d) ∧ moveOf { locL := 1024 } (s.tile 0) d = .ok m ∧ m.op = 1 ∧ m.units = 2 ∧
      s.moveChunk (s.viaOf c 0) m c = 1 ∧ s.moveReach (s.viaOf c 0) m (1 * m.unitElems) (1 * m.unitElems) = true ∧
      (∃ s1 s2 gt, (s.free.2).gather (s.viaOf c 0) m [] 127 1 1 [] = (s1, .done gt) ∧ s1.partialPoison gt = none ∧
        s1.chargeBytes 0 0 (gt.flatMap (·.keys)).length = some s2 ∧
        (let lines := keyLines (gt.flatMap (·.keys))
         s.linesReach 0 lines = true ∧ s.linesFree none lines = true))) := by
  refine ⟨rfl, rfl, rfl, rfl, _, _, _, rfl, rfl, rfl, rfl, chunkLen_one _ _, rfl, _, _, _, rfl, rfl, rfl, rfl, rfl⟩
/-- The same to global address 168, whose line a read cache of tile 5 holds. -/
theorem witness_MoveCommands_held :
    let l : List Host.Cell := [(0, 128), (8, 73), (16, 2), (20, 1), (24, 1), (64, 160), (72, 9), (80, 2), (84, 1), (88, 1)]
    let c : Cmd := { cmdOn (.copy 0 0) cpyW with started := true, scale := some 127, pos := 1 }
    let s : State := { stA { locL := 1024 } with
      cmds := [c], sharers := [(1, .ptrs [5])], slices := [(0, defaultSlice)]
      tiles := [(0, { spad := l, ranges := [{ last := 0xF000, r := true, w := true }],
                      core := { firing := some { region := 0, actor := 0 } } })] }
    ∃ h d m, decodeCommand cpyW = some (h, d) ∧ moveOf { locL := 1024 } (s.tile 0) d = .ok m ∧ m.units = 2 ∧
      s.moveChunk (s.viaOf c 0) m c = 1 ∧ s.moveReach (s.viaOf c 0) m (1 * m.unitElems) (1 * m.unitElems) = true ∧
      (∃ s1 s2 gt, (s.free.2).gather (s.viaOf c 0) m [] 127 1 1 [] = (s1, .done gt) ∧ s1.partialPoison gt = none ∧
        s1.chargeBytes 0 0 (gt.flatMap (·.keys)).length = some s2 ∧
        (let lines := keyLines (gt.flatMap (·.keys))
         s.linesReach 0 lines = true ∧ ∃ n ∈ lines, s.toInvalidate none n ≠ [])) := by
  refine ⟨_, _, _, rfl, rfl, rfl, chunkLen_one _ _, rfl, _, _, _, rfl, rfl, rfl, rfl, 1, ?_, ?_⟩ <;> decide
theorem witness_MoveCommands_gath : ∃ h d m, decodeCommand gathW = some (h, d) ∧ opOf gathW = 2 ∧
    moveOf { locL := 1024 } ({ spad := cells 9 2 2 } : Tile) d = .ok m ∧ m.op = 2 ∧
    m.ext.badIndex (m.src.n1 * m.src.n2) (m.ext.index { spad := cells 9 2 2 } 0) = false := ⟨_, _, _, rfl, rfl, rfl, rfl, rfl⟩
theorem witness_MoveCommands_shapes : ∃ h d, decodeCommand cpyW = some (h, d) ∧
    moveOf { locL := 1024 } ({ spad := cells 9 2 3 } : Tile) d = .error 0x21 := ⟨_, _, rfl, rfl⟩
/-- A bank operation on two 64-bit local words would need device memory: with an element left it is reduced, if the region has the
credit; with none left it completes; with other shapes, or a window that ends before its tensors, it is refused. -/
theorem witness_ReduceCommand :
    let c (p : Nat) : Cmd := { cmdOn (.bank 0) bredW with pos := p }
    let s (p : Nat) := stCmd (cells 1 2 2) (c p)
    let t := (s 0).tile 0
    let m : Reduce := { op := 0, val := (tensorAt t 0).1, tgt := (tensorAt t 64).1, ext := {} }
    (∀ p ∈ [0, 1, 2], (s p).engineCmd (.bank 0) = some (0, c p) ∧ (s p).cmdWaits (c p) = false) ∧
    (∃ h, decodeCommand bredW = some (h, .bred 0 0 64 none)) ∧ opOf bredW = 4 ∧
    ({ locL := 1024 } : Actor).tensorOk t 0 = true ∧ ({ locL := 1024 } : Actor).tensorOk t 64 = true ∧
    ({} : Actor).tensorOk t 0 = false ∧ m.ok = true ∧ m.val.count = 2 ∧
    ({ op := 0, val := (tensorAt { spad := cells 1 2 3 } 0).1, tgt := (tensorAt { spad := cells 1 2 3 } 64).1 } : Reduce).ok = false ∧
    (∀ p ∈ [0, 1], (s p).readsReach ((s p).viaOf (c p) 0) m.val [m.val.split p] = true) ∧
    (∃ keys s1 s2, (s 1).reduceOne ((s 1).viaOf (c 1) 0) m 1 = .done keys s1 ∧ s1.chargeBytes 0 0 m.size = some s2 ∧
      (s1.setRegion 0 { reg1 {} with credit := 0 }).chargeBytes 0 0 m.size = none ∧
      (s 1).linesReach 0 (keyLines keys) = true ∧ (s 1).linesFree none (keyLines keys) = true) := by
  refine ⟨by decide, ⟨_, rfl⟩, rfl, rfl, rfl, rfl, by decide, by decide, by decide, by decide, _, _, _, rfl, rfl, rfl, rfl, rfl⟩
/-- A value and a target at global addresses 0x10000 and 0x20000, homed on dies 1 and 2: they cross to die 0 only by bulk circuits,
and a read cache of tile 5 holds the target's line. -/
theorem witness_ReduceCommand_held :
    let l : List Host.Cell := [(2, 1), (8, 1), (16, 2), (20, 1), (24, 1), (66, 2), (72, 1), (80, 2), (84, 1), (88, 1)]
    let c : Cmd := cmdOn (.bank 0) bredW
    let s (conn : Sparse Dw) : State := { stCmd l c with
      conn := conn, sharers := [(1024, .ptrs [5])], slices := [(0, defaultSlice)]
      tiles := [(0, { spad := l, ranges := [{ last := 0xF0000, r := true, w := true, at_ := true }],
                      core := { firing := some { region := 0, actor := 0 } } })] }
    let t := (s []).tile 0
    let m : Reduce := { op := 0, val := (tensorAt t 0).1, tgt := (tensorAt t 64).1, ext := {} }
    m.ok = true ∧ (s []).readsReach ((s []).viaOf c 0) m.val [m.val.split 0] = false ∧
    (s defaultConn).readsReach ((s defaultConn).viaOf c 0) m.val [m.val.split 0] = true ∧
    (s []).linesReach 0 [1024] = false ∧ (s defaultConn).linesReach 0 [1024] = true ∧
    (∃ n ∈ [1024], (s defaultConn).toInvalidate none n ≠ []) := by decide
/-- A local source and a target at global address 160; link 0 serves slice 0 when it is enabled and up. -/
theorem witness_RemoteSendsAndDeliveries :
    let l : List Host.Cell := [(0, 128), (8, 73), (16, 2), (20, 1), (24, 1), (64, 160), (72, 9), (80, 2), (84, 1), (88, 1)]
    let s (k : Link) : State := { stCmd l (cmdOn (.link 0) sendW) with links := [(0, k)] }
    let t := (s {}).tile 0
    (∃ h, decodeCommand sendW = some (h, .rsend 0 0 64 none)) ∧ opOf sendW = 10 ∧
    (s {}).engineCmd (.link 0) = some (0, cmdOn (.link 0) sendW) ∧ ({ locL := 1024 } : Actor).tensorOk t 0 = true ∧
    ({ locL := 1024 } : Actor).tensorOk t 64 = true ∧ (tensorAt t 64).1.loc = false ∧ (tensorAt t 0).1.fmt = (tensorAt t 64).1.fmt ∧
    ({ op := 1, src := (tensorAt t 0).1, dst := (tensorAt t 64).1, ext := extOf t none } : Move).shapes = true ∧
    (s { cfg := 0x101 }).linkServes 0 0 = true ∧ (s {}).linkServes 0 0 = false ∧ (s {}).cmdWaits (cmdOn (.link 0) sendW) = false ∧
    (∃ u, (s {}).sendPart ((s {}).viaOf (cmdOn (.link 0) sendW) 0) 0 (cmdOn (.link 0) sendW)
      { op := 1, src := (tensorAt t 0).1, dst := (tensorAt t 64).1, ext := extOf t none } 0 2 = some u) ∧
    (s {}).readsReach ((s {}).viaOf (cmdOn (.link 0) sendW) 0) (tensorAt t 0).1 [(tensorAt t 0).1.split 0] = true := by
  refine ⟨⟨_, rfl⟩, rfl, rfl, rfl, rfl, rfl, rfl, rfl, rfl, rfl, rfl, ⟨_, rfl⟩, rfl⟩
theorem witness_RemoteSendsAndDeliveries_delivery :
    let s : State := { stA {} with
      remotes := [{ cells := [(5, 1)] }], comps := [{}], subs := [{ bytes := 5 }], follows := [{ region := 0, actor := 0 }] }
    (∃ m, s.remotes[0]? = some m ∧ m.comp = none ∧ (s.link m.link).live = false ∧ ∀ p ∈ m.cells, p.1 < 2 ^ 40) ∧
    ((s.remotes.take 0).any fun _ => true) = false ∧ (∃ c, s.comps[0]? = some c) ∧ (∃ b, s.subs[0]? = some b ∧ 0 < b.bytes) ∧ ({ cfg := 0x101 } : Link).live = true ∧
    ({ s with conn := defaultConn } : State).narrowWay 0 7 = true ∧ s.narrowWay 0 7 = false ∧
    (∃ f x, s.follows[0]? = some f ∧ s.actor f.region f.actor = some x ∧ x.cut = .run ∧ x.follow.length < 4) ∧
    4 ≤ ({ follow := [{}, {}, {}, {}] } : Actor).follow.length := by
  refine ⟨⟨_, rfl, rfl, rfl, by decide⟩, rfl, ⟨_, rfl⟩, ⟨_, rfl, by decide⟩, rfl, by decide, by decide,
    ⟨_, _, rfl, rfl, rfl, by decide⟩, by decide⟩
def mmaW : BitVec 128 := 0x00000000_00000008_00000063_05000000
def accW : BitVec 128 := 0x00000000_00000000_00000000_07000000
def matX (w : BitVec 128) : Actor :=
  { acc := 1, body := .matrix [], inp := [(7, { q := [{ payload := [w.setWidth 64, (w >>> 64).setWidth 64] }] })] }
def matR (w : BitVec 128) : Region := { reg1 (matX w) with
  chans := [(0, some { src := .actor 0 0, dst := .actor 1 0, st := 0x20, rt := 0x20, path := [0, 1] })] }
/-- An MMA of FP16 operands with k = 1 from i0 and i1 at an actor that holds accumulator 0, an ACCRD to o0 in FP32, and a batch
with its operands. -/
theorem witness_MatrixCommands :
    (∃ m, (matR mmaW).serves (matX mmaW) = true ∧ (matX mmaW).holdsNone = true ∧ (matR mmaW).nextCommand 0 (matX mmaW) = some (.cmd 0xFFFFF 0 mmaW false) ∧
      decodeCommand mmaW ≠ none ∧ runBatch [] = none ∧ matCmd mmaW = some m ∧
      m.refusal ((stR (matR mmaW)).accHolder 0 0xFFFFF (matX mmaW) false) mmaW = none ∧
      (∃ s1, (stR (matR mmaW)).chargeCommand 0 0 0 m.charge = some s1) ∧ opOf mmaW = 5 ∧
      (∃ b e, runBatch [b] = some (0, b) ∧ matCmd b.cmd = some m ∧ b.failed = false ∧ b.groupEnd m 16 b.nextK = some e)) ∧
    (∃ c, (matR accW).nextCommand 0 (matX accW) = some (.cmd 0xFFFFF 0 accW false) ∧ opOf accW = 7 ∧ accRead accW = some c ∧
      c.refusal (matR accW) 0 ((stR (matR accW)).accHolder 0 0xFFFFF (matX accW) false) accW = none ∧ (accRead accW).map (·.out) = some 0 ∧
      (matR accW).outReady 0 0 = true ∧
      runBatch [{ cmd := accW }] = some (0, { cmd := accW }) ∧
      (∀ k ∈ [0, 4094], k / c.len * c.len + min (k - k / c.len * c.len + perToken 32) (min c.len (4096 - k / c.len * c.len)) < 4096) ∧
      4096 ≤ 4095 / c.len * c.len + min (4095 - 4095 / c.len * c.len + perToken 32) (min c.len (4096 - 4095 / c.len * c.len))) := by
  refine ⟨⟨_, rfl, rfl, rfl, by decide, rfl, rfl, rfl, ⟨_, rfl⟩, rfl, { cmd := mmaW, nextK := 1 }, _, rfl, rfl, rfl, rfl⟩,
    ⟨{ out := 0, d := 0, clear := false, rnd := 0, f := 0, sadj := 0, len := 1, pol := 0 }, rfl, rfl, rfl, by decide,
      by decide, by decide, rfl, by decide, by decide⟩⟩

/-! ### Witnesses: lanes -/

/-- Actor 0 of a running region in slot 0 of tile 0, whose other state is given. -/
def stIn (g : Region) (t : Tile) : State := { regions := [(0, some g)], tiles := [(0, { t with slots := [(0, some (0, 0))] })] }
/-- A lane actor on lanes 0 and 1. -/
def laneA : Actor := { body := .lane { first := 0, last := 1 } }
/-- A tile whose lane 0 holds a word and has a group at its head. -/
def laneT (w : Word) (g : Group) (st : LaneSt) : Tile := { lanes := [(0, w)], lane := [(0, { st with q := [g] })] }

theorem witness_LaneOperations : ((stIn (reg1 laneA) (laneT 0x04000000 {} {})).laneOwner 0 0).isSome = true ∧
    ((laneT 0x04000000 {} {}).laneWord 0).op = 1 ∧ ((laneT 0x2C000000 {} {}).laneWord 0).op = 11 ∧
    ((laneT 0x2C014000 {} {}).laneWord 0).out = 5 ∧ ((laneT 0x2C014000 {} {}).laneWord 0).op = 11 := by decide
theorem witness_LaneElements :
    let c (w : Word) : LaneCtx := { t := {}, seg := {}, inF := .fp32, i := 0, w := (decodeLane w).getD {} }
    let k : LaneCtx := { t := {}, seg := {}, inF := .int32, i := 0, w := (decodeLane 0x04000000).getD {} }
    (c 0x04000000).w.op = 1 ∧ (c 0x04000000).fmt.isInt = false ∧ k.fmt.isInt = true ∧ k.w.op = 1 ∧ (c 0x48000000).w.op = 18 ∧
    ({ scale := 0xFF } : Group).scale = 0xFF := by decide
/-- EDGE and COVER with a window at their heads, a malformed window (ns = 3), a resolver lane with each of its tokens; all on an
actor of tile 0. -/
theorem witness_RenderingLanes :
    let s (w : Word) (st : LaneSt) : State := stIn (reg1 laneA) (laneT w { tokX := [0, 0, 0, 0, 0, 0, 0, 0] } st)
    let bad : List Dw := [0, 0, 0, 0, 0, 0xC0000000, 0, 0]
    let t (l : List Dw) : Tile := laneT 0x6480C000 {} { samples := [l] }
    ((s 0x60800000 {}).laneOwner 0 0).isSome = true ∧
    winNs bad = 3 ∧ winNs [0, 0, 0, 0, 0, 0, 0, 0] ≠ 3 ∧ winReserved [0, 0, 0, 0, 0, 0, 0, 0] = false ∧
    (((s 0x64800000 {}).tile 0).laneWord 0).op = 0x19 ∧
    ((laneT 0x64818000 {} {}).laneWord 0).out = 6 ∧ (laneT 0x64818000 {} {}).resolver 0 = true ∧
    (t [0, 0x1000000000000000]).sampleHead 0 = some [0, 0x1000000000000000] ∧ sampleRk [0, 0x1000000000000000] = 1 ∧
    sampleRk [0, 0x2000000000000000] = 2 ∧ isFragment [0, 0, 0x100] = true ∧ isFragment [0, 0, 0] = false ∧ isFragment [0, 0x1000000000000000] = false ∧
      isFragment [0, 0x2000000000000000] = false ∧ (isFragment [0, 0x1000] = false ∧ sampleRk [0, 0x1000] = 0 ∧
      sampleTile [0, 0x1000] = (1, 0) ∧ ({ openTile := some (1, 0) } : LaneSt).openTile = some (sampleTile [0, 0x1000]) ∧
      ({} : LaneSt).openTile ≠ some (sampleTile [0, 0x1000])) := by
  and_intros <;> first | rfl | decide
theorem witness_RenderingLanes_steps : ∃ u, (stIn (reg1 laneA) (laneT 0x60800000
    { tokX := [0, 0, 0, 0, 0, 0, 0, 0] } {})).laneStep 0 0 0x18 false LaneCtx.edge = some u := ⟨_, rfl⟩
/-- A blender whose output 1, which no lane feeds, holds a credit of 2: the next tag is inside its window and the third is not. -/
theorem witness_Blender :
    let q (l : List Dw) : Actor := { laneA with inp := [(0, { q := [{ payload := l }] })] }
    let g (l : List Dw) : Region := { reg1 (q l) with chans := [(0, some { src := .actor 0 1, dst := .actor 1 0, init := 2 })] }
    let s (l : List Dw) : State := stIn (g l) {}
    let frag (tag rk : Nat) : List Dw := [packDw [(tag, 12), (rk, 28)], 0]
    (sampleRk [0x10000000, 0x1000000000000000] = 1 ∧ dwAt (pdw [0x10000000, 0x1000000000000000] 1) 36 24 = 0 ∧
      tileBegin [0x10000000, 0x1000000000000000] = some (some (0, 0))) ∧ tileBegin [0xFFFFFFF, 0x1000000000000000] = none ∧ tileBegin (frag 1 0) = none ∧ tileBegin (frag 0 1) = some none ∧
    (s (frag 0 0)).creditOf 0 0 = some (1, 2) ∧ (g (frag 0 0)).active (q (frag 0 0)) = true ∧
    ((s (frag 0 0)).tile 0).drained { first := 0, last := 1 } = true ∧ fragRk (frag 0 1) = 1 ∧ fragRk (frag 0 3) = 3 ∧
    fragRk (frag 0 0) = 0 ∧ fragTag (frag 1 0) = 1 ∧ (BitVec.ofNat 16 (fragTag (frag 1 0)) - 0).toNat < 2 ∧
    ¬ (BitVec.ofNat 16 (fragTag (frag 2 0)) - 0).toNat < 2 := by decide

/-! ### Witnesses: tokens, streams, controllers -/

/-- Channel 0 from actor 0 to input 1 of actor 1, over two routers. -/
def stWire (c : Chan) : State :=
  stR { reg1 { held := [tok 4 [5]] } with chans := [(0, some c)], actors := [(0, some { held := [tok 4 [5]] }), (1, some { tile := 1 })] }
def wire (l : List Flit) : Chan := { src := .actor 0 0, dst := .actor 1 1, slots := 4, path := [0, 1], wire := l }
theorem witness_TokensMove :
    let c := wire [{ tok := tok 0 [5] }]
    let f : Chan := { c with filt := some 0 }
    let e := wire [{ tok := tok 0 [5], pos := 2 }]
    let d : Chan := { e with dst := .copy 0 0 }
    (∀ k ∈ [c, f, e, d], ∃ g, (stWire k).region 0 = some g ∧ g.chan 0 = some k) ∧
    (c.wire[0]? = some { tok := tok 0 [5] } ∧ (tok 0 [5]).kind.toNat < 8 ∧ ∀ y ∈ c.wire.take 0, 0 < y.pos) ∧
    ((stWire c).crossing c 0 0 = some false ∧ State.reset.crossing { c with path := [0, 16] } 0 1 = some true ∧
      (stWire c).crossing { c with path := [0, 16] } 0 1 = none) ∧
    (0 + 1 < c.path.length ∧ c.filt = none) ∧ (f.fhop = 0 ∧ f.lacks ≠ some 0) ∧
    (∀ d ∈ ({ tok := tok 0 [5], after := [{}] } : Flit).after, (stWire c).depDone d = true) ∧
    (e.atEnd { tok := tok 0 [5], pos := 2 } = true) ∧ (stWire d).openCmds 0 0 < 4 ∧
    (let h : Chan := { f with held := [{ tok := tok 3 [0] }, { tok := tok 0 [0] }] }
     h.lacks = some 0 ∧ (burstOut 0 h.held).2 = none) ∧
    ({ held := [tok 4 [5]] } : Actor).held = [tok 4 [5]] ∧
    (∃ u, (stWire { c with src := .err 0 }).trySendError 0 0 [5] = some u) ∧
    (({ diverted := [[5]] } : Actor).held = [] ∧ ({ diverted := [[5]] } : Actor).diverted = [5] :: [] ∧
      (∃ u, ({ stWire c with regions := [(0, some { reg1 {} with sink := some (0, 3) })] } : State).feed 0 [5] = some u)) ∧
    (tok 0 []).seq ≠ 1 ∧ (tok 0 []).kind ≠ 5 := by
  refine ⟨?_, ?_⟩
  · intro k h; exact ⟨_, rfl, rfl⟩
  · and_intros <;> first | rfl | decide | exact ⟨_, rfl⟩ | exact ⟨_, rfl, rfl⟩
/-- A package in which nothing runs yet. -/
def stI (g : Region) : State := { regions := [(0, some g)] }
/-- A task actor with two inputs and two outputs under one rule, whose heads are given. -/
def joinA (b : Body) (l0 l1 : List Token) : Actor :=
  { rules := [{ inMask := 3, outMask := 1 }], body := b, inp := [(0, { q := l0, fed := true }), (1, { q := l1, fed := true })] }
def joinR (x : Actor) : Region := { reg1 x with
  chans := [(0, some { src := .actor 0 0, dst := .actor 1 0, slots := 4, path := [0, 1] })] }
theorem witness_StreamRules :
    let n := joinA .task [tok 1 [0]] [tok 0 [3]]
    let e := joinA .task [tok 2 [0]] [tok 2 [0]]
    let d := joinA (.merge false 3 0 false) [tok 2 [0]] [tok 0 [3]]
    let o := joinA (.merge false 3 0 false) [tok 1 [0]] [tok 0 [3]]
    let a := joinA (.merge true 3 0 false) [tok 1 [0]] [tok 0 [3]]
    (∀ x ∈ [n, e, d, o, a], (joinR x).active x = true ∧ (stI (joinR x)).notBusy 0 0 x = true ∧ (stI (joinR x)).settled x = true) ∧
    (n.joinsEos = true ∧ (joinR n).mergeOf 0 n = none ∧ (n.headsOf (List.range 8) 1).head? = some 0 ∧
      (stI (joinR n)).named (joinR n) 0 n 0 = some ([0, 1], [0]) ∧ [0, 1].all n.hasPosition = true ∧ n.headsOf [0, 1] 2 = [] ∧
      n.dropping [0, 1] = false ∧ (joinR n).outsFree 0 [0] = true ∧ (stI (joinR n)).framed 0 0 n [0, 1] = true) ∧
    (e.joinsEos = true ∧ (e.headsOf e.allPorts 2).head? = some 0 ∧ (stI (joinR e)).named (joinR e) 0 e 0 = some ([0, 1], [0]) ∧
      (stI (joinR e)).framed 0 0 e [0, 1] = true ∧ (∀ q ∈ [0, 1], e.headKind q = some 2 ∧ (e.port q).drop = false) ∧
      (joinR e).outsFree 0 [0] = true) ∧
    ((d.headsOf d.allPorts 2).head? = some 0 ∧ (∃ l, (stI (joinR d)).named (joinR d) 0 d 0 = some ([0, 1], l)) ∧
      (∀ q ∈ d.allPorts, (d.port q).drop = false) ∧ d.dropping [0, 1] = false ∧
      d.elementWise [0, 1] = true ∧ d.amidPosition [0, 1] = false ∧ (stI (joinR d)).framed 0 0 d [0, 1] = true ∧ [0, 1].any d.counts = true) ∧
    ((joinR o).mergeOf 0 o = some (false, [0, 1]) ∧ o.skipping [0, 1] = none ∧ o.openBurst [0, 1] = none ∧
      o.controlPort [0, 1] = none ∧ [0, 1].all o.hasPosition = true ∧ o.headsOf [0, 1] 2 = [] ∧ o.headsOf [0, 1] 4 = [] ∧
      (joinR o).outReady 0 0 = true) ∧
    (a.head 0 = some (tok 1 [0]) ∧ a.head 1 = some (tok 0 [3]) ∧ (3 : BitVec 8).getLsbD 1 = true ∧
      (0 : BitVec 8).getLsbD 1 = false ∧ a.openBurst (maskList 3) = none) := by
  refine ⟨?_, ?_⟩
  · decide
  · and_intros <;> first | rfl | decide | exact ⟨_, rfl⟩
theorem witness_CountersAndControllers :
    let k (n : Nat) : Counter := { spec := [{ stop := 2 }], enabled := true, span := 1, emitted := n }
    let x (n : Nat) : Actor := { body := .counter (k n) }
    let y : Actor := { htab := [(2, 0x8000000000000000)] }
    let call : Token := tok 5 [0x203]
    let g (e : Bool) : Region := { reg1 y with
      net := [.enable (.ctrl 0) 0 1, .enable (.actor 0) 0 1, .done 0 0 4, .call 0 call, .call 9 call]
      ctrls := [(0, some { enabled := e, kidEn := [(0, 5)], kidDone := [(0, 4)] })] }
    ((stI (joinR (x 1))).region 0 = some (joinR (x 1)) ∧ (joinR (x 1)).active (x 1) = true ∧ (x 1).srcCut = false ∧
      (joinR (x 1)).outReady 0 0 = true ∧ (k 1).emitted < (k 1).total ∧ (k 2).total ≤ (k 2).emitted) ∧
    ((stI (g false)).netReaches (g false) (.ctrl 0) = true ∧ (stI (g true)).netReaches (g true) (.actor 0) = true ∧
      (stI (g true)).kidReaches (g true) 0 0 = true) ∧
    ((g false).net[0]? = some (.enable (.ctrl 0) 0 1) ∧ (∃ c, (g false).ctrl 0 = some c ∧ c.enabled = false ∧ c.cut = .run)) ∧
    ((g true).net[1]? = some (.enable (.actor 0) 0 1) ∧ ({ k 0 with enabled := false } : Counter).enabled = false) ∧
    ((g true).net[2]? = some (.done 0 0 4) ∧ (∃ c, (g true).ctrl 0 = some c ∧ c.enabled = true ∧ 4 < sget 0 c.kidEn 0 ∧
      sget 0 c.kidDone 0 ≤ 4)) ∧
    ((g true).net[3]? = some (.call 0 call) ∧ (g true).actor 0 = some y ∧
      (∀ m ∈ (g true).net.take 3, ∀ u, m ≠ .call 0 u) ∧ y.validEntry (dwAt (call.dw 0) 8 4) = true ∧ y.validEntry 3 = false) ∧
    ((g true).net[4]? = some (.call 9 call) ∧ (g true).actor 9 = none ∧ ∀ m ∈ (g true).net.take 4, ∀ u, m ≠ .call 9 u) := by
  refine ⟨by and_intros <;> first | rfl | decide, by decide, ⟨rfl, _, rfl, rfl, rfl⟩, ⟨rfl, rfl⟩, ⟨rfl, _, rfl, rfl, by decide, by decide⟩,
    ⟨rfl, rfl, ?_, rfl, rfl⟩, rfl, rfl, ?_⟩
  · intro m hm u hu
    simp [hu] at hm
  · intro m hm u hu
    simp [hu] at hm

/-! ### Witnesses: launches, selection, elastic stages -/

/-- An idle region with one launch waiting, of a token of four doublewords. -/
theorem witness_LaunchesRun :
    let g : Region := { reg1 {} with launch := none, ingressQ := [{}] }
    let h (b : Bool) : Region := { reg1 {} with halted := b, rootDone := true }
    let w : Region := { reg1 {} with nodes := [(0, some { actor := 0, recs := [{}] })] }
    ((stI g).region 0 = some g ∧ g.launch = none ∧ g.ingressQ = [{}] ∧ g.cutBy = none ∧
      tokenCharge ({} : Launch).payload ≤ g.credit ∧ tokenCharge ({} : Launch).payload ≤ g.ingCredit) ∧
    ((h false).launch = some {} ∧ (stI (h false)).writesDone 0 = true ∧ (stI (h false)).commandsDone 0 false = true ∧
      (h false).rootDone = true ∧ (h false).sinksDone = true) ∧ ((h true).halted = true ∧ (stI (h true)).noneRuns 0 = true ∧ (h true).commandsWait = false ∧
      (stI (h true)).unitsGoOn 0 (h true) = false) ∧
    (stI w).nextNode w = some (0, { actor := 0, recs := [{}] }) ∧
    ((usecUnits : Int) ≤ ((64000 : Dw) - 0).toInt ∧ ((63999 : Dw) - 0).toInt < usecUnits) := by
  and_intros <;> first | rfl | decide
/-- An actor in slot 0 of tile 0 whose one rule is satisfied; a candidate with a probe; a task that waits to start. -/
theorem witness_Selection :
    let x : Actor := { rules := [{ inMask := 1, entry := 2 }], htab := [(2, 0x8000000000000040)],
                       inp := [(0, { q := [tok 0 [1]], fed := true })] }
    let s := stIn (reg1 x) {}
    let u := s.refreshSlots 0 (List.range 16)
    let cs := u.candsOf 0
    (∃ c byp, pickOf (cs.filter fun y => decide (y.2.2.1.cls.toNat = rotationClass cs (u.tile 0).rot)) 8 = some (c, byp)) ∧
    (u.tile 0).shadow.length < 2 ∧ (s.region 0 = some (reg1 x) ∧ (reg1 x).actor 0 = some x ∧ x.calls = [] ∧ x.callPort = none ∧
      x.noteCalls.waits = [] ∧ (reg1 x).ruleOf 0 x = some (0, { inMask := 1, entry := 2 }) ∧ x.validEntry 2 = true) ∧
    (let y : Actor := { x with calls := [tok 5 [0x203]] }
     (stI (reg1 y)).region 0 = some (reg1 y) ∧ (reg1 y).actor 0 = some y ∧ y.noteCalls.waits = [none] ∧ y.calls = [tok 5 [0x203]] ∧
       y.validEntry (dwAt ((tok 5 [0x203]).dw 0) 8 4) = true) ∧
    (let y : Actor := { cand := some {}, probe := some 1 }
     (stI (reg1 y)).actor 0 0 = some y ∧ y.cand = some {} ∧ y.probe = some 1) ∧
    (let t := stIn (reg1 x) { shadow := [{ entry := 2 }] }
     (t.tile 0).core.firing = none ∧ (t.tile 0).shadow = [{ entry := 2 }] ∧ t.actor 0 0 = some x ∧ x.holdsNone = true ∧
      (reg1 x).halted = false) ∧
    (let o : Nat × Nat × Actor × Cand := (0, 0, {}, { age := 1 })
     let h : Nat × Nat × Actor × Cand := (0, 1, {}, { age := 2, hit := true })
     oldestOf [o, h] = some o ∧ oldestOf ([o, h].filter fun c => c.2.2.2.hit) = some h ∧ o.2.2.2.bypass < 8 ∧
      8 ≤ ({ bypass := 8 } : Cand).bypass) := by
  refine ⟨⟨_, _, rfl⟩, ?_⟩
  and_intros <;> first | rfl | decide
/-- An elastic stage of actors 0 to 2 with one replica, its output to actor 3. -/
def stageG (t : Stage) (l : List Token) : Region := { reg1 {} with
  actors := [(0, some { body := .lent, inp := [(0, { q := l, fed := true })] }), (1, some {}), (2, some { body := .lent }), (3, some {})]
  chans := [(0, some { src := .actor 0 0, dst := .actor 1 0, slots := 4, path := [0, 1] }),
            (1, some { src := .actor 1 0, dst := .actor 2 0, slots := 4, path := [0, 1] }),
            (2, some { src := .actor 2 0, dst := .actor 3 0, slots := 4, path := [0, 1] })]
  stages := [(0, some t)] }
def stageT : Stage := { dist := 0, tmpl := 1, coll := 2, replicas := [(1, 0)], window := 2 }
theorem witness_ElasticStages :
    let data : List Token := [tok 0 [7]]
    let x : Actor := { body := .lent, inp := [(0, { q := data, fed := true })] }
    let g := stageG stageT data
    let o : Stage := { stageT with ordered := true }
    let m : Stage := { stageT with part := true }
    let ray : Token := tok 0 [0, 0, 0, 0, 0]
    ((stI g).region 0 = some g ∧ g.stage 0 = some stageT ∧ g.actor 0 = some x ∧ g.actor 2 = some { body := .lent }) ∧
    ((usecUnits : Int) ≤ ((64000 : Dw) - stageT.sampled).toInt ∧ stageT.samples < stageT.window) ∧
    (g.active x = true ∧ stageT.change = none ∧ stageT.part = false ∧ x.head 0 = some (tok 0 [7]) ∧ stageT.ordered = false ∧
      g.leastLoaded 0 stageT stageT.taking = some 1 ∧ g.takes 0 stageT 1 = true) ∧
    (o.ordered = true ∧ (stageG o data).leastLoaded 0 o o.replicas = some 1 ∧ (stageG o data).takes 0 o 1 = true) ∧
    ((stI (stageG stageT [])).stageEmpty 0 (stageG stageT []) 0 stageT = true ∧
      (stageG { stageT with eos := some false } []).outReady 2 0 = true) ∧
    (m.part = true ∧ (stageG m [ray]).migrating 0 m { body := .lent, inp := [(0, { q := [ray], fed := true })] } = none ∧
      m.inside < m.limit ∧ (stageG m [ray]).leastLoaded 0 m (m.taking.filter fun p => decide (p.2 = rayPart ray)) = some 1) ∧
    ({ stageT with retiring := some 1 } : Stage).retiring = some 1 ∧
    (stI (stageG stageT [])).replicaEmpty 0 (stageG stageT []) 0 stageT 1 = true ∧
    ({ stageT with change := some (0, none) } : Stage).change = some (0, none) := by
  and_intros <;> first | rfl | decide

/-- The end of a window of 2 µs: with nothing to change, in a cut, with a replica above the high mark, with all below the low mark. -/
theorem witness_ElasticStages_window :
    let full : Stage := { stageT with samples := 2 }
    let high (o : Bool) : Stage := { full with ordered := o, lim := 2, sums := [(1, 8)], counts := [(1, 2)] }
    let low : Stage := { full with replicas := [(1, 0), (5, 0)], lo := 1, lowWins := 1, counts := [(1, 2), (5, 2)] }
    let s (t : Stage) : State := { stI (stageG t []) with dies := [(0, { eqt := 128000 })] }
    let idle (g : Region) (t : Stage) : Prop := g.cutBy = none ∧ g.cutWait = none ∧ t.change = none ∧ t.retiring = none
    let more (t : Stage) : Prop := (∃ p ∈ t.replicas, t.above ((stageG t []).inSlots t) p.1 = true) ∧ t.replicas.length < t.lim
    let wins (t : Stage) : Nat :=
      if !t.replicas.isEmpty && t.replicas.all fun p => t.below ((stageG t []).inSlots t) p.1 then t.lowWins + 1 else 0
    (∀ t ∈ [full, high true, high false, low], (s t).region 0 = some (stageG t []) ∧ (stageG t []).stage 0 = some t ∧
      t.window ≤ t.samples ∧ ((t.window * usecUnits : Nat) : Int) ≤ (((s t).die (stageG t []).die).eqt - t.wstart).toInt ∧
      idle (stageG t []) t) ∧
    (¬ more full ∧ ¬ 2 ≤ wins full) ∧ ¬ idle { stageG full [] with cutBy := some (.own none) } full ∧
    (more (high true) ∧ (high true).ordered = true) ∧ (more (high false) ∧ (high false).ordered = false) ∧
    (¬ more low ∧ (2 ≤ wins low ∧ low.m < low.replicas.length) ∧ low.replicas.getLast? = some (5, 0)) := by
  decide

/-! ### Witnesses: memory -/

/-- Tile 0 with one access at its port, and one range entry over the first 64 KiB, direct or paged. -/
def stPort (paged : Bool) (a : Access) (mem : List Host.Cell) : State :=
  { stIn (reg1 {}) { port := [a], ranges := [{ last := 0xF000, paged := paged, r := true, w := true, at_ := true, fut := true }] } with
    slices := [(0, defaultSlice)], mem := mem }
theorem witness_AccessesPerformed :
    let s (k : ReqKind) : State := stPort false { kind := k, va := 0xFFF8 } []
    (∀ k ∈ [ReqKind.read 8 false, .writeBack, .atomic 0, .cas, .futGet, .futPut, .futClear],
      (s k).portAt 0 0 = some { kind := k, va := 0xFFF8 } ∧ (s k).ready 0 0 2 { kind := k, va := 0xFFF8 } = true ∧
        (s k).portFull 0 = false) ∧
    (let l : Access := { kind := .read 8 false, va := 0xFFF8 }
     let u : Access := { kind := .read 8 false, va := 0xFFFC }
     (s l.kind).xlOf 0 l = .ok [0xFFF8, 0xFFF9, 0xFFFA, 0xFFFB, 0xFFFC, 0xFFFD, 0xFFFE, 0xFFFF] [] ∧
       (s l.kind).served 0 l.sc [0xFFF8] = true ∧ (s l.kind).xlOf 0 { u with va := 0x7FFC } =
         .ok [0x7FFC, 0x7FFD, 0x7FFE, 0x7FFF, 0x8000, 0x8001, 0x8002, 0x8003] []) ∧
    ((s .futPut).linesReach 0 (linesOf [0xFFF8]) = true ∧ (s .futPut).linesFree none (linesOf [0xFFF8]) = true ∧
      (∃ n ∈ linesOf [0xFFF8], ({ s .futPut with sharers := [(511, .ptrs [3])] } : State).toInvalidate none n ≠ [])) ∧
    ((s .futGet).cutting 0 = false ∧ (stI { reg1 {} with cutBy := some (.own none) }).cutting 0 = true) ∧
    (({} : State).narrowWay 0 0 = true ∧ State.reset.narrowWay 0 1 = true) ∧
    (s (.atomic 0)).accessXl 0 { kind := .atomic 0, va := 0xFFF8 } =
      .ok [0xFFF8, 0xFFF9, 0xFFFA, 0xFFFB, 0xFFFC, 0xFFFD, 0xFFFE, 0xFFFF] [] ∧
    (s .futGet).accessXl 0 { kind := .futGet, va := 0xFFF8 } =
      .ok [0xFFF8, 0xFFF9, 0xFFFA, 0xFFFB, 0xFFFC, 0xFFFD, 0xFFFE, 0xFFFF] [] ∧
    (s .futGet).anyPoison [0xFFF8] = false ∧ (s .futGet).bankDeferred 0xFFF8 < 32 ∧ sget false (s .futGet).full 8191 = false ∧
    sget false [(8191, true)] 8191 = true ∧
    (let w : Access := { kind := .write 1, va := 0, data := [5] }
     let d : Access := { w with st := .atDie, pas := [0] }
     (stPort false w []).ready 0 0 0 w = true ∧ (stPort false w []).accessXl 0 w = .ok [0] [] ∧
      (stPort false { w with st := .accepted, pas := [0] } []).ready 0 0 1 { w with st := .accepted, pas := [0] } = true ∧
      (stPort false d []).ready 0 0 2 d = true ∧ (stPort false d []).firstOf 0 d = true ∧
      (stPort false d []).linesFree (some 0) (linesOf d.pas) = true ∧
      (stPort false d []).linesReach 0 (linesOf d.pas) = true ∧ (stPort false d []).anyPoison (((stPort false d []).tile 0).storeBytes 0) = false ∧
      ({ stPort false d [] with poison := [(0, true)] } : State).anyPoison (((stPort false d []).tile 0).storeBytes 0) = true ∧
      (stPort false d []).deviceLines d.pas ≠ [] ∧ (({ kind := .cas, exp := 5 } : Access).exp = 5 ∧ (5 : Dw) ≠ 6) ∧
      ∃ n ∈ linesOf d.pas, ({ stPort false d [] with sharers := [(0, .ptrs [3])] } : State).toInvalidate (some 0) n ≠ []) ∧
    (stPort false { st := .answered (tok 0 [1]) } []).actor 0 0 = some {} := by
  refine ⟨?_, ?_⟩
  · intro k hk
    refine ⟨rfl, ?_⟩
    simp only [List.mem_cons, List.not_mem_nil, or_false] at hk
    rcases hk with rfl | rfl | rfl | rfl | rfl | rfl | rfl <;> exact ⟨rfl, rfl⟩
  · and_intros <;> first | rfl | decide
/-- Of eight bytes over two units some are left, whichever unit goes first. -/
theorem witness_AccessesPerformed_units (s : State) :
    (s.pickUnit [0x7FFC, 0x7FFD, 0x7FFE, 0x7FFF, 0x8000, 0x8001, 0x8002, 0x8003] (List.range 8)).1.length < 8 := by
  have h : ∀ n : Nat, n < 2 → ((List.range 8).filter fun i => decide (([0x7FFC, 0x7FFD, 0x7FFE, 0x7FFF, 0x8000, 0x8001, 0x8002,
      0x8003] : List Nat).getD i 0 / 8 = [4095, 4096].getD n 0)).length < 8 := by decide
  exact h _ (Nat.mod_lt _ (by decide))
/-- An entry for ASID 0 at address 0, tables at 8192, 16384, 24576 and a leaf table at 32768. -/
def tables : List Host.Cell :=
  [(1, 0x20), (7, 0x80), (8193, 0x40), (8199, 0x80), (16385, 0x60), (16391, 0x80), (24577, 0x80), (24583, 0x80), (32770, 1), (32775, 0xC0)]
theorem witness_WalksAndSpills :
    let a : Access := { kind := .read 8 false, va := 8 }
    let s := stPort true a []
    let b : Access := { a with spilled := some 3 }
    (∃ e, ((s.tile 0).ranges.find? fun e => decide (e.asid = a.asid) && e.covers (va56 a.va.toNat)) = some e ∧ e.paged = true) ∧
    a.pages = [0] ∧ s.walk 0 0 0 = .absent ∧ (∃ u, s.spill 0 0 a 8 = some u) ∧
    ((stPort true a tables).walk 0 0 0 = .leaf 0xC000000000010000 32768 ∧ ∃ ps ms, (stPort true a tables).accessXl 0 a = .ok ps ms) ∧
    s.accessXl 0 a = .page 8 ∧ (∃ c d, ({ s with tiles := [] } : State).accessXl 0 a = .fail c d) ∧ b.spilled = some 3 ∧
    retryUnits ≤ ((128000 : Dw) - b.tried).toNat ∧ ((0 : Dw) - b.tried).toNat < retryUnits ∧ (stPort true b []).accessXl 0 b = .page 8 ∧
    (∃ ps ms, (stPort false b []).accessXl 0 b = .ok ps ms) ∧
    (∃ u, ((stPort false b []).setAccess 0 0 { b with spilled := none }).perform 0 0 = some u) ∧
    (stPort false b []).sliceOfDie (dieOf 0) = some 0 ∧
    (50 : Word).toNat * 64000000 ≤ ((3200000003 : Dw) - 3).toNat := by
  refine ⟨⟨_, rfl, rfl⟩, rfl, rfl, ⟨_, rfl⟩, ⟨by decide, _, _, rfl⟩, rfl, ⟨_, _, rfl⟩, rfl, ?_, ?_, rfl, ⟨_, _, rfl⟩, ⟨_, rfl⟩, rfl,
    by decide⟩
  · show retryUnits ≤ 128000
    have := Nat.mod_lt Sys2Proof.Config.retryWord.toNat (show 96001 > 0 by decide)
    unfold retryUnits; omega
  · show 0 < retryUnits
    unfold retryUnits; omega
theorem witness_OutsideAccesses :
    let s : State := { slices := [(0, defaultSlice)] }
    let p : State := { s with poison := [(0, true)] }
    let l : State := { s with links := [(0, { cfg := 0x103 })] }
    let f (n : Nat) : State := { s with posted := [{ pas := [n], data := [1] }] }
    let m : State := { s with badMeta := [(0, true)] }
    (s.posted = [] ∧ s.dues = [] ∧ (∃ w ∈ (f 7).posted, shareByte ((f 7).postedPas w) ((List.range 8).map (0 + ·)) = true) ∧
      (∀ w ∈ (f 8).posted, shareByte ((f 8).postedPas w) ((List.range 8).map (0 + ·)) = false) ∧ s.linesFree none (linesOf [0]) = true) ∧
    (s.metaLost [0] = false ∧ m.metaLost [0] = true ∧ m.metaLost [128] = false) ∧
    (let u (t : Dw) (o : Option Dw) : Die := { eqt := t, errs := [{ newer := 0, older := o }] }
     let day : Nat := 24 * 3600 * 1000000000 * 64
     (∃ e, (u 5 none).errs.find? (fun u => decide (u.kind = 0) && decide (u.unit = 0)) = some e ∧ e.older = none) ∧
     (∃ e o, (u 5 (some 0)).errs.find? (fun u => decide (u.kind = 0) && decide (u.unit = 0)) = some e ∧ e.older = some o) ∧
     ((BitVec.ofNat 64 day : Dw) - 0).toNat ≤ day ∧ ¬ ((BitVec.ofNat 64 (day + 1) : Dw) - 0).toNat ≤ day) ∧
    ((∀ x ∈ (List.range 8).map (0 + ·), s.hostAdmits 0 x = true) ∧ s.anyPoison [0] = false ∧ p.anyPoison [0] = true) ∧
    s.hostAdmits 0 0x4000000000 = false ∧ s.hostAdmits 9 0 = false ∧
    ((l.link 0).enabled = true ∧ (l.link 0).up = true ∧ (l.link 0).low ≤ 0 ∧ 0 ≤ (l.link 0).high ∧ l.inDevice 0 = true ∧
      (l.link 0).pkg = true) ∧ (s.link 0).up = false ∧ (s.die 0).errs = [] := by
  and_intros <;> first | rfl | decide | exact ⟨_, rfl, rfl⟩ | exact ⟨_, _, rfl, rfl⟩

/-! ### Witnesses: engine actors -/

/-- A running region of one engine actor with channels on its outputs 0 and 1 and tokens at input 0. -/
def engA (b : Body) (l : List Token) : Actor := { body := b, inp := [(0, { q := l, fed := true })] }
def engR (x : Actor) : Region := { reg1 x with
  chans := [(0, some { src := .actor 0 0, dst := .actor 1 0, slots := 4, st := 0, rt := 0, path := [0, 1] }),
            (1, some { src := .actor 1 0, dst := .actor 0 0, slots := 4, st := 0, rt := 0, path := [0, 1] })] }
/-- An LADD of i0 and i1's operand own register on lane 0. -/
theorem witness_EngineSteps_lane :
    let seg : LaneSeg := { first := 0, last := 0 }
    let x := engA (.lane seg) [tok 0 [5]]
    let e := engA (.lane seg) [tok 4 [5]]
    let c := engA (.lane seg) [tok 5 [4, 0]]
    let s (x : Actor) : State := stIn (engR x) { lanes := [(0, 0x04800000)] }
    (s x).region 0 = some (engR x) ∧ (engR x).active x = true ∧ ((s e).laneElement 0 0 (engR e) e seg).isSome = true ∧
    (let ins := ((s x).engineNamed (engR x) 0 x).1
     (∀ p ∈ ins, (x.port p).drop = false ∧ (x.headKind p = some 0 ∨ x.headKind p = some 7)) ∧
      (ins.all fun p => ((s x).framing 0 0 p).isNone) = true ∧
      ((s x).errorStep 0 0 (engR x) x ins ((s x).engineNamed (engR x) 0 x).2).isNone = true ∧
      (engR x).outsFree 0 ((s x).engineNamed (engR x) 0 x).2 = true) ∧
    ((c.controlPort (((s c).engineNamed (engR c) 0 c).1.filter fun p => decide (p ≠ 7))) = some 0 ∧
      ((s c).engineNamed (engR c) 0 c).1 ≠ [] ∧ c.head 0 = some (tok 5 [4, 0]) ∧ (tok 5 [4, 0]).subtype = 4) ∧
    ((s x).tile 0).drained seg = true ∧ (x.port 0).left = 0 := by
  and_intros <;> first | rfl | decide
/-- A burst header at the head of a segment whose lane reads X alone; a configuration token inside a burst and outside one. -/
theorem witness_EngineSteps_headers :
    let seg : LaneSeg := { first := 0, last := 0 }
    let x := engA (.lane seg) [tok 3 [mkHdr 127 8 false 9 0 0]]
    let g : Region := { reg1 x with chans := [(0, some { src := .actor 1 0, dst := .actor 0 0, st := 0x29, rt := 0x29, path := [0, 1] })] }
    let s : State := stIn g { lanes := [(0, 0x04800000)] }
    let c (n : Nat) : Actor := { body := .lane seg, inp := [(0, { q := [tok 5 [4, 0]], fed := true, left := n })] }
    (seg.pend = [] ∧ seg.cfg = [] ∧ g.active x = true ∧ (s.tile x.tile).drained seg = true ∧
      (s.engineNamed g 0 x).1 = [0] ∧ (x.port 0).drop = false ∧ (s.framing 0 0 0).isNone = true ∧ x.headKind 0 = some 3 ∧
      (s.laneBadHeader 0 0 g x 0).isNone = true ∧
      (s.errorStep 0 0 g x [0] (s.engineNamed g 0 x).2).isNone = true ∧ g.outsFree 0 (s.engineNamed g 0 x).2 = true) ∧
    ((c 2).inBurst = true ∧ (c 0).inBurst = false) ∧ ({ seg with cfg := [[4, 0]] } : LaneSeg).cfg ≠ [] := by
  and_intros <;> first | rfl | decide
theorem witness_EngineSteps_others :
    let b := engA .bank [tok 0 [5]]
    let be := engA .bank [tok 4 [5]]
    let a := engA (.abacus {}) [tok 1 [0]]
    let l := engA (.memory { size := 3, counts := [2], strides := [8] }) [tok 0 [5]]
    let p := engA (.memory { size := 3, counts := [2], strides := [8], pass := true, pos := 1 }) []
    let t := engA (.memory { store := true, size := 3, counts := [2], strides := [8] }) [tok 0 [5]]
    let f := engA (.memory { size := 3, eos := some false }) []
    ((engR b).active b = true ∧ b.fedInputs = [0] ∧ b.headKind 0 = some 0 ∧ (b.port 0).drop = false ∧
      (stI (engR b)).bankAt b = none ∧ (stI (engR be)).bankAt be = none ∧ ((stI (engR b)).framing 0 0 0).isNone = true ∧
      ((stI (engR be)).framing 0 0 0).isNone = true ∧ (engR b).outsFree 0 ((engR b).joined 0) = true ∧
      ((stI (engR be)).errorStep 0 0 (engR be) be be.fedInputs ((engR be).joined 0)).isSome = true ∧
      (let q : Access := { kind := .atomic 0, elem := some 0, st := .answered { payload := [7] } }
       ((stIn (engR b) { port := [q] }).bankAt b).isSome = true)) ∧
    ((stI (engR a)).abInput 0 0).isSome = true ∧
    ((engR l).active l = true ∧ ((stI (engR l)).framing 0 0 0).isNone = true ∧ (l.port 0).drop = false ∧
      (stI (engR l)).elemRoom 0 0 l { size := 3, counts := [2], strides := [8] } = true ∧ l.head 0 = some (tok 0 [5]) ∧
      (engR l).outReady 0 0 = true) ∧
    (1 < ({ size := 3, counts := [2], strides := [8], pass := true, pos := 1 } : MemGen).total ∧ p.srcCut = false ∧
      (engR p).outReady 0 0 = true) ∧
    ((engR t).active t = true ∧ t.head 0 = some (tok 0 [5]) ∧
      (engR t).outsFree 0 ((stI (engR t)).engineNamed (engR t) 0 t).2 = true) ∧
    ((engR f).active f = true ∧ (stI (engR f)).streamSettled 0 0 f { size := 3, eos := some false } = true ∧
      (engR f).outsFree 0 ((stI (engR f)).engineNamed (engR f) 0 f).2 = true) := by
  and_intros <;> first | rfl | decide
theorem witness_EngineSteps_matrix :
    let b : Batch := { cmd := mmaW }
    let x : Actor := { body := .matrix [b], acc := 1, inp := [(0, { q := [{ payload := [0] }], fed := true })] }
    let g : Region := { reg1 x with chans := [(0, some { src := .actor 1 0, dst := .actor 0 0, st := 3, rt := 3, path := [0, 1] })] }
    g.active x = true ∧ ((stI g).matrixElement 0 0 g x).isSome = true := by
  and_intros <;> first | rfl | decide
def lstrW : BitVec 128 := 0x00000000_00000040_00000000_08000000
def abrunW : BitVec 128 := 0x00000000_00000040_00000000_09000000
def abPlane : Plane := { reck := { frames := [{}] } }
/-- An actor that gives itself a command, with descriptors of 8 FP32 elements, or of one INT8 element, at 0 and 64. -/
def unitA (b : Body) (w : BitVec 128) : Actor := { locL := 1024, body := b, follow := [{ issuer := 0, w := w }] }
theorem witness_UnitCommands :
    let seg : LaneSeg := { first := 0, last := 0 }
    let l := unitA (.lane seg) lstrW
    let a := unitA (.abacus { active := some abPlane }) abrunW
    let s (x : Actor) (c : List Host.Cell) : State := stIn (reg1 x) { spad := c, lanes := [(0, 0x04800000)] }
    let c (w : BitVec 128) : Cmd := { eng := .unit 0 0, w := w }
    ((reg1 l).active l = true ∧ (reg1 l).nextCommand 0 l = some (.cmd 0 0 lstrW true) ∧ opOf lstrW = 8 ∧
      (∃ h, decodeCommand lstrW = some (h, .lstr 0 0 64 none)) ∧ (s l (cells 0 8 8)).unitCmd 0 0 = none ∧
      (∃ m, laneStream l ((s l (cells 0 8 8)).tile 0) 0 64 none = some m ∧ m.misfit (reg1 l) 0 ((s l (cells 0 8 8)).tile 0) seg true = false ∧
        m.misfit (reg1 l) 0 ((s l (cells 0 8 8)).tile 0) seg false = true)) ∧
    ((∃ k, lfind (fun c => decide (c.eng = Engine.unit 0 0)) [c lstrW] 0 = some (k, c lstrW)) ∧
      ((s l []).tile 0).drained seg = true) ∧
    ((reg1 a).nextCommand 0 a = some (.cmd 0 0 abrunW true) ∧ opOf abrunW = 9 ∧
      (∃ h, decodeCommand abrunW = some (h, .abrun 0 64 0)) ∧ a.atBoundary = true ∧
      a.tensorOk ((s a (cells 9 1 1)).tile 0) 0 = true ∧ a.tensorOk ((s a (cells 9 1 1)).tile 0) 64 = true ∧
      abPlane.reck.fits (tensorAt ((s a (cells 9 1 1)).tile 0) 0).1 (tensorAt ((s a (cells 9 1 1)).tile 0) 64).1 = true ∧
      (∃ s1, (s a (cells 9 1 1)).chargeCommand 0 0 0 (abPlane.reck.charge 1) = some s1)) := by
  refine ⟨⟨rfl, rfl, rfl, ⟨_, rfl⟩, rfl, _, rfl, by decide, by decide⟩, ⟨⟨_, rfl⟩, rfl⟩, rfl, rfl, ⟨_, rfl⟩, rfl, by decide, by decide,
    by decide, ⟨_, rfl⟩⟩
/-- An LSTR and an ABRUN under way, each with a turn that it can take. -/
theorem witness_UnitCommands_turns :
    let seg : LaneSeg := { first := 0, last := 0 }
    let l := unitA (.lane seg) lstrW
    let a := unitA (.abacus { active := some abPlane }) abrunW
    let s (x : Actor) (c : List Host.Cell) (k : Cmd) : State :=
      { stIn (reg1 x) { spad := c, lanes := [(0, 0x04800000)] } with cmds := [k] }
    let c (w : BitVec 128) : Cmd := { eng := .unit 0 0, w := w }
    ((s l (cells 0 8 8) (c lstrW)).unitCmd 0 0 = some (0, c lstrW) ∧
      ∃ m w, laneStream l ((s l (cells 0 8 8) (c lstrW)).tile 0) 0 64 none = some m ∧
        (s l (cells 0 8 8) (c lstrW)).runStream 0 0 0 (c lstrW) l seg m = some w) ∧
    ((s a (cells 9 1 1) (c abrunW)).unitCmd 0 0 = some (0, c abrunW) ∧
      ∃ w, (s a (cells 9 1 1) (c abrunW)).runOne 0 0 0 (c abrunW) a abPlane (tensorAt ((s a (cells 9 1 1) (c abrunW)).tile 0) 0).1
        (tensorAt ((s a (cells 9 1 1) (c abrunW)).tile 0) 64).1 0 = some w) :=
  ⟨⟨rfl, _, _, rfl, rfl⟩, rfl, _, rfl⟩
/-- A reckoning of one bead that copies input 0, in its image's bytes at address 0 (R102 to R106). -/
def abImage : List Host.Cell :=
  [(5, 0x01), (6, 0xAC), (7, 0xAB), (13, 0xE0), (14, 0x40), (15, 0x4A), (16, 184), (20, 176), (41, 0x80), (168, 0xE0), (173, 0x40)]
theorem witness_AbacusSteps_load : ∃ u k, (stPort false {} abImage).loadImage 0 0 {} {} 0 = (u, .loaded k) := ⟨_, _, rfl⟩
theorem witness_AbacusSteps_refused : ∃ u st d, (stPort false {} []).loadImage 0 0 {} {} 0 = (u, .refused st d) :=
  ⟨_, _, _, rfl⟩
theorem witness_AbacusSteps :
    let x (k : BitVec 4) : Actor := engA (.abacus {}) [tok k [4, 0]]
    (∀ k ∈ ([0, 1, 2, 3, 4, 5] : List (BitVec 4)), (engR (x k)).active (x k) = true ∧ (x k).head 0 = some (tok k [4, 0])) ∧
    ((stI (engR (x 1))).unitBusy 0 0 = false ∧ ((x 1).port 0).drop = false ∧ (engR (x 1)).outReady 0 0 = true ∧
      ((stI (engR (x 1))).framing 0 0 0).isNone = true) ∧
    ({ outq := [tok 0 [1]] } : Abacus).outq = [tok 0 [1]] ∧ ({ shState := .loading } : Abacus).shState = .loading ∧
    (({ shState := .swapPending } : Abacus).shState = .swapPending ∧ (x 1).atBoundary = true ∧ (x 1).cut = .run) ∧
    (tok 5 [4, 0]).subtype = 4 ∧ ({ config := [[4, 8]] } : Abacus).config = [[4, 8]] ∧
    ((x 1).atBoundary = true ∧ ({} : Abacus).config = [] ∧ (x 1).configHead = none ∧ (x 5).configHead = some [4, 0]) ∧
    ({ inp := [(0, { left := 2 })] } : Actor).atBoundary = false ∧ burstType 0x29 = true ∧ burstType ((engR (x 3)).inType 0 0) = false := by
  refine ⟨?_, ?_⟩
  · decide
  · and_intros <;> first | rfl | decide

/-! ### Witnesses: the front end, the display, cuts and the package -/

/-- Memory with one grant of the first 64 KiB to ASID 0 (R124), and the least graph image at 4096: no actor at all. -/
def grantMem : List Host.Cell :=
  [(8, 0x40), (15, 0x80), (73, 0xF0), (88, 0xB0), (4096, 0xC0), (4101, 1), (4102, 0xE1), (4103, 0x57), (4104, 0x80), (4108, 1),
   (4225, 0xC0), (4226, 0xFF), (4227, 0xFF), (4228, 3), (4232, 0xFF), (4233, 0xFF), (4234, 0x0F), (4237, 0xFE), (4238, 0xFF),
   (4239, 0x1F)]
def grantS : State := { slices := [(0, defaultSlice)], mem := grantMem }
theorem witness_FrontEnd :
    let q : Queue := { cfg := 0x800001, db := 1 }
    let n : Slice := { defaultSlice with queues := [(0, q)] }
    let s : State := { slices := [(0, n)] }
    (q.on = true ∧ ({} : Queue).on = false ∧ ({} : Queue).configOk defaultSlice 0x800001 = true ∧
      ({} : Queue).configOk defaultSlice 1 = false) ∧
    (((s.slice 0).on = true ∧ ∃ h w, firstAt (s.slice 0).heads 0 = some h ∧ s.takeHead 0 h = some w) ∧
      ∀ p' h', 0 < p' → firstAt (s.slice 0).heads p' = some h' → s.takeHead 0 h' = none) ∧
    (let c : Chan := { src := .actor 0 0, dst := .launch, q := [tok 0 [8, 0, 0, 0, 0]] }
     let g : Region := { reg1 {} with chans := [(0, some c)] }
     (stI g).region 0 = some g ∧ g.chan 0 = some c ∧ c.fromActor = some 0 ∧ requestReason (tok 0 [8, 0, 0, 0, 0]) = none ∧
      requestReason (tok 0 [8]) = some 1) ∧
    (s.pageAdmits 0 = true ∧ ({ s with fn := some 3 } : State).pageAdmits 0 = false) ∧ s.rectOk 1 0 0 1 1 = false ∧
    (let l : Load := { launch := some { prio := 1 }, found := true }
     l.found = true ∧ ∃ w, ({ stR { reg1 {} with launch := some { quantum := 1 } } with
       dies := [(0, { eqt := 4096001 })], loads := [{ launch := some { prio := 1 }, tried := true }] } : State).preempt 0 = some w) := by
  refine ⟨by decide, ⟨⟨by decide, _, _, rfl, rfl⟩, ?_⟩, by and_intros <;> rfl, ⟨by decide, by decide⟩, by decide, rfl, _, rfl⟩
  intro p' h' hp hh
  have : (0 : Nat) ≠ p' := by omega
  have e : (State.slice { slices := [(0, { defaultSlice with queues := [(0, { cfg := 0x800001, db := 1 })] })] } 0).heads =
    [(Pick.queue 0, 0, 0)] := by decide
  rw [e] at hh
  simp [firstAt, this] at hh
theorem witness_FrontEnd_search : (∃ m, grantS.readImage 0 0 4096 = .ok m ∧ m.refusals grantS 0 0 4096 (some (0, 0)) = []) ∧
    (let l : Load := { va := 4096, any := false }
     l.found = false ∧ l.launch = none ∧ ∃ v, grantS.loadVa l = .ok (v, 0)) := by
  refine ⟨?_, rfl, rfl, _, rfl⟩
  have h : (match grantS.readImage 0 0 4096 with
      | .ok m => decide (m.refusals grantS 0 0 4096 (some (0, 0)) = [])
      | .error _ => false) = true := by decide +kernel
  cases e : grantS.readImage 0 0 4096 with
  | error _ => rw [e] at h; cases h
  | ok m => rw [e] at h; exact ⟨m, rfl, of_decide_eq_true h⟩
theorem witness_FrontEnd_placed : ∃ m s1 p, grantS.readImage 0 0 4096 = .ok m ∧ m.headerErrs 4096 = [] ∧ m.refusals grantS 0 0 4096 none = [] ∧
    m.tooLarge grantS 0 = false ∧ grantS.searchEvict m 0 0 none true 1 = (s1, some p) := by
  have h : (match grantS.readImage 0 0 4096 with
      | .ok m => decide (m.headerErrs 4096 = [] ∧ m.refusals grantS 0 0 4096 none = [] ∧ m.tooLarge grantS 0 = false ∧
          (grantS.searchEvict m 0 0 none true 1).2.isSome = true)
      | .error _ => false) = true := by decide +kernel
  cases e : grantS.readImage 0 0 4096 with
  | error _ => rw [e] at h; cases h
  | ok m =>
    rw [e] at h
    obtain ⟨h1, h2, h3, h4⟩ := of_decide_eq_true h
    obtain ⟨p, hp⟩ := Option.isSome_iff_exists.mp h4
    exact ⟨m, (grantS.searchEvict m 0 0 none true 1).1, p, rfl, h1, h2, h3, Prod.ext rfl hp⟩
/-- A package whose slice 0 is that of the configuration record, its interface locked: physical function 0 reaches nothing of it. -/
theorem witness_Admits :
    let s : State := { slices := [(0, { defaultSlice with tdi := .locked })] }
    State.reset.pageAdmits 0 = true ∧ State.reset.dieAdmits 7 = true ∧ State.reset.mgmtAdmits = true ∧
    ({ s with fn := some 0 } : State).pageAdmits 0 = false ∧ ({ s with fn := some 0 } : State).dieAdmits 7 = false ∧
    ({ s with fn := some 1 } : State).pageAdmits 0 = true ∧ ({ s with fn := some 1 } : State).mgmtAdmits = false ∧
    ({ s with fn := some 1 } : State).regAdmits (.slcfg 0) = false := by decide
theorem witness_Display :
    let h (dctl : Dw) : Head := { dctl := dctl, dper := 8, pending := [4096] }
    let e : Session := { esctl := 1, ering := 4096, ersize := 8, coding := true }
    (grantS.dieAdmits 0 = true ∧ (h 0).on = false ∧ dwAt (h 0).dgeom 48 2 ≠ 3) ∧
    ((h 1).on = true ∧ (h 3).on = true ∧ (h 1).cut = none ∧ (h 1).dper ≠ 0) ∧ ((0 : Dw).toNat + 0 * (8 : Word).toNat ≤ (0 : Dw).toNat) ∧
    ((h 1).dctl.getLsbD 1 = false ∧ (h 3).dctl.getLsbD 1 = true) ∧
    ((h 1).pending.getLast?).orElse (fun _ => (h 1).surface) = some 4096 ∧
    (grantS.scan 0 (h 1) 4096 (h 1).height).2.isSome = true ∧ (grantS.scan 0 (h 1) 65536 (h 1).height).2 = none ∧
    (let c : Chan := { src := .actor 0 0, dst := .head 0 0, q := [tok 0 [4096]] }
     let g : Region := { reg1 {} with chans := [(0, some c)] }
     (stI g).region 0 = some g ∧ g.chan 0 = some c) ∧
    (e.on = true ∧ e.coding = true ∧ grantS.sessionChan 0 0 = none ∧ ([1, 2] : List Byte).length ≤ e.ersize.toNat ∧ e.ersize ≠ 0 ∧
      (grantS.ringWrite 0 (dwAt e.esctl 4 14) 4096 8 0 [1, 2]).2 = true ∧ (7 : Word).toNat < (List.replicate 8 (0 : Byte)).length) := by
  decide +kernel
/-- A region being cut whose one actor is in FINISH, in RECORD or cut, and whose solstice has come. -/
theorem witness_Cuts :
    let x (c : CutState) (l : List Token) : Actor := { cut := c, inp := [(0, { q := l, fed := true })] }
    let g (x : Actor) : Region := { reg1 x with cutBy := some (.own none), num := 7, ctxb := 4096 }
    let s (x : Actor) : State := { grantS with regions := [(0, some (g x))] }
    (grantS.pageAdmits 0 = true ∧
      (reg1 {}).cutBy = none ∧ (reg1 {}).cutWait = none ∧ (reg1 {}).launch ≠ none ∧ (0 = regionKey 0 ((0 : Word).toNat % 65536)) ∧
      (grantS.slice 0).cutstat.toNat % 4 ≠ 1) ∧
    ((g (x .run [tok 6 [0]])).cutBy ≠ none ∧ (x .run [tok 6 [0]]).head 0 = some (tok 6 [0]) ∧
      (g (x .run [tok 6 [0]])).ingress ≠ some (0, 0) ∧ (x .run [tok 6 [0]]).abacus = none) ∧
    ((x .finish []).cut = .finish ∧ (s (x .finish [])).idle 0 0 (x .finish []) = true ∧
      (let y := { (x .finish []).recordWaiting with cut := .record }
       y.recd = [] ∧ ∃ u, (s (x .finish [])).writeEntry 0 (g (x .finish [])) 0 y = .ok u)) ∧
    ({ x .finish [] with follow := [{ issuer := 0, w := 0 }] } : Actor).recordWaiting.recd ≠ [] ∧
    ((x .record [tok 0 [3]]).cut = .record ∧ ((x .record [tok 0 [3]]).port 0).q = [tok 0 [3]] ∧
      ((x .record [tok 0 [3]]).port 0).closed = false) := by
  refine ⟨by and_intros <;> first | rfl | decide, by and_intros <;> first | rfl | decide, ⟨rfl, rfl, rfl, _, rfl⟩, by decide, by and_intros <;> rfl⟩
/-- Every actor cut, every store done: the snapshot can be written. -/
def cutR : Region := { reg1 { cut := .cut } with cutBy := some (.own none), ctxb := 4096 }
theorem witness_Cuts_snapshot : cutR.cutBy ≠ none ∧ grantS.displayDone 0 = true ∧ cutR.allCut = true ∧ grantS.commandsRecorded 0 cutR = true ∧
    grantS.storesDone 0 = true ∧ (∃ u, grantS.writeSnapshot { cutR with cuts := cutR.cuts + 1 } = .ok u) ∧
    cutR.haltInCut = false ∧ cutR.launch = some {} := by
  refine ⟨by decide, rfl, rfl, rfl, rfl, ?_, rfl, rfl⟩
  have h : (match grantS.writeSnapshot { cutR with cuts := cutR.cuts + 1 } with
      | .ok _ => true
      | .error _ => false) = true := by decide +kernel
  cases e : grantS.writeSnapshot { cutR with cuts := cutR.cuts + 1 } with
  | error _ => rw [e] at h; cases h
  | ok u => exact ⟨u, rfl⟩
theorem witness_Checkpoints :
    let s : State := {}
    State.quiet s = true ∧ s.safeTier (2 ^ 48) = true ∧ s.ckpt = none ∧
    (let c : PackageCopy := { base := 2 ^ 48, parts := [95] }
     ({ s with ckpt := some c } : State).quiet = true ∧ ({ s with ckpt := some c } : State).safeTier c.base = true ∧ c.parts ≠ [] ∧
       c.lacks = 0 ∧ ({ c with lacks := 128 } : PackageCopy).lacks ≠ 0) ∧
    (s.fitted - 1 < s.fitted ∧ (partSpan s.fitted 95).1 ≤ s.fitted - 1 ∧ s.fitted - 1 < (partSpan s.fitted 95).1 + (partSpan s.fitted 95).2) := by
  decide
theorem witness_ConnectionTable :
    let s := State.reset
    let t : State := { s with regions := [(0, some { reg1 {} with chans := [(0, some { path := [15, 16] })] })] }
    let v : Dw := connWord 0 1 60 0
    let bulk : Dw := connWord 0 1 1 1
    (s.mgmtAdmits = true ∧ ({ s with fn := some 1 } : State).mgmtAdmits = false) ∧
    (s.frozenDie 0 = false ∧ s.frozenDie 1 = false ∧ s.frozenDie 7 = false) ∧ (entV v = true ∧ s.refuseEntry 255 v = none) ∧
    s.refuseEntry 255 (connWord 1 1 0 0) = some 1 ∧
    (entV (0 : Dw) = false ∧ entV (s.entry 0) = true ∧ t.circuitUsed 0 (s.entry 0) = true) ∧
    (s.entry 1 = bulk ∧ s.circuitUsed 1 (s.entry 1) = false ∧ entBulk (s.entry 1) = true) ∧
    (entRdy (0x8000000000000000 : Dw) = false ∧ entV (0x8000000000000000 : Dw) = true) := by
  and_intros <;> first | rfl | decide | decide +kernel
theorem witness_Links : (16 ≤ sget 0 ({ replays := [(0, 16)] } : State).replays 0 ∧
      sget false ({ replays := [(0, 16)] } : State).edgesDown 0 = false) ∧
    ({ cfg := 0x101 } : Link).up = true ∧ ({ cfg := 0x101 } : Link).enabled = true ∧ ({ cfg := 0x101 } : Link).pkg = false ∧ ({} : Link).enabled = false ∧
    (sget [] ({ cfg := 0x101 } : Link).recv 0).length < 256 := by decide
theorem witness_TimeAndTrust :
    (let s : State := { dies := [(0, { locked := true, eqe := 96, eqt := 10 })], conn := defaultConn, powered := true, stage := 3 }
     (s.die 0).locked = true ∧ s.timeReaches 0 = true ∧ s.timeReaches 7 = true ∧ s.set = true ∧ State.reset.set = false ∧ s.recovery = false ∧
       ({ s with conn := [] } : State).timeReaches 0 = false ∧ s.boundOk 0 96 = true ∧ ((s.die 0).eqt - s.ref).toInt.natAbs ≤ 96 ∧
       (((s.die 0).eqt - s.ref).toInt + -(10 : Int)).natAbs ≤ 96 ∧ s.boundOk 1 97 = false ∧ s.mgmtAdmits = true ∧
       (({} : State).die 0).locked = false ∧ ((5 : Dw) - s.ref).toInt.natAbs ≤ 96 ∧ timeSource 0 = 0) ∧
    ({ locked := true } : Die).locked = true ∧ ({} : Die).locked = false ∧
    swf ({} : Die) State.reset.dies = true ∧ ({ tdi := .run } : Slice).tdi = .run ∧ ({} : Slice).tdi ≠ .run := by decide
theorem witness_Management :
    let s := State.reset
    let n : Slice := { s.slice 1 with desc := (0x01000101 : BitVec 128) &&& 0xFFFF03FF }
    let t : State := { s with slices := [(1, { tdi := .unlocked })] }
    (s.mgmtAdmits = true ∧ s.pageAdmits 0 = true ∧ s.dieAdmits 0 = true) ∧
    ({ s with fn := some 1, slices := [] } : State).pageAdmits 0 = false ∧ ({ s with slices := [] } : State).dieAdmits 0 = false ∧
    ((t.slice 1).frozen = false ∧ (t.slice 1).on = false ∧ t.refuseDesc 1 n = false ∧
      s.refuseDesc 1 { n with desc := (0x00000001 : BitVec 128) } = true) ∧
    ((s.slice 0).frozen = false ∧ (s.slice 0).on = true ∧ (0x1FF : BitVec 128).getLsbD 8 = true ∧ (0xFF : BitVec 128).getLsbD 8 = false) ∧
    (({ former := some 0 } : Die).former ≠ none ∧ t.sliceOfDie 0 = none) ∧
    ((s.slice 0).tinvDone = true ∧ (s.slice 0).hasAsid (dwAt (s.slice 0).tinv0 40 14) = true) ∧
    (({ tinvDone := false } : Slice).tinvDone = false ∧ ∀ t ∈ s.tiles, ∀ a ∈ t.2.port, a.pas = [] ∨ a.performed 2 = true) ∧
    ((s.die 0).trsel.getLsbD 31 = false ∧ within 0 8 (64 * (1 : BitVec 13).toNat) (64 * (2 : BitVec 13).toNat) = false ∧
      within 64 8 (64 * (1 : BitVec 13).toNat) (64 * (2 : BitVec 13).toNat) = true) := by
  and_intros <;> first | rfl | decide | (intro _ h; cases h)
theorem witness_BringUp : ({} : State).powered = false ∧ ({ powered := true } : State).recovery = false ∧
    (1 : Nat) = ({ powered := true } : State).stage.toNat + 1 ∧ ({ recovery := true } : State).recovery = true ∧
    ([1] : List Byte) ≠ [] ∧ State.reset.limits.dvfsLow ≤ (State.reset.die 0).mhz ∧
    (let s (n : BitVec 4) : State := { State.reset with powered := true, stage := n, slices := [(0, defaultSlice)], dies := [(0, { trained := true })] }
     (4 : Nat) = (s 3).stage.toNat + 1 ∧ ((s 3).die 0).trained = true ∧ ((s 3).die 0).locked = false ∧
       (∀ d, d < 8 → (({ s 3 with dies := (List.range 8).map fun d => (d, { trained := true, locked := true }) } : State).die d).trained = true →
         (({ s 3 with dies := (List.range 8).map fun d => (d, { trained := true, locked := true }) } : State).die d).locked = true) ∧
       swf 0 (s 3).meas = true ∧ ((s 3).slice 1).on = false ∧ ((s 3).slice 0).on = true ∧ (s 2).stage.toNat + 1 = 3 ∧ (s 1).stage.toNat + 1 = 2) ∧
    (recordOk {} = false ∧ recordOk {
      fitted := 2 ^ 38, slices := [0x400001FF], dvfsLow := 760, dvfsHigh := 1020, power := 1500, throttle := 95
      shutdown := 110, lanes := 16 } = true) := by decide

/-! ### Witnesses: the machine as a whole -/

/-- One running actor whose code window holds a word at 0 and at 4, the pc at 0. -/
def stCode (w : Word) (f : Firing) : State :=
  { regions := [(0, some (reg1 { codeL := 64, locL := 64 }))]
    tiles := [(0, { spad := ((List.range 4).map fun i => (i, w.extractLsb' (8 * i) 8)).filter fun c => decide (c.2 ≠ 0)
                    core := { firing := some f } })] }
theorem witness_DecodeEncode : (Instr.add 3 4 5 false).wf = true ∧ encode (.add 3 4 5 false) = some 0x00642800 ∧
    decode 0x00642800 = .ok (.add 3 4 5 false) := ⟨rfl, rfl, rfl⟩
theorem witness_CommandAndLaneWords : (decodeCommand gathW).isSome = true ∧ (decodeLane 0x6880C002).isSome = true ∧
    (0x0B000000 : BitVec 128).toNat / 2 ^ 24 % 256 = 0x0B ∧ 0x1D < (0x78000000 : Word).toNat / 2 ^ 26 := by decide
theorem witness_StepRunsDecoded :
    let s (f : Firing) : State := stCode 0x00642800 f
    (s {}).frz = false ∧ (s {}).stopped = false ∧ (s {}).agenda = [] ∧ (s {}).firing = some {} ∧ (s {}).fetchOk = true ∧
    ((s {}).core.sys = false ∧ (0 : Nat) < 4096) ∧
    decodeBytes (((s {}).tile (s {}).focus).bytes (s {}).core.pc.toNat 4) = .ok (.add 3 4 5 false, []) ∧
    encode (.powerRefill 0) = none ∧ State.reset.firing = none ∧
    (encode (.ctstatWrite 0) = none ∧ ∃ t, exec (.ctstatWrite 0) { State.reset with fn := some 0 } = .next t) ∧
    (State.reset.limits.dvfsLow ≤ 1020 ∧ 1020 ≤ State.reset.limits.dvfsHigh) :=
  ⟨rfl, rfl, rfl, rfl, rfl, ⟨rfl, by decide⟩, rfl, rfl, rfl, ⟨rfl, _, rfl⟩, by decide⟩
theorem witness_TrapOrder :
    let s := stCode
    ((s 0 {}).agenda = [] ∧ (s 0 {}).firing = some {}) ∧ (stA {}).fetchOk = false ∧ (s 0 {}).fetchOk = true ∧ (s 0 {}).core.sys = false ∧
    (({ count := 4096 } : Firing).over6 = false ∧ 4096 ≤ ({ count := 4096 } : Firing).count) ∧ decode (s 0xFC000000 {}).fetched ≠ .ok .endTask ∧
    (s 0 {}).limitOf {} 0 = none ∧ decode (s 0x30000000 {}).fetched = .error .unassignedMajor ∧
    decode (s 0xE8000001 {}).fetched = .ok .eret ∧ decode (s 0xE0800050 {}).fetched = .ok (.csrr 4 5) ∧
    (decode (s 0x6025C010 {}).fetched = .ok (.ldl 1 5 3 false 16) ∧ (s 0 {}).counted.localOk 16 8 = true ∧
      (s 0 {}).counted.localOk 64 8 = false) ∧ decode (s 0xE8000000 {}).fetched = .ok (.trap 0) ∧ decode (s 0xE0800060 {}).fetched = .ok (.csrr 4 6) ∧
    (let j : State := { s 0 {} with
       tiles := [(0, { spad := [(0, 1), (1, 0x10), (2, 1), (3, 0x50), (0x3FFF8, 2)]
                       core := { g := [(1, 0x3FFF8), (2, 1)], firing := some {} } })] }
     j.fetchOk = true ∧ j.limitOf {} j.fetched = none ∧ decode j.fetched = .ok (.jtab 1 2) ∧
     (j.counted.reg 1).toNat % 4 = 0 ∧ (j.counted.reg 2).toNat < (j.counted.tile 0).load 0x3FFF8 4 % 65536 ∧
     0x3FFFC < (j.counted.reg 1).toNat + 4 + 4 * (j.counted.reg 2).toNat) := by
  refine ⟨⟨rfl, rfl⟩, rfl, rfl, rfl, ⟨rfl, by decide⟩, ?_, rfl, rfl, rfl, rfl, ⟨rfl, rfl, rfl⟩, rfl, rfl, ⟨rfl, rfl, rfl, rfl, by decide, by decide⟩⟩
  intro h; cases h
theorem witness_ValueFrame : Canon (stA {}) ∧ valueDest (.add 1 2 3 false) = some 1 ∧ floatDest (.fadd 1 2 3 0 0) = some 1 ∧
    (∃ t, exec (.add 1 2 3 false) (stA {}) = .next t) ∧ ∃ t, exec (.fadd 1 2 3 0 0) (stA {}) = .next t :=
  ⟨stA_canon, rfl, rfl, ⟨_, rfl⟩, ⟨_, rfl⟩⟩
theorem witness_OnlyNamedRegisters : Canon (stA {}) ∧ decode 0x00642800 = .ok (.add 3 4 5 false) ∧
    ∃ t, exec (.add 3 4 5 false) (stA {}) = .next t := ⟨stA_canon, rfl, _, rfl⟩
theorem witness_SystemModeByTrap :
    let s : State := { stA {} with tiles := [(0, { hrBase := 1, hrLimit := 2, core := { tvec := 124, firing := some {} } })] }
    Canon s ∧ decode 0xE8001230 = .ok (.trap 0x123) ∧ s.core.sys = false ∧
    ∃ t, exec (.trap 0x123) s = .next t ∧ (t.tile s.focus).core.sys = true :=
  ⟨canon_of_tile _ _ (by decide) rfl (by decide) (by decide) (by decide) (by decide), rfl, rfl, _, rfl, rfl⟩
theorem witness_MemoryReadsBack : Memory.wf State.reset.mem ∧ swf (0 : Byte) ({} : Tile).spad = true := by decide
theorem witness_StepKeepsMemoryForm : Memory.wf State.reset.mem ∧ ∃ t, step State.reset = .next t := ⟨by decide, _, rfl⟩
theorem witness_FloatCompareAndSign : fld 0x08642858 26 6 = 2 ∧ (fld 0x08642858 0 6).toNat ∈ [0x18, 0x19, 0x1A] ∧ fld 0x08642858 6 2 ≠ 0 := by
  decide

/-! ### Single instructions, with results worked by hand from the spec's text -/

/-- Registers g1 and g2 of the running task. -/
def stR2 (a b : Dw) : State :=
  { stA {} with tiles := [(0, { core := { g := [(1, a), (2, b)], firing := some { region := 0, actor := 0 } } })] }
/-- g3 after an instruction. -/
def g3 (i : Instr) (s : State) : Option Dw := match exec i s with | .next t => some (t.reg 3) | _ => none

/-- R312: ADD wraps; the 32-bit form sign-extends. -/
theorem test_add : g3 (.add 3 1 2 false) (stR2 0xFFFFFFFFFFFFFFFF 2) = some 1 ∧
    g3 (.add 3 1 2 true) (stR2 0x7FFFFFFF 1) = some 0xFFFFFFFF80000000 := by decide
/-- R312: a shift takes its amount modulo the width. -/
theorem test_shifts : g3 (.shl 3 1 2 false) (stR2 1 65) = some 2 ∧ g3 (.sar 3 1 2 true) (stR2 0x80000000 4) = some 0xFFFFFFFFF8000000 ∧
    g3 (.rotr 3 1 2 true) (stR2 0x12345678 8) = some 0x78123456 := by decide
/-- R312: the count of x = 0 is the width. -/
theorem test_counts : g3 (.clz 3 1 true) (stR2 0 0) = some 32 ∧ g3 (.ctz 3 1 false) (stR2 8 0) = some 3 ∧
    g3 (.popc 3 1 false) (stR2 0xFF 0) = some 8 := by decide
/-- R391: MULH of −1 by −1, MULHU of 2⁶⁴ − 1 by itself. -/
theorem test_mulh : g3 (.mulh 3 1 2 false) (stR2 0xFFFFFFFFFFFFFFFF 0xFFFFFFFFFFFFFFFF) = some 0 ∧
    g3 (.mulhu 3 1 2 false) (stR2 0xFFFFFFFFFFFFFFFF 0xFFFFFFFFFFFFFFFF) = some 0xFFFFFFFFFFFFFFFE := by decide
/-- R345: a zero divisor, and the most negative number by −1. -/
theorem test_div : g3 (.div 3 1 2 false) (stR2 7 0) = some 0xFFFFFFFFFFFFFFFF ∧ g3 (.rem 3 1 2 false) (stR2 7 0) = some 7 ∧
    g3 (.div 3 1 2 false) (stR2 0x8000000000000000 0xFFFFFFFFFFFFFFFF) = some 0x8000000000000000 ∧
    g3 (.div 3 1 2 false) (stR2 0xFFFFFFFFFFFFFFF9 2) = some 0xFFFFFFFFFFFFFFFD := by decide
/-- R350: the worked example, ga = 0xABCD00, pos 8, len 12. -/
theorem test_bit_fields : g3 (.extu 3 1 2) (stR2 0xABCD00 0xC08) = some 0xBCD ∧
    g3 (.exts 3 1 2) (stR2 0xABCD00 0xC08) = some 0xFFFFFFFFFFFFFBCD := by decide
/-- R314, R372: the immediate is sign-extended; LDHI of 0x8000 is negative. -/
theorem test_immediates : g3 (.addi 3 1 0xFFFF) (stR2 0 0) = some 0xFFFFFFFFFFFFFFFF ∧
    g3 (.ldhi 3 0x8000) (stR2 0 0) = some 0xFFFFFFFF80000000 := by decide
/-- R353, R358 on FP32: 1 + 1 = 2, 3 × 1.5 = 4.5. -/
theorem test_float : g3 (.fadd 3 1 2 0 0) (stR2 0x3F800000 0x3F800000) = some 0x40000000 ∧
    g3 (.fmul 3 1 2 0 0) (stR2 0x40400000 0x3FC00000) = some 0x40900000 := by decide
/-- R366: the worked example, a JTAB at 0x200 with its table at 0x300. -/
theorem test_jtab :
    let s (i : Dw) : State := { stA {} with tiles := [(0, {
      spad := [(0x300, 3), (0x302, 0x20), (0x304, 4), (0x308, 8), (0x30C, 12)]
      core := { pc := 0x200, g := [(1, 0x300), (2, i)], firing := some { region := 0, actor := 0 } } })] }
    (match exec (.jtab 1 2) (s 1) with | .next t => t.core.pc | _ => 0) = 0x220 ∧
    (match exec (.jtab 1 2) (s 5) with | .next t => t.core.pc | _ => 0) = 0x280 := by decide
/-- R322: the worked example, `bne g1, g0, back` at 0x104. -/
theorem test_branch : (match exec (.br 1 1 0 0x1FFD) { stA {} with tiles := [(0, {
      core := { pc := 0x104, g := [(1, 1)], firing := some { region := 0, actor := 0 } } })] } with
    | .next t => t.core.pc
    | _ => 0) = 0xF8 := by decide
/-- R373: STL writes little-endian bytes, LDL sign-extends. -/
theorem test_local :
    let s : State := { stA { locL := 64 } with tiles := [(0, { spad := [(8, 0xFE), (9, 0xFF)], core := {
      g := [(1, 0x1234)], firing := some { region := 0, actor := 0 } } })] }
    g3 (.ldl 3 0 1 true 8) s = some 0xFFFFFFFFFFFFFFFE ∧
    (match exec (.stl 1 0 1 16) s with | .next t => (t.tile 0).bytes 16 3 | _ => []) = [0x34, 0x12, 0] := by decide
/-- R218, R217: TRAP 0x123 in a task. -/
theorem test_trap :
    let s : State := { stA {} with tiles := [(0, { hrBase := 1, hrLimit := 2, core := {
      pc := 8, tvec := 64, firing := some { region := 0, actor := 0, cls := 2 } } })] }
    (match exec (.trap 0x123) s with
      | .next t => (t.core.tcause, t.core.tepc, t.core.tval, t.core.tstat, t.core.sys, t.core.pc)
      | _ => (0, 0, 0, 0, false, 0)) = (9, 8, 0x123, 0b001100, true, 64) := by decide

end Sys2Proof.Tests
end

namespace Sys2Proof.Machine

/-! ## Outcomes and memory

What an operation makes of memory, said of every way it can end: `OptMem`, `ExcMem` and `ResMem` say that a predicate holds of
the memory of the state it ends in, if it ends in one. They follow the shape of the model's operations (`map`, `bind`, folds). -/

/-- The memory of the state that an operation ends in, where it ends in one, satisfies `P`. -/
def OptMem (P : List Host.Cell → Prop) (o : Option State) : Prop := ∀ t, o = some t → P t.mem

/-- The same of an operation that may refuse with a reason. -/
def ExcMem {ε : Type} (P : List Host.Cell → Prop) (o : Except ε State) : Prop := ∀ t, o = .ok t → P t.mem

/-- The same of an instruction or event. -/
def ResMem (P : List Host.Cell → Prop) (o : Res) : Prop := ∀ t, o = .next t → P t.mem

variable {P : List Host.Cell → Prop}

@[simp] theorem optMem_none : OptMem P none := fun _ e => by cases e
@[simp] theorem optMem_some (s : State) : OptMem P (some s) ↔ P s.mem := by simp [OptMem]
@[simp] theorem excMem_error {ε : Type} (e : ε) : ExcMem P (.error e) := fun _ e => by cases e
@[simp] theorem excMem_ok {ε : Type} (s : State) : ExcMem P (.ok s : Except ε State) ↔ P s.mem := by simp [ExcMem]
@[simp] theorem resMem_next (s : State) : ResMem P (.next s) ↔ P s.mem := by simp [ResMem]
@[simp] theorem resMem_fault (r : Fault) : ResMem P (.fault r) := fun _ e => by cases e
theorem OptMem.map {o : Option State} {f : State → State} (h : OptMem P o) (hf : ∀ t, P t.mem → P (f t).mem) :
    OptMem P (o.map f) := by
  cases o with
  | none => exact optMem_none
  | some t => exact (optMem_some _).2 (hf t (h t rfl))

theorem OptMem.bind {o : Option State} {f : State → Option State} (h : OptMem P o)
    (hf : ∀ t, P t.mem → OptMem P (f t)) : OptMem P (o.bind f) := by
  cases o with
  | none => exact optMem_none
  | some t => exact hf t (h t rfl)

theorem OptMem.getD {o : Option State} {d : State} (h : OptMem P o) (hd : P d.mem) : P (o.getD d).mem := by
  cases o with
  | none => exact hd
  | some t => exact h t rfl

theorem OptMem.getD_eq {m : List Host.Cell} {o : Option State} {d : State} (h : OptMem (· = m) o) (hd : d.mem = m) :
    (o.getD d).mem = m := OptMem.getD (P := (· = m)) h hd

theorem OptMem.orElse {o : Option State} {f : Unit → Option State} (h : OptMem P o) (hf : OptMem P (f ())) :
    OptMem P (o.orElse f) := by
  cases o with
  | none => exact hf
  | some t => exact h

theorem optMem_bind {α : Type} {o : Option α} {f : α → Option State} (hf : ∀ x, OptMem P (f x)) : OptMem P (o.bind f) := by
  cases o with
  | none => exact optMem_none
  | some x => exact hf x

theorem optMem_map {α : Type} {o : Option α} {f : α → State} (hf : ∀ x, P (f x).mem) : OptMem P (o.map f) := by
  cases o with
  | none => exact optMem_none
  | some x => exact (optMem_some _).2 (hf x)

theorem optMem_findSome? {α : Type} {f : α → Option State} (hf : ∀ x, OptMem P (f x)) (l : List α) :
    OptMem P (l.findSome? f) := by
  intro t e
  obtain ⟨x, -, hx⟩ := List.exists_of_findSome?_eq_some e
  exact hf x t hx

/-- An update that each element of a list makes keeps what holds of memory when each of them does. -/
theorem State.foldl_keeps {β : Type} (f : State → β → State) (hf : ∀ s x, P s.mem → P (f s x).mem) (l : List β) (s : State)
    (h : P s.mem) : P (l.foldl f s).mem :=
  List.foldlRecOn l f h fun u hu x _ => hf u x hu

/-- An update that each element of a list makes leaves memory alone when each of them does. -/
theorem State.foldl_mem {β : Type} (f : State → β → State) (hf : ∀ s x, (f s x).mem = s.mem) (l : List β) (s : State) :
    (l.foldl f s).mem = s.mem :=
  State.foldl_keeps (P := (· = s.mem)) f (fun u x h => (hf u x).trans h) l s rfl

@[simp] theorem State.mem_ite (c : Prop) [Decidable c] (s t : State) :
    (if c then s else t).mem = if c then s.mem else t.mem := apply_ite State.mem c s t

/-- What holds of the state in a pair holds of it under the name that a match gives it. -/
theorem fst_mem {α : Type} {p : State × α} {s : State} {x : α} (h : P p.1.mem) (e : p = (s, x)) : P s.mem := by
  subst e
  exact h

/-- `ExcMem` for an operation that answers something beside the state. -/
def ExcFst {ε α : Type} (P : List Host.Cell → Prop) (o : Except ε (State × α)) : Prop := ∀ p, o = .ok p → P p.1.mem

@[simp] theorem excFst_error {ε α : Type} (e : ε) : ExcFst P (.error e : Except ε (State × α)) := fun _ e => by cases e
@[simp] theorem excFst_ok {ε α : Type} (p : State × α) : ExcFst P (.ok p : Except ε (State × α)) ↔ P p.1.mem := by
  simp [ExcFst]

theorem ExcFst.map {ε α β : Type} {o : Except ε (State × α)} {f : State × α → State × β} (h : ExcFst P o)
    (hf : ∀ p, P p.1.mem → P (f p).1.mem) : ExcFst P (o.map f) := by
  cases o with
  | error e => exact excFst_error e
  | ok p => exact (excFst_ok _).2 (hf p (h p rfl))

theorem excMem_foldl {ε β : Type} {f : Except ε State → β → Except ε State} (hf : ∀ o x, ExcMem P o → ExcMem P (f o x))
    (l : List β) (o : Except ε State) (h : ExcMem P o) : ExcMem P (l.foldl f o) :=
  List.foldlRecOn l f h fun o ho x _ => hf o x ho

/-- `State.foldl_keeps` for an update that carries something beside the state. -/
theorem foldl_fst_keeps {β γ : Type} (f : State × γ → β → State × γ) (hf : ∀ u x, P u.1.mem → P (f u x).1.mem) (l : List β)
    (u : State × γ) (h : P u.1.mem) : P (l.foldl f u).1.mem :=
  List.foldlRecOn l f h fun u hu x _ => hf u x hu

theorem foldl_fst_mem {β γ : Type} (f : State × γ → β → State × γ) (hf : ∀ u x, (f u x).1.mem = u.1.mem) (l : List β)
    (u : State × γ) : (l.foldl f u).1.mem = u.1.mem :=
  foldl_fst_keeps (P := (· = u.1.mem)) f (fun v x h => (hf v x).trans h) l u rfl

end Sys2Proof.Machine

namespace Sys2Proof.Machine

/-! ## Operations that leave memory alone

One lemma for each operation of the model that writes no byte: `State.<name>_mem`, an equation, where it answers a state, and
`State.optMem_<name>`, for every predicate on memory, where it may do nothing. A proof walks the branches of the definition and
closes each by the lemmas on the operations it is made of, so the order is the model's own. -/

variable {P : List Host.Cell → Prop}

/-! ### Accesses -/

@[simp] theorem resMem_occur {s : State} {o : Option State} (h : P s.mem) (hs : OptMem P o) : ResMem P (occur s o) :=
  (resMem_next _).2 (hs.getD h)

@[simp] theorem State.free_mem (s : State) : s.free.2.mem = s.mem := by
  simp [State.free]

@[simp] theorem resMem_retire {s : State} {d : Reg} {v : Dw} (h : P s.mem) : ResMem P (retire s d v) := by
  simp [retire, h]

/-! ### Memory -/

@[simp] theorem State.poisonLine_mem (s : State) (line : Nat) : (s.poisonLine line).mem = s.mem := by
  simp [State.poisonLine]

@[simp] theorem State.setEntry_mem (s : State) (e : Nat) (v : Dw) : (s.setEntry e v).mem = s.mem := by
  simp [State.setEntry]

@[simp] theorem State.optMem_invalidate {s : State} {keep : Option Nat} {lines : List Nat} (h : P s.mem) :
    OptMem P (s.invalidate keep lines) := by
  unfold State.invalidate
  split <;> simp [h]

@[simp] theorem State.share_mem (s : State) (tile : Nat) (pas : List Nat) : (s.share tile pas).mem = s.mem :=
  State.foldl_mem _ (fun _ _ => by rfl) _ s

@[simp] theorem State.fill_mem (s : State) (tile asid : Nat) (va : Dw) (pas : List Nat) :
    (s.fill tile asid va pas).mem = s.mem := by
  unfold State.fill
  split <;> simp

/-! ### Tokens -/

@[simp] theorem State.sendOn_mem (s : State) (r a p : Nat) (kind : BitVec 4) (payload : List Dw) (deps : List Dep) :
    (s.sendOn r a p kind payload deps).mem = s.mem := by
  unfold State.sendOn
  repeat' split
  all_goals simp

@[simp] theorem State.sendEos_mem (s : State) (r a p : Nat) (err : Bool) : (s.sendEos r a p err).mem = s.mem := by
  simp [State.sendEos]

@[simp] theorem State.sendAll_mem (s : State) (r a : Nat) (kind : BitVec 4) (payload : List Dw) (l : List Nat) :
    (s.sendAll r a kind payload l).mem = s.mem := by
  induction l generalizing s with
  | nil => rfl
  | cons p l ih => simp [State.sendAll, ih]

@[simp] theorem State.eosAll_mem (s : State) (r a : Nat) (err : Bool) (l : List Nat) : (s.eosAll r a err l).mem = s.mem := by
  induction l generalizing s with
  | nil => rfl
  | cons p l ih => simp [State.eosAll, ih]

@[simp] theorem State.optMem_feed {s : State} {r : Nat} {payload : List Dw} (h : P s.mem) : OptMem P (s.feed r payload) := by
  unfold State.feed
  dsimp only
  repeat' split
  all_goals simp [h]

@[simp] theorem State.optMem_trySendError {s : State} {r a : Nat} {payload : List Dw} (h : P s.mem) :
    OptMem P (s.trySendError r a payload) := by
  unfold State.trySendError
  repeat' split
  all_goals simp [h]

@[simp] theorem State.sendError_mem (s : State) (r a : Nat) (payload : List Dw) : (s.sendError r a payload).mem = s.mem := by
  have ho : OptMem (· = s.mem) (s.trySendError r a payload) := State.optMem_trySendError rfl
  unfold State.sendError
  dsimp only
  repeat' split
  · exact ho.getD_eq (by simp)
  · simp
  · exact ho.getD_eq rfl

@[simp] theorem State.errorAt_mem (s : State) (r a chan info code : Nat) (detail : Dw) :
    (s.errorAt r a chan info code detail).mem = s.mem := by
  unfold State.errorAt
  repeat' split
  all_goals simp

@[simp] theorem State.divert_mem (s : State) (r a chan entry : Nat) (d : Dw) : (s.divert r a chan entry d).mem = s.mem := by
  unfold State.divert
  dsimp only
  repeat' split
  · exact OptMem.getD_eq (State.optMem_feed rfl) (by simp)
  · simp
  · rfl

@[simp] theorem State.feedError_mem (s : State) (r tile slot chan info code : Nat) (detail : Dw) :
    (s.feedError r tile slot chan info code detail).mem = s.mem := by
  unfold State.feedError
  dsimp only
  repeat' split
  · rfl
  · exact OptMem.getD_eq (State.optMem_feed rfl) (by simp)
  · simp

/-! ### Operations on memory and traps -/

@[simp] theorem State.readMesh_mem (s : State) (r : Nat) : (s.readMesh r).mem = s.mem := by
  unfold State.readMesh
  repeat' split
  all_goals simp

@[simp] theorem State.dropWork_mem (s : State) (r : Nat) : (s.dropWork r).mem = s.mem := by
  simp [State.dropWork]

@[simp] theorem State.modStopped_mem (s : State) (r : Nat) (f : Head → Head) (e : Session → Session) :
    (s.modStopped r f e).mem = s.mem := by
  simp [State.modStopped]

@[simp] theorem State.resumeDisplay_mem (s : State) (r : Nat) : (s.resumeDisplay r).mem = s.mem := by
  simp [State.resumeDisplay]

/-! ### Elements -/

@[simp] theorem State.optMem_framing {s : State} {r a p : Nat} (h : P s.mem) : OptMem P (s.framing r a p) := by
  unfold State.framing
  dsimp only
  repeat' split
  all_goals simp [h]

/-! ### Operands -/

@[simp] theorem State.csrWrite_mem (s : State) (n : Nat) (v : Dw) : (s.csrWrite n v).mem = s.mem := by
  unfold State.csrWrite
  repeat' split
  all_goals simp

/-! ### Firings -/

@[simp] theorem State.freeDws_mem (s : State) (n : Nat) : (s.freeDws n).2.mem = s.mem := by
  induction n generalizing s with
  | zero => rfl
  | succ n ih => simp [State.freeDws, State.free, ih]

@[simp] theorem State.refreshSlots_mem (s : State) (t : Nat) (l : List Nat) : (s.refreshSlots t l).mem = s.mem := by
  induction l generalizing s with
  | nil => rfl
  | cons k l ih =>
    unfold State.refreshSlots
    repeat' split
    all_goals simp [ih]

@[simp] theorem State.refresh_mem (s : State) (r : Nat) : (s.refresh r).mem = s.mem := by
  unfold State.refresh
  split
  · rfl
  · simp [State.foldl_mem]

@[simp] theorem resMem_occurIn {s : State} {r : Nat} {o : Option State} (h : P s.mem) (hs : OptMem P o) :
    ResMem P (occurIn s r o) :=
  (resMem_next _).2 ((hs.map fun t ht => by rwa [State.refresh_mem]).getD h)

@[simp] theorem State.retireRunning_mem (s : State) (consume : Bool) : (s.retireRunning consume).mem = s.mem := by
  unfold State.retireRunning
  split <;> simp

/-! ### Graphs -/

@[simp] theorem State.optMem_nullAt {s : State} {r a : Nat} {g : Region} {x : Actor} {p : Nat} (h : P s.mem) :
    OptMem P (s.nullAt r a g x p) := by
  unfold State.nullAt
  dsimp only
  repeat' split
  all_goals simp [h]

@[simp] theorem State.optMem_nullStep {s : State} {r a : Nat} (h : P s.mem) : OptMem P (s.nullStep r a) := by
  unfold State.nullStep
  repeat' split
  any_goals exact optMem_none
  exact optMem_findSome? (fun _ => State.optMem_nullAt h) _

@[simp] theorem State.flushLane_mem (s : State) (x : Actor) (l : LaneSeg) : (s.flushLane x l).mem = s.mem := by
  simp [State.flushLane]

@[simp] theorem State.optMem_eosJoinAt {s : State} {r a : Nat} {g : Region} {x : Actor} {p : Nat} (h : P s.mem) :
    OptMem P (s.eosJoinAt r a g x p) := by
  unfold State.eosJoinAt
  repeat' split
  all_goals simp [h]

@[simp] theorem State.optMem_eosStep {s : State} {r a : Nat} (h : P s.mem) : OptMem P (s.eosStep r a) := by
  unfold State.eosStep
  repeat' split
  any_goals exact optMem_none
  exact optMem_findSome? (fun _ => State.optMem_eosJoinAt h) _

@[simp] theorem State.optMem_shapeDrop {s : State} {r a : Nat} {g : Region} {x : Actor} {p : Nat} (h : P s.mem) :
    OptMem P (s.shapeDrop r a g x p) := by
  unfold State.shapeDrop
  dsimp only
  repeat' split
  all_goals simp [h]

@[simp] theorem State.optMem_shapeAt {s : State} {r a : Nat} {g : Region} {x : Actor} {p : Nat} (h : P s.mem) :
    OptMem P (s.shapeAt r a g x p) := by
  unfold State.shapeAt
  repeat' split
  all_goals simp [h]

@[simp] theorem State.optMem_shapeStep {s : State} {r a : Nat} (h : P s.mem) : OptMem P (s.shapeStep r a) := by
  unfold State.shapeStep
  repeat' split
  any_goals exact optMem_none
  · next s1 e =>
    exact (optMem_some s1).2 (optMem_findSome? (fun _ => State.optMem_shapeDrop h) _ s1 e)
  · refine optMem_findSome? (fun p => ?_) _
    repeat' split
    all_goals simp [h]

@[simp] theorem State.optMem_errorStep {s : State} {r a : Nat} {g : Region} {x : Actor} {ins outs : List Nat}
    (h : P s.mem) : OptMem P (s.errorStep r a g x ins outs) := by
  unfold State.errorStep
  repeat' split
  all_goals simp [h]

@[simp] theorem State.optMem_headerStep {s : State} {r a : Nat} {g : Region} {x : Actor} {ins outs : List Nat}
    (h : P s.mem) : OptMem P (s.headerStep r a g x ins outs) := by
  unfold State.headerStep
  dsimp only
  repeat' split
  all_goals simp [h]

@[simp] theorem State.divertCall_mem (s : State) (r a chan : Nat) (t : Token) : (s.divertCall r a chan t).mem = s.mem := by
  simp [State.divertCall]

@[simp] theorem State.passOn_mem (s : State) (r a p : Nat) (t : Token) : (s.passOn r a p t).mem = s.mem := by
  simp [State.passOn]

@[simp] theorem State.mergeHeads_mem (s : State) (r a : Nat) (x : Actor) (ins : List Nat) :
    (s.mergeHeads r a x ins).mem = s.mem := by
  unfold State.mergeHeads
  dsimp only
  repeat' split
  all_goals simp

@[simp] theorem State.optMem_orderedMerge {s : State} {r a : Nat} (h : P s.mem) : OptMem P (s.orderedMerge r a) := by
  unfold State.orderedMerge
  dsimp only
  repeat' split
  any_goals simp [h]
  next s1 e => exact State.optMem_errorStep h s1 e

@[simp] theorem State.optMem_arrivalMerge {s : State} {r a p : Nat} (h : P s.mem) : OptMem P (s.arrivalMerge r a p) := by
  unfold State.arrivalMerge
  dsimp only
  repeat' split
  all_goals simp [h]

@[simp] theorem State.optMem_collect {s : State} {r a p : Nat} (h : P s.mem) : OptMem P (s.collect r a p) := by
  unfold State.collect
  dsimp only
  repeat' split
  all_goals simp [h]

@[simp] theorem State.optMem_indexEmit {s : State} {r a : Nat} (h : P s.mem) : OptMem P (s.indexEmit r a) := by
  unfold State.indexEmit
  repeat' split
  all_goals simp [h]

@[simp] theorem State.optMem_counterEos {s : State} {r a : Nat} (h : P s.mem) : OptMem P (s.counterEos r a) := by
  unfold State.counterEos
  repeat' split
  all_goals simp [h]

@[simp] theorem State.optMem_enableStep {s : State} {r k : Nat} (h : P s.mem) : OptMem P (s.enableStep r k) := by
  unfold State.enableStep
  repeat' split
  all_goals simp [h]

@[simp] theorem State.optMem_callStep {s : State} {r k : Nat} (h : P s.mem) : OptMem P (s.callStep r k) := by
  unfold State.callStep
  dsimp only
  repeat' split
  all_goals simp [h]

@[simp] theorem State.optMem_heldStep {s : State} {r a : Nat} (h : P s.mem) : OptMem P (s.heldStep r a) := by
  unfold State.heldStep
  dsimp only
  split
  · exact optMem_none
  · split
    · refine OptMem.orElse ?_ ?_
      · split
        · exact optMem_none
        · exact (State.optMem_trySendError h).map fun t ht => by simpa using ht
      · split
        · exact optMem_none
        · exact (State.optMem_feed h).map fun t ht => by simpa using ht
    · split
      · exact optMem_none
      · exact (State.optMem_feed h).map fun t ht => by simpa using ht

/-! ### Commands -/

@[simp] theorem State.commandError_mem (s : State) (r issuer tile slot info code : Nat) (w : BitVec 128) :
    (s.commandError r issuer tile slot info code w).mem = s.mem := by
  unfold State.commandError
  split <;> simp

@[simp] theorem State.settleRefused_mem (s : State) (r : Nat) (w : BitVec 128) (bytes : Nat) :
    (s.settleRefused r w bytes).mem = s.mem := by
  simp [State.settleRefused]

theorem State.optMem_withCommand {s : State} {r a op : Nat} {accepts : Nat → Bool} {count : Region → Nat → BitVec 128 → Nat}
    {run : State → Region → Actor → Nat → Nat → BitVec 128 → Bool → Option State} (h : P s.mem)
    (hr : ∀ g x i b w fo, OptMem P (run s g x i b w fo)) : OptMem P (s.withCommand r a op accepts count run) := by
  unfold State.withCommand
  dsimp only
  repeat' split
  any_goals simp [h]
  exact hr _ _ _ _ _ _

@[simp] theorem State.spendGrant_mem (s : State) (r issuer by_ n : Nat) : (s.spendGrant r issuer by_ n).mem = s.mem := by
  unfold State.spendGrant
  split <;> simp

@[simp] theorem State.optMem_chargeCommand {s : State} {r issuer by_ n : Nat} (h : P s.mem) :
    OptMem P (s.chargeCommand r issuer by_ n) := by
  unfold State.chargeCommand
  dsimp only
  repeat' split
  all_goals simp [h]

/-! ### Global memory -/

@[simp] theorem State.fenceHere_mem (s : State) (sc : Scope) (o : Order) : (s.fenceHere sc o).mem = s.mem := by
  simp [State.fenceHere]

@[simp] theorem State.pushAccess_mem (s : State) (acc : Access) : (s.pushAccess acc).mem = s.mem := by
  simp [State.pushAccess]

@[simp] theorem State.takeCredit_mem (s : State) (p : Port) : (s.takeCredit p).mem = s.mem := by
  simp [State.takeCredit]

@[simp] theorem State.noCredit_mem (s : State) (k : ReqKind) (va : Dw) : (s.noCredit k va).mem = s.mem := by
  simp [State.noCredit]

/-! ### Placed graphs -/

@[simp] theorem State.orphan_mem (s : State) (r : Nat) (g : Region) : (s.orphan r g).mem = s.mem := by
  simp [State.orphan]

@[simp] theorem State.unplace_mem (s : State) (r : Nat) : (s.unplace r).mem = s.mem := by
  unfold State.unplace
  split
  · rfl
  · refine (State.foldl_mem _ (fun _ _ => by rfl) _ _).trans ?_
    simp

@[simp] theorem State.stopDisplay_mem (s : State) (r : Nat) (g : Region) : (s.stopDisplay r g).mem = s.mem := by
  unfold State.stopDisplay
  refine (State.foldl_mem _ (fun _ _ => by rfl) _ _).trans ?_
  exact State.foldl_mem _ (fun _ _ => by rfl) _ _

@[simp] theorem State.restoreDisplay_mem (s : State) (slice : Nat) (k : Kept) (moved : Nat → Nat → Option Nat) :
    (s.restoreDisplay slice k moved).mem = s.mem := by
  unfold State.restoreDisplay
  refine (State.foldl_mem _ (fun _ _ => by split <;> rfl) _ _).trans ?_
  refine (State.foldl_mem _ (fun _ _ => by split <;> rfl) _ _).trans ?_
  exact State.modStopped_mem ..

@[simp] theorem State.withdraw_mem (s : State) (r : Nat) : (s.withdraw r).mem = s.mem := by
  refine State.foldl_mem _ (fun s d => ?_) _ _
  dsimp only [State.free]
  repeat' split
  all_goals rfl

/-! ### Memory events -/

@[simp] theorem State.setAccess_mem (s : State) (tile k : Nat) (a : Access) : (s.setAccess tile k a).mem = s.mem := by
  simp [State.setAccess]

@[simp] theorem State.dropAccess_mem (s : State) (tile k : Nat) : (s.dropAccess tile k).mem = s.mem := by
  simp [State.dropAccess]

@[simp] theorem State.optMem_flushHeld {s : State} {r a : Nat} (h : P s.mem) : OptMem P (s.flushHeld r a) := by
  unfold State.flushHeld
  repeat' split
  any_goals exact optMem_none
  refine optMem_map fun q => ?_
  dsimp only
  split <;> simpa using h

@[simp] theorem State.deliverElem_mem (s : State) (r a pos : Nat) (kind : BitVec 4) (payload : List Dw) (va : Dw)
    (deps : List Dep) : (s.deliverElem r a pos kind payload va deps).mem = s.mem := by
  unfold State.deliverElem
  exact OptMem.getD_eq (State.optMem_flushHeld (by simp)) (by simp)

@[simp] theorem State.settleRel_mem (s : State) (tile : Nat) (a : Access) (wrote : Bool) :
    (s.settleRel tile a wrote).mem = s.mem := by
  simp [State.settleRel]

@[simp] theorem State.failAccess_mem (s : State) (tile k : Nat) (a : Access) (code : Nat) (detail : Dw) :
    (s.failAccess tile k a code detail).mem = s.mem := by
  unfold State.failAccess
  repeat' split
  all_goals simp

@[simp] theorem State.pickUnit_mem (s : State) (pas left : List Nat) : (s.pickUnit pas left).2.mem = s.mem := by
  unfold State.pickUnit
  dsimp only
  repeat' split
  all_goals simp

@[simp] theorem State.passDeps_mem (s : State) (tile : Nat) (a : Access) (l : List Dep) : (s.passDeps tile a l).mem = s.mem := by
  simp [State.passDeps]

@[simp] theorem State.answerNow_mem (s : State) (tile k : Nat) (a : Access) (payload : List Dw) (deps : List Dep) :
    (s.answerNow tile k a payload deps).mem = s.mem := by
  simp [State.answerNow]

@[simp] theorem State.answerGets_mem (s : State) (pa : Nat) (v : Dw) (tile : Nat) (put : Access) :
    (s.answerGets pa v tile put).mem = s.mem := by
  unfold State.answerGets
  refine State.foldl_mem _ (fun u d => ?_) _ _
  dsimp only
  repeat' split
  all_goals simp

@[simp] theorem State.optMem_deliver {s : State} {tile k : Nat} {a : Access} {t : Token} (h : P s.mem) :
    OptMem P (s.deliver tile k a t) := by
  unfold State.deliver
  dsimp only
  repeat' split
  all_goals simp [h]

@[simp] theorem State.metaTold_mem (s : State) (pas : List Nat) : (s.metaTold pas).mem = s.mem := by
  simp [State.metaTold]

@[simp] theorem State.loseLines_mem (s : State) (pas : List Nat) : (s.loseLines pas).mem = s.mem :=
  State.foldl_mem _ (fun _ _ => by rfl) _ s

@[simp] theorem State.optMem_metaAccess {s : State} {tile k : Nat} {a : Access} (h : P s.mem) :
    OptMem P (s.metaAccess tile k a) := by
  unfold State.metaAccess
  repeat' split
  all_goals simp [h]

@[simp] theorem State.resetDie_mem (s : State) (die : Nat) : (s.resetDie die).mem = s.mem := by
  unfold State.resetDie
  rw [State.modDie_mem]
  exact State.foldl_mem _ (fun _ _ => by rfl) _ _

/-! ### Abaci -/

@[simp] theorem State.modAbacus_mem (s : State) (r a : Nat) (f : Abacus → Abacus) : (s.modAbacus r a f).mem = s.mem := by
  simp [State.modAbacus]

@[simp] theorem State.abRequest_mem (s : State) (op : Nat) (va target : Dw) (clear : Bool) (o : Owed) :
    (s.abRequest op va target clear o).mem = s.mem := by
  unfold State.abRequest
  dsimp only
  repeat' split
  all_goals simp

@[simp] theorem State.configDone_mem (s : State) (r a : Nat) (p : Option Plane) : (s.configDone r a p).mem = s.mem := by
  simp [State.configDone]

@[simp] theorem State.configRefused_mem (s : State) (r a : Nat) (x : Actor) (g : Region) (va : Dw) (status : Nat) :
    (s.configRefused r a x g va status).mem = s.mem := by
  simp [State.configRefused]

@[simp] theorem State.abRefuse_mem (s : State) (r a : Nat) (g : Region) (x : Actor) (va : Dw) (status : Nat) (d1 : Dw) :
    (s.abRefuse r a g x va status d1).mem = s.mem := by
  unfold State.abRefuse
  dsimp only
  repeat' split
  all_goals simp

@[simp] theorem State.optMem_abSwaps {s : State} {r a : Nat} (h : P s.mem) : OptMem P (s.abSwaps r a) := by
  unfold State.abSwaps
  repeat' split
  all_goals simp [h]

@[simp] theorem State.optMem_abConfig {s : State} {r a : Nat} (h : P s.mem) : OptMem P (s.abConfig r a) := by
  unfold State.abConfig
  dsimp only
  repeat' split
  any_goals simp [h]
  exact optMem_map fun c => by simpa using h

@[simp] theorem State.abData_mem (s : State) (r a : Nat) (g : Region) (x : Actor) (b : Abacus) (t : Token) :
    (s.abData r a g x b t).mem = s.mem := by
  simp [State.abData]

@[simp] theorem State.optMem_abInput {s : State} {r a : Nat} (h : P s.mem) : OptMem P (s.abInput r a) := by
  unfold State.abInput
  dsimp only
  repeat' split
  any_goals simp [h]
  next s1 e => exact State.optMem_framing h s1 e

@[simp] theorem State.optMem_abOutput {s : State} {r a : Nat} (h : P s.mem) : OptMem P (s.abOutput r a) := by
  unfold State.abOutput
  repeat' split
  all_goals simp [h]

/-! ### Flags -/

@[simp] theorem State.addFlags_mem (s : State) (f : Flags) : (s.addFlags f).mem = s.mem := by
  simp [State.addFlags]

@[simp] theorem resMem_retireFloat {s : State} {d : Reg} {r : Nat × Flags} (h : P s.mem) : ResMem P (retireFloat s d r) := by
  simp [retireFloat, h]

/-! ### Scalar arithmetic -/

@[simp] theorem resMem_alu {s : State} {d a b : Reg} {w : Bool} {f : (n : Nat) → BitVec n → BitVec n → BitVec n}
    (h : P s.mem) : ResMem P (alu s d a b w f) := by
  simp [alu, h]

@[simp] theorem resMem_aluImm {s : State} {d a : Reg} {w : Bool} {i : BitVec 6}
    {f : (n : Nat) → BitVec n → BitVec n → BitVec n} (h : P s.mem) : ResMem P (aluImm s d a w i f) := by
  simp [aluImm, h]

/-! ### Barriers -/

@[simp] theorem State.barComplete_mem (s : State) (r slot : Nat) : (s.barComplete r slot).mem = s.mem := by
  unfold State.barComplete
  split <;> simp

@[simp] theorem State.barSet_mem (s : State) (r slot : Nat) (n : Dw) (target : Nat) (entry : BitVec 4) :
    (s.barSet r slot n target entry).mem = s.mem := by
  unfold State.barSet
  dsimp only
  repeat' split
  all_goals simp

@[simp] theorem State.barAdd_mem (s : State) (r slot : Nat) (n : Dw) : (s.barAdd r slot n).mem = s.mem := by
  unfold State.barAdd
  split <;> simp

@[simp] theorem State.barSub_mem (s : State) (r slot n : Nat) (failed : Bool) (code : Byte) :
    (s.barSub r slot n failed code).mem = s.mem := by
  unfold State.barSub
  split <;> simp

/-! ### Tensors -/

@[simp] theorem State.setCmd_mem (s : State) (k : Nat) (c : Cmd) : (s.setCmd k c).mem = s.mem := by
  simp [State.setCmd]

@[simp] theorem State.dropCmd_mem (s : State) (k : Nat) : (s.dropCmd k).mem = s.mem := by
  unfold State.dropCmd
  split <;> simp

theorem State.optMem_writeFree {s : State} {die : Nat} {keys : List Nat} {o : Option State} (h : P s.mem) (ho : OptMem P o) :
    OptMem P (s.writeFree die keys o) := by
  unfold State.writeFree
  repeat' split
  · exact optMem_none
  · exact ho
  · intro t e
    rwa [State.invalidate_mem s t _ _ e]

@[simp] theorem State.count_mem (s : State) (c : Cmd) (n : Nat) (failed : Bool) (code : Nat) :
    (s.count c n failed code).mem = s.mem := by
  unfold State.count
  split <;> simp

@[simp] theorem State.tellIssuer_mem (s : State) (c : Cmd) (info code : Nat) (detail : Dw) :
    (s.tellIssuer c info code detail).mem = s.mem := by
  simp [State.tellIssuer]

@[simp] theorem State.finishCmd_mem (s : State) (k : Nat) (c : Cmd) (x : Ext) (scale : Nat) :
    (s.finishCmd k c x scale).mem = s.mem := by
  unfold State.finishCmd
  split <;> simp

@[simp] theorem State.refuseCmd_mem (s : State) (k : Nat) (c : Cmd) (code info : Nat) (detail : Dw) (bytes : Nat)
    (x : Ext) : (s.refuseCmd k c code info detail bytes x).mem = s.mem := by
  simp [State.refuseCmd]

@[simp] theorem State.failCmd_mem (s : State) (k : Nat) (c : Cmd) (x : Ext) (scale total kind n code : Nat) (detail : Dw) :
    (s.failCmd k c x scale total kind n code detail).mem = s.mem := by
  simp [State.failCmd]

@[simp] theorem State.optMem_chargeBytes {s : State} {r m n : Nat} (h : P s.mem) : OptMem P (s.chargeBytes r m n) := by
  unfold State.chargeBytes
  dsimp only
  repeat' split
  all_goals simp [h]

theorem State.optMem_unitCommand {s : State} {r a op : Nat} {accepts : Nat → Bool}
    {run : State → Region → Actor → Nat → Nat → BitVec 128 → Bool → Option State} (h : P s.mem)
    (hr : ∀ g x i b w fo, OptMem P (run s g x i b w fo)) : OptMem P (s.unitCommand r a op accepts run) :=
  State.optMem_withCommand h hr

/-! ### Matrix actors -/

@[simp] theorem State.modBatches_mem (s : State) (r a : Nat) (f : List Batch → List Batch) : (s.modBatches r a f).mem = s.mem := by
  simp [State.modBatches]

@[simp] theorem State.setBatch_mem (s : State) (r a n : Nat) (b : Batch) : (s.setBatch r a n b).mem = s.mem := by
  simp [State.setBatch]

@[simp] theorem State.endBatch_mem (s : State) (r a n : Nat) : (s.endBatch r a n).mem = s.mem := by
  simp [State.endBatch]

@[simp] theorem State.optMem_startMat {only : Bool} {s : State} {r a : Nat} {x : Actor} {issuer by_ : Nat}
    {w : BitVec 128} {fo : Bool} (h : P s.mem) : OptMem P (s.startMat only r a x issuer by_ w fo) := by
  unfold State.startMat
  repeat' split
  any_goals simp [h]
  all_goals exact (State.optMem_chargeCommand h).map fun s1 h1 => by simpa using h1

@[simp] theorem State.settleBatch_mem (s : State) (r a n : Nat) (m : MatCmd) (b : Batch) :
    (s.settleBatch r a n m b).mem = s.mem := by
  simp [State.settleBatch]

@[simp] theorem State.failBatch_mem (s : State) (r a n : Nat) (m : MatCmd) (x : Actor) (b : Batch) :
    (s.failBatch r a n m x b).mem = s.mem := by
  simp [State.failBatch]

@[simp] theorem State.optMem_discardOperand {s : State} {r a n : Nat} {m : MatCmd} {b : Batch} {x : Actor} {isA : Bool}
    {p : Nat} (h : P s.mem) : OptMem P (s.discardOperand r a n m b x isA p) := by
  unfold State.discardOperand
  repeat' split
  all_goals simp [h]

@[simp] theorem State.optMem_strayHeader {s : State} {r a p : Nat} (h : P s.mem) : OptMem P (s.strayHeader r a p) := by
  unfold State.strayHeader
  repeat' split
  all_goals simp [h]

@[simp] theorem State.optMem_takeOperand {s : State} {r a n : Nat} {m : MatCmd} {b : Batch} {x : Actor} {isA : Bool}
    {p : Nat} (h : P s.mem) : OptMem P (s.takeOperand r a n m b x isA p) := by
  unfold State.takeOperand
  dsimp only
  repeat' split
  any_goals simp [h]
  next s1 e => exact State.optMem_framing h s1 e

@[simp] theorem State.optMem_matrixElement {s : State} {r a : Nat} {g : Region} {x : Actor} (h : P s.mem) :
    OptMem P (s.matrixElement r a g x) := by
  unfold State.matrixElement
  dsimp only
  repeat' split
  any_goals simp [h]
  · next s1 e =>
    refine optMem_bind (fun p => ?_) s1 e
    repeat' split
    any_goals simp [h]
    next s2 e2 => exact State.optMem_strayHeader h s2 e2
  · next s1 e => exact State.optMem_strayHeader h s1 e

@[simp] theorem State.optMem_groupAdd {s : State} {r a : Nat} (h : P s.mem) : OptMem P (s.groupAdd r a) := by
  unfold State.groupAdd
  repeat' split
  all_goals simp [h]

@[simp] theorem State.optMem_accStep {s : State} {r a : Nat} {g : Region} {x : Actor} {n : Nat} {b : Batch} {c : AccRead}
    (h : P s.mem) : OptMem P (s.accStep r a g x n b c) := by
  unfold State.accStep
  dsimp only
  repeat' split
  all_goals simp [h]

@[simp] theorem State.optMem_accRead {s : State} {r a : Nat} (h : P s.mem) : OptMem P (s.accRead r a) := by
  unfold State.accRead
  dsimp only
  repeat' split
  any_goals simp [h]
  refine State.optMem_unitCommand h fun g x i b w fo => ?_
  repeat' split
  all_goals simp [h]

/-! ### Memory actors -/

@[simp] theorem State.modGen_mem (s : State) (r a : Nat) (f : MemGen → MemGen) : (s.modGen r a f).mem = s.mem := by
  simp [State.modGen]

@[simp] theorem State.pushElem_mem (s : State) (r a : Nat) (g : Region) (x : Actor) (m : MemGen) (va : Dw)
    (data : Option (List Byte)) : (s.pushElem r a g x m va data).mem = s.mem := by
  simp [State.pushElem]

@[simp] theorem State.loadIndex_mem (s : State) (r a : Nat) (g : Region) (x : Actor) (m : MemGen) (i : Nat) :
    (s.loadIndex r a g x m i).mem = s.mem := by
  simp [State.loadIndex]

@[simp] theorem State.optMem_memSpecial {s : State} {r a : Nat} {g : Region} {x : Actor} {m : MemGen}
    {ins outs : List Nat} (h : P s.mem) : OptMem P (s.memSpecial r a g x m ins outs) := by
  unfold State.memSpecial
  repeat' split
  any_goals simp [h]
  next s1 e => exact State.optMem_errorStep h s1 e

@[simp] theorem State.optMem_memEos {s : State} {r a : Nat} {x : Actor} {m : MemGen} {ins : List Nat} (h : P s.mem) :
    OptMem P (s.memEos r a x m ins) := by
  unfold State.memEos
  split <;> simp [h]

@[simp] theorem State.optMem_memLoad {s : State} {r a : Nat} (h : P s.mem) : OptMem P (s.memLoad r a) := by
  unfold State.memLoad
  dsimp only
  repeat' split
  any_goals simp [h]
  · next s1 e => exact State.optMem_flushHeld h s1 e
  · next s1 e _ => exact optMem_findSome? (fun _ => State.optMem_framing h) _ s1 e
  · next s1 e => exact State.optMem_memEos h s1 e

@[simp] theorem State.storeNext_mem (s : State) (r a : Nat) (g : Region) (x : Actor) (m : MemGen) (t : Token) :
    (s.storeNext r a g x m t).mem = s.mem := by
  simp [State.storeNext]

@[simp] theorem State.storeIndex_mem (s : State) (r a : Nat) (g : Region) (x : Actor) (m : MemGen) (i : Nat) (t : Token) :
    (s.storeIndex r a g x m i t).mem = s.mem := by
  simp [State.storeIndex]

@[simp] theorem State.optMem_memStore {s : State} {r a : Nat} (h : P s.mem) : OptMem P (s.memStore r a) := by
  unfold State.memStore
  dsimp only
  repeat' split
  any_goals simp [h]
  · next s1 e _ => exact optMem_findSome? (fun _ => State.optMem_framing h) _ s1 e
  · next s1 e => exact State.optMem_memEos h s1 e

@[simp] theorem State.optMem_memForward {s : State} {r a : Nat} (h : P s.mem) : OptMem P (s.memForward r a) := by
  unfold State.memForward
  dsimp only
  repeat' split
  all_goals simp [h]

/-! ### Lanes -/

@[simp] theorem State.sendPend_mem (s : State) (r a : Nat) (l : List (Nat × Token)) (l' : List Nat) :
    (s.sendPend r a l l').1.mem = s.mem := by
  induction l generalizing s l' with
  | nil => rfl
  | cons q l ih =>
    unfold State.sendPend
    dsimp only
    split
    · exact ih s _
    · exact (ih _ _).trans (State.sendOn_mem ..)

@[simp] theorem State.modSeg_mem (s : State) (r a : Nat) (f : LaneSeg → LaneSeg) : (s.modSeg r a f).mem = s.mem := by
  simp [State.modSeg]

@[simp] theorem State.drainPend_mem (s : State) (r a : Nat) : (s.drainPend r a).mem = s.mem := by
  unfold State.drainPend
  dsimp only
  repeat' split
  all_goals simp

@[simp] theorem State.optMem_laneStep {s : State} {tile lane op : Nat} {switch : Bool} {run : LaneCtx → Group → LaneOut}
    (h : P s.mem) : OptMem P (s.laneStep tile lane op switch run) := by
  unfold State.laneStep
  dsimp only
  repeat' split
  all_goals simp [h]

@[simp] theorem resMem_laneEvent {s : State} {tile lane op : Nat} (h : P s.mem) : ResMem P (laneEvent s tile lane op) := by
  unfold laneEvent
  split <;> simp [h]

@[simp] theorem State.optMem_laneBadHeader {s : State} {r a : Nat} {g : Region} {x : Actor} {p : Nat} (h : P s.mem) :
    OptMem P (s.laneBadHeader r a g x p) := by
  unfold State.laneBadHeader
  repeat' split
  all_goals simp [h]

@[simp] theorem State.laneHeaders_mem (s : State) (r a : Nat) (g : Region) (x : Actor) (seg : LaneSeg)
    (ins outs : List Nat) : (s.laneHeaders r a g x seg ins outs).mem = s.mem := by
  unfold State.laneHeaders
  dsimp only
  split
  · exact State.modActor_mem ..
  · split
    · simp
    · refine (State.foldl_mem _ (fun _ _ => by exact State.sendOn_mem ..) _ _).trans ?_
      simp

@[simp] theorem State.laneData_mem (s : State) (r a : Nat) (g : Region) (x : Actor) (seg : LaneSeg) (ins : List Nat) :
    (s.laneData r a g x seg ins).mem = s.mem := by
  simp [State.laneData]

@[simp] theorem State.optMem_laneElement {s : State} {r a : Nat} {g : Region} {x : Actor} {seg : LaneSeg} (h : P s.mem) :
    OptMem P (s.laneElement r a g x seg) := by
  unfold State.laneElement
  dsimp only
  repeat' split
  any_goals simp [h]
  · next s1 e => exact optMem_findSome? (fun _ => State.optMem_framing h) _ s1 e
  · next s1 e => exact State.optMem_errorStep h s1 e
  · next s1 e => exact optMem_findSome? (fun _ => State.optMem_laneBadHeader h) _ s1 e

@[simp] theorem State.configLanes_mem (s : State) (tile : Nat) (seg : LaneSeg) (l : List Nat) :
    (s.configLanes tile seg l).mem = s.mem := by
  induction l generalizing s with
  | nil => rfl
  | cons i l ih =>
    unfold State.configLanes
    dsimp only [State.free]
    rw [ih, State.modTile_mem]

/-! ### The router -/

@[simp] theorem State.badKind_mem (s : State) (r ch tile : Nat) (t : Token) : (s.badKind r ch tile t).2.mem = s.mem := by
  simp [State.badKind]

@[simp] theorem State.crossed_mem (s : State) (a b : Nat) : (s.crossed a b).mem = s.mem := by
  unfold State.crossed
  split <;> simp

@[simp] theorem State.optMem_hop {s : State} {r ch k : Nat} (h : P s.mem) : OptMem P (s.hop r ch k) := by
  unfold State.hop
  dsimp only
  repeat' split
  all_goals simp [h]

@[simp] theorem State.optMem_emitBurst {s : State} {r ch : Nat} (h : P s.mem) : OptMem P (s.emitBurst r ch) := by
  unfold State.emitBurst
  dsimp only
  repeat' split
  all_goals simp [h]

@[simp] theorem State.accept_mem (s : State) (r ch : Nat) (e : Engine) (c : Chan) (cls : BitVec 2) (t : Token)
    (after : List Dep) : (s.accept r ch e c cls t after).mem = s.mem := by
  unfold State.accept
  repeat' split
  all_goals simp

@[simp] theorem State.sendLink_mem (s taken : State) (k n : Nat) (t : Token) (h : taken.mem = s.mem) :
    (s.sendLink taken k n t).mem = s.mem := by
  unfold State.sendLink
  dsimp only [State.free]
  repeat' split
  · exact h
  · rfl
  · exact h

@[simp] theorem State.optMem_receive {s : State} {r ch : Nat} (h : P s.mem) : OptMem P (s.receive r ch) := by
  unfold State.receive
  dsimp only
  repeat' split
  all_goals simp [h]

/-! ### Selection and placing -/

@[simp] theorem State.selectCall_mem (s : State) (tile r a : Nat) (x : Actor) (t : Token) (chan : Nat) :
    (s.selectCall tile r a x t chan).mem = s.mem := by
  simp [State.selectCall]

@[simp] theorem State.selectRule_mem (s : State) (tile r a : Nat) (g : Region) (x : Actor) (n : Nat) (u : Rule) :
    (s.selectRule tile r a g x n u).mem = s.mem := by
  simp [State.selectRule]

@[simp] theorem State.selectFor_mem (s : State) (tile r a : Nat) : (s.selectFor tile r a).mem = s.mem := by
  unfold State.selectFor
  repeat' split
  all_goals simp

@[simp] theorem State.optMem_select {s : State} {tile : Nat} (h : P s.mem) : OptMem P (s.select tile) := by
  unfold State.select
  dsimp only
  repeat' split
  all_goals simp [h]

@[simp] theorem State.optMem_taskStarts {s : State} {tile : Nat} (h : P s.mem) : OptMem P (s.taskStarts tile) := by
  unfold State.taskStarts
  dsimp only
  repeat' split
  all_goals simp [h]

/-! ### Placing -/

@[simp] theorem State.placeReplica_mem (s : State) (r k n part dx dy tile : Nat) :
    (s.placeReplica r k n part dx dy tile).mem = s.mem := by
  unfold State.placeReplica
  repeat' split
  all_goals simp

@[simp] theorem State.placeInitial_mem (s : State) (r k fuel n : Nat) : (s.placeInitial r k fuel n).mem = s.mem := by
  induction fuel generalizing s n with
  | zero => rfl
  | succ fuel ih =>
    unfold State.placeInitial
    repeat' split
    all_goals simp [ih]

@[simp] theorem State.installBase_mem (s : State) (r : Nat) (g : Region) (m : Img) : (s.installBase r g m).mem = s.mem := by
  unfold State.installBase
  refine (State.foldl_mem _ (fun _ _ => by rfl) _ _).trans ?_
  refine (State.foldl_mem _ (fun _ _ => by split <;> rfl) _ _).trans ?_
  refine (State.foldl_mem _ (fun _ _ => by split <;> rfl) _ _).trans ?_
  exact State.foldl_mem _ (fun _ _ => by split <;> rfl) _ _

@[simp] theorem State.install_mem (s : State) (r : Nat) (g : Region) (m : Img) : (s.install r g m).mem = s.mem :=
  (State.foldl_mem _ (fun _ _ => by simp) _ _).trans (State.installBase_mem ..)

@[simp] theorem State.answerReq_mem (s : State) (q : Option (Nat × Nat × Nat × Nat)) (payload : List Dw) :
    (s.answerReq q payload).mem = s.mem := by
  unfold State.answerReq
  split <;> simp

@[simp] theorem State.askLoad_mem (s : State) (restore : Bool) (va v : Dw) (o : Owed) :
    (s.askLoad restore va v o).mem = s.mem := by
  simp [State.askLoad]

@[simp] theorem State.placeOp_mem (s : State) (va v : Dw) : (s.placeOp va v).1.mem = s.mem := by
  unfold State.placeOp
  dsimp only
  repeat' split
  all_goals simp

@[simp] theorem State.searchEvict_mem (s : State) (m : Img) (slice asid : Nat) (o : Option (Nat × Nat)) (evict : Bool)
    (n : Nat) : (s.searchEvict m slice asid o evict n).1.mem = s.mem := by
  induction n generalizing s with
  | zero => rfl
  | succ f ih =>
    unfold State.searchEvict
    dsimp only
    repeat' split
    all_goals simp [ih]

@[simp] theorem State.setLoad_mem (s : State) (k : Nat) (l : Load) : (s.setLoad k l).mem = s.mem := by
  simp [State.setLoad]

@[simp] theorem State.dropLoad_mem (s : State) (k : Nat) : (s.dropLoad k).mem = s.mem := by
  simp [State.dropLoad]

@[simp] theorem State.sendLaunch_mem (s : State) (r : Nat) (l : Launch) : (s.sendLaunch r l).mem = s.mem := by
  simp [State.sendLaunch]

/-! ### Streams -/

@[simp] theorem State.startMove_mem (s : State) (k : Nat) (c : Cmd) (g : Region) (t : Tile) (fo : Bool) (m : Move) :
    (s.startMove k c g t fo m).mem = s.mem := by
  simp [State.startMove]

theorem State.optMem_withEngine {s : State} {eng : Engine} {op : Nat} {accepts : Nat → Bool}
    {run : Nat → Cmd → Region → Actor → Tile → CmdHead → Command → Option State} (h : P s.mem)
    (hr : ∀ k c g x t d m, OptMem P (run k c g x t d m)) : OptMem P (s.withEngine eng op accepts run) := by
  unfold State.withEngine
  dsimp only
  repeat' split
  any_goals simp [h]
  exact hr _ _ _ _ _ _ _

@[simp] theorem State.refuseMove_mem (s : State) (k : Nat) (c : Cmd) (x : Actor) (t : Tile) (d : Command)
    (code sf df : Nat) (e : Ext) : (s.refuseMove k c x t d code sf df e).mem = s.mem := by
  simp [State.refuseMove]

theorem State.remoteLost_mem (s : State) (m : Remote) (sub : State → State) (hs : ∀ u, (sub u).mem = u.mem) :
    (s.remoteLost m sub).mem = s.mem := by
  have h (u : State) (hu : u.mem = s.mem) : (sub u).mem = s.mem := (hs u).trans hu
  unfold State.remoteLost
  dsimp only
  repeat' split
  all_goals simp [h]

@[simp] theorem State.optMem_followDelivered {s : State} {k : Nat} (h : P s.mem) : OptMem P (s.followDelivered k) := by
  unfold State.followDelivered
  repeat' split
  all_goals simp [h]

@[simp] theorem State.takeSub_mem (s : State) (k : Nat) (b : BarSub) (n : Nat) : (s.takeSub k b n).mem = s.mem := by
  simp [State.takeSub]

/-! ### Instructions on tokens -/

@[simp] theorem State.dequeue_mem (s : State) (p : Nat) : (s.dequeue p).mem = s.mem := by
  simp [State.dequeue]

@[simp] theorem State.useReserved_mem (s : State) (p : Nat) : (s.useReserved p).mem = s.mem := by
  simp [State.useReserved]

@[simp] theorem State.noReservation_mem (s : State) (info ch : Nat) (d : Dw) : (s.noReservation info ch d).mem = s.mem := by
  simp [State.noReservation]

/-! ### Cuts -/

@[simp] theorem State.encSolstices_mem (s : State) (r : Nat) : (s.encSolstices r).mem = s.mem := by
  simp [State.encSolstices]

@[simp] theorem State.dropShadow_mem (s : State) (r a : Nat) : (s.dropShadow r a).mem = s.mem := by
  unfold State.dropShadow
  split
  · rfl
  · rw [State.modTile_mem]
    exact State.foldl_mem _ (fun _ _ => by rw [State.modRegion_mem]) _ _

@[simp] theorem State.enterFinish_mem (s : State) (r a : Nat) : (s.enterFinish r a).mem = s.mem := by
  unfold State.enterFinish
  split <;> simp

@[simp] theorem State.forward_mem (s : State) (r a : Nat) : (s.forward r a).mem = s.mem := by
  unfold State.forward
  split
  · rfl
  · rw [State.modRegion_mem]
    exact State.foldl_mem _ (fun _ _ => by rw [State.sendOn_mem]) _ _

@[simp] theorem State.settleCut_mem (s : State) (r : Nat) : (s.settleCut r).mem = s.mem := by
  simp [State.settleCut]

@[simp] theorem State.keep_mem (s : State) (r : Nat) (g : Region) : (s.keep r g).mem = s.mem := by
  unfold State.keep
  split <;> simp

@[simp] theorem State.dropPorts_mem (s : State) (r : Nat) : (s.dropPorts r).mem = s.mem := by
  simp [State.dropPorts]

@[simp] theorem State.modIssued_mem (s : State) (r a : Nat) (f : Batch → Batch) : (s.modIssued r a f).mem = s.mem := by
  simp [State.modIssued]

/-! ### Restores -/

@[simp] theorem State.reloadAcc_mem (s : State) (r a : Nat) (x : Actor) (d : List Dw) : (s.reloadAcc r a x d).mem = s.mem := by
  unfold State.reloadAcc
  split <;> simp

@[simp] theorem State.reloadLanes_mem (s : State) (r a : Nat) (g : Region) (x : Actor) (l : LaneSeg) (p0 pn : Nat)
    (kept : List (Nat × Nat × LaneSt)) (d : List Dw) : (s.reloadLanes r a g x l p0 pn kept d).mem = s.mem := by
  simp [State.reloadLanes]

@[simp] theorem State.excMem_restoreCtrl {s : State} {r c : Nat} {l : Load} (h : P s.mem) : ExcMem P (s.restoreCtrl r c l) := by
  unfold State.restoreCtrl
  dsimp only
  repeat' split
  all_goals simp [h]

theorem excMem_restFold {α : Type} {f : State → α → Except RestErr State} {s : State} {l : List α} (h : P s.mem)
    (hf : ∀ u x, P u.mem → ExcMem P (f u x)) : ExcMem P (restFold f s l) := by
  induction l generalizing s with
  | nil => exact (excMem_ok s).2 h
  | cons x l ih =>
    unfold restFold
    split
    · exact excMem_error _
    · next s1 e => exact ih (hf s x h s1 e)

@[simp] theorem State.excMem_restoreStage {s : State} {r k : Nat} {was : Region} {t : Stage} (h : P s.mem) :
    ExcMem P (s.restoreStage r k was t) := by
  unfold State.restoreStage
  dsimp only
  split
  · exact excMem_error _
  · next s1 e =>
    refine (excMem_ok _).2 ?_
    rw [State.modRegion_mem]
    refine excMem_restFold h (fun u p hu => ?_) s1 e
    repeat' split
    all_goals simp [hu]

@[simp] theorem State.excMem_restoreStages {s : State} {r : Nat} {k : Option Kept} (h : P s.mem) :
    ExcMem P (s.restoreStages r k) := by
  unfold State.restoreStages
  repeat' split
  · exact (excMem_ok s).2 h
  · exact (excMem_ok _).2 (State.foldl_keeps _ (fun u _ hu => by simpa using hu) _ s h)
  · refine excMem_restFold h fun u e hu => ?_
    split
    · exact State.excMem_restoreStage hu
    · exact (excMem_ok u).2 hu

@[simp] theorem State.refillReplicas_mem (s : State) (r : Nat) (k : Option Kept) (now : Dw) :
    (s.refillReplicas r k now).mem = s.mem := by
  unfold State.refillReplicas
  split
  · rfl
  · refine (State.foldl_mem _ (fun _ _ => ?_) _ _).trans ?_
    · repeat' split
      all_goals simp
    iterate 2
      refine (State.foldl_mem _ (fun _ _ => ?_) _ _).trans ?_
      · dsimp only
        repeat' split
        all_goals rfl
    refine State.foldl_mem _ (fun _ _ => ?_) _ _
    dsimp only
    repeat' split
    all_goals rfl

@[simp] theorem State.respill_mem (s : State) (r : Nat) (k : Option Kept) : (s.respill r k).mem = s.mem := by
  unfold State.respill
  split
  · rfl
  · exact State.foldl_mem _ (fun _ _ => by split <;> rfl) _ s

@[simp] theorem State.sendHeld_mem (s : State) (r : Nat) : (s.sendHeld r).mem = s.mem := by
  simp [State.sendHeld]

/-! ### Elastic stages -/

@[simp] theorem State.toReplica_mem (s : State) (r : Nat) (g : Region) (k : Nat) (t : Stage) (key : Nat) (tok : Token) :
    (s.toReplica r g k t key tok).mem = s.mem := by
  unfold State.toReplica
  split <;> simp

@[simp] theorem State.setStage_mem (s : State) (r k : Nat) (t : Stage) : (s.setStage r k t).mem = s.mem := by
  simp [State.setStage]

@[simp] theorem State.optMem_passStage {s : State} {r : Nat} {g : Region} {t : Stage} {tok : Token} (h : P s.mem) :
    OptMem P (s.passStage r g t tok) := by
  unfold State.passStage
  repeat' split
  all_goals simp [h]

@[simp] theorem State.optMem_routeData {s : State} {r : Nat} {g : Region} {k : Nat} {t : Stage} {x : Actor} {tok : Token}
    (h : P s.mem) : OptMem P (s.routeData r g k t x tok) := by
  unfold State.routeData
  dsimp only
  repeat' split
  all_goals simp [h]

@[simp] theorem State.optMem_routeOrdered {s : State} {r : Nat} {g : Region} {k : Nat} {t : Stage} {x : Actor}
    {tok : Token} (h : P s.mem) : OptMem P (s.routeOrdered r g k t x tok) := by
  unfold State.routeOrdered
  dsimp only
  repeat' split
  all_goals simp [h, State.foldl_mem]

@[simp] theorem State.optMem_routeRay {s : State} {r : Nat} {g : Region} {k : Nat} {t : Stage} {x : Actor} {port : Nat}
    {tok : Token} {new : Bool} (h : P s.mem) : OptMem P (s.routeRay r g k t x port tok new) := by
  unfold State.routeRay
  repeat' split
  all_goals simp [h]

@[simp] theorem State.optMem_distribute {s : State} {r k : Nat} (h : P s.mem) : OptMem P (s.distribute r k) := by
  unfold State.distribute
  repeat' split
  all_goals simp [h]

@[simp] theorem State.optMem_admitRay {s : State} {r k : Nat} (h : P s.mem) : OptMem P (s.admitRay r k) := by
  unfold State.admitRay
  repeat' split
  all_goals simp [h]

@[simp] theorem State.optMem_releaseEos {s : State} {r k : Nat} (h : P s.mem) : OptMem P (s.releaseEos r k) := by
  unfold State.releaseEos
  repeat' split
  all_goals simp [h]

@[simp] theorem State.optMem_sampleStage {s : State} {r k : Nat} (h : P s.mem) : OptMem P (s.sampleStage r k) := by
  unfold State.sampleStage
  repeat' split
  all_goals simp [h]

@[simp] theorem State.grow_mem (s : State) (r k : Nat) : (s.grow r k).mem = s.mem := by
  unfold State.grow
  repeat' split
  all_goals simp

@[simp] theorem State.dropReplica_mem (s : State) (r k key : Nat) : (s.dropReplica r k key).mem = s.mem := by
  unfold State.dropReplica
  repeat' split
  all_goals simp

@[simp] theorem State.optMem_windowEnd {s : State} {r k : Nat} (h : P s.mem) : OptMem P (s.windowEnd r k) := by
  unfold State.windowEnd
  dsimp only
  repeat' split
  all_goals simp [h]

/-! ### The front end -/

@[simp] theorem State.modQueue_mem (s : State) (slice q : Nat) (f : Queue → Queue) : (s.modQueue slice q f).mem = s.mem := by
  simp [State.modQueue]

@[simp] theorem State.resumeLaunch_mem (s : State) (slice : Nat) (l : Launch) (area : Dw) (num : Nat) :
    (s.resumeLaunch slice l area num).mem = s.mem := by
  simp [State.resumeLaunch]

@[simp] theorem State.holdLaunch_mem (s : State) (slice : Nat) (l : Launch) (order : Nat) :
    (s.holdLaunch slice l order).mem = s.mem := by
  simp [State.holdLaunch]

@[simp] theorem State.dropWaiting_mem (s : State) (slice i : Nat) : (s.dropWaiting slice i).mem = s.mem := by
  simp [State.dropWaiting]

@[simp] theorem State.optMem_launchRequest {s : State} {r ch : Nat} (h : P s.mem) : OptMem P (s.launchRequest r ch) := by
  unfold State.launchRequest
  repeat' split
  all_goals simp [h]

@[simp] theorem State.optMem_refill {s : State} {r : Nat} (h : P s.mem) : OptMem P (s.refill r) := by
  unfold State.refill
  repeat' split
  all_goals simp [h]

/-! ### Displays -/

@[simp] theorem State.optMem_present {s : State} {r ch : Nat} (h : P s.mem) : OptMem P (s.present r ch) := by
  unfold State.present
  repeat' split
  all_goals simp [h]

/-! ### Links -/

@[simp] theorem State.copyPoison_mem (s : State) (src dst n : Nat) : (s.copyPoison src dst n).mem = s.mem := by
  simp [State.copyPoison]

@[simp] theorem State.refuseCircuit_mem (s : State) (e why : Nat) : (s.refuseCircuit e why).mem = s.mem := by
  simp [State.refuseCircuit]

@[simp] theorem State.writeEntry'_mem (s : State) (e : Nat) (v : Dw) : (s.writeEntry' e v).mem = s.mem := by
  unfold State.writeEntry'
  repeat' split
  all_goals simp

@[simp] theorem State.deliverLink_mem (s : State) (k r ch n fuel : Nat) : (s.deliverLink k r ch n fuel).mem = s.mem := by
  induction fuel generalizing s with
  | zero => rfl
  | succ fuel ih =>
    unfold State.deliverLink
    dsimp only
    repeat' split
    all_goals simp [ih]

@[simp] theorem State.deliverHalf_mem (s : State) (k n : Nat) : (s.deliverHalf k n).mem = s.mem := by
  unfold State.deliverHalf
  split <;> simp

@[simp] theorem State.optMem_linkToken {s : State} {k n : Nat} {tok : List Dw} {sb : BitVec 16} (h : P s.mem) :
    OptMem P (s.linkToken k n tok sb) := by
  unfold State.linkToken
  dsimp only
  repeat' split
  all_goals simp [h]

@[simp] theorem State.failHalf_mem (s : State) (k n : Nat) : (s.failHalf k n).mem = s.mem := by
  simp [State.failHalf]

@[simp] theorem State.optMem_linkDown {s : State} {k : Nat} (h : P s.mem) : OptMem P (s.linkDown k) := by
  unfold State.linkDown
  dsimp only
  split
  · exact optMem_none
  · refine (optMem_some _).2 (State.foldl_keeps _ (fun u n hu => by simpa using hu) _ _ ?_)
    exact State.foldl_keeps _ (fun u n hu => by simpa using hu) _ _ h

/-! ### The package -/

@[simp] theorem State.extend_mem (s : State) (k : Nat) (d : BitVec 256) : (s.extend k d).mem = s.mem := by
  simp [State.extend]

@[simp] theorem State.remeasure_mem (s : State) (slice : Nat) : (s.remeasure slice).mem = s.mem := by
  simp [State.remeasure]

@[simp] theorem State.optMem_tinvEnds {s : State} {slice : Nat} (h : P s.mem) : OptMem P (s.tinvEnds slice) := by
  unfold State.tinvEnds
  dsimp only
  split
  · exact optMem_none
  · refine (optMem_some _).2 (State.foldl_keeps _ (fun u d hu => ?_) _ s h)
    split
    · exact hu
    · exact hu

@[simp] theorem State.writeReg_mem (s : State) (reg : MgmtReg) (v : BitVec 128) : (s.writeReg reg v).mem = s.mem := by
  unfold State.writeReg
  cases reg with
  | slcfg k =>
    dsimp only
    repeat' split
    · rfl
    · rfl
    · exact OptMem.getD_eq (State.optMem_linkDown rfl) rfl
  | trvec j => exact State.foldl_mem _ (fun _ _ => by rfl) _ s
  | trbyp j => exact State.foldl_mem _ (fun _ _ => by rfl) _ s
  | _ =>
    dsimp only
    repeat' split
    all_goals simp

/-! ### Bring-up -/

@[simp] theorem State.noteFailure_mem (s : State) : s.noteFailure.mem = s.mem := by
  simp [State.noteFailure]

@[simp] theorem State.bootFails_mem (s : State) (stage : Nat) : (s.bootFails stage).mem = s.mem := by
  simp [State.bootFails]

@[simp] theorem State.configure_mem (s : State) (r : Config.BootRecord) : (s.configure r).mem = s.mem := by
  unfold State.configure
  refine (State.foldl_mem _ (fun _ _ => by rfl) _ _).trans ?_
  exact State.foldl_mem _ (fun _ _ => by rfl) _ _

@[simp] theorem State.train_mem (s : State) : s.train.mem = s.mem :=
  State.foldl_mem _ (fun _ _ => by rfl) _ s

@[simp] theorem State.dropUntrained_mem (s : State) : s.dropUntrained.mem = s.mem :=
  State.foldl_mem _ (fun _ _ => by dsimp only; split <;> rfl) _ s

@[simp] theorem State.enumerate_mem (s : State) : s.enumerate.mem = s.mem := by
  simp [State.enumerate]

@[simp] theorem State.runStage_mem (s : State) (stage : Nat) (image : List Byte) : (s.runStage stage image).mem = s.mem := by
  unfold State.runStage
  repeat' split
  all_goals simp

@[simp] theorem State.optMem_boot {s : State} {stage : Nat} {image : List Byte} {verified : Bool} (h : P s.mem) :
    OptMem P (s.boot stage image verified) := by
  unfold State.boot
  repeat' split
  any_goals simp [h]
  exact State.foldl_keeps _ (fun u n hu => by split <;> simpa using hu) _ s h

@[simp] theorem State.spdm_mem (s : State) (code fn : Nat) (request : List Byte) (m : List (BitVec 256)) :
    (s.spdm code fn request m).mem = s.mem := by
  simp [State.spdm]

@[simp] theorem State.moveClock_mem (s : State) (die mhz : Nat) : (s.moveClock die mhz).mem = s.mem := by
  simp [State.moveClock]

/-! ### Control flow -/

@[simp] theorem State.goto_mem (s : State) (pc : Word) : (s.goto pc).mem = s.mem := by
  simp [State.goto]

/-! ### Floating point -/

@[simp] theorem resMem_float2 {s : State} {d a b : Reg} {f : BitVec 3} {m : BitVec 2} {op : Val → Val → Val × Bool}
    (h : P s.mem) : ResMem P (float2 s d a b f m op) := by
  simp [float2, h]

@[simp] theorem resMem_float1 {s : State} {d : Reg} {r : Option Nat × Flags} (h : P s.mem) : ResMem P (float1 s d r) := by
  simp [float1, h]

@[simp] theorem resMem_floatCmp {s : State} {d a b : Reg} {f : BitVec 3} {rel : Nat} (h : P s.mem) :
    ResMem P (floatCmp s d a b f rel) := by
  simp [floatCmp, h]

@[simp] theorem resMem_floatSign {s : State} {d a b : Reg} {f : BitVec 3} {sg : Bool → Bool → Bool} (h : P s.mem) :
    ResMem P (floatSign s d a b f sg) := by
  simp [floatSign, h]

/-! ### Rendering -/

@[simp] theorem State.primEnd_mem (s : State) (tag : Nat × Nat) : (s.primEnd tag).2.mem = s.mem := by
  simp [State.primEnd]

@[simp] theorem State.tileToken_mem (s : State) (l : List Dw) (rk : Nat) : (s.tileToken l rk).2.mem = s.mem := by
  simp [State.tileToken]

@[simp] theorem State.coverTokens_mem (s : State) (pol : BitVec 4) (l : List Dw) (bias : Nat) (tag : Option (Nat × Nat)) :
    (s.coverTokens pol l bias tag).2.2.mem = s.mem := by
  unfold State.coverTokens
  dsimp only
  repeat' split
  all_goals simp

@[simp] theorem State.applyTags_mem (s : State) (r a : Nat) (x : Actor) (seg : LaneSeg) (credit n : Nat) :
    (s.applyTags r a x seg credit n).mem = s.mem := by
  induction n generalizing s with
  | zero => rfl
  | succ f ih =>
    unfold State.applyTags
    dsimp only
    repeat' split
    all_goals simp [ih]

@[simp] theorem State.optMem_blend {s : State} {r a : Nat} (h : P s.mem) : OptMem P (s.blend r a) := by
  unfold State.blend
  dsimp only
  repeat' split
  all_goals simp [h]

/-! ### Commands of units -/

@[simp] theorem State.takeUnit_mem (s : State) (r a issuer : Nat) (w : BitVec 128) : (s.takeUnit r a issuer w).mem = s.mem := by
  simp [State.takeUnit]

@[simp] theorem State.refuseUnit_mem (s : State) (r a issuer : Nat) (w : BitVec 128) (code info : Nat) (detail : Dw)
    (bytes : Nat) : (s.refuseUnit r a issuer w code info detail bytes).mem = s.mem := by
  simp [State.refuseUnit]

@[simp] theorem State.optMem_startRun {only : Bool} {s : State} {r a : Nat} {g : Region} {x : Actor} {i by_ : Nat}
    {w : BitVec 128} (h : P s.mem) : OptMem P (s.startRun only r a g x i by_ w) := by
  unfold State.startRun
  dsimp only
  repeat' split
  any_goals simp [h]
  exact (State.optMem_chargeCommand h).map fun s1 h1 => by simpa using h1

@[simp] theorem State.loseWrite_mem (s : State) (k : Nat) (c : Cmd) (x : Ext) (scale total n va : Nat) (ks : List Nat) :
    (s.loseWrite k c x scale total n va ks).mem = s.mem := by
  simp [State.loseWrite]

@[simp] theorem State.pushBank_mem (s : State) (r a : Nat) (g : Region) (x : Actor) (tokens : List (List Dw)) :
    (s.pushBank r a g x tokens).mem = s.mem := by
  simp [State.pushBank]

@[simp] theorem State.optMem_bankElement {s : State} {r a : Nat} {g : Region} {x : Actor} (h : P s.mem) :
    OptMem P (s.bankElement r a g x) := by
  unfold State.bankElement
  dsimp only
  repeat' split
  any_goals simp [h, State.foldl_mem]
  · next s1 e => exact optMem_findSome? (fun _ => State.optMem_framing h) _ s1 e
  · next s1 e => exact State.optMem_errorStep h s1 e
  · next s1 e => exact State.optMem_headerStep h s1 e

@[simp] theorem State.optMem_laneConfig {s : State} {r a : Nat} {x : Actor} {seg : LaneSeg} {p : Nat} {t : Token}
    (h : P s.mem) : OptMem P (s.laneConfig r a x seg p t) := by
  unfold State.laneConfig
  repeat' split
  all_goals simp [h]

@[simp] theorem State.optMem_laneApply {s : State} {r a : Nat} {x : Actor} {seg : LaneSeg} (h : P s.mem) :
    OptMem P (s.laneApply r a x seg) := by
  unfold State.laneApply
  split <;> simp [h]

@[simp] theorem State.optMem_configStep {s : State} {r a : Nat} (h : P s.mem) : OptMem P (s.configStep r a) := by
  unfold State.configStep
  split
  · exact optMem_none
  · split
    · exact optMem_none
    · next x _ =>
      split
      · exact optMem_none
      · dsimp only
        split
        · next s1 e => exact (optMem_some s1).2 (optMem_bind (fun _ => State.optMem_laneApply h) s1 e)
        · split
          · exact optMem_none
          · generalize (Actor.head _ _).getD _ = t
            split
            · exact State.optMem_abConfig h
            · split
              · simp [h]
              · generalize x.body = b
                cases b with
                | lane l =>
                  dsimp only
                  repeat' split
                  all_goals simp [h]
                | abacus b =>
                  dsimp only
                  split <;> simp [h]
                | _ => simp [h]

/-! ### Issue and time -/

@[simp] theorem State.counted_mem (s : State) : s.counted.mem = s.mem := by
  simp [State.counted]

@[simp] theorem State.elapse_mem (s : State) (n : Nat) : (s.elapse n).mem = s.mem :=
  State.foldl_mem _ (fun _ _ => by rfl) _ _

end Sys2Proof.Machine

namespace Sys2Proof.Machine

/-! ## The canonical form, as the lemmas below speak of it -/

/-- Memory is in its canonical form. It is `Memory.wf` as a definition that `simp` does not unfold, so that the rules below apply. -/
def Formed (m : List Host.Cell) : Prop := Memory.wf m

@[simp] theorem State.formed_wrByte {s : State} {pa : Nat} {b : Byte} (h : Formed s.mem) : Formed (s.wrByte pa b).mem :=
  State.wf_wrByte _ _ _ h

@[simp] theorem State.formed_homeWrite {s : State} {pas : List Nat} {data : List Byte} {rel : Option RelUnit}
    (h : Formed s.mem) : Formed (s.homeWrite pas data rel).mem :=
  State.wf_homeWrite _ _ _ _ h

@[simp] theorem State.formed_mark {s : State} {writes : Bool} {l : List Nat} (h : Formed s.mem) :
    Formed (s.mark writes l).mem :=
  State.wf_mark _ _ _ h

@[simp] theorem State.formed_settle {s : State} (h : Formed s.mem) : Formed s.settle.mem :=
  State.wf_settle _ h

@[simp] theorem State.formed_post {s : State} {pas : List Nat} {data : List Byte} (h : Formed s.mem) :
    Formed (s.post pas data).mem :=
  State.wf_post _ _ _ h

@[simp] theorem State.formed_hwWrite {s : State} {pas : List Nat} {data : List Byte} (h : Formed s.mem) :
    Formed (s.hwWrite pas data).mem :=
  State.wf_hwWrite _ _ _ h

@[simp] theorem State.excMem_areaWrite {s : State} {g : Region} {off : Nat} {l : List Byte} (h : Formed s.mem) :
    ExcMem Formed (s.areaWrite g off l) :=
  fun t e => State.wf_areaWrite _ t _ _ _ h e

@[simp] theorem State.formed_bumpFault {s : State} {r off shift : Nat} (h : Formed s.mem) :
    Formed (s.bumpFault r off shift).mem :=
  State.wf_bumpFault _ _ _ _ h

@[simp] theorem State.formed_writeRecord {s : State} {r : Nat} {e : ErrRec} (h : Formed s.mem) :
    Formed (s.writeRecord r e).mem :=
  State.wf_writeRecord _ _ _ h

@[simp] theorem State.formed_report {s : State} {slice : Nat} {l : Launch} {status : Nat} {rec_ : Dw} (h : Formed s.mem) :
    Formed (s.report slice l status rec_).mem :=
  State.wf_report _ _ _ _ _ h

@[simp] theorem State.formed_failCut {s : State} {r : Nat} (h : Formed s.mem) : Formed (s.failCut r).mem :=
  State.wf_failCut _ _ h

@[simp] theorem State.formed_endLaunch {s : State} {r : Nat} {stop : Bool} (h : Formed s.mem) :
    Formed (s.endLaunch r stop).mem :=
  State.wf_endLaunch _ _ _ h

@[simp] theorem State.formed_fatalIn {s : State} {r : Nat} {e : ErrRec} (h : Formed s.mem) : Formed (s.fatalIn r e).mem :=
  State.wf_fatalIn _ _ _ h

@[simp] theorem State.formed_fatalHere {s : State} {code : Nat} {d1 d2 : Dw} (h : Formed s.mem) :
    Formed (s.fatalHere code d1 d2).mem :=
  State.wf_fatalHere _ _ _ _ h

@[simp] theorem State.formed_takeTrap {s : State} {code : BitVec 8} {val : Dw} (h : Formed s.mem) :
    Formed (s.takeTrap code val).mem :=
  State.wf_takeTrap _ _ _ h

@[simp] theorem State.formed_copyRange {s : State} {src dst n : Nat} (h : Formed s.mem) : Formed (s.copyRange src dst n).mem :=
  State.wf_copyRange _ _ _ _ h

@[simp] theorem State.optMem_clearDie {s : State} {die : Nat} (h : Formed s.mem) : OptMem Formed (s.clearDie die) :=
  fun t e => State.wf_clearDie _ t _ h e

end Sys2Proof.Machine

namespace Sys2Proof.Machine

/-! ## Operations that write memory

`State.formed_<name>`, `State.optMem_<name>` and `State.excMem_<name>`: the operations that reach one of memory's writes, walks
that mark leaves and records of faults among them, keep the form. Each goes through the lemmas on the operations it is made of;
the bytes themselves are written only by the operations of the section above. -/

/-! ### Memory -/

@[simp] theorem State.formed_saveSeen {s : State} {die asid va n : Nat} (h : Formed s.mem) :
    Formed (s.saveSeen die asid va n).mem := by
  unfold State.saveSeen
  repeat' split
  all_goals simp [h]

@[simp] theorem State.formed_faultRecord {s : State} {slice : Nat} {r : List Dw} (h : Formed s.mem) :
    Formed (s.faultRecord slice r).mem := by
  unfold State.faultRecord
  dsimp only
  repeat' split
  all_goals simp [h]

/-! ### Operations on memory and traps -/

@[simp] theorem State.formed_reportMesh {s : State} {r : Nat} (h : Formed s.mem) : Formed (s.reportMesh r).mem := by
  unfold State.reportMesh
  split
  · exact h
  · split
    · next s1 e => exact State.excMem_areaWrite h s1 e
    · exact h

@[simp] theorem resMem_trapNow {s : State} {code : BitVec 8} {val : Dw} (h : Formed s.mem) :
    ResMem Formed (trapNow s code val) := by
  unfold trapNow
  simp [h]

@[simp] theorem resMem_illegal {s : State} (h : Formed s.mem) : ResMem Formed (illegal s) := by
  unfold illegal
  simp [h]

@[simp] theorem resMem_privileged {s : State} (h : Formed s.mem) : ResMem Formed (privileged s) := by
  unfold privileged
  simp [h]

/-! ### Firings -/

@[simp] theorem State.formed_storeSeen {s : State} {g : Region} {need : Need} {va n : Nat} (h : Formed s.mem) :
    Formed (s.storeSeen g need va n).mem := by
  unfold State.storeSeen
  simp [h]

@[simp] theorem State.formed_touchHeader {s : State} {g : Region} {n : WNode} (h : Formed s.mem) :
    Formed (s.touchHeader g n).mem := by
  unfold State.touchHeader
  dsimp only
  repeat' split
  all_goals simp [h]

@[simp] theorem State.formed_storeRecord {s : State} {g : Region} {n : WNode} {data : List Dw} (h : Formed s.mem) :
    Formed (s.storeRecord g n data).mem := by
  unfold State.storeRecord
  dsimp only
  split <;> simp [State.formed_storeSeen h]

/-! ### Graphs -/

@[simp] theorem State.optMem_doneStep {s : State} {r k : Nat} (h : Formed s.mem) : OptMem Formed (s.doneStep r k) := by
  unfold State.doneStep
  repeat' split
  any_goals simp [h]
  exact State.formed_bumpFault h

/-! ### Global memory -/

@[simp] theorem resMem_request {s : State} {p : Port} {k : ReqKind} {va : Dw} {data : List Byte} {exp : Dw} {sc : Scope}
    {o : Order} (h : Formed s.mem) : ResMem Formed (request s p k va data exp sc o) := by
  unfold request
  repeat' split
  all_goals simp [h]

/-! ### Placed graphs -/

@[simp] theorem State.formed_endRegion {s : State} {r : Nat} {d1 d2 : Dw} (h : Formed s.mem) :
    Formed (s.endRegion r d1 d2).mem := by
  unfold State.endRegion
  dsimp only
  repeat' split
  all_goals simp [h]

@[simp] theorem State.formed_checkEdges {s : State} {r : Nat} (h : Formed s.mem) : Formed (s.checkEdges r).mem := by
  unfold State.checkEdges
  repeat' split
  all_goals simp [h]

@[simp] theorem State.formed_endOn {s : State} {p : Nat → Bool} {code : Nat} {d1 d2 : Dw} (h : Formed s.mem) :
    Formed (s.endOn p code d1 d2).mem := by
  refine State.foldl_keeps _ (fun u r hu => ?_) _ s h
  dsimp only
  repeat' split
  all_goals simp [hu]

@[simp] theorem State.formed_endAndRemove {s : State} {p : Nat → Bool} {code : Nat} {d1 d2 : Dw} (h : Formed s.mem) :
    Formed (s.endAndRemove p code d1 d2).mem :=
  State.foldl_keeps _ (fun u r hu => by simpa using hu) _ _ (State.formed_endOn h)

/-! ### Memory events -/

@[simp] theorem State.formed_refuseAccess {s : State} {tile k : Nat} {a : Access} {code : Nat} {detail : Dw}
    (h : Formed s.mem) : Formed (s.refuseAccess tile k a code detail).mem := by
  unfold State.refuseAccess
  repeat' split
  all_goals simp [h]

@[simp] theorem State.formed_recordPage {s : State} {d asid va : Nat} {words : List Dw} (h : Formed s.mem) :
    Formed (s.recordPage d asid va words).mem := by
  unfold State.recordPage
  dsimp only
  split
  · exact h
  · exact State.formed_faultRecord h

@[simp] theorem State.formed_engineFault {s : State} {d tile asid region slot kind : Nat} {since : Option Dw} {va : Nat}
    (h : Formed s.mem) : Formed (s.engineFault d tile asid region slot kind since va).1.mem := by
  unfold State.engineFault
  dsimp only
  repeat' split
  all_goals simp [h]

@[simp] theorem State.optMem_spill {s : State} {tile k : Nat} {a : Access} {va : Nat} (h : Formed s.mem) :
    OptMem Formed (s.spill tile k a va) := by
  unfold State.spill
  dsimp only
  repeat' split
  all_goals simp [h]

@[simp] theorem State.optMem_performRead {s : State} {tile k : Nat} {a : Access} {n : Nat} {widen : Bool}
    (h : Formed s.mem) : OptMem Formed (s.performRead tile k a n widen) := by
  unfold State.performRead
  dsimp only
  repeat' split
  all_goals simp [h]

@[simp] theorem State.optMem_performBack {s : State} {tile k : Nat} {a : Access} (h : Formed s.mem) :
    OptMem Formed (s.performBack tile k a) := by
  unfold State.performBack
  repeat' split
  all_goals simp [h]

@[simp] theorem State.optMem_performAccept {s : State} {tile k : Nat} {a : Access} (h : Formed s.mem) :
    OptMem Formed (s.performAccept tile k a) := by
  unfold State.performAccept
  dsimp only
  repeat' split
  all_goals simp [h]

@[simp] theorem State.optMem_performBank {s : State} {tile k : Nat} {a : Access} (h : Formed s.mem) :
    OptMem Formed (s.performBank tile k a) := by
  unfold State.performBank
  dsimp only
  repeat' split
  all_goals simp [h]

@[simp] theorem State.optMem_performFut {s : State} {tile k : Nat} {a : Access} (h : Formed s.mem) :
    OptMem Formed (s.performFut tile k a) := by
  unfold State.performFut
  dsimp only
  repeat' split
  all_goals simp [h]

@[simp] theorem State.optMem_perform {s : State} {tile k : Nat} (h : Formed s.mem) : OptMem Formed (s.perform tile k) := by
  unfold State.perform
  repeat' split
  all_goals simp [h]

@[simp] theorem resMem_accessEvent {s : State} {tile k : Nat} {ok : ReqKind → Bool} (h : Formed s.mem) :
    ResMem Formed (accessEvent s tile k ok) := by
  unfold accessEvent
  repeat' split
  all_goals simp [h]

@[simp] theorem State.optMem_advanceWrite {s : State} {tile k : Nat} {a : Access} (h : Formed s.mem) :
    OptMem Formed (s.advanceWrite tile k a) := by
  unfold State.advanceWrite
  repeat' split
  all_goals simp [h]

@[simp] theorem State.formed_ackInv {s : State} {line tile : Nat} (h : Formed s.mem) : Formed (s.ackInv line tile).mem := by
  unfold State.ackInv
  simp [h]

/-! ### Abaci -/

theorem resMem_engineRequest {s : State} {p : Port} {va : Dw} {act : State → Owed → State} (h : Formed s.mem)
    (ha : ∀ u o, Formed u.mem → Formed (act u o).mem) : ResMem Formed (engineRequest s p va act) := by
  unfold engineRequest
  repeat' split
  · exact resMem_illegal h
  · simpa using h
  · exact (resMem_next _).2 (ha _ _ (by simpa using h))

@[simp] theorem State.formed_imgRead {s : State} {tile asid va n : Nat} (h : Formed s.mem) :
    Formed (s.imgRead tile asid va n).1.mem := by
  unfold State.imgRead
  dsimp only
  repeat' split
  all_goals simp [h]

@[simp] theorem State.formed_frameHeads {s : State} {home asid va n off : Nat} {l : List (FrameRec × Nat × Nat)}
    (h : Formed s.mem) : Formed (s.frameHeads home asid va n off l).1.mem := by
  induction n generalizing s off l with
  | zero => exact h
  | succ n ih =>
    unfold State.frameHeads
    split
    · next s1 _ e =>
      have h1 : Formed s1.mem := fst_mem (State.formed_imgRead h) e
      split
      · exact ih (fst_mem (State.formed_imgRead h1) ‹_›)
      · exact fst_mem (State.formed_imgRead h1) ‹_›
    · exact fst_mem (State.formed_imgRead h) ‹_›

@[simp] theorem State.formed_readFrames {s : State} {g : Region} {home asid va : Nat} {l : List (FrameRec × Nat × Nat)}
    {l' : List Byte} (h : Formed s.mem) : Formed (s.readFrames g home asid va l l').1.mem := by
  induction l generalizing s l' with
  | nil => exact h
  | cons f l ih =>
    unfold State.readFrames
    split
    · exact ih (fst_mem (State.formed_imgRead h) ‹_›)
    · exact fst_mem (State.formed_imgRead h) ‹_›

@[simp] theorem State.formed_loadImage {s : State} {r a : Nat} {g : Region} {x : Actor} {va : Nat} (h : Formed s.mem) :
    Formed (s.loadImage r a g x va).1.mem := by
  unfold State.loadImage
  split
  · next s1 _ e1 =>
    have h1 : Formed s1.mem := fst_mem (State.formed_imgRead h) e1
    dsimp only
    split
    · exact fst_mem (State.formed_frameHeads h1) ‹_›
    · next s2 _ e2 =>
      have h2 : Formed s2.mem := fst_mem (State.formed_frameHeads h1) e2
      split
      · exact h2
      · split
        · next s3 _ e3 =>
          have h3 : Formed s3.mem := fst_mem (State.formed_readFrames h2) e3
          split
          · exact fst_mem (State.formed_imgRead h3) ‹_›
          · exact fst_mem (State.formed_imgRead h3) ‹_›
        · exact fst_mem (State.formed_readFrames h2) ‹_›
  · exact fst_mem (State.formed_imgRead h) ‹_›

@[simp] theorem State.formed_faultWait {s : State} {r : Nat} {x : Actor} {since : Option Dw} {va : Nat}
    (h : Formed s.mem) : Formed (s.faultWait r x since va).1.mem := by
  unfold State.faultWait
  simp [h]

@[simp] theorem State.optMem_abLoaded {s : State} {r a : Nat} (h : Formed s.mem) : OptMem Formed (s.abLoaded r a) := by
  unfold State.abLoaded
  split
  · exact optMem_none
  · split
    · exact optMem_none
    · split
      · exact optMem_none
      · split
        · exact optMem_none
        · dsimp only
          split
          · next s1 _ e1 =>
            have h1 : Formed s1.mem := fst_mem (State.formed_loadImage h) e1
            split <;> simp [h1]
          · next s1 _ _ e1 => simp [fst_mem (State.formed_loadImage h) e1]
          · next s1 _ e1 =>
            have h1 : Formed s1.mem := fst_mem (State.formed_loadImage h) e1
            repeat' split
            all_goals simp [h1]

/-! ### Tensors -/

@[simp] theorem State.formed_viaSeen {s : State} {e : Via} {loc : Bool} {need : Need} {al va n : Nat} (h : Formed s.mem) :
    Formed (s.viaSeen e loc need al va n).mem := by
  unfold State.viaSeen
  repeat' split
  all_goals simp [h]

@[simp] theorem State.formed_viaPut {s : State} {e : Via} {key : Nat} {b : Byte} (h : Formed s.mem) :
    Formed (s.viaPut e key b).mem := by
  unfold State.viaPut
  repeat' split
  all_goals simp [h]

@[simp] theorem State.formed_readElems {s : State} {e : Via} {before : Sparse (Option Byte)} {d : Tensor}
    {l : List (Nat × Nat × Nat)} (h : Formed s.mem) : Formed (s.readElems e before d l).1.mem := by
  induction l generalizing s with
  | nil => exact h
  | cons j l ih =>
    unfold State.readElems
    dsimp only
    split
    · split
      · exact fst_mem (ih h) ‹_›
      · exact ih h
    · have h1 : Formed (s.viaSeen e d.loc { r := true } 1 (d.place j).1 (((d.place j).2 + d.width + 7) / 8)).mem :=
        State.formed_viaSeen h
      generalize s.viaSeen e d.loc _ _ _ _ = s1 at h1 ⊢
      split
      · exact h1
      · exact h1
      · next ks _ _ =>
        have h2 (x y : Nat) : Formed (if ks.any (fun k => (sget none before k).isSome) = true then (x, s1.free.2)
            else (y, s1)).2.mem := by split <;> exact h1
        split
        · exact fst_mem (ih (h2 _ _)) ‹_›
        · exact ih (h2 _ _)

@[simp] theorem State.formed_putAll {s : State} {e : Via} {before : Sparse (Option Byte)} {l : List (Nat × Nat × Byte)}
    {cur : Option (Nat × Nat × Bool)} (h : Formed s.mem) : Formed (s.putAll e before l cur).1.mem := by
  induction l generalizing s before cur with
  | nil => exact h
  | cons q l ih =>
    unfold State.putAll
    dsimp only
    split
    · exact ih (State.formed_viaPut h)
    · refine ih ?_
      repeat' split
      all_goals simp [h]

@[simp] theorem State.formed_poisonKeys {s : State} {e : Via} {l : List Nat} (h : Formed s.mem) :
    Formed (s.poisonKeys e l).mem :=
  State.foldl_keeps _ (fun u q hu => by dsimp only [State.free]; split <;> simp [hu]) l s h

@[simp] theorem State.formed_pageCmd {s : State} {e : Via} {k : Nat} {c : Cmd} {x : Ext} {scale total kind n va : Nat}
    (h : Formed s.mem) : Formed (s.pageCmd e k c x scale total kind n va).mem := by
  unfold State.pageCmd
  dsimp only
  split
  · next e => simpa using fst_mem (State.formed_engineFault h) e
  · next e => simpa using fst_mem (State.formed_engineFault h) e

/-! ### Load checks -/

@[simp] theorem State.formed_imageSeen {s : State} {die asid va : Nat} (h : Formed s.mem) :
    Formed (s.imageSeen die asid va).mem := by
  unfold State.imageSeen
  dsimp only
  repeat' split
  all_goals simp [h]

/-! ### Selection and placing -/

@[simp] theorem State.formed_areaPut {s : State} {g : Region} {off : Nat} {l : List Byte} (h : Formed s.mem) :
    Formed (s.areaPut g off l).mem := by
  unfold State.areaPut
  split
  · next s1 e => exact State.excMem_areaWrite h s1 e
  · exact h

@[simp] theorem State.optMem_launchArrives {s : State} {r : Nat} (h : Formed s.mem) : OptMem Formed (s.launchArrives r) := by
  unfold State.launchArrives
  dsimp only
  repeat' split
  any_goals exact optMem_none
  all_goals exact (optMem_some _).2 (State.formed_checkEdges (State.formed_areaPut h))

@[simp] theorem State.optMem_launchEnds {s : State} {r : Nat} (h : Formed s.mem) : OptMem Formed (s.launchEnds r) := by
  unfold State.launchEnds
  dsimp only
  repeat' split
  all_goals simp [h]

/-! ### Placing -/

@[simp] theorem State.formed_loadSeen {s : State} {l : Load} (h : Formed s.mem) : Formed (s.loadSeen l).mem := by
  unfold State.loadSeen
  dsimp only
  repeat' split
  all_goals simp [h]

@[simp] theorem State.formed_refuseLaunch {s : State} {slice : Nat} {l : Launch} {status : Nat} {rec_ : Dw}
    (h : Formed s.mem) : Formed (s.refuseLaunch slice l status rec_).mem := by
  unfold State.refuseLaunch
  simp [h]

@[simp] theorem State.optMem_searchStep {s : State} {slice k : Nat} (h : Formed s.mem) : OptMem Formed (s.searchStep slice k) := by
  unfold State.searchStep
  dsimp only
  repeat' split
  any_goals simp [h]

theorem State.excFst_place {s : State} {m : Img} {q : Placing} {ox oy : Nat} (h : Formed s.mem) :
    ExcFst Formed (s.place m q ox oy) := by
  unfold State.place
  dsimp only
  split
  · exact (excFst_ok _).2 (by simpa using h)
  · split
    · exact excFst_error _
    · next s1 e1 =>
      split
      · exact excFst_error _
      · next s2 e2 =>
        exact (excFst_ok _).2 (by simpa using State.excMem_areaWrite (State.excMem_areaWrite h s1 e1) s2 e2)

theorem State.excFst_loadNow {s : State} {l : Load} (h : Formed s.mem) : ExcFst Formed (s.loadNow l) := by
  unfold State.loadNow
  dsimp only
  repeat' split
  any_goals exact excFst_error _
  next p e => exact (excFst_ok _).2 (State.excFst_place h _ e)

@[simp] theorem State.formed_finishLoad {s : State} {k : Nat} {l : Load} (h : Formed s.mem) : Formed (s.finishLoad k l).mem := by
  have h0 : Formed ((s.dropLoad k).loadSeen l).mem := State.formed_loadSeen (by simpa using h)
  unfold State.finishLoad
  dsimp only
  split
  · repeat' split
    all_goals simp [h, h0]
  · next s1 r m e =>
    have h1 : Formed s1.mem := State.excFst_loadNow h0 _ e
    repeat' split
    all_goals simp [h1]

/-! ### Streams -/

@[simp] theorem State.formed_gather {s : State} {e : Via} {m : Move} {before : Sparse (Option Byte)} {scale n u : Nat}
    {l : List MoveUnit} (h : Formed s.mem) : Formed (s.gather e m before scale n u l).1.mem := by
  induction n generalizing s u l with
  | zero => exact h
  | succ n ih =>
    unfold State.gather
    dsimp only
    split
    · exact ih h
    · split
      · exact fst_mem (State.formed_readElems h) ‹_›
      · exact fst_mem (State.formed_readElems h) ‹_›
      · next s1 _ e1 =>
        have h1 : Formed s1.mem := fst_mem (State.formed_readElems h) e1
        split
        · exact State.formed_viaSeen h1
        · exact h1
        · exact ih h1

@[simp] theorem State.formed_greatest {s : State} {e : Via} {m : Move} {before : Sparse (Option Byte)} {n i : Nat}
    {v : Val} (h : Formed s.mem) : Formed (s.greatest e m before n i v).1.mem := by
  induction n generalizing s i v with
  | zero => exact h
  | succ n ih =>
    unfold State.greatest
    split
    · exact ih h
    · split
      · exact fst_mem (State.formed_readElems h) ‹_›
      · exact fst_mem (State.formed_readElems h) ‹_›
      · exact ih (fst_mem (State.formed_readElems h) ‹_›)

@[simp] theorem State.formed_performMove {s : State} {e : Via} {k : Nat} {c : Cmd} {m : Move} {g : List MoveUnit}
    (h : Formed s.mem) : Formed (s.performMove e k c m g).mem := by
  unfold State.performMove
  extract_lets +onlyGivenNames keys badKeys puts inval s0
  have h0 : Formed s0.mem := State.formed_mark h
  split
  next s1 before choice e1 =>
    have h1 : Formed s1.mem := fst_mem (State.formed_putAll h0) e1
    extract_lets +onlyGivenNames s2 s3 good bad lost s4 s5 s6 s7 tell16 s8 tell24 s9 c1 c2 c3
    have h2 : Formed s2.mem := State.foldl_keeps _ (fun u q hu => by exact hu) _ _ h1
    have h3 : Formed s3.mem := State.formed_poisonKeys h2
    have h4 : s4.mem = s3.mem := by dsimp only [s4]; split <;> simp
    have h5 : s5.mem = s4.mem := by dsimp only [s5]; split <;> simp
    have h6 : s6.mem = s5.mem := by dsimp only [s6]; split <;> simp
    have h7 : s7.mem = s6.mem := State.foldl_mem _ (fun u j => by simp) _ _
    have h8 : s8.mem = s7.mem := by dsimp only [s8]; split <;> simp
    have h9 : s9.mem = s8.mem := by dsimp only [s9]; split <;> simp
    rw [State.setCmd_mem, h9, h8, h7, h6, h5, h4]
    exact h3

@[simp] theorem State.optMem_turnMove {s : State} {die k : Nat} {c : Cmd} {g : Region} {t : Tile} {fo : Bool} {m : Move}
    (h : Formed s.mem) : OptMem Formed (s.turnMove die k c g t fo m) := by
  unfold State.turnMove
  dsimp only
  split
  · simp [h]
  · split
    · split
      · exact optMem_none
      · split
        · next s1 _ e1 => simp [fst_mem (State.formed_greatest h) e1]
        · next s1 _ _ e1 => simp [fst_mem (State.formed_greatest h) e1]
        · next s1 _ e1 => simp [fst_mem (State.formed_greatest h) e1]
    · split
      · simp [h]
      · split
        · exact optMem_none
        · have h0 : Formed s.free.2.mem := h
          split
          · next s1 _ _ _ e1 => simp [fst_mem (State.formed_gather h0) e1]
          · next s1 _ _ e1 => simp [fst_mem (State.formed_gather h0) e1]
          · next s1 gt e1 =>
            have h1 : Formed s1.mem := fst_mem (State.formed_gather h0) e1
            split
            · simp [h1]
            · refine (State.optMem_chargeBytes h1).bind fun s2 h2 => ?_
              exact State.optMem_writeFree h ((optMem_some _).2 (State.formed_performMove h2))

@[simp] theorem State.optMem_copyTurn {s : State} {die n op : Nat} (h : Formed s.mem) : OptMem Formed (s.copyTurn die n op) := by
  refine State.optMem_withEngine h fun k c g x t d m => ?_
  dsimp only
  split
  · simp [h]
  · exact State.optMem_turnMove h

/-- The memory of the state in which an element of a reduction ends satisfies `P`. -/
def RedMem (P : List Host.Cell → Prop) : Reduced → Prop
  | .done _ s | .fail s .. | .page s .. => P s.mem
  | .skip _ => True

theorem State.redMem_reduceOne {s : State} {e : Via} {m : Reduce} {i : Nat} (h : Formed s.mem) :
    RedMem Formed (s.reduceOne e m i) := by
  unfold State.reduceOne
  extract_lets +onlyGivenNames j
  split
  · trivial
  · split
    · exact fst_mem (State.formed_readElems h) ‹_›
    · exact fst_mem (State.formed_readElems h) ‹_›
    · next s1 _ e1 =>
      have h1 : Formed s1.mem := fst_mem (State.formed_readElems h) e1
      dsimp only
      split
      · exact h1
      · split
        · exact State.formed_viaSeen h1
        · exact h1
        · split
          · exact State.formed_viaSeen h1
          · exact State.foldl_keeps _ (fun u q hu => State.formed_viaPut hu) _ _ (State.formed_viaSeen h1)

@[simp] theorem State.optMem_turnReduce {s : State} {die k : Nat} {c : Cmd} {m : Reduce} (h : Formed s.mem) :
    OptMem Formed (s.turnReduce die k c m) := by
  unfold State.turnReduce
  dsimp only
  repeat' split
  any_goals simp [h]
  all_goals have h1 := State.redMem_reduceOne (e := s.viaOf c die) (m := m) (i := c.pos) h
  · next ks s1 e1 =>
    rw [e1] at h1
    refine (State.optMem_chargeBytes h1).bind fun s2 h2 => ?_
    exact State.optMem_writeFree h ((optMem_some _).2 (by simpa using h2))
  · next s1 _ _ _ e1 =>
    rw [e1] at h1
    exact h1
  · next s1 _ _ e1 =>
    rw [e1] at h1
    exact State.formed_pageCmd h1

@[simp] theorem State.optMem_bankTurn {s : State} {die : Nat} (h : Formed s.mem) : OptMem Formed (s.bankTurn die) := by
  refine State.optMem_withEngine h fun k c g x t d m => ?_
  dsimp only
  repeat' split
  all_goals simp [h]

@[simp] theorem State.optMem_sendPart {s : State} {e : Via} {k : Nat} {c : Cmd} {m : Move} {link n : Nat}
    (h : Formed s.mem) : OptMem Formed (s.sendPart e k c m link n) := by
  unfold State.sendPart
  dsimp only
  split
  · next s1 _ _ e1 => simp [fst_mem (State.formed_readElems h) e1]
  · next s1 _ e1 => simp [fst_mem (State.formed_readElems h) e1]
  · next s1 _ e1 =>
    have h1 : Formed s1.mem := fst_mem (State.formed_readElems h) e1
    repeat' split
    · simp [h1]
    · simp [h1]
    · exact (State.optMem_chargeBytes h1).map fun s2 h2 => by simpa using h2

@[simp] theorem State.optMem_linkTurn {s : State} {die : Nat} (h : Formed s.mem) : OptMem Formed (s.linkTurn die) := by
  refine State.optMem_withEngine h fun k c g x t d m => ?_
  dsimp only
  repeat' split
  all_goals simp [h]

@[simp] theorem State.optMem_remoteDelivered {s : State} {k : Nat} (h : Formed s.mem) : OptMem Formed (s.remoteDelivered k) := by
  unfold State.remoteDelivered
  split
  · exact optMem_none
  · split
    · exact optMem_none
    · extract_lets +onlyGivenNames s1
      have h1 : Formed s1.mem := h
      split
      · exact (optMem_some _).2 h1
      · next m _ _ =>
        extract_lets +onlyGivenNames sub
        have hs (f : Bool) (c : Byte) (u : State) : (sub f c u).mem = u.mem := by
          dsimp only [sub]
          split <;> rfl
        split
        · rw [optMem_some, State.remoteLost_mem _ _ _ (hs true 0x18)]
          exact h1
        · dsimp only
          split
          · rw [optMem_some, State.remoteLost_mem _ _ _ (hs true 0x18)]
            exact h1
          · rw [optMem_some, hs]
            exact State.foldl_keeps _ (fun u p hu => State.formed_wrByte hu) _ _ h1

/-! ### Instructions on tokens -/

@[simp] theorem State.formed_countMesh {s : State} {r : Nat} {f : Region → Region} (h : Formed s.mem) :
    Formed (s.countMesh r f).mem := by
  unfold State.countMesh
  simp [h]

@[simp] theorem State.formed_sendHere {s : State} {p : Nat} {kind : BitVec 4} {payload : List Dw} (h : Formed s.mem) :
    Formed (s.sendHere p kind payload).mem := by
  unfold State.sendHere
  dsimp only
  repeat' split
  all_goals simp [h]

/-! ### System instructions -/

@[simp] theorem State.formed_refuseMatrix {s : State} (h : Formed s.mem) : Formed s.refuseMatrix.mem := by
  unfold State.refuseMatrix
  dsimp only
  repeat' split
  all_goals simp [h]

/-! ### Cuts -/

@[simp] theorem State.formed_saveFault {s : State} {r a : Nat} {e : Nat × Dw} (h : Formed s.mem) :
    Formed (s.saveFault r a e).mem := by
  unfold State.saveFault
  dsimp only
  simp [h]

@[simp] theorem State.formed_beginCut {s : State} {r : Nat} {by_ : CutBy} (h : Formed s.mem) : Formed (s.beginCut r by_).mem := by
  unfold State.beginCut
  split
  · exact h
  · split
    · exact h
    · extract_lets +onlyGivenNames s' by' s0 s1
      have hs : s'.mem = s.mem := by
        dsimp only [s']
        split <;> simp
      have h1 : Formed s1.mem := by simpa [s1, s0, hs] using h
      split
      · next s2 e => exact State.excMem_areaWrite h1 s2 e
      · exact State.formed_saveFault h1

@[simp] theorem State.formed_markRegion {s : State} {v : Dw} {o : Owed} (h : Formed s.mem) : Formed (s.markRegion v o).mem := by
  unfold State.markRegion
  dsimp only
  repeat' split
  any_goals simp [h]
  exact State.formed_beginCut h

@[simp] theorem State.formed_cutRequest {s : State} {slice : Nat} {v : Word} (h : Formed s.mem) :
    Formed (s.cutRequest slice v).mem := by
  unfold State.cutRequest
  dsimp only
  repeat' split
  any_goals exact h
  exact State.formed_beginCut h

@[simp] theorem State.excMem_writeEntry {s : State} {r : Nat} {g : Region} {a : Nat} {x : Actor} (h : Formed s.mem) :
    ExcMem Formed (s.writeEntry r g a x) := by
  unfold State.writeEntry
  dsimp only
  repeat' split
  all_goals simp [h]

@[simp] theorem State.excMem_writeRecorded {s : State} {g : Region} {a : Nat} {x : Actor} (h : Formed s.mem) :
    ExcMem Formed (s.writeRecorded g a x) := by
  unfold State.writeRecorded
  dsimp only
  repeat' split
  any_goals simp [h]
  next s1 e1 _ s2 e2 =>
    exact State.excMem_areaWrite (State.excMem_areaWrite (State.excMem_areaWrite h s1 e1) s2 e2)

@[simp] theorem State.excMem_writeCtrl {s : State} {g : Region} {k : Nat} {c : Ctrl} (h : Formed s.mem) :
    ExcMem Formed (s.writeCtrl g k c) := by
  unfold State.writeCtrl
  dsimp only
  repeat' split
  all_goals simp [h]

@[simp] theorem State.formed_orFault {s : State} {r a : Nat} {w : Except (Nat × Dw) State} (h : Formed s.mem)
    (hw : ExcMem Formed w) : Formed (s.orFault r a w).mem := by
  unfold State.orFault
  split
  · exact hw _ rfl
  · exact State.formed_saveFault h

@[simp] theorem State.optMem_ctrlSolstice {s : State} {r k link : Nat} (h : Formed s.mem) :
    OptMem Formed (s.ctrlSolstice r k link) := by
  unfold State.ctrlSolstice
  dsimp only
  repeat' split
  any_goals simp [h]
  all_goals exact State.formed_orFault h (State.excMem_writeCtrl h)

@[simp] theorem State.optMem_solstice {s : State} {r a port : Nat} (h : Formed s.mem) : OptMem Formed (s.solstice r a port) := by
  unfold State.solstice
  dsimp only
  repeat' split
  all_goals simp [h]

@[simp] theorem State.optMem_saveActor {s : State} {r a : Nat} (h : Formed s.mem) : OptMem Formed (s.saveActor r a) := by
  unfold State.saveActor
  split
  · exact optMem_none
  · split
    · exact optMem_none
    · dsimp only
      split
      · exact optMem_none
      · split
        · simp [h]
        · next s1 e =>
          have h1 : Formed s1.mem := State.excMem_writeEntry h s1 e
          rw [optMem_some, State.settleCut_mem]
          split
          · simpa using h1
          · have h2 : Formed (((s1.forward r a).modActor r a fun x => { x.recordWaiting with cut := .record })).mem := by
              simpa using h1
            exact State.formed_orFault h2 (State.excMem_writeRecorded h2)

@[simp] theorem State.optMem_record {s : State} {r a port : Nat} (h : Formed s.mem) : OptMem Formed (s.record r a port) := by
  have hs (u : State) (g : Region) (x : Actor) (hu : Formed u.mem) :
      Formed (((u.modActor r a fun _ => x).orFault r a ((u.modActor r a fun _ => x).writeRecorded g a x)).settleCut r).mem := by
    have h1 : Formed (u.modActor r a fun _ => x).mem := by simpa using hu
    simpa using State.formed_orFault h1 (State.excMem_writeRecorded h1)
  unfold State.record
  split
  · exact optMem_none
  · extract_lets +onlyGivenNames onNet
    clear_value onNet
    split
    · dsimp only
      split
      · split
        · exact optMem_none
        · rw [optMem_some, State.settleCut_mem]
          exact State.formed_orFault h (State.excMem_writeCtrl h)
      · exact optMem_none
    · split
      · exact optMem_none
      · dsimp only
        repeat' split
        any_goals exact optMem_none
        all_goals exact (optMem_some _).2 (hs _ _ _ h)

@[simp] theorem State.excMem_writeSnapshot {s : State} {g : Region} (h : Formed s.mem) : ExcMem Formed (s.writeSnapshot g) := by
  unfold State.writeSnapshot
  extract_lets +onlyGivenNames rs cs
  have hr : ExcMem Formed rs := by
    refine excMem_foldl (fun o y ho => ?_) _ _ ((excMem_ok _).2 h)
    split
    · exact State.excMem_writeRecorded (ho _ rfl)
    · exact ho
  have hc : ExcMem Formed cs := by
    refine excMem_foldl (fun o c ho => ?_) _ _ hr
    split
    · exact State.excMem_writeCtrl (ho _ rfl)
    · exact ho
  clear_value cs
  split
  · exact excMem_error _
  · next s1 =>
    have h1 : Formed s1.mem := hc s1 rfl
    split
    · exact excMem_error _
    · next s2 e2 => exact State.excMem_areaWrite (State.excMem_areaWrite h1 s2 e2)

@[simp] theorem State.optMem_snapshot {s : State} {r : Nat} (h : Formed s.mem) : OptMem Formed (s.snapshot r) := by
  unfold State.snapshot
  split
  · exact optMem_none
  · split
    · exact optMem_none
    · dsimp only
      split
      · simp [h]
      · next s1 e =>
        have h1 : Formed s1.mem := State.excMem_writeSnapshot h s1 e
        have h2 (u : State) (r : Nat) (hu : u.mem = s1.mem) : Formed (u.endLaunch r true).mem :=
          State.formed_endLaunch (by rwa [hu])
        repeat' split
        all_goals simp [h1, h2]

/-! ### Restores -/

theorem State.excFst_reloadPlane {s : State} {r a : Nat} {va : Dw} (h : Formed s.mem) :
    ExcFst Formed (s.reloadPlane r a va) := by
  unfold State.reloadPlane
  repeat' split
  any_goals exact excFst_error _
  exact (excFst_ok _).2 (fst_mem (State.formed_loadImage h) ‹_›)

@[simp] theorem State.excMem_reloadAbacus {s : State} {r a : Nat} {d : List Dw} (h : Formed s.mem) :
    ExcMem Formed (s.reloadAbacus r a d) := by
  unfold State.reloadAbacus
  extract_lets +onlyGivenNames v act sh was owed base s0 first
  have h0 : Formed s0.mem := by simpa [s0] using h
  have hf : ExcFst Formed first := by
    dsimp only [first]
    split
    · exact (excFst_ok _).2 h0
    · exact (State.excFst_reloadPlane h0).map fun _ hp => hp
  clear_value first
  split
  · exact excMem_error _
  · next sa pa =>
    extract_lets +onlyGivenNames s1 second
    have h1 : Formed s1.mem := by simpa [s1] using hf _ rfl
    have hs : ExcFst Formed second := by
      dsimp only [second]
      split
      · exact (excFst_ok _).2 h1
      · split
        · exact (excFst_ok _).2 h1
        · split
          · exact (excFst_ok _).2 h1
          · exact (State.excFst_reloadPlane h1).map fun _ hp => hp
    clear_value second
    split
    · exact excMem_error _
    · next sb _ _ =>
      have hb : Formed sb.mem := hs _ rfl
      exact (excMem_ok _).2 (by simpa using hb)

@[simp] theorem State.excMem_readTail {s : State} {r a : Nat} {m : Img} {k : Option Kept} {d : List Dw}
    (h : Formed s.mem) : ExcMem Formed (s.readTail r a m k d) := by
  unfold State.readTail
  split
  · split
    · refine (excMem_ok _).2 ?_
      rw [State.reloadAcc_mem, foldl_fst_mem]
      · exact h
      · intro u p
        exact State.modTile_mem ..
    · exact (excMem_ok _).2 (by simpa using h)
    · simp [h]
    · exact State.excMem_reloadAbacus h
    · exact (excMem_ok _).2 (by simpa using h)
    · simp [h]
    · simp [h]
    · simp [h]
    · simp [h]
  · simp [h]

@[simp] theorem State.excMem_restoreActor {s : State} {r a : Nat} {l : Load} {m : Img} {k : Option Kept} {now : Dw}
    {asid : Nat} (h : Formed s.mem) : ExcMem Formed (s.restoreActor r a l m k now asid) := by
  unfold State.restoreActor
  dsimp only
  split
  · split
    · simp [h]
    · split
      · exact excMem_error _
      · split
        · exact excMem_error _
        · split
          · exact excMem_error _
          · next s2 e =>
            refine (excMem_ok _).2 ?_
            rw [State.modRegion_mem]
            exact State.excMem_readTail (by simpa using h) s2 e
  · simp [h]

@[simp] theorem State.excMem_restoreInto {s : State} {r : Nat} {l : Load} {m : Img} {d : List Dw} {k : Option Kept}
    {launch : Launch} {asid : Nat} (h : Formed s.mem) : ExcMem Formed (s.restoreInto r l m d k launch asid) := by
  unfold State.restoreInto
  split
  · exact (excMem_ok s).2 h
  · split
    · exact excMem_error _
    · exact excMem_error _
    · split
      · exact excMem_error _
      · next s1 e1 =>
        have h1 : Formed s1.mem := State.excMem_restoreStages h s1 e1
        dsimp only
        split
        · exact excMem_error _
        · next s3 e3 =>
          have h3 : Formed s3.mem :=
            excMem_restFold (by simpa using h1) (fun u a hu => State.excMem_restoreActor hu) s3 e3
          split
          · exact excMem_error _
          · next s4 e4 =>
            have h4 : Formed s4.mem := excMem_restFold h3 (fun u c hu => State.excMem_restoreCtrl hu) s4 e4
            split
            · exact excMem_error _
            · split
              · exact excMem_error _
              · next s6 e6 => exact (excMem_ok _).2 (State.excMem_areaWrite (by simpa using h4) s6 e6)

@[simp] theorem State.formed_restoreRecord {s : State} {l : Load} {d : List Dw} {e : RestErr} (h : Formed s.mem) :
    Formed (s.restoreRecord l d e).1.mem := by
  unfold State.restoreRecord
  extract_lets +onlyGivenNames n asid t tmp key s1 i rec_ s2 lost s3
  have h2 : Formed s2.mem := State.formed_writeRecord h
  have h3 : Formed s3.mem := by
    dsimp only [s3]
    split
    · next u e => exact State.excMem_areaWrite h2 u e
    · exact h2
  exact h3

@[simp] theorem State.formed_areaSeen {s : State} {die asid : Nat} {l : List (Nat × Nat)} (h : Formed s.mem) :
    Formed (s.areaSeen die asid l).mem := by
  induction l generalizing s with
  | nil => exact h
  | cons p l ih =>
    unfold State.areaSeen
    split
    · exact ih (State.formed_saveSeen h)
    · exact h

theorem State.excFst_restoreNow {s : State} {l : Load} {d : List Dw} (h : Formed s.mem) : ExcFst Formed (s.restoreNow l d) := by
  unfold State.restoreNow
  extract_lets +onlyGivenNames n asid va o
  split
  · exact excFst_error _
  · split
    · exact excFst_error _
    · extract_lets +onlyGivenNames z k back
      have hb (u : State) (m : Kept → Nat → Nat → Option Nat) (hu : Formed u.mem) : Formed (back u m).mem := by
        clear_value k
        dsimp only [back]
        split
        · simpa using hu
        · exact hu
      clear_value back
      dsimp only
      split
      · exact excFst_error _
      · split
        · exact excFst_error _
        · split
          · exact excFst_error _
          · split
            · exact excFst_error _
            · next s1 r e1 =>
              split
              · exact excFst_error _
              · next s2 e2 =>
                have h2 : Formed s2.mem := State.excMem_restoreInto (State.excFst_place h _ e1) s2 e2
                exact (excFst_ok _).2 (hb s2 _ h2)

@[simp] theorem State.formed_finishRestore {s : State} {k : Nat} {l : Load} (h : Formed s.mem) :
    Formed (s.finishRestore k l).mem := by
  unfold State.finishRestore
  extract_lets +onlyGivenNames die s0 fail
  have h0 : Formed s0.mem := State.formed_areaSeen h
  have hf (u : State) (n : Nat) (x y z : Dw) (hu : Formed u.mem) : Formed (fail u n x y z).mem := by
    dsimp only [fail]
    split <;> simp [hu]
  clear_value fail
  split
  · exact hf _ _ _ _ _ h0
  · extract_lets +onlyGivenNames d s1
    have h1 : Formed s1.mem := State.formed_areaSeen h0
    split
    · exact hf _ _ _ _ _ h0
    · split
      · split
        · simpa using h
        · split
          next u adr e => exact hf u _ _ _ _ (fst_mem (State.formed_restoreRecord h1) e)
      · split
        next u err since e =>
        have hu : Formed u.mem := fst_mem (State.formed_engineFault h) e
        dsimp only
        split
        · simpa using hu
        · exact hf _ _ _ _ _ (State.formed_restoreRecord (by simpa using hu))
      · split
        next u adr e => exact hf u _ _ _ _ (fst_mem (State.formed_restoreRecord h1) e)
      · split
        next u adr e => exact hf u _ _ _ _ (fst_mem (State.formed_restoreRecord h1) e)
      · next u r len e =>
        have hu : Formed u.mem := State.excFst_restoreNow h1 _ e
        exact State.formed_checkEdges (by simpa using hu)

@[simp] theorem State.optMem_loadDone {s : State} {k : Nat} (h : Formed s.mem) : OptMem Formed (s.loadDone k) := by
  unfold State.loadDone
  repeat' split
  all_goals simp [h]

/-! ### Elastic stages -/

@[simp] theorem State.formed_resumeCut {s : State} {r : Nat} (h : Formed s.mem) : Formed (s.resumeCut r).mem := by
  unfold State.resumeCut
  repeat' split
  all_goals simp [h]

@[simp] theorem State.optMem_retireReplica {s : State} {r k : Nat} (h : Formed s.mem) : OptMem Formed (s.retireReplica r k) := by
  unfold State.retireReplica
  dsimp only
  repeat' split
  all_goals simp [h]

@[simp] theorem State.optMem_changeMembers {s : State} {r k : Nat} (h : Formed s.mem) : OptMem Formed (s.changeMembers r k) := by
  unfold State.changeMembers
  dsimp only
  repeat' split
  all_goals simp [h]

/-! ### The front end -/

@[simp] theorem State.optMem_startLaunch {s : State} {slice : Nat} {l : Launch} (h : Formed s.mem) :
    OptMem Formed (s.startLaunch slice l) := by
  unfold State.startLaunch
  dsimp only
  repeat' split
  all_goals simp [h]

@[simp] theorem State.formed_takeRecord {s : State} {slice q order : Nat} (h : Formed s.mem) :
    Formed (s.takeRecord slice q order).mem := by
  unfold State.takeRecord
  dsimp only
  split
  · simpa using h
  · next ps ms e =>
    have h1 : Formed (s.mark false ms).mem := State.formed_mark h
    split
    · exact State.formed_refuseLaunch h1
    · exact OptMem.getD (State.optMem_startLaunch h1) (by simpa using h1)

@[simp] theorem State.optMem_takeHead {s : State} {slice : Nat} {p : Pick × Nat × Nat} (h : Formed s.mem) :
    OptMem Formed (s.takeHead slice p) := by
  unfold State.takeHead
  repeat' split
  all_goals simp [h]

@[simp] theorem State.optMem_takeFirst {s : State} {slice : Nat} {l : List (Pick × Nat × Nat)} {l' : List Nat}
    (h : Formed s.mem) : OptMem Formed (s.takeFirst slice l l') := by
  induction l' with
  | nil => exact optMem_none
  | cons p ps ih =>
    unfold State.takeFirst
    split
    · next s1 e => exact (optMem_some s1).2 (optMem_bind (fun _ => State.optMem_takeHead h) s1 e)
    · exact ih

@[simp] theorem State.optMem_frontEnd {s : State} {slice : Nat} (h : Formed s.mem) : OptMem Formed (s.frontEnd slice) := by
  unfold State.frontEnd
  dsimp only
  repeat' split
  all_goals simp [h]

@[simp] theorem State.optMem_preempt {s : State} {slice : Nat} (h : Formed s.mem) : OptMem Formed (s.preempt slice) := by
  unfold State.preempt
  dsimp only
  split
  · exact optMem_none
  · exact optMem_map fun p => State.formed_beginCut h

@[simp] theorem State.optMem_deliverRecord {s : State} {r : Nat} (h : Formed s.mem) : OptMem Formed (s.deliverRecord r) := by
  unfold State.deliverRecord
  dsimp only
  repeat' split
  all_goals simp [h]

/-! ### Displays -/

@[simp] theorem State.formed_grantSeen {s : State} {die asid va n : Nat} {need : Need} (h : Formed s.mem) :
    Formed (s.grantSeen die asid va n need).mem := by
  unfold State.grantSeen
  simp [h]

@[simp] theorem State.formed_scan {s : State} {die : Nat} {hd : Head} {va n : Nat} (h : Formed s.mem) :
    Formed (s.scan die hd va n).1.mem := by
  induction n generalizing s va with
  | zero => exact h
  | succ n ih =>
    unfold State.scan
    dsimp only
    split
    · exact State.formed_grantSeen h
    · exact ih (State.formed_grantSeen h)

@[simp] theorem State.formed_writeBack {s : State} {die : Nat} {hd : Head} {va : Nat} {l : List (List Nat)}
    (h : Formed s.mem) : Formed (s.writeBack die hd va l).1.mem := by
  induction l generalizing s va with
  | nil => exact h
  | cons row l ih =>
    unfold State.writeBack
    dsimp only
    split
    · exact ih (State.formed_hwWrite (State.formed_grantSeen h))
    · exact State.formed_grantSeen h

@[simp] theorem State.optMem_frameStart {s : State} {die k : Nat} (h : Formed s.mem) : OptMem Formed (s.frameStart die k) := by
  unfold State.frameStart
  extract_lets +onlyGivenNames d hd
  split
  · exact optMem_none
  · extract_lets +onlyGivenNames seen surface h1
    clear_value surface
    split
    next u rows e =>
    have hu : Formed u.mem := by
      refine fst_mem ?_ e
      split
      · exact State.formed_scan h
      · exact h
    dsimp only
    split
    · simpa using hu
    · split
      · simpa using hu
      · simpa using State.formed_writeBack hu

@[simp] theorem State.formed_ringWrite {s : State} {die asid base size off : Nat} {l : List Byte} (h : Formed s.mem) :
    Formed (s.ringWrite die asid base size off l).1.mem := by
  unfold State.ringWrite
  extract_lets +onlyGivenNames put one two
  have hp (u : State) (va : Nat) (b : List Byte) (hu : Formed u.mem) : Formed (put u va b).1.mem := by
    dsimp only [put]
    split
    · exact State.formed_hwWrite (State.formed_grantSeen hu)
    · exact State.formed_grantSeen hu
  have h1 : Formed (if one = [] then (s, true) else put s (base + off) one).1.mem := by
    split
    · exact h
    · exact hp _ _ _ h
  generalize (if one = [] then (s, true) else put s (base + off) one) = q at h1 ⊢
  dsimp only
  split
  · exact h1
  · exact hp _ _ _ h1

@[simp] theorem State.optMem_frameDone {s : State} {die k : Nat} {frame : List Byte} (h : Formed s.mem) :
    OptMem Formed (s.frameDone die k frame) := by
  unfold State.frameDone
  dsimp only
  repeat' split
  all_goals simp [h]

/-! ### Links -/

@[simp] theorem State.formed_partOut {s : State} {base i : Nat} (h : Formed s.mem) : Formed (s.partOut base i).mem := by
  unfold State.partOut
  dsimp only
  simp [h]

@[simp] theorem State.formed_partBack {s : State} {base i : Nat} (h : Formed s.mem) : Formed (s.partBack base i).mem := by
  unfold State.partBack
  dsimp only
  simp [h]

@[simp] theorem State.optMem_packageCopy {s : State} {base : Nat} {back : Bool} (h : Formed s.mem) :
    OptMem Formed (s.packageCopy base back) := by
  unfold State.packageCopy
  dsimp only
  repeat' split
  all_goals simp [h]

@[simp] theorem State.optMem_edgeDown {s : State} {e : Nat} (h : Formed s.mem) : OptMem Formed (s.edgeDown e) := by
  unfold State.edgeDown
  dsimp only
  split
  · exact optMem_none
  · exact (optMem_some _).2 (State.foldl_keeps _ (fun u r hu => State.formed_endRegion hu) _ _ h)

/-! ### The package -/

@[simp] theorem State.formed_dropHeld {s : State} {slice : Nat} (h : Formed s.mem) : Formed (s.dropHeld slice).mem :=
  State.foldl_keeps _ (fun _ _ hu => State.formed_refuseLaunch hu) _ s h

@[simp] theorem State.formed_stopSlice {s : State} {slice : Nat} (h : Formed s.mem) : Formed (s.stopSlice slice).mem :=
  State.formed_dropHeld (State.foldl_keeps _ (fun _ _ hu => State.formed_endRegion hu) _ s h)

@[simp] theorem State.formed_writeDesc {s : State} {slice : Nat} {v : BitVec 128} (h : Formed s.mem) :
    Formed (s.writeDesc slice v).mem := by
  unfold State.writeDesc
  extract_lets +onlyGivenNames n new
  split
  · exact h
  · split
    · split
      · exact h
      · refine State.foldl_keeps _ (fun u d hu => ?_) _ _ (State.formed_stopSlice h)
        split <;> exact hu
    · split
      · exact h
      · dsimp only
        split
        · rw [State.remeasure_mem]
          exact h
        · exact h

/-! ### Bring-up -/

@[simp] theorem State.formed_unlockDebug {s : State} : Formed s.unlockDebug.mem :=
  Memory.wf_reset

/-! ### Commands of units -/

@[simp] theorem State.optMem_runStream {s : State} {r a k : Nat} {c : Cmd} {x : Actor} {seg : LaneSeg} {m : LaneStream}
    (h : Formed s.mem) : OptMem Formed (s.runStream r a k c x seg m) := by
  unfold State.runStream
  extract_lets +onlyGivenNames e bytes all ny misfit
  have hm (u : State) (hu : Formed u.mem) : OptMem Formed (misfit u) := by simpa [misfit] using hu
  clear_value misfit
  split
  · exact hm s h
  · split
    · exact optMem_none
    · split
      · next s1 _ _ e1 => simp [fst_mem (State.formed_readElems h) e1]
      · next s1 _ e1 => simp [fst_mem (State.formed_readElems h) e1]
      · next s1 _ e1 =>
        have h1 : Formed s1.mem := fst_mem (State.formed_readElems h) e1
        split
        · next s2 _ _ e2 => simp [fst_mem (State.formed_readElems h1) e2]
        · next s2 _ e2 => simp [fst_mem (State.formed_readElems h1) e2]
        · next s2 ys e2 =>
          have h2 : Formed s2.mem := fst_mem (State.formed_readElems h1) e2
          split
          next t1 out _ =>
          extract_lets +onlyGivenNames es
          split
          · exact hm s2 h2
          · extract_lets +onlyGivenNames w put
            have hp : Formed put.1.mem := by
              refine foldl_fst_keeps _ (fun acc p ha => ?_) _ _ h2
              split
              · exact ha
              · dsimp only
                split
                · exact State.formed_viaSeen ha
                · exact ha
                · exact State.formed_mark ha
            clear_value put
            split
            · next s3 _ _ => simpa using hp
            · next s3 _ => simpa using State.formed_pageCmd hp
            · next s3 l =>
              extract_lets +onlyGivenNames s4 s5 keys whole
              have h5 : Formed s5.mem := by simpa [s5, s4] using hp
              split
              · simpa using h5
              · refine State.optMem_writeFree h ((optMem_some _).2 ?_)
                extract_lets +onlyGivenNames s6 puts
                have h6 : Formed s6.mem := State.foldl_keeps _ (fun u q hu => by exact hu) _ _ h5
                split
                next s7 _ _ e7 =>
                have h7 : Formed s7.mem := fst_mem (State.formed_putAll h6) e7
                extract_lets +onlyGivenNames s8 src s9
                have h8 : Formed s8.mem := State.formed_poisonKeys h7
                have h9 : s9.mem = s8.mem := by
                  dsimp only [s9]
                  split <;> simp
                split <;> simpa [h9] using h8

@[simp] theorem State.optMem_laneStreamTurn {s : State} {r a : Nat} (h : Formed s.mem) : OptMem Formed (s.laneStreamTurn r a) := by
  unfold State.laneStreamTurn
  repeat' split
  any_goals exact optMem_none
  · exact optMem_bind fun m => State.optMem_runStream h
  · refine State.optMem_unitCommand h fun g x i b w fo => ?_
    dsimp only
    repeat' split
    all_goals simp [h]

@[simp] theorem State.optMem_runOne {s : State} {r a k : Nat} {c : Cmd} {x : Actor} {p : Plane} {xt dt : Tensor}
    {scale : Nat} (h : Formed s.mem) : OptMem Formed (s.runOne r a k c x p xt dt scale) := by
  unfold State.runOne
  extract_lets +onlyGivenNames e kk row wb xb
  split
  split
  · exact optMem_none
  · split
    · next s1 _ _ e1 => simp [fst_mem (State.formed_readElems h) e1]
    · next s1 _ e1 => simp [fst_mem (State.formed_readElems h) e1]
    · next s1 es e1 =>
      have h1 : Formed s1.mem := fst_mem (State.formed_readElems h) e1
      split
      · simp [State.formed_viaSeen h1]
      · simp [h1]
      · next ks ms _ =>
        extract_lets +onlyGivenNames whole
        split
        · simp [State.formed_mark h1]
        · refine State.optMem_writeFree h ((optMem_some _).2 ?_)
          extract_lets +onlyGivenNames s2 c1
          have h2 : Formed s2.mem := State.formed_mark h1
          split
          · extract_lets +onlyGivenNames s3 s4
            have h3 : Formed s3.mem := State.formed_poisonKeys h2
            have h4 : s4.mem = s3.mem := by
              dsimp only [s4]
              split <;> simp
            simpa [h4] using h3
          · split
            next ys code flt st _ =>
              extract_lets +onlyGivenNames s3 s4 s5
              have h3 : Formed s3.mem := State.foldl_keeps _ (fun u q hu => State.formed_viaPut hu) _ _ h2
              have h4 : Formed s4.mem := State.foldl_keeps _ (fun u q hu => by exact hu) _ _ h3
              have h5 : Formed s5.mem := by simpa [s5] using h4
              split
              · simpa using h5
              · simpa using h5
              · extract_lets +onlyGivenNames s6
                have h6 : s6.mem = s5.mem := by
                  dsimp only [s6]
                  split <;> simp
                simpa [h6] using h5

@[simp] theorem State.optMem_abRunTurn {only : Bool} {s : State} {r a : Nat} (h : Formed s.mem) :
    OptMem Formed (s.abRunTurn only r a) := by
  unfold State.abRunTurn
  dsimp only
  repeat' split
  any_goals simp [h]
  exact State.optMem_unitCommand h fun g x i b w fo => State.optMem_startRun h

@[simp] theorem State.optMem_loseNext {s : State} {e : Via} {k : Nat} {c : Cmd} {x : Ext} {d : Tensor} {total n va : Nat}
    {need : Need} {al : Nat} (h : Formed s.mem) : OptMem Formed (s.loseNext e k c x d total n va need al) := by
  unfold State.loseNext
  repeat' split
  all_goals simp [h]

@[simp] theorem State.optMem_metaCommand {s : State} {k : Nat} {c : Cmd} (h : Formed s.mem) :
    OptMem Formed (s.metaCommand k c) := by
  unfold State.metaCommand
  split
  · exact optMem_none
  · split
    · dsimp only
      repeat' split
      any_goals exact optMem_none
      any_goals exact State.optMem_loseNext h
      all_goals
        rename_i s1 gt e1
        have h1 : Formed s1.mem := fst_mem (State.formed_gather h) e1
        exact optMem_map fun u => by simpa using State.formed_mark h1
    · exact optMem_none

end Sys2Proof.Machine

namespace Sys2Proof.Machine

/-! ## Instructions and events

The instructions whose meaning is more than one call of an operation above, or a call that is given a function of the operands. -/

variable {P : List Host.Cell → Prop}

/-- An update that a condition guards keeps what holds of memory when it does. -/
theorem resMem_guarded {c : Prop} [Decidable c] {s t : State} (ht : P t.mem) (h : P s.mem) :
    ResMem P (.next (if c then t else s)) := by
  rw [resMem_next]
  split
  · exact ht
  · exact h

/-- The same of an event whose condition may fail. -/
theorem resMem_occur_guarded {c : Prop} [Decidable c] {s t : State} (ht : P t.mem) (h : P s.mem) :
    ResMem P (occur s (if c then some t else none)) :=
  resMem_occur h (by split <;> simp [ht])

/-! ### Global memory -/

@[simp] theorem resMem_execStg {g b : Reg} {f : BitVec 5} {sc o : BitVec 2} {s : State} (h : P s.mem) :
    ResMem P (execStg g b f sc o s) := by
  unfold execStg
  repeat' split
  all_goals simp [h]

@[simp] theorem resMem_execPrf {b : Reg} {sc : BitVec 2} {o : Bool} {s : State} (h : Formed s.mem) :
    ResMem Formed (execPrf b sc o s) := by
  unfold execPrf
  dsimp only
  repeat' split
  all_goals simp [h]

@[simp] theorem resMem_execCinv {b : Reg} {s : State} (h : P s.mem) : ResMem P (execCinv b s) := by
  unfold execCinv
  rw [resMem_next, State.advance_mem]
  split
  · exact State.foldl_keeps _ (fun u n hu => by exact hu) _ _ h
  · exact h

/-! ### Memory events -/

theorem resMem_execBankOperationPerform {tile k : Nat} {s : State} (h : Formed s.mem) :
    ResMem Formed (execBankOperationPerform tile k s) :=
  resMem_accessEvent h

theorem resMem_execFutureGetPerform {tile k : Nat} {s : State} (h : Formed s.mem) :
    ResMem Formed (execFutureGetPerform tile k s) :=
  resMem_accessEvent h

theorem resMem_execFuturePutPerform {tile k : Nat} {s : State} (h : Formed s.mem) :
    ResMem Formed (execFuturePutPerform tile k s) :=
  resMem_accessEvent h

theorem resMem_execFutureClearPerform {tile k : Nat} {s : State} (h : Formed s.mem) :
    ResMem Formed (execFutureClearPerform tile k s) :=
  resMem_accessEvent h

theorem resMem_execStoreAccept {tile k : Nat} {s : State} (h : Formed s.mem) : ResMem Formed (execStoreAccept tile k s) :=
  resMem_accessEvent h

@[simp] theorem resMem_execWritePerform {tile k : Nat} {s : State} (h : Formed s.mem) :
    ResMem Formed (execWritePerform tile k s) := by
  unfold execWritePerform
  repeat' split
  all_goals simp [h]

@[simp] theorem resMem_execRequestResponse {tile k : Nat} {deliver : Bool} {s : State} (h : Formed s.mem) :
    ResMem Formed (execRequestResponse tile k deliver s) := by
  unfold execRequestResponse
  repeat' split
  all_goals simp [h]

@[simp] theorem resMem_execPageWalk {tile k : Nat} {s : State} (h : Formed s.mem) : ResMem Formed (execPageWalk tile k s) := by
  unfold execPageWalk
  split
  · exact (resMem_next _).2 h
  · dsimp only
    split
    · exact (resMem_next _).2 h
    · split
      · exact (resMem_next _).2 h
      · exact (resMem_next _).2 h
      · exact (resMem_next _).2 ((State.optMem_spill h).getD h)
      · split
        · exact (resMem_next _).2 h
        · refine (resMem_next _).2 (State.foldl_keeps _ (fun u p hu => ?_) _ _ h)
          split
          · simpa using State.formed_mark hu
          · exact hu

@[simp] theorem resMem_execSpillRetry {tile k : Nat} {s : State} (h : Formed s.mem) : ResMem Formed (execSpillRetry tile k s) := by
  unfold execSpillRetry
  dsimp only
  repeat' split
  all_goals simp [h]

@[simp] theorem resMem_execFaultWindowExpiry {tile k : Nat} {s : State} (h : P s.mem) :
    ResMem P (execFaultWindowExpiry tile k s) := by
  unfold execFaultWindowExpiry
  dsimp only
  repeat' split
  all_goals simp [h]

@[simp] theorem resMem_execHostRead {fn pa n : Nat} {s : State} (h : P s.mem) : ResMem P (execHostRead fn pa n s) := by
  unfold execHostRead
  dsimp only
  repeat' split
  all_goals simp [h]

@[simp] theorem resMem_execHostWrite {fn pa : Nat} {data : List Byte} {s : State} (h : Formed s.mem) :
    ResMem Formed (execHostWrite fn pa data s) := by
  unfold execHostWrite
  dsimp only
  repeat' split
  all_goals simp [h]

@[simp] theorem resMem_execPeerAccess {link pa n : Nat} {write : Bool} {data : List Byte} {s : State} (h : Formed s.mem) :
    ResMem Formed (execPeerAccess link pa n write data s) := by
  unfold execPeerAccess
  dsimp only
  repeat' split
  all_goals simp [h]

@[simp] theorem resMem_execCorrectedError {die kind unit page : Nat} {s : State} (h : Formed s.mem) :
    ResMem Formed (execCorrectedError die kind unit page s) := by
  unfold execCorrectedError
  dsimp only
  repeat' split
  any_goals simp [h]
  all_goals exact State.formed_faultRecord h

@[simp] theorem resMem_execDieReset (die : Nat) (l : List Nat) {s : State} (h : Formed s.mem) :
    ResMem Formed (execDieReset die l s) := by
  unfold execDieReset
  extract_lets +onlyGivenNames dirty s1 gone s2
  have h1 : Formed s1.mem := State.foldl_keeps _ (fun u n hu => by simpa using hu) _ _ h
  have h2 : Formed s2.mem := h1
  rw [resMem_next, State.resetDie_mem]
  exact State.formed_endAndRemove h2

/-! ### Abaci -/

theorem resMem_execAbload {a b : Reg} {p : Port} {s : State} (h : Formed s.mem) : ResMem Formed (execAbload a b p s) :=
  resMem_engineRequest h fun u o hu => by simpa using hu

theorem resMem_execAbswap {b : Reg} {p : Port} {s : State} (h : Formed s.mem) : ResMem Formed (execAbswap b p s) :=
  resMem_engineRequest h fun u o hu => by simpa using hu

theorem resMem_execAbdrop {b : Reg} {p : Port} {s : State} (h : Formed s.mem) : ResMem Formed (execAbdrop b p s) :=
  resMem_engineRequest h fun u o hu => by simpa using hu

theorem resMem_execAbqry {a b : Reg} {p : Port} {s : State} (h : Formed s.mem) : ResMem Formed (execAbqry a b p s) :=
  resMem_engineRequest h fun u o hu => by simpa using hu

/-! ### Scalar arithmetic -/

@[simp] theorem resMem_execIns {d a b c : Reg} {s : State} (h : P s.mem) : ResMem P (execIns d a b c s) := by
  unfold execIns
  simp [h]

@[simp] theorem resMem_execExts {d a c : Reg} {s : State} (h : P s.mem) : ResMem P (execExts d a c s) := by
  unfold execExts
  simp [h]

@[simp] theorem resMem_execExtu {d a c : Reg} {s : State} (h : P s.mem) : ResMem P (execExtu d a c s) := by
  unfold execExtu
  simp [h]

/-! ### Barriers -/

@[simp] theorem resMem_execBarset {a b : Reg} {sl : BitVec 6} {s : State} (h : P s.mem) : ResMem P (execBarset a b sl s) := by
  unfold execBarset
  simp [h]

/-! ### Lanes -/

@[simp] theorem resMem_execLselSwitch {tile lane : Nat} {s : State} (h : P s.mem) : ResMem P (execLselSwitch tile lane s) := by
  unfold execLselSwitch
  repeat' split
  all_goals simp [h]

/-! ### Selection and placing -/

@[simp] theorem resMem_execResidencyProbe {r a : Nat} {present : Bool} {s : State} (h : P s.mem) :
    ResMem P (execResidencyProbe r a present s) := by
  unfold execResidencyProbe
  repeat' split
  all_goals simp [h]

/-! ### Placing -/

theorem resMem_execCfgload {a b : Reg} {p : Port} {s : State} (h : Formed s.mem) : ResMem Formed (execCfgload a b p s) :=
  resMem_engineRequest h fun u o hu => by simpa using hu

theorem resMem_execCfgloadRestore {a b : Reg} {p : Port} {s : State} (h : Formed s.mem) :
    ResMem Formed (execCfgloadRestore a b p s) :=
  resMem_engineRequest h fun u o hu => by simpa using hu

@[simp] theorem resMem_execPlace {a b : Reg} {p : Port} {s : State} (h : Formed s.mem) : ResMem Formed (execPlace a b p s) :=
  resMem_engineRequest h fun u o hu => by simpa using hu

/-! ### Streams -/

@[simp] theorem resMem_execCompletionToken {k : Nat} {s : State} (h : P s.mem) : ResMem P (execCompletionToken k s) := by
  unfold execCompletionToken
  dsimp only
  repeat' split
  all_goals simp [h]

@[simp] theorem resMem_execBarrierSubtract {k : Nat} {s : State} (h : P s.mem) : ResMem P (execBarrierSubtract k s) := by
  unfold execBarrierSubtract
  repeat' split
  all_goals simp [h]

/-! ### Instructions on tokens -/

@[simp] theorem resMem_execRecv {g : Reg} {p : Port} {n : BitVec 3} {c sb : Bool} {f : BitVec 3} {s : State}
    (h : P s.mem) : ResMem P (execRecv g p n c sb f s) := by
  unfold execRecv
  simp [h]

@[simp] theorem resMem_execPeek {g : Reg} {p : Port} {n : BitVec 3} {c sb : Bool} {f : BitVec 3} {s : State}
    (h : P s.mem) : ResMem P (execPeek g p n c sb f s) := by
  unfold execPeek
  simp [h]

@[simp] theorem resMem_execSende {p : Port} {e : Bool} {s : State} (h : Formed s.mem) : ResMem Formed (execSende p e s) := by
  unfold execSende
  simp [h]

@[simp] theorem resMem_execSenderr {g : Reg} {p : Port} {s : State} (h : Formed s.mem) : ResMem Formed (execSenderr g p s) := by
  unfold execSenderr
  simp [h]

@[simp] theorem resMem_execFwd {i p : Port} {s : State} (h : Formed s.mem) : ResMem Formed (execFwd i p s) := by
  unfold execFwd
  repeat' split
  all_goals simp [h]

@[simp] theorem resMem_execRsv {g : Reg} {p : Port} {n : BitVec 3} {s : State} (h : P s.mem) : ResMem P (execRsv g p n s) := by
  unfold execRsv
  dsimp only
  repeat' split
  all_goals simp [h]

@[simp] theorem resMem_execWemit {g : Reg} {e n : BitVec 3} {s : State} (h : Formed s.mem) :
    ResMem Formed (execWemit g e n s) := by
  unfold execWemit
  dsimp only
  repeat' split
  all_goals simp [h]

@[simp] theorem resMem_execWrsv {g : Reg} {e : BitVec 3} {n : BitVec 8} {s : State} (h : Formed s.mem) :
    ResMem Formed (execWrsv g e n s) := by
  unfold execWrsv
  dsimp only
  repeat' split
  all_goals simp [h]

/-! ### System instructions -/

@[simp] theorem resMem_execCsrr {g : Reg} {c : BitVec 12} {s : State} (h : Formed s.mem) : ResMem Formed (execCsrr g c s) := by
  unfold execCsrr
  repeat' split
  all_goals simp [h]

@[simp] theorem resMem_execCsrw {a : Reg} {c : BitVec 12} {s : State} (h : Formed s.mem) : ResMem Formed (execCsrw a c s) := by
  unfold execCsrw
  repeat' split
  all_goals simp [h]

@[simp] theorem resMem_execCsrx {g a : Reg} {c : BitVec 12} {s : State} (h : Formed s.mem) : ResMem Formed (execCsrx g a c s) := by
  unfold execCsrx
  repeat' split
  all_goals simp [h]

@[simp] theorem resMem_execTime {g : Reg} {s : State} (h : P s.mem) : ResMem P (execTime g s) := by
  unfold execTime
  simp [h]

@[simp] theorem resMem_execEret {s : State} (h : Formed s.mem) : ResMem Formed (execEret s) := by
  unfold execEret
  dsimp only
  repeat' split
  all_goals simp [h]

@[simp] theorem resMem_execHalt {s : State} (h : Formed s.mem) : ResMem Formed (execHalt s) := by
  unfold execHalt
  repeat' split
  all_goals simp [h]

@[simp] theorem resMem_execPwreq {d a : Reg} {s : State} (h : P s.mem) : ResMem P (execPwreq d a s) := by
  unfold execPwreq
  dsimp only
  repeat' split
  · simp [h]
  · simp [h]
  · exact resMem_retire (by simpa using h)

@[simp] theorem resMem_execPwrel {s : State} (h : P s.mem) : ResMem P (execPwrel s) := by
  unfold execPwrel
  simp [h]

@[simp] theorem resMem_execPrio {c : BitVec 2} {s : State} (h : P s.mem) : ResMem P (execPrio c s) := by
  unfold execPrio
  simp [h]

@[simp] theorem resMem_execIssue {o : BitVec 3} {e : BitVec 11} {m : BitVec 4} {p : BitVec 5} {s : State}
    (h : Formed s.mem) : ResMem Formed (execIssue o e m p s) := by
  unfold execIssue
  dsimp only
  repeat' split
  all_goals simp [h]

/-! ### Cuts -/

theorem resMem_execMark {a : Reg} {p : Port} {s : State} (h : Formed s.mem) : ResMem Formed (execMark a p s) :=
  resMem_engineRequest h fun _ _ hu => State.formed_markRegion hu

@[simp] theorem resMem_execMxsave {s : State} (h : Formed s.mem) : ResMem Formed (execMxsave s) := by
  unfold execMxsave
  dsimp only
  split
  · exact resMem_privileged h
  · repeat' split
    · simp [h]
    · simp [h]
    · exact (resMem_next _).2 (State.formed_fatalHere h)
    · next s1 e => simpa using State.excMem_areaWrite h s1 e
    · simp [h]

@[simp] theorem resMem_execMxrest {s : State} (h : Formed s.mem) : ResMem Formed (execMxrest s) := by
  unfold execMxrest
  dsimp only
  repeat' split
  all_goals simp [h]

/-! ### The front end -/

@[simp] theorem resMem_execQdbWrite {slice q : Nat} {v : Word} {s : State} (h : P s.mem) :
    ResMem P (execQdbWrite slice q v s) := by
  unfold execQdbWrite
  repeat' split
  all_goals simp [h]

@[simp] theorem resMem_execQcfgWrite {slice q : Nat} {v : Dw} {s : State} (h : P s.mem) :
    ResMem P (execQcfgWrite slice q v s) := by
  unfold execQcfgWrite
  repeat' split
  all_goals simp [h]

/-! ### Links -/

theorem resMem_execCheckpointCopyDone {s : State} (h : P s.mem) : ResMem P (execCheckpointCopyDone s) :=
  resMem_occur h (optMem_bind fun c => by split <;> simp [h])

@[simp] theorem resMem_execCircuitCalibrated {e : Nat} {s : State} (h : P s.mem) : ResMem P (execCircuitCalibrated e s) := by
  unfold execCircuitCalibrated
  dsimp only
  repeat' split
  all_goals simp [h]

@[simp] theorem resMem_execBulkCircuitDrain {e : Nat} {s : State} (h : P s.mem) : ResMem P (execBulkCircuitDrain e s) := by
  unfold execBulkCircuitDrain
  repeat' split
  all_goals simp [h]

/-! ### The package -/

@[simp] theorem resMem_execTdiStateChange {slice : Nat} {st : TdiState} {s : State} (h : P s.mem) :
    ResMem P (execTdiStateChange slice st s) := by
  unfold execTdiStateChange
  repeat' split
  all_goals simp [h]

@[simp] theorem resMem_execIdeIntegrityFailure {slice : Nat} {s : State} (h : Formed s.mem) :
    ResMem Formed (execIdeIntegrityFailure slice s) := by
  unfold execIdeIntegrityFailure
  refine resMem_occur h ?_
  split
  · rw [optMem_some, State.remeasure_mem]
    exact State.formed_stopSlice h
  · exact optMem_none

@[simp] theorem resMem_execTrootWrite {v : Word} {s : State} (h : P s.mem) : ResMem P (execTrootWrite v s) := by
  unfold execTrootWrite
  split
  · simp [h]
  · exact (resMem_next _).2 (State.foldl_keeps _ (fun u d hu => by exact hu) _ _ h)

@[simp] theorem resMem_execEquinoxSyncMessage {die : Nat} {fwd : Bool} {step : Nat} {eqe : Dw} {s : State} (h : P s.mem) :
    ResMem P (execEquinoxSyncMessage die fwd step eqe s) := by
  unfold execEquinoxSyncMessage
  dsimp only
  repeat' split
  all_goals simp [h]

@[simp] theorem resMem_execEquinoxLock {die : Nat} {eqt eqe : Dw} {s : State} (h : P s.mem) :
    ResMem P (execEquinoxLock die eqt eqe s) := by
  unfold execEquinoxLock
  repeat' split
  all_goals simp [h]

@[simp] theorem resMem_execTinv0Write {slice : Nat} {v : Dw} {s : State} (h : P s.mem) : ResMem P (execTinv0Write slice v s) := by
  unfold execTinv0Write
  repeat' split
  all_goals simp [h]

@[simp] theorem resMem_execTinv1Write {slice : Nat} {v : Dw} {s : State} (h : P s.mem) : ResMem P (execTinv1Write slice v s) := by
  unfold execTinv1Write
  repeat' split
  all_goals simp [h]

@[simp] theorem resMem_execTrresWrite {die : Nat} {v : Dw} {s : State} (h : P s.mem) : ResMem P (execTrresWrite die v s) := by
  unfold execTrresWrite
  dsimp only
  split
  · simp [h]
  · refine (resMem_next _).2 (State.foldl_keeps _ (fun u t hu => ?_) _ _ h)
    split <;> exact hu

@[simp] theorem resMem_execTrdataRead {die : Nat} {s : State} (h : P s.mem) : ResMem P (execTrdataRead die s) := by
  unfold execTrdataRead
  repeat' split
  all_goals simp [h]

@[simp] theorem resMem_execTrdataWrite {die : Nat} {v : Dw} {s : State} (h : P s.mem) : ResMem P (execTrdataWrite die v s) := by
  unfold execTrdataWrite
  dsimp only
  split
  · simp [h]
  · refine (resMem_next _).2 ?_
    rw [State.modDie_mem]
    exact State.foldl_keeps _ (fun u t hu => by exact hu) _ _ h

@[simp] theorem resMem_execHwcntRead {die : Nat} {s : State} (h : P s.mem) : ResMem P (execHwcntRead die s) := by
  unfold execHwcntRead
  repeat' split
  all_goals simp [h]

/-! ### Bring-up -/

theorem resMem_execPowerGood {s : State} (h : P s.mem) : ResMem P (execPowerGood s) :=
  resMem_occur h (by split <;> simp [h])

@[simp] theorem resMem_execRecoveryImage {image : List Byte} {verified : Bool} {s : State} (h : P s.mem) :
    ResMem P (execRecoveryImage image verified s) := by
  unfold execRecoveryImage
  repeat' split
  all_goals simp [h]

@[simp] theorem resMem_execSpdmGetMeasurements {fn : Nat} {request : List Byte} {s : State} (h : P s.mem) :
    ResMem P (execSpdmGetMeasurements fn request s) := by
  unfold execSpdmGetMeasurements
  simp [h]

/-! ### Control flow -/

@[simp] theorem resMem_execLoop {a : Reg} {o : BitVec 13} {s : State} (h : P s.mem) : ResMem P (execLoop a o s) := by
  unfold execLoop
  simp [h]

@[simp] theorem resMem_execRet {a : Reg} {s : State} (h : Formed s.mem) : ResMem Formed (execRet a s) := by
  unfold execRet
  dsimp only
  repeat' split
  all_goals simp [h]

@[simp] theorem resMem_execCallr {d a : Reg} {s : State} (h : Formed s.mem) : ResMem Formed (execCallr d a s) := by
  unfold execCallr
  dsimp only
  repeat' split
  all_goals simp [h]

@[simp] theorem resMem_execJtab {a b : Reg} {s : State} (h : Formed s.mem) : ResMem Formed (execJtab a b s) := by
  unfold execJtab
  dsimp only
  repeat' split
  all_goals simp [h]

@[simp] theorem resMem_execEndTask {s : State} (h : Formed s.mem) : ResMem Formed (execEndTask s) := by
  unfold execEndTask
  repeat' split
  all_goals simp [h]

@[simp] theorem resMem_execEndrTask {s : State} (h : Formed s.mem) : ResMem Formed (execEndrTask s) := by
  unfold execEndrTask
  repeat' split
  all_goals simp [h]

@[simp] theorem resMem_execLdl {g b : Reg} {z : BitVec 2} {x : Bool} {o : BitVec 13} {s : State} (h : Formed s.mem) :
    ResMem Formed (execLdl g b z x o s) := by
  unfold execLdl
  dsimp only
  repeat' split
  all_goals simp [h]

@[simp] theorem resMem_execStl {g b : Reg} {z : BitVec 2} {o : BitVec 13} {s : State} (h : Formed s.mem) :
    ResMem Formed (execStl g b z o s) := by
  unfold execStl
  dsimp only
  repeat' split
  all_goals simp [h]

/-! ### Floating point -/

theorem resMem_execFadd {d a b : Reg} {f : BitVec 3} {m : BitVec 2} {s : State} (h : P s.mem) :
    ResMem P (execFadd d a b f m s) :=
  resMem_float2 h

theorem resMem_execFsub {d a b : Reg} {f : BitVec 3} {m : BitVec 2} {s : State} (h : P s.mem) :
    ResMem P (execFsub d a b f m s) :=
  resMem_float2 h

theorem resMem_execFmul {d a b : Reg} {f : BitVec 3} {m : BitVec 2} {s : State} (h : P s.mem) :
    ResMem P (execFmul d a b f m s) :=
  resMem_float2 h

@[simp] theorem resMem_execFmin {d a b : Reg} {f : BitVec 3} {s : State} (h : P s.mem) : ResMem P (execFmin d a b f s) := by
  unfold execFmin
  simp [h]

@[simp] theorem resMem_execFmax {d a b : Reg} {f : BitVec 3} {s : State} (h : P s.mem) : ResMem P (execFmax d a b f s) := by
  unfold execFmax
  simp [h]

@[simp] theorem resMem_execFcvt {d a b : Reg} {f : BitVec 3} {m : BitVec 2} {s : State} (h : P s.mem) :
    ResMem P (execFcvt d a b f m s) := by
  unfold execFcvt
  simp [h]

@[simp] theorem resMem_execFrcp {d a : Reg} {f : BitVec 3} {m : BitVec 2} {s : State} (h : P s.mem) :
    ResMem P (execFrcp d a f m s) := by
  unfold execFrcp
  simp [h]

@[simp] theorem resMem_execFrsq {d a : Reg} {f : BitVec 3} {m : BitVec 2} {s : State} (h : P s.mem) :
    ResMem P (execFrsq d a f m s) := by
  unfold execFrsq
  simp [h]

@[simp] theorem resMem_execFexp2 {d a : Reg} {f : BitVec 3} {m : BitVec 2} {s : State} (h : P s.mem) :
    ResMem P (execFexp2 d a f m s) := by
  unfold execFexp2
  simp [h]

@[simp] theorem resMem_execFlog2 {d a : Reg} {f : BitVec 3} {m : BitVec 2} {s : State} (h : P s.mem) :
    ResMem P (execFlog2 d a f m s) := by
  unfold execFlog2
  simp [h]

theorem resMem_execFsgnCp {d a b : Reg} {f : BitVec 3} {s : State} (h : P s.mem) : ResMem P (execFsgnCp d a b f s) :=
  resMem_floatSign h

theorem resMem_execFsgnNeg {d a b : Reg} {f : BitVec 3} {s : State} (h : P s.mem) : ResMem P (execFsgnNeg d a b f s) :=
  resMem_floatSign h

theorem resMem_execFsgnXor {d a b : Reg} {f : BitVec 3} {s : State} (h : P s.mem) : ResMem P (execFsgnXor d a b f s) :=
  resMem_floatSign h

@[simp] theorem resMem_execFma {d a b c : Reg} {f m : BitVec 2} {s : State} (h : P s.mem) : ResMem P (execFma d a b c f m s) := by
  unfold execFma
  simp [h]

/-! ### Rendering -/

@[simp] theorem resMem_execEdge {tile lane : Nat} {s : State} (h : P s.mem) : ResMem P (execEdge tile lane s) := by
  unfold execEdge
  split
  · simp [h]
  · split
    · simp [h]
    · refine resMem_occurIn h ((State.optMem_laneStep h).map fun u hu => ?_)
      dsimp only
      split
      · simpa using hu
      · exact hu

@[simp] theorem resMem_execCover {tile lane : Nat} {s : State} (h : P s.mem) : ResMem P (execCover tile lane s) := by
  unfold execCover
  dsimp only
  repeat' split
  all_goals simp [h]

@[simp] theorem resMem_execResolverTileBegin {tile lane : Nat} {s : State} (h : P s.mem) :
    ResMem P (execResolverTileBegin tile lane s) := by
  unfold execResolverTileBegin
  dsimp only
  repeat' split
  all_goals simp [h]

@[simp] theorem resMem_execResolverSample {tile lane : Nat} {s : State} (h : P s.mem) :
    ResMem P (execResolverSample tile lane s) := by
  unfold execResolverSample
  dsimp only
  repeat' split
  all_goals simp [h]

@[simp] theorem resMem_execResolverTileDone {tile lane : Nat} {s : State} (h : P s.mem) :
    ResMem P (execResolverTileDone tile lane s) := by
  unfold execResolverTileDone
  dsimp only
  repeat' split
  all_goals simp [h]

@[simp] theorem resMem_execAplane {tile lane : Nat} {s : State} (h : P s.mem) : ResMem P (execAplane tile lane s) := by
  unfold execAplane
  repeat' split
  all_goals simp [h]

@[simp] theorem resMem_execRbox {tile lane : Nat} {s : State} (h : P s.mem) : ResMem P (execRbox tile lane s) := by
  unfold execRbox
  repeat' split
  all_goals simp [h]

@[simp] theorem resMem_execRtri {tile lane : Nat} {s : State} (h : P s.mem) : ResMem P (execRtri tile lane s) := by
  unfold execRtri
  repeat' split
  all_goals simp [h]

/-! ### Commands of units -/

@[simp] theorem resMem_execMetadataError {tile k : Nat} {s : State} (h : Formed s.mem) :
    ResMem Formed (execMetadataError tile k s) := by
  unfold execMetadataError
  repeat' split
  all_goals simp [h]

@[simp] theorem resMem_execHeavyCommandHold {r a : Nat} {s : State} (h : Formed s.mem) :
    ResMem Formed (execHeavyCommandHold r a s) := by
  unfold execHeavyCommandHold
  refine resMem_occurIn h ?_
  split
  · exact optMem_none
  · split
    · exact (State.optMem_unitCommand h fun g x i b w fo => State.optMem_startMat h).orElse
        (State.optMem_unitCommand h fun g x i b w fo => State.optMem_startMat h)
    · exact State.optMem_abRunTurn h
    · exact optMem_none

@[simp] theorem resMem_execEngineElementStep {r a : Nat} {s : State} (h : P s.mem) : ResMem P (execEngineElementStep r a s) := by
  unfold execEngineElementStep
  repeat' split
  all_goals simp [h]

end Sys2Proof.Machine

namespace Sys2Proof.Machine

/-! ## Every instruction and event -/

/-- Every instruction and event keeps memory in its canonical form. -/
theorem resMem_exec {s : State} (h : Formed s.mem) (i : Instr) : ResMem Formed (exec i s) := by
  cases i with
  | add | sub | and | or | xor | andn | shl | shr | sar | rotr | min | max | minu | maxu | slt | sltu | seq | clz | ctz
  | popc | mul | mulh | mulhu | div | divu | rem | remu => exact resMem_alu h
  | fadd => exact resMem_execFadd h
  | fsub => exact resMem_execFsub h
  | fmul => exact resMem_execFmul h
  | fmin => exact resMem_execFmin h
  | fmax => exact resMem_execFmax h
  | fcmpEq | fcmpLt | fcmpLe | fcmpUo => exact resMem_floatCmp h
  | fcvt => exact resMem_execFcvt h
  | frcp => exact resMem_execFrcp h
  | frsq => exact resMem_execFrsq h
  | fexp2 => exact resMem_execFexp2 h
  | flog2 => exact resMem_execFlog2 h
  | fsgnCp => exact resMem_execFsgnCp h
  | fsgnNeg => exact resMem_execFsgnNeg h
  | fsgnXor => exact resMem_execFsgnXor h
  | fma => exact resMem_execFma h
  | sel | addi | andi | ori | xori | slti | ldhi | addpc | chq | krd => exact resMem_retire h
  | ins => exact resMem_execIns h
  | exts => exact resMem_execExts h
  | extu => exact resMem_execExtu h
  | shli | shri | sari | rotri => exact resMem_aluImm h
  | br | jmp | call | ord | send | sendn | hdr | baradd | kwr | nop | handlerLimitExceeded | uncorrectableLineError
  | scratchpadUncorrectable | dctlWrite | esctlWrite | connectionEntryWrite | ctstatWrite | flitReplay | frzWrite
  | freezeInput | registerWrite | perstRelease | spdmGetVersion | spdmGetCapabilities | spdmNegotiateAlgorithms
  | spdmGetDigests | spdmGetCertificate | spdmChallenge | spdmKeyExchange | spdmFinish | thermalShutdown | sisterLinkUp =>
    exact (resMem_next _).2 (by simp [h])
  | loop => exact resMem_execLoop h
  | ret => exact resMem_execRet h
  | jtab => exact resMem_execJtab h
  | callr => exact resMem_execCallr h
  | endTask => exact resMem_execEndTask h
  | endrTask => exact resMem_execEndrTask h
  | ldl => exact resMem_execLdl h
  | stl => exact resMem_execStl h
  | ldg | atom | cas | futGet | futPut | futClear | cwb => exact resMem_request h
  | stg => exact resMem_execStg h
  | prf => exact resMem_execPrf h
  | cinv => exact resMem_execCinv h
  | recv => exact resMem_execRecv h
  | peek => exact resMem_execPeek h
  | sende => exact resMem_execSende h
  | senderr => exact resMem_execSenderr h
  | fwd => exact resMem_execFwd h
  | rsv => exact resMem_execRsv h
  | wemit => exact resMem_execWemit h
  | wrsv => exact resMem_execWrsv h
  | issue => exact resMem_execIssue h
  | barset => exact resMem_execBarset h
  | abload => exact resMem_execAbload h
  | abswap => exact resMem_execAbswap h
  | abdrop => exact resMem_execAbdrop h
  | abqry => exact resMem_execAbqry h
  | cfgload => exact resMem_execCfgload h
  | cfgloadRestore => exact resMem_execCfgloadRestore h
  | place => exact resMem_execPlace h
  | mark => exact resMem_execMark h
  | pwreq => exact resMem_execPwreq h
  | pwrel => exact resMem_execPwrel h
  | prio => exact resMem_execPrio h
  | csrr => exact resMem_execCsrr h
  | csrw => exact resMem_execCsrw h
  | csrx => exact resMem_execCsrx h
  | time => exact resMem_execTime h
  | trap | brk | taskLengthExceeded => exact resMem_trapNow h
  | eret => exact resMem_execEret h
  | halt => exact resMem_execHalt h
  | mxsave => exact resMem_execMxsave h
  | mxrest => exact resMem_execMxrest h
  | cpy | gath | scat => exact resMem_occurIn h (State.optMem_copyTurn h)
  | bred => exact resMem_occurIn h (State.optMem_bankTurn h)
  | mma | mmac => exact resMem_occurIn h (State.optMem_unitCommand h fun g x i b w fo => State.optMem_startMat h)
  | accrd => exact resMem_occurIn h (State.optMem_accRead h)
  | lstr => exact resMem_occurIn h (State.optMem_laneStreamTurn h)
  | abrun => exact resMem_occurIn h (State.optMem_abRunTurn h)
  | rsend => exact resMem_occurIn h (State.optMem_linkTurn h)
  | followOnDelivery => exact resMem_occurIn h (State.optMem_followDelivered h)
  | rsendRemoteDelivery => exact resMem_occurIn h (State.optMem_remoteDelivered h)
  | completionToken => exact resMem_execCompletionToken h
  | barrierSubtract => exact resMem_execBarrierSubtract h
  | ladd | lsub | lmul | lfma | lmin | lmax | lcvt | lexp2 | lrcp | lrsq | llog | lsel | lcmp | lshf | lpass | ldly
  | lrow | lscale | lacc | lred | lperm => exact resMem_laneEvent h
  | lselSwitch => exact resMem_execLselSwitch h
  | edge => exact resMem_execEdge h
  | cover => exact resMem_execCover h
  | resolverTileBegin => exact resMem_execResolverTileBegin h
  | resolverSample => exact resMem_execResolverSample h
  | resolverTileDone => exact resMem_execResolverTileDone h
  | aplane => exact resMem_execAplane h
  | rbox => exact resMem_execRbox h
  | rtri => exact resMem_execRtri h
  | routerHop => exact resMem_occurIn h (State.optMem_hop h)
  | filterBurstEmit => exact resMem_occurIn h (State.optMem_emitBurst h)
  | tokenReceive => exact resMem_occurIn h (State.optMem_receive h)
  | heldErrorSend => exact resMem_occurIn h (State.optMem_heldStep h)
  | engineElementStep => exact resMem_execEngineElementStep h
  | engineConfigApply => exact resMem_occurIn h (State.optMem_configStep h)
  | nullPropagate => exact resMem_occurIn h (State.optMem_nullStep h)
  | eosJoin => exact resMem_occurIn h (State.optMem_eosStep h)
  | shapeError => exact resMem_occurIn h (State.optMem_shapeStep h)
  | orderedMergePosition => exact resMem_occurIn h (State.optMem_orderedMerge h)
  | arrivalMergeToken => exact resMem_occurIn h ((State.optMem_arrivalMerge h).orElse (State.optMem_collect h))
  | counterIndexEmit => exact resMem_occurIn h (State.optMem_indexEmit h)
  | counterEosEmit => exact resMem_occurIn h (State.optMem_counterEos h)
  | controllerEnableReceive => exact resMem_occurIn h (State.optMem_enableStep h)
  | controllerDoneReceive => exact resMem_occurIn h (State.optMem_doneStep h)
  | launchTokenArrival | ingressCreditWait => exact resMem_occurIn h (State.optMem_launchArrives h)
  | launchEnd => exact resMem_occurIn h (State.optMem_launchEnds h)
  | firingSelect => exact resMem_occur h (State.optMem_select h)
  | residencyProbe => exact resMem_execResidencyProbe h
  | taskStart => exact resMem_occur h (State.optMem_taskStarts h)
  | handlerCallArrival => exact resMem_occurIn h (State.optMem_callStep h)
  | pageWalk => exact resMem_execPageWalk h
  | spillRetry => exact resMem_execSpillRetry h
  | faultWindowExpiry => exact resMem_execFaultWindowExpiry h
  | requestResponse => exact resMem_execRequestResponse h
  | storeAccept => exact resMem_execStoreAccept h
  | bankOperationPerform => exact resMem_execBankOperationPerform h
  | futureGetPerform => exact resMem_execFutureGetPerform h
  | futurePutPerform => exact resMem_execFuturePutPerform h
  | futureClearPerform => exact resMem_execFutureClearPerform h
  | writePerform => exact resMem_execWritePerform h
  | invalidationAck | evictionNotice => exact resMem_guarded (State.formed_ackInv h) h
  | hostRead => exact resMem_execHostRead h
  | hostWrite => exact resMem_execHostWrite h
  | peerAccess => exact resMem_execPeerAccess h
  | metadataError => exact resMem_execMetadataError h
  | correctedError => exact resMem_execCorrectedError h
  | dieReset die lines => exact resMem_execDieReset die lines h
  | qdbWrite => exact resMem_execQdbWrite h
  | qcfgWrite => exact resMem_execQcfgWrite h
  | frontEndSelect => exact resMem_occur h (State.optMem_frontEnd h)
  | launchPortRequest => exact resMem_occurIn h (State.optMem_launchRequest h)
  | placementSearch => exact resMem_occur h (State.optMem_searchStep h)
  | quantumPreempt => exact resMem_occur h (State.optMem_preempt h)
  | elasticSample => exact resMem_occurIn h (State.optMem_sampleStage h)
  | elasticWindowEnd => exact resMem_occurIn h (State.optMem_windowEnd h)
  | replicaRetire => exact resMem_occurIn h (State.optMem_retireReplica h)
  | orderedMembershipChange => exact resMem_occurIn h (State.optMem_changeMembers h)
  | distributorRoute => exact resMem_occurIn h (State.optMem_distribute h)
  | distributorEosRelease => exact resMem_occurIn h (State.optMem_releaseEos h)
  | rayAdmission => exact resMem_occurIn h (State.optMem_admitRay h)
  | workRecordDelivery => exact resMem_occurIn h (State.optMem_deliverRecord h)
  | powerRefill => exact resMem_occur h (State.optMem_refill h)
  | heavyCommandHold => exact resMem_execHeavyCommandHold h
  | matrixGroupAdd => exact resMem_occurIn h (State.optMem_groupAdd h)
  | memoryActorLoad => exact resMem_occurIn h (State.optMem_memLoad h)
  | memoryActorStore => exact resMem_occurIn h (State.optMem_memStore h)
  | memoryActorEosForward => exact resMem_occurIn h (State.optMem_memForward h)
  | abacusInputBurst => exact resMem_occurIn h (State.optMem_abInput h)
  | abacusVectorOutput => exact resMem_occurIn h (State.optMem_abOutput h)
  | abacusLoadComplete => exact resMem_occurIn h (State.optMem_abLoaded h)
  | abacusSwapEffect => exact resMem_occurIn h (State.optMem_abSwaps h)
  | abacusConfigToken => exact resMem_occurIn h (State.optMem_abConfig h)
  | blenderToken => exact resMem_occurIn h (State.optMem_blend h)
  | displayFrameStart => exact resMem_occur h (State.optMem_frameStart h)
  | presentToken => exact resMem_occurIn h (State.optMem_present h)
  | encoderFrameDone => exact resMem_occur h (State.optMem_frameDone h)
  | cutreqWrite => exact resMem_guarded (State.formed_cutRequest h) h
  | solsticeArrival => exact resMem_occurIn h (State.optMem_solstice h)
  | actorSave => exact resMem_occurIn h (State.optMem_saveActor h)
  | recordToken => exact resMem_occurIn h (State.optMem_record h)
  | snapshotComplete => exact resMem_occurIn h (State.optMem_snapshot h)
  | checkpointCopy | checkpointRestoreCopy => exact resMem_occur h (State.optMem_packageCopy h)
  | checkpointCopyDone => exact resMem_execCheckpointCopyDone h
  | circuitCalibrated => exact resMem_execCircuitCalibrated h
  | bulkCircuitDrain => exact resMem_execBulkCircuitDrain h
  | dieEdgeDown => exact resMem_occur h (State.optMem_edgeDown h)
  | sisterLinkDown => exact resMem_occur h (State.optMem_linkDown h)
  | linkChannelToken => exact resMem_occur h (State.optMem_linkToken h)
  | ideIntegrityFailure => exact resMem_execIdeIntegrityFailure h
  | tdiStateChange => exact resMem_execTdiStateChange h
  | trootWrite => exact resMem_execTrootWrite h
  | equinoxSyncMessage => exact resMem_execEquinoxSyncMessage h
  | equinoxLock => exact resMem_execEquinoxLock h
  | sldescWrite => exact resMem_guarded (State.formed_writeDesc h) h
  | tinv0Write => exact resMem_execTinv0Write h
  | tinv1Write => exact resMem_execTinv1Write h
  | tinvDone => exact resMem_occur h (State.optMem_tinvEnds h)
  | hwcntRead => exact resMem_execHwcntRead h
  | trresWrite => exact resMem_execTrresWrite h
  | trdataRead => exact resMem_execTrdataRead h
  | trdataWrite => exact resMem_execTrdataWrite h
  | powerGood => exact resMem_execPowerGood h
  | bootStage => exact resMem_occur h (State.optMem_boot h)
  | recoveryImage => exact resMem_execRecoveryImage h
  | debugUnlock => exact resMem_guarded (State.formed_unlockDebug) h
  | spdmGetMeasurements => exact resMem_execSpdmGetMeasurements h
  | thermalThrottle => exact resMem_occur_guarded h h
  | cfgloadLoadComplete => exact resMem_occur h (State.optMem_loadDone h)
  | dieStateCleared => exact resMem_occur h (State.optMem_clearDie h)

end Sys2Proof.Machine

namespace Sys2Proof.Machine

/-! ## Every step -/

/-- A core's turn: an instruction fetched and executed, or the trap that stands in its place. -/
theorem resMem_coreTurn {s : State} (h : Formed s.mem) : ResMem Formed (coreTurn s) := by
  have hc : Formed s.counted.mem := by rwa [State.counted_mem]
  unfold coreTurn
  split
  · exact (resMem_next _).2 h
  · split
    · exact (resMem_next _).2 (State.formed_takeTrap h)
    · split
      · exact resMem_exec h _
      · split
        · exact resMem_exec hc _
        · exact (resMem_next _).2 (State.formed_takeTrap hc)

/-- A step: a core's turn, the passing of time, a change of clock, or an event of a unit or of the host. -/
theorem resMem_step {s : State} (h : Formed s.mem) : ResMem Formed (step s) := by
  unfold step
  split
  · exact resMem_fault _
  · split
    · exact resMem_fault _
    · split
      · exact resMem_coreTurn h
      · exact resMem_coreTurn h
      · exact (resMem_next _).2 (by rwa [State.elapse_mem])
      · exact (resMem_next _).2 (by rwa [State.moveClock_mem])
      · next i l _ =>
        have he : ResMem Formed (exec i { s with agenda := l }) := resMem_exec (by exact h) i
        split
        · exact (resMem_next _).2 h
        · exact he
      · next fn i l _ =>
        have he : ResMem Formed (exec i { s with agenda := l, fn := some fn }) := resMem_exec (by exact h) i
        split
        · exact (resMem_next _).2 h
        · split
          · next t e => exact (resMem_next _).2 (he t e)
          · exact he

/-- Settles O60: every instruction and event writes memory only through the writes that keep its form. -/
theorem stepKeepsMemoryForm : Obligations.StepKeepsMemoryForm := fun _ t h e => resMem_step h t e

end Sys2Proof.Machine

namespace Sys2Proof.Machine

/-! ### Bytes written from an address read back -/

/-- Bytes written from an address leave those below and above them alone. -/
theorem State.rdByte_wrBytes_outside (l : List Byte) (s : State) (pa a : Nat) (h : Memory.wf s.mem)
    (ha : a < pa ∨ pa + l.length ≤ a) : (s.wrBytes pa l).rdByte a = s.rdByte a := by
  induction l generalizing s pa with
  | nil => rfl
  | cons b l ih =>
    rw [List.length_cons] at ha
    calc ((s.wrByte pa b).wrBytes (pa + 1) l).rdByte a
        = (s.wrByte pa b).rdByte a := ih _ _ (s.wf_wrByte pa b h) (by omega)
      _ = s.rdByte a := by rw [State.rdByte_wrByte s pa a b h, if_neg (by omega)]

/-- Each byte that is written reads back: the bytes written after it stand above it. -/
theorem State.rdBytes_wrBytes (l : List Byte) (s : State) (pa : Nat) (h : Memory.wf s.mem) :
    (s.wrBytes pa l).rdBytes pa l.length = l := by
  induction l generalizing s pa with
  | nil => rfl
  | cons b l ih =>
    have hb := s.wf_wrByte pa b h
    have head : ((s.wrByte pa b).wrBytes (pa + 1) l).rdByte pa = b := by
      rw [State.rdByte_wrBytes_outside l _ _ _ hb (by omega), State.rdByte_wrByte s pa pa b h, if_pos rfl]
    exact List.cons_eq_cons.2 ⟨head, ih _ _ hb⟩

/-- Bytes written change memory and nothing else of the machine. -/
theorem State.wrBytes_eq_setMem (l : List Byte) (s : State) (pa : Nat) :
    s.wrBytes pa l = { s with mem := (s.wrBytes pa l).mem } := by
  induction l generalizing s pa with
  | nil => rfl
  | cons b l ih => exact ih (s.wrByte pa b) (pa + 1)

theorem Tile.byte_setBytes_outside (l : List Byte) (u : Tile) (pa a : Nat) (h : swf (0 : Byte) u.spad = true)
    (ha : a < pa ∨ pa + l.length ≤ a) : (u.setBytes pa l).byte a = u.byte a := by
  induction l generalizing u pa with
  | nil => rfl
  | cons b l ih =>
    rw [List.length_cons] at ha
    calc ((u.setByte pa b).setBytes (pa + 1) l).byte a
        = (u.setByte pa b).byte a := ih _ _ (u.wf_setByte pa b h) (by omega)
      _ = u.byte a := by rw [Tile.byte_setByte u pa a b h, if_neg (by omega)]

theorem Tile.bytes_setBytes (l : List Byte) (u : Tile) (pa : Nat) (h : swf (0 : Byte) u.spad = true) :
    (u.setBytes pa l).bytes pa l.length = l := by
  induction l generalizing u pa with
  | nil => rfl
  | cons b l ih =>
    have hb := u.wf_setByte pa b h
    have head : ((u.setByte pa b).setBytes (pa + 1) l).byte pa = b := by
      rw [Tile.byte_setBytes_outside l _ _ _ hb (by omega), Tile.byte_setByte u pa pa b h, if_pos rfl]
    exact List.cons_eq_cons.2 ⟨head, ih _ _ hb⟩

/-- Bytes written to scratchpad keep its canonical form. -/
theorem Tile.wf_setBytes (l : List Byte) (u : Tile) (pa : Nat) (h : swf (0 : Byte) u.spad = true) :
    swf (0 : Byte) (u.setBytes pa l).spad = true := by
  induction l generalizing u pa with
  | nil => exact h
  | cons b l ih => exact ih (u.setByte pa b) (pa + 1) (u.wf_setByte pa b h)

/-- Bytes written to scratchpad change nothing else of the tile. -/
theorem Tile.setBytes_eq_setSpad (l : List Byte) (u : Tile) (pa : Nat) :
    u.setBytes pa l = { u with spad := (u.setBytes pa l).spad } := by
  induction l generalizing u pa with
  | nil => rfl
  | cons b l ih => exact ih (u.setByte pa b) (pa + 1)

/-- Settles O59: a byte written reads back because those written after it stand above it, in memory and in scratchpad alike. -/
theorem memoryReadsBack : Obligations.MemoryReadsBack := by
  intro s u pa l hm hu
  exact ⟨s.rdBytes_wrBytes l pa hm, fun a ha => s.rdByte_wrBytes_outside l pa a hm ha, s.wf_wrBytes l pa hm,
    s.wrBytes_eq_setMem l pa, u.bytes_setBytes l pa hu, fun a ha => u.byte_setBytes_outside l pa a hu ha,
    u.wf_setBytes l pa hu, u.setBytes_eq_setSpad l pa⟩

end Sys2Proof.Machine

namespace Sys2Proof.Machine

open Sys2Proof.Safety

/-! ## The token fabric: events of a region, sends, streams, controllers, launches and engine actors

Each event is one step function of the model; a lemma below says what that step answers under its enabling condition, and
`exec_becomes` makes the event's outcome of it. -/

/-- An event of a region whose step answers a state makes that state. -/
theorem exec_becomes {i : Instr} {s t : State} {r : Nat} {o : Option State} (hi : exec i s = occurIn s r o)
    (ho : o = some t) : exec i s = becomes t r := by
  rw [hi, ho]
  rfl

/-- A search that succeeds at the head of a list ends there. -/
theorem findSome?_of_head? {α β : Type} {l : List α} {f : α → Option β} {p : α} {b : β} (hl : l.head? = some p)
    (hf : f p = some b) : l.findSome? f = some b := by
  obtain ⟨tl, rfl⟩ := List.head?_eq_some_iff.1 hl
  rw [List.findSome?_cons, hf]

/-- What holds of every input of a list in two parts, part by part. -/
theorem forall_mem_and {l : List Nat} {P Q : Nat → Prop} : (∀ p ∈ l, P p ∧ Q p) ↔ (∀ p ∈ l, P p) ∧ ∀ p ∈ l, Q p :=
  ⟨fun h => ⟨fun p hp => (h p hp).1, fun p hp => (h p hp).2⟩, fun h p hp => ⟨h.1 p hp, h.2 p hp⟩⟩

/-! ### Sends with and without a reservation (R23, R196, R364, R406) -/

theorem exec_send (s : State) (g : Reg) (p : Port) (n : BitVec 3) (c : Bool) : exec (.send g p n c) s =
    .next (passed (s.sendHere p.toNat (if c then 5 else 0) (s.core.regs g.toNat (n.toNat + 1)))) := rfl

theorem exec_sendn (s : State) (p : Port) : exec (.sendn p) s = .next (passed (s.sendHere p.toNat 1 [0])) := rfl

theorem exec_hdr (s : State) (g : Reg) (p : Port) : exec (.hdr g p) s = .next (passed (s.sendHere p.toNat 3 [s.reg g])) := rfl

theorem exec_sende {s : State} {x : Actor} (hx : s.runActor = some x) (p : Port) (e : Bool) : exec (.sende p e) s =
    .next (passed (s.sendHere p.toNat 2 [packDw [(b2n e, 0), ((x.outp p.toNat).count.toNat, 32)]])) := by
  change execSende p e s = _
  simp only [execSende, hx]
  rfl

theorem exec_senderr {s : State} {x : Actor} (hx : s.runActor = some x) (g : Reg) (p : Port) : exec (.senderr g p) s =
    .next (passed (s.sendHere p.toNat 4 [(s.reg g &&& 0xF000000000FFFFFF) |||
      packDw [(s.runAsid % 16384, 46), (s.outChan p.toNat, 38), (tileX s.focus, 32), (tileY s.focus, 28), (x.slot % 16, 24)],
      s.reg (g + 1)])) := by
  change execSenderr g p s = _
  simp only [execSenderr, hx]
  rfl

theorem State.meshStep_of_kind_ne {s : State} {p : Nat} {kind : BitVec 4} (h : kind ≠ 0) (l : List Dw) :
    s.meshStep p kind l = .pass := by
  unfold State.meshStep
  split
  · exact if_pos (.inl h)
  · rfl

/-- Only the mesh output port of a mesh actor judges what passes. -/
theorem State.meshStep_of_port_ne {s : State} {x : Actor} {p : Nat} (hx : s.runActor = some x)
    (h : ∀ m, x.mesh = some m → m.port ≠ p) (kind : BitVec 4) (l : List Dw) : s.meshStep p kind l = .pass := by
  unfold State.meshStep
  split
  · next m f hm _ => exact if_pos (.inr (h m (by simpa [hx] using hm)))
  · rfl

theorem State.sendHere_of_pass {s : State} {p : Nat} {kind : BitVec 4} {l : List Dw} (hr : s.reserved p ≠ 0)
    (h : s.meshStep p kind l = .pass) :
    s.sendHere p kind l = (s.useReserved p).sendOn s.runner.1 s.runner.2 p kind l := by
  simp only [State.sendHere, hr, h, if_false]

theorem State.sendHere_of_kind_ne {s : State} {p : Nat} {kind : BitVec 4} (hr : s.reserved p ≠ 0) (h : kind ≠ 0)
    (l : List Dw) : s.sendHere p kind l = (s.useReserved p).sendOn s.runner.1 s.runner.2 p kind l :=
  State.sendHere_of_pass hr (State.meshStep_of_kind_ne h l)

theorem State.sendHere_of_unreserved {s : State} {p : Nat} (hr : s.reserved p = 0) (kind : BitVec 4) (l : List Dw) :
    s.sendHere p kind l = s.errorAt s.runner.1 s.runner.2 (s.outChan p) p 0x04 (l.headD 0) := by
  simp only [State.sendHere, hr, if_true]
  rfl

section
variable {s : State} {x : Actor} {m : Mesh} {fr : Firing} {p : Nat} {l : List Dw}
variable (hr : s.reserved p ≠ 0) (hx : s.runActor = some x) (hm : x.mesh = some m) (hp : m.port = p) (hf : s.firing = some fr)
include hr hx hm hp hf

/-- At a mesh output port a vertex passes and is counted while fewer than Vmax have passed. -/
theorem State.sendHere_vertex (hi : Sys2Proof.Config.meshIndexes l = none) :
    s.sendHere p 0 l =
      if fr.verts < m.vmax then
        ((s.useReserved p).modFiring fun y => { y with verts := y.verts + 1 }).sendOn s.runner.1 s.runner.2 p 0 l
      else (s.useReserved p).countMesh s.runner.1 fun y => { y with vdrop := satInc y.vdrop } := by
  by_cases hv : fr.verts < m.vmax <;>
    simp [State.sendHere, State.meshStep, hr, hx, hm, hp, hf, hi, hv]

/-- At a mesh output port a primitive is culled for its identifier or its indexes, else passes while fewer than Pmax have. -/
theorem State.sendHere_primitive {ix : List Nat} (hi : Sys2Proof.Config.meshIndexes l = some ix) :
    s.sendHere p 0 l =
      if (l.getD 4 0).toNat / 2 ^ 32 = 0xFFFFFFFF ∨ (∃ i ∈ ix, fr.verts ≤ i) then
        (s.useReserved p).countMesh s.runner.1 fun y => { y with pcull := satInc y.pcull }
      else if fr.prims < m.pmax then
        ((s.useReserved p).modFiring fun y => { y with prims := y.prims + 1 }).sendOn s.runner.1 s.runner.2 p 0 l
      else (s.useReserved p).countMesh s.runner.1 fun y => { y with pdrop := satInc y.pdrop } := by
  have high : dwAt (l.getD 4 0) 32 32 = (l.getD 4 0).toNat / 2 ^ 32 := by
    have := (l.getD 4 0).isLt
    unfold dwAt bitsAt
    omega
  have cull : (decide (dwAt (l.getD 4 0) 32 32 = 0xFFFFFFFF) || ix.any fun i => decide (fr.verts ≤ i)) = true ↔
      (l.getD 4 0).toNat / 2 ^ 32 = 0xFFFFFFFF ∨ ∃ i ∈ ix, fr.verts ≤ i := by
    rw [high]
    simp
  by_cases bad : (l.getD 4 0).toNat / 2 ^ 32 = 0xFFFFFFFF ∨ ∃ i ∈ ix, fr.verts ≤ i
  · rw [if_pos bad]
    simp only [State.sendHere, State.meshStep, hr, hx, hm, hp, hf, hi, cull, bad, Option.bind_some, ne_eq, not_true_eq_false,
      or_self, if_false, if_true]
  · rw [if_neg bad]
    by_cases room : fr.prims < m.pmax <;>
      simp only [State.sendHere, State.meshStep, hr, hx, hm, hp, hf, hi, cull, bad, room, Option.bind_some, ne_eq,
        not_true_eq_false, or_self, if_false, if_true]

end

/-- Settles O12: a send uses its reservation and sends one token, which only a mesh output port judges; without a reservation
the token becomes code 0x04. -/
theorem sends : Obligations.Sends := by
  refine ⟨?_, ?_⟩
  · intro s g p n c e x hx hr
    refine ⟨fun h => ?_, fun m fr hm hp hf => ⟨fun hi => ?_, fun l hi => ?_⟩, ?_, ?_, ?_, ?_⟩
    · rw [exec_send, State.sendHere_of_pass hr]
      rcases h with rfl | h
      · exact State.meshStep_of_kind_ne (by decide) _
      · exact State.meshStep_of_port_ne hx h _ _
    · rw [exec_send, if_neg Bool.false_ne_true, State.sendHere_vertex hr hx hm hp hf hi]
      split <;> rfl
    · rw [exec_send, if_neg Bool.false_ne_true, State.sendHere_primitive hr hx hm hp hf hi]
      split
      · rfl
      · split <;> rfl
    · rw [exec_sendn, State.sendHere_of_kind_ne hr (by decide)]
    · rw [exec_sende hx, State.sendHere_of_kind_ne hr (by decide)]
    · rw [exec_senderr hx, State.sendHere_of_kind_ne hr (by decide)]
    · rw [exec_hdr, State.sendHere_of_kind_ne hr (by decide)]
  · intro s g p n c x _ hr
    refine ⟨?_, ?_, ?_⟩
    · rw [exec_send, State.sendHere_of_unreserved hr]
      simp [Core.regs, State.reg]
    · rw [exec_sendn, State.sendHere_of_unreserved hr]
      rfl
    · rw [exec_hdr, State.sendHere_of_unreserved hr]
      rfl

/-! ### A token on its channel (R14, R406) -/

@[simp] theorem Region.chan_setActor (g : Region) (a k : Nat) (x : Actor) : (g.setActor a x).chan k = g.chan k := rfl
@[simp] theorem Region.actor_setChan (g : Region) (k a : Nat) (c : Chan) : (g.setChan k c).actor a = g.actor a := rfl

/-- An output as a token sent on it leaves it: the next number, and the count of R406. -/
def OutPort.sent (o : OutPort) (kind : BitVec 4) : OutPort :=
  { seq := o.seq + 1, count := if kind = 2 then 0 else if kind = 0 ∨ kind = 1 then o.count + 1 else o.count
    eosSent := o.eosSent || decide (kind = 2) }

/-- A send changes its channel, which the token joins last under the output's number, and its output. -/
theorem State.sendOn_eq {s : State} {r a p ci : Nat} {g : Region} {x : Actor} {c : Chan} (hg : s.region r = some g)
    (hx : g.actor a = some x) (hc : g.chanOf (.actor a p) = some (ci, c)) (kind : BitVec 4) (l : List Dw) (deps : List Dep) :
    ∃ f : Flit, (f.tok.kind = kind ∧ f.tok.seq = (x.outp p).seq ∧ f.tok.payload = l) ∧
      s.sendOn r a p kind l deps = s.setRegion r
        ((g.setChan ci { c with wire := c.wire ++ [f] }).setActor a (x.setOut p ((x.outp p).sent kind))) := by
  simp only [State.sendOn, hg, hx, hc]
  exact ⟨_, ⟨rfl, rfl, rfl⟩, rfl⟩

/-- Settles O13: the send changes one channel and one output of one actor, and both read back what `State.sendOn` wrote. -/
theorem channelSend : Obligations.ChannelSend := by
  intro s r a p ci kind l g x c hg hx hc _ hw
  obtain ⟨f, hf, he⟩ := State.sendOn_eq hg hx hc kind l []
  have sent : (x.setOut p ((x.outp p).sent kind)).outp p = (x.outp p).sent kind := sget_sset_same _ _ _ _ hw
  rw [he]
  refine ⟨_, State.region_setRegion_same .., ⟨f, by simp, hf⟩, fun k hk => ?_, fun b hb => ?_,
    x.setOut p ((x.outp p).sent kind), Region.actor_setActor_same .., ?_, ?_, rfl, fun q hq => sget_sset_other _ _ _ _ _ hw hq⟩
  · rw [Region.chan_setActor, Region.chan_setChan_other _ _ _ _ hk]
  · rw [Region.actor_setActor_other _ _ _ _ hb, Region.actor_setChan]
  · rw [sent]; rfl
  · rw [sent]; rfl

/-! ### The end of a task (R22, R220, R348, R363) -/

/-- Settles O26: END, ENDR and HALT branch on the mode alone; in graph mode each retires the running firing. -/
theorem taskEnds : Obligations.TaskEnds := by
  intro s f hf
  have ended (consume : Bool) : s.retireRunning consume =
      (let t := s.modRegion f.region fun g => g.retireFiring f consume
       (t.setCore { t.core with firing := none, sys := false }).refresh f.region) := by
    simp only [State.retireRunning, show s.core.firing = some f from hf]
  have home : s.runner.1 = f.region := by simp only [State.runner, show s.core.firing = some f from hf]
  have endTask : exec .endTask s = if s.core.sys then illegal s else .next (s.retireRunning true) := rfl
  have endrTask : exec .endrTask s = if s.core.sys then illegal s else .next (s.retireRunning false) := rfl
  have halt : exec .halt s = execHalt s := rfl
  refine ⟨fun graph => ⟨?_, ?_, ?_⟩, fun sys => ⟨?_, ?_, ?_⟩, rfl⟩
  · rw [endTask, graph, ended]; rfl
  · rw [endrTask, graph, ended]; rfl
  · simp only [halt, execHalt, graph, ended, home]; rfl
  · rw [endTask, sys]; rfl
  · rw [endrTask, sys]; rfl
  · simp only [halt, execHalt, sys, if_true]

/-! ### Heads of inputs -/

theorem Actor.headsOf_eq_nil {x : Actor} {l : List Nat} {k : BitVec 4} : x.headsOf l k = [] ↔ ∀ p ∈ l, x.headKind p ≠ some k := by
  simp [Actor.headsOf]

theorem Actor.headsOf_eq_self {x : Actor} {l : List Nat} {k : BitVec 4} (h : ∀ p ∈ l, x.headKind p = some k) :
    x.headsOf l k = l := by
  simpa [Actor.headsOf] using h

theorem Actor.isData_of_kind_zero {x : Actor} {p : Nat} {t : Token} (ht : x.head p = some t) (data : t.kind = 0) :
    x.isData p = true := by
  simp [Actor.isData, Actor.headKind, ht, data]

theorem Actor.dropping_eq_false {x : Actor} {l : List Nat} : x.dropping l = false ↔ ∀ p ∈ l, (x.port p).drop = false := by
  simp [Actor.dropping]

theorem State.errorStep_eq_none (s : State) (r a : Nat) (g : Region) {x : Actor} {ins : List Nat} (outs : List Nat)
    (h : x.headsOf ins 4 = []) : s.errorStep r a g x ins outs = none := by
  simp only [State.errorStep, h, List.head?_nil]

/-! ### Nulls, ends of streams and shape errors (R29, R32, R33) -/

section
variable {s : State} {r a p : Nat} {g : Region} {x : Actor} {ins outs : List Nat} (rule : s.named g a x p = some (ins, outs))
include rule

/-- A null that its rule lets go takes one position of every named input. -/
theorem State.nullAt_passes (full : ins.all x.hasPosition = true) (noEos : x.headsOf ins 2 = [])
    (noErr : x.isTask = false → x.headsOf ins 4 = []) (keeps : x.dropping ins = false) (room : g.outsFree a outs = true)
    (frame : s.framed r a x ins = true) :
    s.nullAt r a g x p = some
      ((s.modActor r a fun x => if x.isTask then x.popPorts ins else x.takePositions ins).sendAll r a 1 [0] outs) := by
  have errs : (if x.isTask then [] else x.headsOf ins 4) = [] := by
    split
    · rfl
    · next h => exact noErr (by simpa using h)
  simp only [State.nullAt, rule, errs, full, noEos, keeps, room, frame, decide_true, Bool.not_false, Bool.and_true, if_true]

/-- An end of stream at every named input leaves; a lane actor's, once its lanes keep no part of a sum. -/
theorem State.eosJoinAt_joins (frame : s.framed r a x ins = true)
    (ends : ∀ q ∈ ins, x.headKind q = some 2 ∧ (x.port q).drop = false) (room : g.outsFree a outs = true)
    (flushed : ∀ l, x.body = .lane l → (s.tile x.tile).holdsPart l = false) :
    s.eosJoinAt r a g x p = some ((s.modActor r a fun x => x.popPorts ins).eosAll r a (x.anyErr ins) outs) := by
  have all : (ins.all fun q => decide (x.headKind q = some 2) && !(x.port q).drop) = true := by simpa using ends
  simp only [State.eosJoinAt, rule, frame, all, room]
  cases hb : x.body
  case lane l => simp only [flushed l hb]; rfl
  all_goals rfl

theorem State.shapeAt_begins (wise : x.elementWise ins = true) (frame : s.framed r a x ins = true)
    (others : ins.any x.counts = true) (whole : x.amidPosition ins = false)
    (room : x.isTask = true → g.outsFree a outs = true) :
    s.shapeAt r a g x p = some
      (((s.errorAt r a (chanField (g.chanTo a p)) p 0x03 (BitVec.ofNat 64 (x.port p).taken)).modActor r a fun x' =>
        x'.popPorts (x.headsOf ins 2)).modActor r a fun x' =>
          { x' with inp := (ins.filter fun q => !(x.headsOf ins 2).contains q).foldl (fun m q =>
              sset {} m q { x'.port q with drop := true }) x'.inp }) := by
  have ready : (x.isTask && !g.outsFree a outs) = false := Bool.and_eq_false_imp.2 fun h => by rw [room h]; rfl
  simp only [State.shapeAt, rule, wise, frame, others, whole, ready]
  rfl

end

section
variable {s : State} {r a : Nat} {g : Region} {x : Actor} (hg : s.region r = some g) (hx : g.actor a = some x)
  (act : g.active x = true)
include hg hx act

section
variable (idle : s.notBusy r a x = true) (clear : s.settled x = true)
include idle clear

theorem State.nullStep_eq (joins : x.joinsEos = true) (blind : x.isTask = true → x.nullVis = false)
    (plain : g.mergeOf a x = none) : s.nullStep r a = (x.headsOf (List.range 8) 1).findSome? (s.nullAt r a g x) := by
  simp only [State.nullStep, hg, hx, act, joins, idle, clear, Bool.and_eq_false_imp.2 blind, plain]
  rfl

theorem State.eosStep_eq (joins : x.joinsEos = true) (blind : x.isTask = true → x.eosVis = false) :
    s.eosStep r a = (x.headsOf x.allPorts 2).findSome? (s.eosJoinAt r a g x) := by
  simp only [State.eosStep, hg, hx, act, joins, idle, clear, Bool.and_eq_false_imp.2 blind]
  rfl

/-- Where no input discards, the first EOS at a head is judged. -/
theorem State.shapeStep_first {t : State} {ins outs : List Nat} {p : Nat} (keep : ∀ q ∈ x.allPorts, (x.port q).drop = false)
    (first : (x.headsOf x.allPorts 2).head? = some p) (rule : s.named g a x p = some (ins, outs))
    (keeps : x.dropping ins = false) (judged : s.shapeAt r a g x p = some t) : s.shapeStep r a = some t := by
  have none_drops : (x.allPorts.filter fun q => (x.port q).drop && (x.head q).isSome) = [] :=
    List.filter_eq_nil_iff.2 fun q hq => by simp [keep q hq]
  simp only [State.shapeStep, hg, hx, act, idle, clear, none_drops, List.findSome?_nil]
  refine findSome?_of_head? first ?_
  simp only [rule, keeps, judged]
  rfl

end

/-! ### Merges (R30, R31) -/

theorem State.orderedMerge_merges {ins : List Nat} (merge : g.mergeOf a x = some (false, ins))
    (keep : ∀ q ∈ ins, (x.port q).drop = false) (noSkip : x.skipping ins = none) (noBurst : x.openBurst ins = none)
    (noCtl : x.controlPort ins = none) (full : ins.all x.hasPosition = true) (noEos : x.headsOf ins 2 = [])
    (noErr : x.headsOf ins 4 = []) (ready : g.outReady a 0 = true) :
    s.orderedMerge r a = some (s.mergeHeads r a x ins) := by
  have keeps : (ins.any fun p => (x.port p).drop) = false := Actor.dropping_eq_false.2 keep
  simp only [State.orderedMerge, hg, hx, act, merge, keeps, noSkip, noBurst, noCtl, full, noEos, ready,
    State.errorStep_eq_none s r a g [0] noErr]
  rfl

/-- A token that an arrival merge may take now: a null is dropped, another one passed on. -/
theorem State.arrivalMerge_takes {m eos : BitVec 8} {err : Bool} {p : Nat} {t : Token} (hb : x.body = .merge true m eos err)
    (ht : x.head p = some t) (inMask : m.getLsbD p = true) (more : eos.getLsbD p = false)
    (turn : ∀ q, x.openBurst (maskList m) = some q → q = p) (notEos : t.kind ≠ 2) (notSol : t.kind ≠ 6)
    (notCall : t.isCall = false) (ready : t.kind ≠ 1 → g.outReady a 0 = true) :
    s.arrivalMerge r a p = some (if t.kind = 1 then s.modActor r a fun x => x.takeTracked p else s.passOn r a p t) := by
  have goes : s.arrivalMerge r a p = if t.kind = 1 then some (s.modActor r a fun x => x.takeTracked p)
      else if !g.outReady a 0 then none else some (s.passOn r a p t) := by
    cases hq : x.openBurst (maskList m) with
    | none => simp only [State.arrivalMerge, hg, hx, hb, ht, act, inMask, more, notEos, notSol, notCall, hq]; rfl
    | some q =>
      obtain rfl := turn q hq
      simp only [State.arrivalMerge, hg, hx, hb, ht, act, inMask, more, notEos, notSol, notCall, hq, ne_eq, not_true_eq_false]
      rfl
  rw [goes]
  split
  · rfl
  · next other => rw [ready other]; rfl

end

/-- Settles O36: each event's step, under its enabling condition, is the branch of its definition that the condition selects. -/
theorem streamRules : Obligations.StreamRules := by
  intro s r a g x hg hx act
  refine ⟨?_, ?_, ?_, ?_, ?_⟩
  · intro ins outs p joins idle clear blind plain first rule full noEos noErr keeps room frame
    exact exec_becomes rfl ((State.nullStep_eq hg hx act idle clear joins blind plain).trans
      (findSome?_of_head? first (State.nullAt_passes rule full noEos noErr keeps room frame)))
  · intro ins outs p joins idle clear blind first rule frame ends room flushed
    exact exec_becomes rfl ((State.eosStep_eq hg hx act idle clear joins blind).trans
      (findSome?_of_head? first (State.eosJoinAt_joins rule frame ends room flushed)))
  · intro ins outs p idle clear keep first rule wise keeps frame others whole room
    exact exec_becomes rfl (State.shapeStep_first hg hx act idle clear keep first rule keeps
      (State.shapeAt_begins rule wise frame others whole room))
  · intro ins merge keep noSkip noBurst noCtl full noEos noErr ready
    exact exec_becomes rfl
      (State.orderedMerge_merges hg hx act merge keep noSkip noBurst noCtl full noEos noErr ready)
  · intro m eos err p t hb ht inMask more turn notEos notSol notCall
    refine ⟨fun null => ?_, fun other ready => ?_⟩
    · have step := State.arrivalMerge_takes hg hx act hb ht inMask more turn notEos notSol notCall (absurd null)
      rw [if_pos null] at step
      exact exec_becomes rfl (by rw [step]; rfl)
    · have step := State.arrivalMerge_takes hg hx act hb ht inMask more turn notEos notSol notCall fun _ => ready
      rw [if_neg other] at step
      exact exec_becomes rfl (by rw [step]; rfl)

/-! ### Counter chains (R34) -/

section
variable {s : State} {r a : Nat} {g : Region} {x : Actor} {c : Counter} (hg : s.region r = some g) (hx : g.actor a = some x)
  (hb : x.body = .counter c) (act : g.active x = true) (uncut : x.srcCut = false) (on : c.enabled = true)
  (unsent : c.eosSent = false) (ready : g.outReady a 0 = true)
include hg hx hb act uncut on unsent ready

theorem State.indexEmit_emits (more : c.emitted < c.total) : s.indexEmit r a = some
    ((s.modActor r a fun x => { x with body := .counter { c with emitted := c.emitted + 1 } }).sendOn r a 0 0
      (indexToken c.spec (c.emitted % chainSize c.spec))) := by
  simp only [State.indexEmit, hg, hx, hb, act, uncut, on, unsent, ready, more, decide_true]
  rfl

theorem State.counterEos_ends (done : c.total ≤ c.emitted) : s.counterEos r a = some
    (((s.modActor r a fun x => { x with body := .counter { c with enabled := false, eosSent := true } }).sendEos r a 0
      false).modRegion r fun g => g.sendDone (.actor a) (c.first + c.span - 1)) := by
  simp only [State.counterEos, hg, hx, hb, act, uncut, on, unsent, ready, done, decide_true]
  rfl

end

/-! ### Messages on the control network (R25, R35, R36, R242, R426) -/

/-- From a die to itself the narrow plane has no edge to cross. -/
theorem State.narrowWay_self (s : State) (d : Nat) : s.narrowWay d d = true := by
  simp [State.narrowWay, routeAll, dieRoute, runTo]

/-- What names no actor of a region stays at its origin tile. -/
theorem State.netReaches_of_no_actor (s : State) {g : Region} {a : Nat} (h : g.actor a = none) :
    s.netReaches g (.actor a) = true := by
  simp only [State.netReaches, Region.nodeDie, h]
  exact s.narrowWay_self _

section
variable {s : State} {r k : Nat} {g : Region} (hg : s.region r = some g)
include hg

theorem State.enableStep_starts_ctrl {c first span : Nat} {y : Ctrl} (hk : g.net[k]? = some (.enable (.ctrl c) first span))
    (hy : g.ctrl c = some y) (off : y.enabled = false) (uncut : y.cut = .run) (way : s.netReaches g (.ctrl c) = true) :
    s.enableStep r k = some (s.setRegion r ((({ g with net := ldrop g.net k } : Region).setCtrl c
      { y with
        enabled := true, doneSent := false, first := first, span := g.spanOf (.ctrl c) first span
        kidEn := [], kidDone := [] }).advanceCtrl c)) := by
  simp only [State.enableStep, hg, hk, hy, off, uncut, way]
  rfl

theorem State.enableStep_starts_counter {a first span : Nat} {x : Actor} {c : Counter}
    (hk : g.net[k]? = some (.enable (.actor a) first span)) (hx : g.actor a = some x) (uncut : x.cut = .run)
    (hb : x.body = .counter c) (off : c.enabled = false) (way : s.netReaches g (.actor a) = true) :
    s.enableStep r k = some (s.setRegion r (({ g with net := ldrop g.net k } : Region).setActor a
      { x with body := .counter { c with
          enabled := true, first := first, span := g.spanOf (.actor a) first span, emitted := 0, eosSent := false } })) := by
  simp only [State.enableStep, hg, hk, hx, hb, off, uncut, way]
  rfl

/-- A done for an iteration enabled and not yet reported lets its controller go on; any other is counted. -/
theorem State.doneStep_eq {c j iter : Nat} {y : Ctrl} (hk : g.net[k]? = some (.done c j iter)) (hy : g.ctrl c = some y)
    (uncut : y.cut = .run) (way : s.kidReaches g c j = true) :
    s.doneStep r k = some
      (if y.enabled = true ∧ iter < sget 0 y.kidEn j ∧ sget 0 y.kidDone j ≤ iter then
        s.setRegion r ((({ g with net := ldrop g.net k } : Region).setCtrl c
          { y with kidDone := sset 0 y.kidDone j (iter + 1) }).advanceCtrl c)
      else (s.setRegion r { g with net := ldrop g.net k }).bumpFault r 8 0) := by
  simp only [State.doneStep, hg, hk, hy, uncut, way, Bool.and_eq_true, decide_eq_true_eq, and_assoc]
  simp only [ne_eq, not_true_eq_false, decide_false, Bool.not_true, Bool.or_self, Bool.false_eq_true, if_false]
  split <;> rfl

/-- A call that reaches its actor's place behind no earlier one joins the actor's calls where its entry is valid, else goes to the
fault sink. -/
theorem State.callStep_eq {a : Nat} {u : Token} (hk : g.net[k]? = some (.call a u))
    (first : ∀ m ∈ g.net.take k, ∀ v, m ≠ .call a v) (way : s.netReaches g (.actor a) = true) :
    let s1 := s.setRegion r { g with net := ldrop g.net k }
    let e := dwAt (u.dw 0) 8 4
    (g.actor a = none → s.callStep r k = some (s1.free.2.feedError r (s1.free.1.toNat % 1024) (s1.free.1.toNat / 1024 % 16)
      0xFF e 0x07 (u.dw 0))) ∧
    (∀ x, g.actor a = some x → x.cut = .run → s.callStep r k = some
      (if x.validEntry e then s1.modActor r a fun x => { x with calls := x.calls ++ [u] } else s1.divertCall r a 0xFF u)) := by
  unfold State.callStep
  simp only [hg, hk]
  rw [if_neg]
  · refine ⟨fun hx => ?_, fun x hx uncut => ?_⟩
    · simp only [hx]
    · simp only [hx, uncut, reduceCtorEq, or_self, if_false]
      split <;> rfl
  · simp only [way, Bool.not_true, Bool.or_false, List.any_eq_true, not_exists, not_and]
    intro m hm
    cases m with
    | call b v => simpa using fun hb : b = a => first _ hm v (hb ▸ rfl)
    | _ => simp

end

/-- Settles O37: counter chains by their two steps, messages of the control network by what stands at their place. -/
theorem countersAndControllers : Obligations.CountersAndControllers := by
  intro s r g hg
  refine ⟨?_, fun k first span => ⟨?_, ?_, ?_, ?_, ?_⟩⟩
  · intro a x c hx hb act uncut on unsent ready
    exact ⟨fun more => exec_becomes rfl (State.indexEmit_emits hg hx hb act uncut on unsent ready more),
      fun done => exec_becomes rfl (State.counterEos_ends hg hx hb act uncut on unsent ready done)⟩
  · intro c y hk hy off uncut way
    exact exec_becomes rfl (State.enableStep_starts_ctrl hg hk hy off uncut way)
  · intro a x c hk hx uncut hb off way
    exact exec_becomes rfl (State.enableStep_starts_counter hg hk hx uncut hb off way)
  · intro c j iter y hk hy uncut way
    have step := State.doneStep_eq hg hk hy uncut way
    exact ⟨fun due => exec_becomes rfl (by rw [step, if_pos due]),
      fun stray => exec_becomes rfl (by rw [step, if_neg stray])⟩
  · intro a u x hk hx uncut first way
    have step := (State.callStep_eq hg hk first way).2 x hx uncut
    exact ⟨fun valid => exec_becomes rfl (by rw [step, if_pos valid]),
      fun bad => exec_becomes rfl (by rw [step, if_neg (by simp [bad])])⟩
  · intro a u hk absent first
    have way := s.netReaches_of_no_actor absent
    exact ⟨_, _, exec_becomes rfl ((State.callStep_eq hg hk first way).1 absent)⟩

/-! ### Launches (R38, R165, R174, R193, R363, R419) -/

/-- Settles O38: a launch token, an end of a launch, a record and a refill, each where its event is enabled. -/
theorem launchesRun : Obligations.LaunchesRun := by
  intro s r g hg
  refine ⟨?_, ?_, ?_, ?_⟩
  · intro l rest idle queue uncut credit ingCredit g1 g2 entered
    have admitted : (g.cutBy.isSome || decide (min g.credit g.ingCredit < tokenCharge l.payload)) = false := by
      rw [uncut, Option.isSome_none, Bool.false_or, decide_eq_false_iff_not]
      omega
    have step : s.launchArrives r = some entered := by
      simp only [State.launchArrives, hg, idle, queue, admitted]
      rfl
    exact ⟨exec_becomes rfl step, exec_becomes rfl step⟩
  · intro l launch writes cmds uncut
    have settled : (s.writesDone r && s.commandsDone r l.sysc && g.cutBy.isNone) = true := by simp [writes, cmds, uncut]
    refine ⟨fun goes root sinks => exec_becomes rfl ?_, fun halted quiet still units => exec_becomes rfl ?_⟩
    · simp only [State.launchEnds, hg, launch, settled, goes, root, sinks]
      rfl
    · simp only [State.launchEnds, hg, launch, settled, halted, quiet, still, units, Bool.or_eq_true, decide_eq_true_eq]
      rfl
  · intro k w f rest next recs
    refine exec_becomes rfl (o := s.deliverRecord r) ?_
    simp only [State.deliverRecord, hg, next, recs]
  · intro now
    have step : exec (.powerRefill r) s = occur s (s.refill r) := rfl
    refine ⟨fun due => ?_, fun early => ?_⟩
    · rw [step, State.refill, hg]
      exact congrArg (occur s) (if_neg (Int.not_lt.2 due))
    · rw [step, State.refill, hg]
      exact congrArg (occur s) (if_pos early)

/-! ### Engine actors (R24, R27, R32, R134, R136, R137, R427) -/

/-- The element step of an engine actor, by its kind. -/
def State.elementStep (s : State) (r a : Nat) (g : Region) (x : Actor) : Option State :=
  match x.body with
  | .lane l => s.laneElement r a g x l
  | .matrix _ => s.matrixElement r a g x
  | .abacus _ => s.abInput r a
  | .memory m => if m.store then s.memStore r a else s.memLoad r a
  | .bank => s.bankElement r a g x
  | _ => none

theorem exec_engineElementStep {s : State} {r a : Nat} {g : Region} {x : Actor} (hg : s.region r = some g)
    (hx : g.actor a = some x) : exec (.engineElementStep r a) s = occurIn s r (s.elementStep r a g x) := by
  change execEngineElementStep r a s = _
  simp only [execEngineElementStep, State.elementStep, hg, hx]
  cases x.body <;> rfl

section
variable {s : State} {r a : Nat} {g : Region} {x : Actor} {ins outs : List Nat}

/-! #### Lane actors -/

section
variable {l : LaneSeg} (named : s.engineNamed g a x = (ins, outs)) (act : g.active x = true) (sent : l.pend = [])
  (noCfg : l.cfg = []) (keep : ∀ p ∈ ins, (x.port p).drop = false) (frame : ∀ p ∈ ins, s.framing r a p = none)
  (noErr : s.errorStep r a g x ins outs = none) (room : g.outsFree a outs = true)
include named act sent noCfg keep frame noErr room

theorem State.laneElement_data (data : ∀ p ∈ ins, x.headKind p = some 0 ∨ x.headKind p = some 7)
    (credit : s.creditOf r a = none) : s.laneElement r a g x l = some (s.laneData r a g x l ins) := by
  have keeps : (ins.any fun p => (x.port p).drop) = false := Actor.dropping_eq_false.2 keep
  have noHeader : x.headsOf ins 3 = [] := Actor.headsOf_eq_nil.2 fun p hp => by
    rcases data p hp with h | h <;> rw [h] <;> decide
  have isData : (ins.all fun p => ([] : List Nat).contains p || x.isData p) = true :=
    List.all_eq_true.2 fun p hp => by simpa [Actor.isData] using data p hp
  simp only [State.laneElement, named, sent, noCfg, act, keeps, List.findSome?_eq_none_iff.2 frame, noErr, noHeader, isData, room,
    credit]
  rfl

theorem State.laneElement_headers (drained : (s.tile x.tile).drained l = true) (some_input : ins ≠ [])
    (headers : ∀ p ∈ ins, x.headKind p = some 3) (good : ∀ p ∈ ins, s.laneBadHeader r a g x p = none) :
    s.laneElement r a g x l = some (s.laneHeaders r a g x l ins outs) := by
  have keeps : (ins.any fun p => (x.port p).drop) = false := Actor.dropping_eq_false.2 keep
  have isHeader : (ins.all fun p => ins.contains p || x.isData p) = true :=
    List.all_eq_true.2 fun p hp => by simp [hp]
  simp only [State.laneElement, named, sent, noCfg, act, keeps, List.findSome?_eq_none_iff.2 frame, noErr,
    Actor.headsOf_eq_self headers, List.findSome?_eq_none_iff.2 good, isHeader, room, drained, ne_eq,
    some_input]
  rfl

end

section
variable {l : LaneSeg} (hg : s.region r = some g) (hx : g.actor a = some x) (hb : x.body = .lane l) (act : g.active x = true)
include hg hx hb act

/-- A configuration that waits goes first, at a burst boundary. -/
theorem State.configStep_applies {t : State} (waits : s.laneApply r a x l = some t) : s.configStep r a = some t := by
  have notTask : x.isTask = false := by rw [Actor.isTask, hb]
  simp only [State.configStep, hg, hx, hb, act, notTask, Option.bind_some, waits]
  rfl

/-- Where none is applied, the configuration token at the lowest input is taken. -/
theorem State.configStep_takes {p : Nat} {t : Token} (none_waits : s.laneApply r a x l = none)
    (some_input : (s.engineNamed g a x).1 ≠ [])
    (first : x.controlPort ((s.engineNamed g a x).1.filter fun p => decide (p ≠ 7)) = some p) (ht : x.head p = some t)
    (conf : t.subtype = 4) (turn : l.cfg = [] ∨ x.inBurst = true) : s.configStep r a = s.laneConfig r a x l p t := by
  have notTask : x.isTask = false := by rw [Actor.isTask, hb]
  have notAbacus : x.abacus = none := by rw [Actor.abacus, hb]
  have free : (decide (l.cfg ≠ []) && !x.inBurst) = false := by
    rcases turn with h | h <;> simp [h]
  simp only [State.configStep, hg, hx, hb, act, notTask, notAbacus, List.isEmpty_eq_false_iff.2 some_input, first, ht, conf,
    free, Option.bind_some, Option.bind_none, Option.getD_some, none_waits, Bool.false_eq_true, if_false]
  rfl

end

/-! #### Bank actors -/

section
variable (named : s.engineNamed g a x = (ins, outs))
include named

theorem State.bankElement_answers {k : Nat} {q : Access} {t : Token} (elem : s.bankAt x = some (k, q)) (old : q.st = .answered t)
    (room : g.outsFree a outs = true) :
    s.bankElement r a g x = some (outs.foldl (fun s p => s.sendOn r a p t.kind t.payload t.deps) (s.dropAccess x.tile k)) := by
  simp only [State.bankElement, named, elem, old, room]
  rfl

variable (free : s.bankAt x = none) (act : g.active x = true) (some_input : ins ≠ [])
  (frame : ∀ p ∈ ins, s.framing r a p = none)
include free act some_input frame

theorem State.bankElement_error {t : State} (err : s.errorStep r a g x ins outs = some t) : s.bankElement r a g x = some t := by
  simp only [State.bankElement, named, free, act, List.isEmpty_eq_false_iff.2 some_input, List.findSome?_eq_none_iff.2 frame, err]
  rfl

theorem State.bankElement_headers (noErr : s.errorStep r a g x ins outs = none)
    (headers : ∀ p ∈ ins, x.headKind p = some 3) (burst : ∀ p ∈ ins, burstType (g.inType a p) = true)
    (full : ∀ p ∈ ins, x.hasPosition p = true) (keep : ∀ p ∈ ins, (x.port p).drop = false) (room : g.outsFree a outs = true) :
    s.bankElement r a g x = some (s.modActor r a fun x => ins.foldl Actor.takeTracked x) := by
  have allBurst : (ins.find? fun p => !burstType (g.inType a p)) = none :=
    List.find?_eq_none.2 fun p hp => by simp [burst p hp]
  have only (k : BitVec 4) (hk : some 3 ≠ some k) : x.headsOf ins k = [] :=
    Actor.headsOf_eq_nil.2 fun p hp => headers p hp ▸ hk
  have others : ([1, 2, 4].all fun k => decide (x.headsOf ins k = [])) = true := by
    simp only [List.all_cons, only 1 (by decide), only 2 (by decide), only 4 (by decide)]
    rfl
  have step : s.headerStep r a g x ins outs = some (s.modActor r a fun x => ins.foldl Actor.takeTracked x) := by
    simp only [State.headerStep, Actor.headsOf_eq_self headers, allBurst, others, List.all_eq_true.2 full,
      Actor.dropping_eq_false.2 keep, room, ne_eq, some_input]
    rfl
  simp only [State.bankElement, named, free, act, List.isEmpty_eq_false_iff.2 some_input, List.findSome?_eq_none_iff.2 frame,
    noErr, step]
  rfl

theorem State.bankElement_operands (data : ∀ p ∈ ins, x.headKind p = some 0 ∧ (x.port p).drop = false)
    (room : g.outsFree a outs = true) :
    s.bankElement r a g x = some ((s.modActor r a fun x => ins.foldl Actor.takeTracked x).pushBank r a g x
      (ins.map fun p => ((x.head p).getD {}).payload)) := by
  have only (k : BitVec 4) (hk : some 0 ≠ some k) : x.headsOf ins k = [] :=
    Actor.headsOf_eq_nil.2 fun p hp => (data p hp).1 ▸ hk
  have noHeader : s.headerStep r a g x ins outs = none := by
    simp only [State.headerStep, only 3 (by decide), List.find?_nil]
    rfl
  have isData : (ins.all fun p => x.isData p && !(x.port p).drop) = true :=
    List.all_eq_true.2 fun p hp => by simp [Actor.isData, data p hp]
  simp only [State.bankElement, named, free, act, List.isEmpty_eq_false_iff.2 some_input, List.findSome?_eq_none_iff.2 frame,
    s.errorStep_eq_none r a g outs (only 4 (by decide)), noHeader, isData, room]
  rfl

end

/-! #### Memory actors -/

section
variable {m : MemGen} (hg : s.region r = some g) (hx : g.actor a = some x) (hb : x.body = .memory m)
include hg hx hb

omit hg hx in
/-- An active memory actor takes the token of its one input. -/
theorem State.memReady_single (act : g.active x = true) (live : m.eos = none) (frame : s.framing r a 0 = none)
    (keep : (x.port 0).drop = false) (elems : s.elemRoom r a x m = true) : s.memReady r a g x m [0] = true := by
  simp [State.memReady, State.framed, hb, act, live, keep, elems, frame]

theorem State.flushHeld_eq_none (empty : m.held = []) : s.flushHeld r a = none := by
  simp only [State.flushHeld, hg, hx, hb, State.nextHeld, empty, Option.map_none]

theorem State.memForward_sends {err : Bool} (ended : m.eos = some err) (act : g.active x = true)
    (settled : s.streamSettled r a x m = true) (room : g.outsFree a (s.engineNamed g a x).2 = true) :
    s.memForward r a = some
      (let u := (s.modGen r a fun m => { m with eos := none, strm := 0, pos := 0, enabled := false }).eosAll r a err
        (s.engineNamed g a x).2
       if m.self then u.modRegion r fun g => g.sendDone (.actor a) (m.first + m.span - 1) else u) := by
  simp only [State.memForward, hg, hx, hb, ended, act, settled, room]
  rfl

theorem State.memLoad_pass (load : m.store = false) (empty : m.held = []) (pass : m.pass = true) (more : m.pos < m.total)
    (act : g.active x = true) (uncut : x.srcCut = false) (elems : s.elemRoom r a x m = true) (ready : g.outReady a 0 = true) :
    s.memLoad r a = some ((s.pushElem r a g x m (m.va m.pos) none).modGen r a fun m => { m with pos := m.pos + 1 }) := by
  simp only [State.memLoad, hg, hx, hb, load, State.flushHeld_eq_none hg hx hb empty, pass, Nat.not_le.2 more, act, uncut, elems,
    ready]
  rfl

section
variable {t : Token} (single : m.indexed = false) (live : m.eos = none) (act : g.active x = true)
  (frame : s.framing r a 0 = none) (keep : (x.port 0).drop = false) (elems : s.elemRoom r a x m = true)
  (ht : x.head 0 = some t) (data : t.kind = 0)
include single live act frame keep elems ht data

theorem State.memLoad_starts (load : m.store = false) (affine : m.self = false) (idle : m.pass = false) (empty : m.held = [])
    (ready : g.outReady a 0 = true) :
    s.memLoad r a = some ((s.modActor r a fun x => x.takeTracked 0).modGen r a fun m => { m with pass := true, pos := 0 }) := by
  have named : s.engineNamed g a x = ([0], [0]) := by
    simp only [State.engineNamed, hb, load, affine]; rfl
  have isData := Actor.isData_of_kind_zero ht data
  have takes := State.memReady_single hb act live frame keep elems
  simp only [State.memLoad, hg, hx, hb, load, State.flushHeld_eq_none hg hx hb empty, named, idle, affine, single, isData, takes,
    ready, List.findSome?_cons, frame, List.findSome?_nil]
  rfl

theorem State.memStore_takes (store : m.store = true) (room : g.outsFree a (s.engineNamed g a x).2 = true) :
    s.memStore r a = some ((s.modActor r a fun x => x.takeTracked 0).storeNext r a g x m t) := by
  have named : (s.engineNamed g a x).1 = [0] := by
    simp only [State.engineNamed, hb, store, single]; rfl
  have isData := Actor.isData_of_kind_zero ht data
  have takes := State.memReady_single hb act live frame keep elems
  have notLaunch : t.kind ≠ 7 := by rw [data]; decide
  simp only [State.memStore, hg, hx, hb, store, named, single, isData, takes, room, notLaunch, ht, List.findSome?_cons, frame,
    List.findSome?_nil, List.all_cons, List.all_nil, Option.getD_some]
  rfl

end

end

end

/-- Settles O44: each clause is the step of its actor's kind under its condition. -/
theorem engineSteps : Obligations.EngineSteps := by
  intro s r a g x hg hx
  have step := exec_engineElementStep hg hx
  refine ⟨?_, ?_, ?_, ?_, ?_, ?_, ?_, ?_, ?_, ?_, ?_, ?_⟩
  · intro l u hb lane
    exact exec_becomes step (by simpa only [State.elementStep, hb] using lane)
  · intro l hb sent noCfg act ins outs inputs noErr room credit
    obtain ⟨keep, inputs⟩ := forall_mem_and.1 inputs
    obtain ⟨frame, data⟩ := forall_mem_and.1 inputs
    refine exec_becomes step ?_
    simp only [State.elementStep, hb]
    exact State.laneElement_data rfl act sent noCfg keep frame noErr room data credit
  · intro l hb sent noCfg act drained ins outs some_input inputs noErr room
    obtain ⟨keep, inputs⟩ := forall_mem_and.1 inputs
    obtain ⟨frame, inputs⟩ := forall_mem_and.1 inputs
    obtain ⟨headers, good⟩ := forall_mem_and.1 inputs
    refine exec_becomes step ?_
    simp only [State.elementStep, hb]
    exact State.laneElement_headers rfl act sent noCfg keep frame noErr room drained some_input headers good
  · intro l u hb matrix
    exact exec_becomes step (by simpa only [State.elementStep, hb] using matrix)
  · intro b u hb abacus
    exact exec_becomes step (by simpa only [State.elementStep, hb] using abacus)
  · intro u hb ins outs
    have named : s.engineNamed g a x = (ins, outs) := by simp only [State.engineNamed, hb]; rfl
    have bank : s.elementStep r a g x = s.bankElement r a g x := by simp only [State.elementStep, hb]
    refine ⟨fun k q t elem old room => ?_, fun free act some_input frame => ⟨fun err => ?_, fun noErr headers room => ?_,
      fun data room => ?_⟩⟩
    · exact exec_becomes step (bank.trans (State.bankElement_answers named elem old room))
    · exact exec_becomes step (bank.trans (State.bankElement_error named free act some_input frame err))
    · obtain ⟨headers, inputs⟩ := forall_mem_and.1 headers
      obtain ⟨burst, inputs⟩ := forall_mem_and.1 inputs
      obtain ⟨full, keep⟩ := forall_mem_and.1 inputs
      exact exec_becomes step (bank.trans
        (State.bankElement_headers named free act some_input frame noErr headers burst full keep room))
    · exact exec_becomes step (bank.trans (State.bankElement_operands named free act some_input frame data room))
  · intro l p t hb act first some_input ht conf took
    refine ⟨fun burst => ?_, fun boundary noCfg drained => ?_⟩
    · have none_waits : s.laneApply r a x l = none := by simp [State.laneApply, burst]
      refine exec_becomes rfl ((State.configStep_takes hg hx hb act none_waits some_input first ht conf (.inr burst)).trans ?_)
      simp only [State.laneConfig, burst]
      rfl
    · have none_waits : s.laneApply r a x l = none := by simp [State.laneApply, noCfg]
      refine exec_becomes rfl ((State.configStep_takes hg hx hb act none_waits some_input first ht conf (.inl noCfg)).trans ?_)
      simp only [State.laneConfig, boundary, drained]
      rfl
  · intro l hb act waits drained boundary
    refine exec_becomes rfl (State.configStep_applies hg hx hb act ?_)
    simp only [State.laneApply, ne_eq, waits, drained, boundary]
    rfl
  · intro m t hb load single affine idle empty live act frame keep elems ht data ready
    exact exec_becomes rfl
      (State.memLoad_starts hg hx hb single live act frame keep elems ht data load affine idle empty ready)
  · intro m hb load empty pass more act uncut elems ready
    exact exec_becomes rfl (State.memLoad_pass hg hx hb load empty pass more act uncut elems ready)
  · intro m t hb store single act live frame keep elems ht data room
    exact exec_becomes rfl (State.memStore_takes hg hx hb single live act frame keep elems ht data store room)
  · intro m err hb ended act settled room
    exact exec_becomes rfl (State.memForward_sends hg hx hb ended act settled room)

end Sys2Proof.Machine

namespace Sys2Proof.Machine

open Sys2Proof.Safety

/-! ## Value instructions: what computing a value changes and what it leaves unchanged -/

/-! ### The register file (R45, R46) -/

/-- A register write leaves every other one of g1 to g31 alone, and where the mode names the system
bank also the one of its number. -/
theorem Core.sget_g_setReg {c : Core} {r : Reg} {q : Nat} (v : Dw) (hg : swf (0 : Dw) c.g = true)
    (h : q ≠ r.toNat ∨ (c.sys = true ∧ 24 ≤ q)) : sget 0 (c.setReg r v).g q = sget 0 c.g q := by
  unfold Core.setReg
  split
  · rfl
  · split
    · rfl
    · next graph =>
      have hq : q ≠ r.toNat := by
        rintro rfl
        obtain other | ⟨system, high⟩ := h
        · exact other rfl
        · exact graph (by simp [system, high])
      exact sget_sset_other 0 v c.g r.toNat q hg hq

/-- A register write leaves every other register of the system bank alone, and all of them in graph mode. -/
theorem Core.sget_sb_setReg {c : Core} {r : Reg} {q : Nat} (v : Dw) (hb : swf (0 : Dw) c.sb = true)
    (h : q ≠ r.toNat ∨ c.sys = false) : sget 0 (c.setReg r v).sb q = sget 0 c.sb q := by
  unfold Core.setReg
  split
  · rfl
  · split
    · next system =>
      have hq : q ≠ r.toNat := h.resolve_right fun graph => by simp [graph] at system
      exact sget_sset_other 0 v c.sb r.toNat q hb hq
    · rfl

/-! ### A value written and the pc moved on -/

section
variable {s : State}

/-- Writing the core leaves the rest of the tile in focus alone. -/
theorem State.tile_setCore_focus (h : swf ({} : Tile) s.tiles = true) (c : Core) :
    (s.setCore c).tile s.focus = { s.tile s.focus with core := c } :=
  State.tile_setTile_same _ _ _ h

theorem State.tile_setCore_other (h : swf ({} : Tile) s.tiles = true) (c : Core) {k : Nat} (hk : k ≠ s.focus) :
    (s.setCore c).tile k = s.tile k :=
  State.tile_setTile_other _ _ _ _ h hk

theorem core_wrote (hs : Canon s) (d : Reg) (v : Dw) :
    (wrote s d v).core = { s.core.setReg d v with pc := s.core.pc + 4 } :=
  State.core_setCore _ _ hs.tiles

theorem reg_wrote (hs : Canon s) (d : Reg) (v : Dw) (r : Reg) : (wrote s d v).reg r = (s.core.setReg d v).reg r := by
  rw [State.reg, core_wrote hs]
  rfl

theorem reg_wrote_same (hs : Canon s) {d : Reg} (hd : d ≠ 0) (v : Dw) : (wrote s d v).reg d = v := by
  obtain ⟨hg, hb⟩ := hs.regs s.focus
  rw [reg_wrote hs]
  exact Core.reg_setReg_same _ d v hd hg hb

theorem reg_wrote_other (hs : Canon s) {d r : Reg} (hr : r ≠ d) (v : Dw) : (wrote s d v).reg r = s.reg r := by
  obtain ⟨hg, hb⟩ := hs.regs s.focus
  rw [reg_wrote hs]
  exact Core.reg_setReg_other _ d r v hr hg hb

theorem sget_g_wrote (hs : Canon s) {d : Reg} {r : Nat} (hr : r ≠ d.toNat ∨ (s.core.sys = true ∧ 24 ≤ r)) (v : Dw) :
    sget 0 (wrote s d v).core.g r = sget 0 s.core.g r := by
  rw [core_wrote hs]
  exact Core.sget_g_setReg v (hs.regs s.focus).1 hr

theorem sget_sb_wrote (hs : Canon s) {d : Reg} {r : Nat} (hr : r ≠ d.toNat ∨ s.core.sys = false) (v : Dw) :
    sget 0 (wrote s d v).core.sb r = sget 0 s.core.sb r := by
  rw [core_wrote hs]
  exact Core.sget_sb_setReg v (hs.regs s.focus).2 hr

theorem tile_wrote_focus (hs : Canon s) (d : Reg) (v : Dw) :
    (wrote s d v).tile s.focus = { s.tile s.focus with core := { s.core.setReg d v with pc := s.core.pc + 4 } } :=
  State.tile_setCore_focus hs.tiles _

theorem spad_wrote (hs : Canon s) (d : Reg) (v : Dw) : ((wrote s d v).tile s.focus).spad = (s.tile s.focus).spad := by
  rw [tile_wrote_focus hs]

theorem port_wrote (hs : Canon s) (d : Reg) (v : Dw) : ((wrote s d v).tile s.focus).port = (s.tile s.focus).port := by
  rw [tile_wrote_focus hs]

theorem tile_wrote_other (hs : Canon s) (d : Reg) (v : Dw) {k : Nat} (hk : k ≠ s.focus) :
    (wrote s d v).tile k = s.tile k :=
  State.tile_setCore_other hs.tiles _ hk

end

/-! ### What a value instruction answers (R73, R277) -/

theorem retire_eq_wrote (s : State) (d : Reg) (v : Dw) : retire s d v = .next (wrote s d v) := by
  simp [retire, wrote, Core.step4]

/-- A change of a region changes the regions alone. -/
theorem State.modRegion_eq_setRegions (s : State) (r : Nat) (f : Region → Region) :
    s.modRegion r f = { s with regions := (s.modRegion r f).regions } := by
  unfold State.modRegion
  split <;> rfl

/-- Flags that join FFLAGS change the regions alone, so the value is written as without them. -/
theorem wrote_addFlags (s : State) (f : Flags) (d : Reg) (v : Dw) :
    wrote (s.addFlags f) d v = { wrote s d v with regions := (s.addFlags f).regions } :=
  (congrArg (wrote · d v) (s.modRegion_eq_setRegions _ _)).trans rfl

/-- Every instruction that computes a value retires with some value in its destination. -/
theorem exec_of_valueDest {i : Instr} {d : Reg} (h : valueDest i = some d) (s : State) : ∃ v, exec i s = retire s d v := by
  cases i with
  | add | sub | and | or | xor | andn | shl | shr | sar | rotr | min | max | minu | maxu | slt | sltu | seq
  | clz | ctz | popc | mul | mulh | mulhu | div | divu | rem | remu
  | shli | shri | sari | rotri
  | sel | ins | exts | extu | addi | andi | ori | xori | slti | ldhi | addpc
  | fsgnCp | fsgnNeg | fsgnXor | chq | krd =>
    obtain rfl := Option.some.inj h
    exact ⟨_, rfl⟩
  | _ => cases h

/-- Every float instruction that may set flags retires with some value in its destination and some flags in FFLAGS. -/
theorem exec_of_floatDest {i : Instr} {d : Reg} (h : floatDest i = some d) (s : State) :
    ∃ f v, exec i s = retire (s.addFlags f) d v := by
  cases i with
  | fadd | fsub | fmul | fma | fcvt | fmin | fmax | fcmpEq | fcmpLt | fcmpLe | fcmpUo | frcp | frsq | fexp2 | flog2 =>
    obtain rfl := Option.some.inj h
    exact ⟨_, _, rfl⟩
  | _ => cases h

/-- The whole frame of a value instruction: but for its one register and the pc, the machine stays as it was. -/
theorem wrote_of_valueDest {i : Instr} {d : Reg} {s t : State} (h : valueDest i = some d) (e : exec i s = .next t) :
    ∃ v, t = wrote s d v := by
  obtain ⟨v, hv⟩ := exec_of_valueDest h s
  rw [hv, retire_eq_wrote] at e
  exact ⟨v, (Host.Outcome.next.inj e).symm⟩

/-- The whole frame of a float instruction: but for its one register, the pc and FFLAGS, the machine stays as it was. -/
theorem wrote_of_floatDest {i : Instr} {d : Reg} {s t : State} (h : floatDest i = some d) (e : exec i s = .next t) :
    ∃ f v, t = { wrote s d v with regions := (s.addFlags f).regions } := by
  obtain ⟨f, v, hv⟩ := exec_of_floatDest h s
  rw [hv, retire_eq_wrote, wrote_addFlags] at e
  exact ⟨f, v, (Host.Outcome.next.inj e).symm⟩

/-- Settles O56: the next state is the old one with the value written and the pc moved on, and for a float instruction the
regions that the flags joined; each clause is a read of that state. -/
theorem valueFrame : Obligations.ValueFrame := by
  intro i d s t hs hi e
  have computed : ∃ v regions, t = { wrote s d v with regions } := by
    obtain hv | hf := hi
    · obtain ⟨v, rfl⟩ := wrote_of_valueDest hv e
      exact ⟨v, _, rfl⟩
    · obtain ⟨f, v, rfl⟩ := wrote_of_floatDest hf e
      exact ⟨v, _, rfl⟩
  have valueRegions (hv : valueDest i = some d) : t.regions = s.regions := by
    obtain ⟨v, rfl⟩ := wrote_of_valueDest hv e
    rfl
  have floatRegions (hf : floatDest i = some d) : ∃ fl : BitVec 5,
      t.regions = (s.modActor s.runner.1 s.runner.2 fun x => { x with fflags := x.fflags ||| fl }).regions := by
    obtain ⟨f, v, rfl⟩ := wrote_of_floatDest hf e
    exact ⟨f.bits, rfl⟩
  obtain ⟨v, regions, rfl⟩ := computed
  refine ⟨⟨v, core_wrote hs d v, fun hd => reg_wrote_same hs hd v⟩, Core.reg_zero _, fun r hr => reg_wrote_other hs hr v,
    fun r _ _ hr => sget_g_wrote hs hr v, fun r hr => sget_sb_wrote hs hr v, spad_wrote hs d v, port_wrote hs d v,
    fun k hk => tile_wrote_other hs d v hk, rfl, rfl, rfl, rfl, valueRegions, floatRegions⟩

end Sys2Proof.Machine

namespace Sys2Proof.Machine

open Sys2Proof.Safety

/-! ## Requests to abacus actors, to the placement controller and for a cut -/

/-! ### The request (R109, R119) -/

/-- The state in which such a request acts: a credit of its response port is taken, and an engine access that its answer will
use has joined the port. -/
def State.requested (s : State) (p : Port) (va : Dw) : State :=
  (s.takeCredit p).pushAccess { kind := .engine, va := va, port := p.toNat }

/-- The answer that such a request is owed: on its port, to the running actor, under its access's name. -/
def State.owedHere (s : State) (p : Port) : Owed := { actor := s.runner.2, port := p.toNat, id := s.nextId }

/-- On a declared response port with a free credit the request acts, and its task goes on. -/
theorem engineRequest_acts {s : State} {p : Port} (resp : s.isResp p = true) (credit : s.hasCredit p = true) (va : Dw)
    (act : State → Owed → State) :
    engineRequest s p va act = .next (passed (act (s.requested p va) (s.owedHere p))) := by
  simp only [engineRequest, resp, credit, Bool.not_true, Bool.false_eq_true, if_false]
  rfl

/-! ### What a shadow-plane request does to its actor (R108, R110) -/

/-- The shadow plane loads, or waits to swap: the states in which ABLOAD, ABSWAP and ABDROP are all refused. -/
def Abacus.busy (b : Abacus) : Prop := b.shState = .loading ∨ b.shState = .swapPending

/-- The beads with sticky flags of a plane, as ABQRY's doubleword 1 counts them. -/
def stickyCount : Option Plane → Nat
  | some q => q.sticky.length % 65536
  | none => 0

/-- `Abacus.request` tests for a busy shadow with Booleans; this is its test. -/
theorem Abacus.busy_iff (b : Abacus) :
    (decide (b.shState = .loading) || decide (b.shState = .swapPending)) = true ↔ b.busy := by
  simp [Abacus.busy]

theorem Abacus.not_busy_of_empty {b : Abacus} (h : b.shState = .empty) : ¬ b.busy := by
  simp [Abacus.busy, h]

section
variable (b : Abacus) (va : Dw) (clear : Bool) (o : Owed)

theorem Abacus.request_load_refused (h : b.busy ∨ b.shState = .loaded) :
    b.request 0 va clear o = (b, some (b.reply 0 3 0 0)) :=
  if_pos (h.imp_left b.busy_iff.2)

/-- With an empty shadow an ABLOAD is judged on its address alone. -/
theorem Abacus.request_load_of_empty (h : b.shState = .empty) : b.request 0 va clear o =
    if va.toNat % 8 ≠ 0 then (b, some (b.reply 0 2 0 1))
    else ({ b with shState := .loading, shadow := some { va := va }, owedLoad := some o, fault := none }, none) :=
  if_neg (not_or.2 ⟨mt b.busy_iff.1 (b.not_busy_of_empty h), by simp [h]⟩)

theorem Abacus.request_swap_refused (h : b.busy) : b.request 1 va clear o = (b, some (b.reply 1 3 0 0)) :=
  if_pos (b.busy_iff.2 h)

theorem Abacus.request_swap_waits (h : ¬ b.busy) :
    b.request 1 va clear o = ({ b with shState := .swapPending, owedSwap := some o }, none) :=
  if_neg (mt b.busy_iff.1 h)

theorem Abacus.request_drop_refused (h : b.busy) : b.request 2 va clear o = (b, some (b.reply 2 3 0 0)) :=
  if_pos (b.busy_iff.2 h)

/-- The answer of an ABDROP shows the shadow already empty. -/
theorem Abacus.request_drop_empties (h : ¬ b.busy) : b.request 2 va clear o =
    ({ b with shadow := none, shState := .empty },
      some (Abacus.reply { b with shadow := none, shState := .empty } 2 0 0 0)) :=
  if_neg (mt b.busy_iff.1 h)

/-- The answer of an ABQRY shows the flags as they were before its clear bit acts. -/
theorem Abacus.request_query : b.request 3 va clear o =
    (if clear then { b with active := b.active.map fun p => { p with sticky := [] } } else b,
      some (b.reply 3 0 0 (packDw [(stickyCount b.active, 0), (stickyCount b.shadow, 16)]))) := by
  have counts (p : Option Plane) : ((p.map fun q => q.sticky.length).getD 0) % 65536 = stickyCount p := by
    cases p <;> rfl
  simp only [Abacus.request, counts]

end

/-- Settles O19: each instruction is `engineRequest` with its own action, and each clause on the planes is the branch of
`Abacus.request` that the shadow's state selects. -/
theorem unitRequests : Obligations.UnitRequests := by
  refine ⟨fun s a b p resp credit => ?_, fun b va clear o => ?_⟩
  · have acts := engineRequest_acts resp credit
    exact ⟨acts (s.reg a) fun u o => u.abRequest 0 (s.reg a) (s.reg b) false o,
      acts 0 fun u o => u.abRequest 1 0 (s.reg b) false o,
      acts 0 fun u o => u.abRequest 2 0 (s.reg b) false o,
      acts 0 fun u o => u.abRequest 3 0 (s.reg b) ((s.reg a).getLsbD 0) o,
      acts (s.reg a) fun u o => u.askLoad false (s.reg a) (s.reg b) o,
      acts (s.reg a) fun u o => u.askLoad true (s.reg a) (s.reg b) o,
      acts (s.reg a) fun u o => (u.placeOp (s.reg a) (s.reg b)).1.answer s.runner.1 o (u.placeOp (s.reg a) (s.reg b)).2,
      acts 0 fun u o => u.markRegion (s.reg a) o⟩
  · refine ⟨b.request_load_refused va clear o, fun empty bad => ?_, fun empty aligned => ?_,
      fun busy => ⟨b.request_swap_refused va clear o busy, b.request_drop_refused va clear o busy⟩,
      fun free => ⟨⟨_, b.request_swap_waits va clear o free, rfl, rfl, rfl, rfl⟩, b.request_drop_empties va clear o free⟩,
      b.request_query va clear o⟩
    · rw [b.request_load_of_empty va clear o empty, if_pos bad]
    · exact ⟨_, (b.request_load_of_empty va clear o empty).trans (if_neg (not_not_intro aligned)), rfl, rfl, rfl⟩

end Sys2Proof.Machine

namespace Sys2Proof.Machine

open Sys2Proof.Safety

/-! ## Requests, stores and fences

Every request of task code goes through `request`, which looks at the response port and its credits alone. -/

/-! ### A request with a response (R118, R119) -/

section
variable {s : State} {p : Port}
variable (k : ReqKind) (va : Dw) (data : List Byte) (exp : Dw) (sc : Scope) (o : Order)

/-- On a declared response port with a free credit a request takes the credit and its access joins the port. -/
theorem request_issued (resp : s.isResp p = true) (credit : s.hasCredit p = true) :
    request s p k va data exp sc o = .next (passed ((s.takeCredit p).pushAccess
      { kind := k, va := va, data := data, exp := exp, sc := sc, ord := o, port := p.toNat })) := by
  simp only [request, resp, credit, Bool.not_true, Bool.false_eq_true, if_false]
  rfl

theorem request_undeclared (resp : s.isResp p = false) :
    request s p k va data exp sc o = .next (s.takeTrap 1 s.wordHere) :=
  if_pos (by rw [resp]; rfl)

/-- What a request without a credit, or a store without quota, leaves: code 0x1A, and the task goes on (R119, R135). -/
theorem State.noCredit_eq (s : State) (k : ReqKind) (va : Dw) : s.noCredit k va =
    s.errorAt s.runner.1 s.runner.2 0xFF (k.code + 256 * (min (k.bytes - 1) 255)) 0x1A va := rfl

theorem request_discarded (resp : s.isResp p = true) (credit : s.hasCredit p = false) :
    request s p k va data exp sc o =
      .next (passed (s.errorAt s.runner.1 s.runner.2 0xFF (k.code + 256 * (min (k.bytes - 1) 255)) 0x1A va)) := by
  simp only [request, resp, credit, Bool.not_true, Bool.not_false, Bool.false_eq_true, if_false, if_true, State.noCredit_eq]
  rfl

end

/-- Settles O16: each instruction is `request` with its own kind of access, which the port's declaration and credits judge. -/
theorem requests : Obligations.Requests := by
  refine ⟨?_, ?_⟩
  · intro s g b p f sc o acq resp credit
    have issued := fun k va data exp sc o => request_issued k va data exp sc o resp credit
    exact ⟨issued .., issued .., issued .., issued .., issued .., issued .., issued ..⟩
  · intro s g b p f sc o acq
    refine ⟨fun resp => ?_, fun resp credit => ?_⟩
    · have trap := fun k va data exp sc o => request_undeclared k va data exp sc o resp
      exact ⟨trap .., trap .., trap .., trap .., trap .., trap .., trap ..⟩
    · have lost := fun k va data exp sc o => request_discarded k va data exp sc o resp credit
      exact ⟨lost .., lost .., lost .., lost .., lost ..⟩

/-! ### Stores and fences (R119, R141, R155) -/

theorem execStg_issued {s : State} {x : Actor} (hx : s.runActor = some x) (room : x.quotaUsed < x.quota) (g b : Reg)
    (f : BitVec 5) (sc o : BitVec 2) : execStg g b f sc o s =
    .next (passed ((s.modActor s.runner.1 s.runner.2 fun x => { x with quotaUsed := x.quotaUsed + 1 }).pushAccess
      { kind := .write (sizeBytes f.toNat), va := s.reg b, sc := sc, ord := o
        data := if f.toNat < 8 then dwsBytes (s.core.regs g.toNat (f.toNat + 1))
          else leBytes (sizeBytes f.toNat) (s.reg g).toNat })) := by
  simp only [execStg, hx, if_neg (Nat.not_le.2 room)]
  rfl

theorem execStg_discarded {s : State} {x : Actor} (hx : s.runActor = some x) (spent : x.quota ≤ x.quotaUsed) (g b : Reg)
    (f : BitVec 5) (sc o : BitVec 2) : execStg g b f sc o s =
    .next (passed (s.errorAt s.runner.1 s.runner.2 0xFF (1 + 256 * (min (sizeBytes f.toNat - 1) 255)) 0x1A (s.reg b))) := by
  simp only [execStg, hx, if_pos spent]
  rfl

/-- The line at a register's address, as the cache group takes it (R334). -/
def State.lineAt (s : State) (b : Reg) : Dw := BitVec.ofNat 64 ((s.reg b).toNat / 128 * 128)

/-- How a PRF's line translates. -/
def State.prfXl (s : State) (b : Reg) : Xl :=
  s.xlate (dieOf s.focus) s.runAsid (s.tile s.focus).ranges { r := true } 1 (s.lineAt b).toNat 1

/-- The leaf that grants a PRF's line marked (R127). -/
def State.prfMark (s : State) (b : Reg) : State :=
  s.mark false (s.leaves (dieOf s.focus) s.runAsid (s.tile s.focus).ranges { r := true } 1 (s.lineAt b).toNat 1)

/-- The state that a PRF leaves before its fence (R141). -/
def State.prefetched (s : State) (b : Reg) : State :=
  match s.prfXl b with
  | .ok ps _ => if s.anyPoison ps then s.prfMark b else (s.prfMark b).fill s.focus s.runAsid (s.lineAt b) ps
  | _ => s.prfMark b

theorem execPrf_eq (s : State) (b : Reg) (sc : BitVec 2) (o : Bool) : execPrf b sc o s =
    .next (passed (if o then (s.prefetched b).fenceHere sc 1 else s.prefetched b)) := rfl

theorem State.prefetched_of_clean {s : State} {b : Reg} {ps ms : List Nat} (xl : s.prfXl b = .ok ps ms)
    (clean : s.anyPoison ps = false) :
    s.prefetched b = (s.prfMark b).fill s.focus s.runAsid (s.lineAt b) ps := by
  simp only [State.prefetched, xl, clean, Bool.false_eq_true, if_false]

/-- A line that does not translate, or is poisoned, is not taken. -/
theorem State.prefetched_of_unusable {s : State} {b : Reg} (bad : ∀ ps ms, s.prfXl b = .ok ps ms → s.anyPoison ps = true) :
    s.prefetched b = s.prfMark b := by
  unfold State.prefetched
  split
  · next ps ms xl => exact if_pos (bad ps ms xl)
  · rfl

/-- Notes of the directory dropped one by one change the directory alone. -/
theorem State.foldl_setDir_eq_setSharers (f : State → Nat → Dir) (l : List Nat) (s : State) :
    ∃ d, l.foldl (fun s n => s.setDir n (f s n)) s = { s with sharers := d } := by
  induction l generalizing s with
  | nil => exact ⟨_, rfl⟩
  | cons n l ih => exact ih (s.setDir n (f s n))

/-- CINV changes the directory alone (R141). -/
theorem execCinv_eq (s : State) (b : Reg) : ∃ d, execCinv b s = .next (passed { s with sharers := d }) := by
  unfold execCinv
  dsimp only
  split
  · next ps _ _ =>
    obtain ⟨d, hd⟩ := State.foldl_setDir_eq_setSharers (fun s n => (s.dir n).drop s.focus) (linesOf ps) s
    exact ⟨d, by rw [hd]; rfl⟩
  · exact ⟨s.sharers, rfl⟩

/-- Settles O17: STG is judged by its quota, PRF by the translation and the poison of its line, and ORD and CINV by nothing. -/
theorem storesAndFences : Obligations.StoresAndFences := by
  refine ⟨?_, ?_⟩
  · intro s g b f sc o x hx
    exact ⟨fun room => execStg_issued hx room g b f sc o, fun spent => execStg_discarded hx spent g b f sc o⟩
  · intro s b sc o
    refine ⟨rfl, fun ps ms xl clean => ?_, fun bad => ?_, execCinv_eq s b⟩
    · have taken := State.prefetched_of_clean (b := b) xl clean
      have prf (acq : Bool) := execPrf_eq s b sc acq
      rw [taken] at prf
      exact ⟨prf true, prf false⟩
    · have prf (acq : Bool) := execPrf_eq s b sc acq
      rw [State.prefetched_of_unusable (b := b) bad] at prf
      exact ⟨prf true, prf false⟩

end Sys2Proof.Machine

namespace Sys2Proof.Machine

open Sys2Proof.Safety

/-! ## Accesses performed

What holds an access back is tested once, in the lemma on the function that performs its kind; the clauses of the obligation are
the branches behind these tests. -/

/-! ### Invalidations before a write (R142) -/

theorem State.invalidate_of_sharer {s : State} {keep : Option Nat} {lines : List Nat}
    (h : ∃ n ∈ lines, s.toInvalidate keep n ≠ []) : s.invalidate keep lines = some (s.sendInvs keep lines) :=
  if_pos (by simpa using h)

theorem State.linesFree_of_sharer {s : State} {keep : Option Nat} {lines : List Nat}
    (h : ∃ n ∈ lines, s.toInvalidate keep n ≠ []) : s.linesFree keep lines = false := by
  obtain ⟨n, hn, held⟩ := h
  exact List.all_eq_false.2 ⟨n, hn, by simp [held]⟩

/-! ### Aligned units (R122) -/

theorem map_getD_range {α : Type} (l : List α) (d : α) : (List.range l.length).map (fun i => l.getD i d) = l :=
  List.ext_getElem (by simp) fun i _ hi => by simp [hi]

/-- Offsets that lie in one aligned unit are all picked, and nothing is chosen. -/
theorem State.pickUnit_of_one (s : State) (ps : List Nat) (one : ((ps.map (· / 8)).eraseDups).length ≤ 1) :
    s.pickUnit ps (List.range ps.length) = (List.range ps.length, s) := by
  have units : (List.range ps.length).map (fun i => ps.getD i 0 / 8) = ps.map (· / 8) := by
    rw [← Function.comp_def (· / 8) (fun i => ps.getD i 0), ← List.map_map, map_getD_range]
  unfold State.pickUnit
  rw [units]
  exact if_pos one

/-- The offsets of a read of `n` bytes whose bytes are not fixed yet. -/
abbrev Access.unread (a : Access) (n : Nat) : List Nat := (List.range n).filter fun i => !(a.got.any fun q => decide (q.1 = i))

theorem Access.unread_of_got_nil {a : Access} (h : a.got = []) (n : Nat) : a.unread n = List.range n := by
  simp [Access.unread, h]

/-- The byte fixed at an offset. -/
def byteAt (got : List (Nat × Byte)) (i : Nat) : Byte := ((got.find? fun q => decide (q.1 = i)).map (·.2)).getD 0

theorem map_byteAt_zip (l : List Byte) : (List.range l.length).map (byteAt ((List.range l.length).zip l)) = l := by
  refine List.ext_getElem (by simp) fun i _ hi => ?_
  have found : ((List.range l.length).zip l).find? (fun q => decide (q.1 = i)) = some (i, l[i]) :=
    List.find?_eq_some_iff_getElem.2 ⟨by simp, i, by simpa using hi, by simp, fun j hj => by simp; omega⟩
  simp [byteAt, found]

/-! ### Events at a port -/

/-- An event of a port performs an access of its kinds that stands in no spill queue, while that queue has room. -/
theorem accessEvent_performs {s u : State} {tile k : Nat} {a : Access} {ok : ReqKind → Bool} (ha : s.portAt tile k = some a)
    (hok : ok a.kind = true) (hs : a.spilled = none) (room : s.portFull tile = false) (hp : s.perform tile k = some u) :
    accessEvent s tile k ok = becomes u a.region := by
  simp only [accessEvent, ha, hok, hs, room, hp]
  rfl

/-! ### Loads (R121, R122, R142, R151) -/

/-- What a read of some bytes leaves besides its value: their leaves marked, the line in the read cache, and the writes that it has
returned among those its actor has seen. -/
def State.readSeen (s : State) (tile : Nat) (a : Access) (ms us : List Nat) : State :=
  let src := (s.sources tile a.sc us).map fun w => (w.1, w.2.id)
  let filled := (s.mark false ms).fill tile a.asid a.va us
  if src = [] then filled else filled.modActor a.region a.actor fun x => { x with seen := x.seen ++ src }

section
variable {s s1 : State} {tile k n : Nat} {w : Bool} {a : Access} {ps ms u : List Nat}
variable (st : a.st = .issued) (rdy : s.ready tile k a.sc.toNat a = true) (xl : s.xlOf tile a = .ok ps ms)
variable (srv : s.served tile a.sc ps = true) (clean : s.anyPoison ps = false)
include st rdy xl srv clean

/-- While units are left, a read fixes the bytes of the one picked. -/
theorem State.performRead_unit (pick : s.pickUnit ps (a.unread n) = (u, s1)) (more : u.length < (a.unread n).length) :
    s.performRead tile k a n w =
      (let us := u.map fun i => ps.getD i 0
       some ((s1.readSeen tile a ms us).setAccess tile k
        { a with
          pas := ps, got := a.got ++ u.zip (s1.seenBytes tile a.sc us), deps := a.deps ++ s1.sourceDeps tile a.sc us })) := by
  simp only [State.performRead, st, rdy, xl, srv, clean, pick, more, ne_eq, not_true_eq_false, Bool.not_true, decide_false,
    Bool.or_self, Bool.false_eq_true, if_false, if_true]
  rfl

/-- The last unit fixes the value of the response. -/
theorem State.performRead_last (noElem : a.elem = none) (pick : s.pickUnit ps (a.unread n) = (u, s1))
    (last : ¬ u.length < (a.unread n).length) : s.performRead tile k a n w =
      (let us := u.map fun i => ps.getD i 0
       some ((s1.readSeen tile a ms us).answerNow tile k a
        (loadPayload n w ((List.range n).map (byteAt (a.got ++ u.zip (s1.seenBytes tile a.sc us)))))
        (a.deps ++ s1.sourceDeps tile a.sc us))) := by
  simp only [State.performRead, st, rdy, xl, srv, clean, noElem, pick, last, ne_eq, not_true_eq_false, Bool.not_true,
    decide_false, Bool.or_self, Bool.false_eq_true, if_false]
  rfl

/-- A read within one unit is answered whole. -/
theorem State.performRead_whole (noElem : a.elem = none) (fresh : a.got = [])
    (one : ((ps.map (· / 8)).eraseDups).length ≤ 1) : s.performRead tile k a ps.length w =
      some ((s.readSeen tile a ms ps).answerNow tile k a (loadPayload ps.length w (s.seenBytes tile a.sc ps))
        (a.deps ++ s.sourceDeps tile a.sc ps)) := by
  have all := a.unread_of_got_nil fresh ps.length
  have value := map_byteAt_zip (s.seenBytes tile a.sc ps)
  rw [show (s.seenBytes tile a.sc ps).length = ps.length from List.length_map ..] at value
  have pick : s.pickUnit ps (a.unread ps.length) = (List.range ps.length, s) := by rw [all, s.pickUnit_of_one ps one]
  rw [State.performRead_last st rdy xl srv clean noElem pick (by rw [all]; exact Nat.lt_irrefl _)]
  simp only [map_getD_range, fresh, List.nil_append, value]

end

/-! ### Accesses at the home: write-backs, bank operations and futures (R137 to R139, R141, R319, R328, R360) -/

/-- The little-endian word at a list of addresses. -/
abbrev State.wordAt (s : State) (ps : List Nat) : Dw := BitVec.ofNat 64 (leNat (ps.map s.rdByte))

/-- The word that an access brings. -/
abbrev Access.word (a : Access) : Dw := BitVec.ofNat 64 (leNat a.data)

section
variable {s : State} {tile k : Nat} {a : Access} {ps ms : List Nat}
variable (st : a.st = .issued) (rdy : s.ready tile k 2 a = true) (xl : s.accessXl tile a = .ok ps ms)
variable (clean : s.anyPoison ps = false)
include st rdy xl clean

theorem State.performBack_answers : s.performBack tile k a =
    some ((s.mark false ms).setAccess tile k { a with spilled := none, st := .answered { payload := [0] } }) := by
  simp only [State.performBack, st, rdy, xl, clean]
  rfl

variable (reach : s.linesReach (dieOf tile) (linesOf ps) = true)
include reach

/-- A bank operation sends the invalidations that its lines still need. -/
theorem State.performBank_invalidates (held : ∃ n ∈ linesOf ps, s.toInvalidate none n ≠ []) :
    s.performBank tile k a = some (s.sendInvs none (linesOf ps)) := by
  simp only [State.performBank, st, rdy, xl, clean, reach, State.linesFree_of_sharer held, State.invalidate_of_sharer held]
  rfl

/-- A bank operation answers the old word and writes the new one. -/
theorem State.performBank_atomic {op : Nat} (kind : a.kind = .atomic op) (free : s.linesFree none (linesOf ps) = true) :
    s.performBank tile k a = some (((((s.mark true ms).homeWrite ps
      (leBytes ps.length (bankOp op (s.wordAt ps) a.word).toNat) (s.relOf tile a)).settleRel tile a true).answerNow
        tile k a [s.wordAt ps] (s.sourceDeps tile 2 ps))) := by
  simp only [State.performBank, st, rdy, xl, clean, reach, free, kind]
  rfl

theorem State.performBank_cas_equal (kind : a.kind = .cas) (free : s.linesFree none (linesOf ps) = true)
    (equal : s.wordAt ps = a.exp) : s.performBank tile k a = some (((((s.mark true ms).homeWrite ps
      (leBytes ps.length a.word.toNat) (s.relOf tile a)).settleRel tile a true).answerNow tile k a [s.wordAt ps]
        (s.sourceDeps tile 2 ps))) := by
  simp only [State.performBank, st, rdy, xl, clean, reach, free, kind, equal]
  rfl

/-- A CAS whose comparison fails writes nothing. -/
theorem State.performBank_cas_unequal (kind : a.kind = .cas) (free : s.linesFree none (linesOf ps) = true)
    (unequal : s.wordAt ps ≠ a.exp) : s.performBank tile k a = some (((s.mark true ms).settleRel tile a false).answerNow
      tile k a [s.wordAt ps] (s.sourceDeps tile 2 ps)) := by
  simp only [State.performBank, st, rdy, xl, clean, reach, free, kind, unequal]
  rfl

/-! #### Futures -/

section
variable (full : sget false s.full (ps.headD 0 / 8) = true)
include full

theorem State.performFut_get_full (kind : a.kind = .futGet) : s.performFut tile k a =
    some ((s.mark false ms).answerNow tile k a (futAnswer (s.wordAt ps) 0 0).payload (s.sourceDeps tile 2 ps)) := by
  simp only [State.performFut, st, rdy, xl, clean, reach, kind, full]
  rfl

theorem State.performFut_put_full (kind : a.kind = .futPut) : s.performFut tile k a =
    some (((s.mark true ms).answerNow tile k a (futAnswer (s.wordAt ps) 2 1).payload (s.sourceDeps tile 2 ps)).settleRel
      tile a false) := by
  simp only [State.performFut, st, rdy, xl, clean, reach, kind, full]
  rfl

theorem State.performFut_clear_full (kind : a.kind = .futClear) : s.performFut tile k a =
    (let w := s.mark true ms
     some ({ w with full := sset false w.full (ps.headD 0 / 8) false }.answerNow tile k a
      (futAnswer (s.wordAt ps) 0 2).payload (s.sourceDeps tile 2 ps))) := by
  simp only [State.performFut, st, rdy, xl, clean, reach, kind, full]
  rfl

end

section
variable (empty : sget false s.full (ps.headD 0 / 8) = false)
include empty

/-- A get of an empty future is withdrawn in a cut, with a free value. -/
theorem State.performFut_get_cutting (kind : a.kind = .futGet) (cut : (s.mark false ms).cutting a.region = true) :
    s.performFut tile k a = some ((s.mark false ms).free.2.answerNow tile k a
      (futAnswer (s.mark false ms).free.1 3 0).payload []) := by
  simp only [State.performFut, st, rdy, xl, clean, reach, kind, empty, ne_eq, not_true_eq_false, decide_false, cut]
  rfl

/-- A get of an empty future is refused at a full bank, with a free value. -/
theorem State.performFut_get_refused (kind : a.kind = .futGet) (uncut : (s.mark false ms).cutting a.region = false)
    (crowded : 32 ≤ (s.mark false ms).bankDeferred (ps.headD 0)) :
    s.performFut tile k a = some ((s.mark false ms).free.2.answerNow tile k a
      (futAnswer (s.mark false ms).free.1 1 0).payload []) := by
  simp only [State.performFut, st, rdy, xl, clean, reach, kind, empty, ne_eq, not_true_eq_false, decide_false, uncut,
    crowded]
  rfl

theorem State.performFut_get_waits (kind : a.kind = .futGet) (uncut : (s.mark false ms).cutting a.region = false)
    (room : (s.mark false ms).bankDeferred (ps.headD 0) < 32) : s.performFut tile k a =
    (let r := s.mark false ms
     let u : State := { r with deferred := r.deferred ++ [{ pa := ps.headD 0, tile := tile, id := a.id }] }
     some (u.setAccess tile k { a with spilled := none, st := .deferred })) := by
  simp only [State.performFut, st, rdy, xl, clean, reach, kind, empty, ne_eq, not_true_eq_false, decide_false, uncut,
    Nat.not_le.2 room]
  rfl

/-- A put fills an empty future and answers every get that waits for it. -/
theorem State.performFut_put_fills (kind : a.kind = .futPut) (free : (s.mark true ms).linesFree none (linesOf ps) = true) :
    s.performFut tile k a =
      (let w := s.mark true ms
       let u : State := { w.homeWrite ps a.data (w.relOf tile a) with full := sset false w.full (ps.headD 0 / 8) true }
       some (((u.answerGets (ps.headD 0) a.word tile a).answerNow tile k a (futAnswer a.word 0 1).payload []).settleRel
        tile a true)) := by
  simp only [State.performFut, st, rdy, xl, clean, reach, kind, empty, ne_eq, reduceCtorEq, not_false_eq_true,
    decide_true, free]
  rfl

theorem State.performFut_clear_empty (kind : a.kind = .futClear) : s.performFut tile k a =
    some ((s.mark true ms).answerNow tile k a (futAnswer 0 0 2).payload (s.sourceDeps tile 2 ps)) := by
  simp only [State.performFut, st, rdy, xl, clean, reach, kind, empty]
  rfl

end

end

/-! ### Stores on their way (R119, R121, R142, R146, R147) -/

/-- A store within one unit is accepted whole, behind no spilled access, and its quota returns. -/
theorem State.performAccept_whole {s : State} {tile k : Nat} {a : Access} {ps ms : List Nat} (st : a.st = .issued)
    (rdy : s.ready tile k 0 a = true) (xl : s.xlOf tile a = .ok ps ms) (noElem : a.elem = none)
    (one : ((ps.map (· / 8)).eraseDups).length ≤ 1) (len : a.data.length = ps.length)
    (ahead : ∀ b ∈ (s.tile tile).port.take k, b.spilled = none) : s.performAccept tile k a =
    (let w := s.mark true ms
     some (({ w with nextId := w.nextId + 1 }.modActor a.region a.actor fun x => { x with quotaUsed := x.quotaUsed - 1 }).setAccess
      tile k { a with spilled := none, st := .accepted, pas := ps, stamp := s.nextId })) := by
  have data := map_getD_range a.data 0
  rw [len] at data
  unfold State.performAccept
  refine (if_neg ?_).trans ?_
  · have unspilled : ∀ b ∈ Access.before (s.tile tile).port k, b.spilled.isSome = false := fun b hb => by simp [ahead b hb]
    simp +contextual [st, rdy, unspilled]
  · simp only [xl, noElem, s.pickUnit_of_one ps one, data, map_getD_range, List.length_range, Nat.lt_irrefl, if_false]
    rfl

section
variable {s : State} {tile k : Nat} {a : Access}

/-- A write that no fence and no earlier write to its bytes holds back goes on to its die. -/
theorem State.advanceWrite_toDie (st : a.st = .accepted) (rdy : s.ready tile k 1 a = true) (first : s.firstOf tile a = true) :
    s.advanceWrite tile k a =
      some ({ s with nextId := s.nextId + 1 }.setAccess tile k { a with st := .atDie, stamp := s.nextId }) := by
  simp only [State.advanceWrite, st, rdy, first, Bool.and_self, if_true]

variable (st : a.st = .atDie) (rdy : s.ready tile k 2 a = true)
include st rdy

/-- A partial write whose old metadata is lost poisons its lines and fails with code 0x19. -/
theorem State.metaAccess_write {n : Nat} (kind : a.kind = .write n) (device : s.deviceLines a.pas ≠ []) :
    s.metaAccess tile k a =
      some (((s.deviceLines a.pas).foldl State.poisonLine s).failAccess tile k a 0x19 a.va) := by
  simp only [State.metaAccess, kind, st, rdy, device, ne_eq, not_false_eq_true, decide_true, Bool.and_self, if_true]
  rfl

variable (first : s.firstOf tile a = true) (reach : s.linesReach (dieOf tile) (linesOf a.pas) = true)
include first reach

theorem State.advanceWrite_poisoned (bad : s.anyPoison ((s.tile tile).storeBytes a.id) = true) :
    s.advanceWrite tile k a = some (s.failAccess tile k a 0x16 a.va) := by
  simp only [State.advanceWrite, st, rdy, first, reach, bad]
  rfl

variable (clean : s.anyPoison ((s.tile tile).storeBytes a.id) = false)
include clean

theorem State.advanceWrite_home (free : s.linesFree (some tile) (linesOf a.pas) = true) :
    s.advanceWrite tile k a = some ((s.homeWrite a.pas a.data (s.relOf tile a)).dropAccess tile k) := by
  simp only [State.advanceWrite, st, rdy, first, reach, clean, free]
  rfl

theorem State.advanceWrite_invalidates (held : ∃ n ∈ linesOf a.pas, s.toInvalidate (some tile) n ≠ []) :
    s.advanceWrite tile k a = some (s.sendInvs (some tile) (linesOf a.pas)) := by
  simp only [State.advanceWrite, st, rdy, first, reach, clean, State.linesFree_of_sharer held, State.invalidate_of_sharer held]
  rfl

end

/-! ### Responses (R120) -/

/-- A response that no earlier one to its port stands before joins the port. -/
theorem State.deliver_joins {s : State} {tile k : Nat} {a : Access} (t : Token) (noElem : a.elem = none)
    (first : ∀ b ∈ (s.tile tile).port.take k, b.region = a.region → b.actor = a.actor → b.port ≠ a.port) :
    s.deliver tile k a t = some ((s.dropAccess tile k).respond a.region a.actor a.port t.kind t.payload t.deps) := by
  unfold State.deliver
  refine if_neg ?_
  simp only [noElem, Option.isSome_none, Bool.or_false, List.any_eq_true, Bool.and_eq_true, decide_eq_true_eq]
  rintro ⟨b, hb, ⟨⟨hr, ha⟩, hp⟩, -⟩
  exact first b hb hr ha hp

/-! ### The events (R119 to R121, R137, R138, R142) -/

section
variable {s u : State} {tile k : Nat} {a : Access} (ha : s.portAt tile k = some a)
include ha

theorem exec_writePerform {n : Nat} (kind : a.kind = .write n) (hp : s.advanceWrite tile k a = some u) :
    exec (.writePerform tile k) s = becomes u a.region := by
  change execWritePerform tile k s = _
  simp only [execWritePerform, ha, kind, hp]
  rfl

theorem exec_metadataError_access (port : tile < 1024) (hp : s.metaAccess tile k a = some u) :
    exec (.metadataError tile k) s = becomes u a.region := by
  change execMetadataError tile k s = _
  simp only [execMetadataError, if_neg (show tile ≠ 1024 by omega), if_neg (show tile ≠ 1025 by omega), ha, hp]
  rfl

theorem exec_requestResponse_delivers {t : Token} (st : a.st = .answered t) (hp : s.deliver tile k a t = some u) :
    exec (.requestResponse tile k true) s = becomes u a.region := by
  change execRequestResponse tile k true s = _
  simp only [execRequestResponse, ha, st, hp]
  rfl

variable (hs : a.spilled = none) (room : s.portFull tile = false)
include hs room

theorem exec_requestResponse_reads {n : Nat} {w : Bool} (st : a.st = .issued) (kind : a.kind = .read n w)
    (hp : s.performRead tile k a n w = some u) :
    exec (.requestResponse tile k false) s = becomes u a.region := by
  change execRequestResponse tile k false s = _
  simp only [execRequestResponse, ha, st, kind, hs, room, hp]
  rfl

theorem exec_requestResponse_writesBack (st : a.st = .issued) (kind : a.kind = .writeBack) (hp : s.performBack tile k a = some u) :
    exec (.requestResponse tile k false) s = becomes u a.region := by
  change execRequestResponse tile k false s = _
  simp only [execRequestResponse, ha, st, kind, hs, room, hp]
  rfl

theorem exec_bankOperationPerform_atomic {op : Nat} (kind : a.kind = .atomic op) (hp : s.performBank tile k a = some u) :
    exec (.bankOperationPerform tile k) s = becomes u a.region :=
  show execBankOperationPerform tile k s = _ from
    accessEvent_performs ha (by rw [kind]) hs room (by simp only [State.perform, ha, kind, hp])

theorem exec_bankOperationPerform_cas (kind : a.kind = .cas) (hp : s.performBank tile k a = some u) :
    exec (.bankOperationPerform tile k) s = becomes u a.region :=
  show execBankOperationPerform tile k s = _ from
    accessEvent_performs ha (by rw [kind]) hs room (by simp only [State.perform, ha, kind, hp])

theorem exec_futureGetPerform (kind : a.kind = .futGet) (hp : s.performFut tile k a = some u) :
    exec (.futureGetPerform tile k) s = becomes u a.region :=
  show execFutureGetPerform tile k s = _ from
    accessEvent_performs ha (decide_eq_true kind) hs room (by simp only [State.perform, ha, kind, hp])

theorem exec_futurePutPerform (kind : a.kind = .futPut) (hp : s.performFut tile k a = some u) :
    exec (.futurePutPerform tile k) s = becomes u a.region :=
  show execFuturePutPerform tile k s = _ from
    accessEvent_performs ha (decide_eq_true kind) hs room (by simp only [State.perform, ha, kind, hp])

theorem exec_futureClearPerform (kind : a.kind = .futClear) (hp : s.performFut tile k a = some u) :
    exec (.futureClearPerform tile k) s = becomes u a.region :=
  show execFutureClearPerform tile k s = _ from
    accessEvent_performs ha (decide_eq_true kind) hs room (by simp only [State.perform, ha, kind, hp])

theorem exec_storeAccept {n : Nat} (kind : a.kind = .write n) (hp : s.performAccept tile k a = some u) :
    exec (.storeAccept tile k) s = becomes u a.region :=
  show execStoreAccept tile k s = _ from
    accessEvent_performs ha (by rw [kind]) hs room (by simp only [State.perform, ha, kind, hp])

end

section
variable {s : State} {line tile : Nat} (way : s.narrowWay (homeDie (128 * line)) (dieOf tile) = true)
include way

theorem exec_invalidationAck : exec (.invalidationAck line tile) s = .next (s.ackInv line tile) :=
  congrArg Host.Outcome.next (if_pos way)

theorem exec_evictionNotice : exec (.evictionNotice line tile) s =
    .next ((s.setDir line ((s.dir line).drop tile)).ackInv line tile) :=
  congrArg Host.Outcome.next (if_pos way)

end

/-- Settles O41: each event performs the access by its kind, and what the access meets selects the branch. -/
theorem accessesPerformed : Obligations.AccessesPerformed := by
  intro s tile k a ps ms ha hs
  refine ⟨?_, ?_, ?_, ?_, fun line way => ⟨exec_invalidationAck way, exec_evictionNotice way⟩⟩
  · intro n w kind st room rdy xl srv clean noElem
    refine ⟨?_, fun u s1 pick more => ?_⟩
    · rintro rfl fresh one
      exact exec_requestResponse_reads ha hs room st kind (State.performRead_whole st rdy xl srv clean noElem fresh one)
    · exact exec_requestResponse_reads ha hs room st kind (State.performRead_unit st rdy xl srv clean pick more)
  · intro st room rdy xl clean
    refine ⟨fun kind => ?_, fun reach => ⟨?_, ?_, ?_, ?_, ?_⟩⟩
    · exact exec_requestResponse_writesBack ha hs room st kind (State.performBack_answers st rdy xl clean)
    · intro op kind
      have bank {u : State} := exec_bankOperationPerform_atomic (u := u) ha hs room kind
      exact ⟨fun free => bank (State.performBank_atomic st rdy xl clean reach kind free),
        fun held => bank (State.performBank_invalidates st rdy xl clean reach held)⟩
    · intro kind free
      have bank {u : State} := exec_bankOperationPerform_cas (u := u) ha hs room kind
      exact ⟨fun equal => bank (State.performBank_cas_equal st rdy xl clean reach kind free equal),
        fun unequal => bank (State.performBank_cas_unequal st rdy xl clean reach kind free unequal)⟩
    · intro kind
      have get {u : State} := exec_futureGetPerform (u := u) ha hs room kind
      exact ⟨fun full => get (State.performFut_get_full st rdy xl clean reach full kind),
        fun empty cut => ⟨_, get (State.performFut_get_cutting st rdy xl clean reach empty kind cut)⟩,
        fun empty uncut crowded => ⟨_, get (State.performFut_get_refused st rdy xl clean reach empty kind uncut crowded)⟩,
        fun empty uncut free => get (State.performFut_get_waits st rdy xl clean reach empty kind uncut free)⟩
    · intro kind
      have put {u : State} := exec_futurePutPerform (u := u) ha hs room kind
      exact ⟨fun full => put (State.performFut_put_full st rdy xl clean reach full kind),
        fun empty free => put (State.performFut_put_fills st rdy xl clean reach empty kind free)⟩
    · intro kind
      have clear {u : State} := exec_futureClearPerform (u := u) ha hs room kind
      exact ⟨fun full => clear (State.performFut_clear_full st rdy xl clean reach full kind),
        fun empty => clear (State.performFut_clear_empty st rdy xl clean reach empty kind)⟩
  · intro n kind
    have write {u : State} := exec_writePerform (u := u) ha kind
    refine ⟨fun st room rdy xl noElem one len ahead => ?_, fun st rdy first => ?_,
      fun st rdy first reach => ⟨fun bad => ?_, fun clean => ⟨fun free => ?_, fun held => ?_⟩⟩,
      fun st rdy port device => ?_⟩
    · exact exec_storeAccept ha hs room kind (State.performAccept_whole st rdy xl noElem one len ahead)
    · exact write (State.advanceWrite_toDie st rdy first)
    · exact write (State.advanceWrite_poisoned st rdy first reach bad)
    · exact write (State.advanceWrite_home st rdy first reach clean free)
    · exact write (State.advanceWrite_invalidates st rdy first reach clean held)
    · exact exec_metadataError_access ha port (State.metaAccess_write st rdy kind device)
  · intro t st noElem first
    exact exec_requestResponse_delivers ha st (State.deliver_joins t noElem first)

end Sys2Proof.Machine

namespace Sys2Proof.Machine

open Sys2Proof.Safety

/-! ## Walks and spills

Each event looks at one access of a port and at how it translates now. -/

/-! ### The page walk (R127, R133) -/

/-- The range entry of an access's address at its tile. -/
abbrev State.entryOf (s : State) (tile : Nat) (a : Access) : Option RangeEntry :=
  (s.tile tile).ranges.find? fun e => decide (e.asid = a.asid) && e.covers (va56 a.va.toNat)

section
variable {s : State} {tile k : Nat} {a : Access} {e : RangeEntry} (ha : s.portAt tile k = some a) (st : a.st = .issued)
variable (hs : a.spilled = none) (unfixed : a.pas = []) (he : s.entryOf tile a = some e)
include ha st hs unfixed he

/-- A walk of an access in one page marks the leaf it finds, and the die caches it as marked. -/
theorem execPageWalk_caches {ps ms : List Nat} {v : Dw} {addr p : Nat} (paged : e.paged = true) (one : a.pages = [p])
    (xl : s.accessXl tile a = .ok ps ms) (leaf : s.walk (dieOf tile) a.asid (p * 65536) = .leaf v addr) :
    execPageWalk tile k s =
      (let u := s.mark (a.kind.need.writes && leafAllows v a.kind.need) [addr]
       .next (u.modDie (dieOf tile) fun d =>
        { d with tlb := { asid := a.asid, page := p, leaf := u.rd64 addr } ::
            d.tlb.filter fun t => !(decide (t.asid = a.asid) && decide (t.page = p)) })) := by
  simp [execPageWalk, ha, st, hs, unfixed, he, paged, one, xl, leaf]

/-- A page that is not there diverts the access, where the spill queue takes it. -/
theorem execPageWalk_diverts {v : Nat} {u : State} (xl : s.accessXl tile a = .page v) (spilled : s.spill tile k a v = some u) :
    execPageWalk tile k s = .next u := by
  simp [execPageWalk, ha, st, hs, unfixed, he, xl, spilled]

/-- An access that fails before its walks end is left to the event that performs it. -/
theorem execPageWalk_of_fail {c : Nat} {d : Dw} (xl : s.accessXl tile a = .fail c d) : execPageWalk tile k s = .next s := by
  simp [execPageWalk, ha, st, hs, unfixed, he, xl]

end

/-! ### The spill queue (R133, R135) -/

section
variable {s : State} {tile k : Nat} {a : Access} {t0 : Dw} (ha : s.portAt tile k = some a)
include ha

theorem execSpillRetry_early (early : ((s.die (dieOf tile)).eqt - a.tried).toNat < retryUnits) :
    execSpillRetry tile k s = .next s := by
  simp only [execSpillRetry, ha]
  exact if_pos (.inr early)

variable (hs : a.spilled = some t0)
include hs

theorem execSpillRetry_performs {ps ms : List Nat} {u : State}
    (late : retryUnits ≤ ((s.die (dieOf tile)).eqt - a.tried).toNat) (xl : s.accessXl tile a = .ok ps ms)
    (hp : (s.setAccess tile k { a with spilled := none }).perform tile k = some u) :
    execSpillRetry tile k s = becomes u a.region := by
  simp only [execSpillRetry, ha, hs, xl, hp, Nat.not_lt.2 late, Option.isNone_some, Bool.false_eq_true, or_self, if_false]
  rfl

theorem execSpillRetry_records {v : Nat} (late : retryUnits ≤ ((s.die (dieOf tile)).eqt - a.tried).toNat)
    (xl : s.accessXl tile a = .page v) : execSpillRetry tile k s =
    .next ((s.recordPage (dieOf tile) a.asid v (s.pageFaultRecord tile a v)).setAccess tile k
      { a with tried := (s.die (dieOf tile)).eqt }) := by
  simp only [execSpillRetry, ha, hs, xl, Nat.not_lt.2 late, Option.isNone_some, Bool.false_eq_true, or_self, if_false]

/-- Past the fault window of its slice an access fails with code 0x15. -/
theorem execFaultWindowExpiry_fails {n : Nat} (slice : s.sliceOfDie (dieOf tile) = some n)
    (past : (s.slice n).fwin.toNat * msUnits ≤ ((s.die (dieOf tile)).eqt - t0).toNat) :
    execFaultWindowExpiry tile k s = becomes (s.failAccess tile k a 0x15 a.va) a.region := by
  simp only [execFaultWindowExpiry, ha, hs, slice, Option.map_some, Option.getD_some, past, if_true]
  rfl

end

/-- Settles O42: how the access translates selects what the walk and the retry do, and the clock whether a retry or the expiry
happens. -/
theorem walksAndSpills : Obligations.WalksAndSpills := by
  intro s tile k a ha
  refine ⟨fun e p st hs unfixed he => ⟨?_, ?_, ?_⟩, fun t0 hs => ⟨fun late => ⟨?_, ?_⟩, ?_, ?_⟩⟩
  · intro ps ms v addr paged one xl leaf
    exact execPageWalk_caches ha st hs unfixed he paged one xl leaf
  · intro u v xl spilled
    exact execPageWalk_diverts ha st hs unfixed he xl spilled
  · intro c d xl
    exact execPageWalk_of_fail ha st hs unfixed he xl
  · intro ps ms u xl hp
    exact execSpillRetry_performs ha hs late xl hp
  · intro v xl
    exact execSpillRetry_records ha hs late xl
  · exact execSpillRetry_early ha
  · intro n slice past
    exact execFaultWindowExpiry_fails ha hs slice past

end Sys2Proof.Machine

namespace Sys2Proof.Machine

open Sys2Proof.Safety

/-! ## Accesses from outside, errors in data and die resets -/

/-! ### Posted writes (R142, R166, R249) -/

theorem State.postedAt_eq_false_iff {s : State} {pas : List Nat} :
    s.postedAt pas = false ↔ ∀ w ∈ s.posted, shareByte (s.postedPas w) pas = false := by
  simp [State.postedAt]

theorem State.postedAt_of_not_free {s : State} {pas : List Nat}
    (h : ¬ ∀ w ∈ s.posted, shareByte (s.postedPas w) pas = false) : s.postedAt pas = true :=
  eq_true_of_ne_false (mt State.postedAt_eq_false_iff.1 h)

/-- Bytes put at addresses change memory alone. -/
theorem State.putBytes_eq_setMem (ps : List Nat) (l : List Byte) (s : State) :
    s.putBytes ps l = { s with mem := (s.putBytes ps l).mem } := by
  induction ps generalizing s l with
  | nil => rfl
  | cons p ps ih =>
    cases l with
    | nil => rfl
    | cons b l => exact ih l (s.wrByte p b)

theorem State.homeWrite_dues (s : State) (pas : List Nat) (data : List Byte) (rel : Option RelUnit) :
    (s.homeWrite pas data rel).dues = s.dues := by
  unfold State.homeWrite
  rw [State.putBytes_eq_setMem]

/-- Where no write and no update waits, a write to free, unpoisoned lines is performed at once. -/
theorem State.post_eq_homeWrite {s : State} {pas : List Nat} (data : List Byte) (noPosted : s.posted = []) (noDues : s.dues = [])
    (clean : s.anyPoison pas = false) (free : s.linesFree none (linesOf pas) = true) : s.post pas data = s.homeWrite pas data := by
  have same : ({ s with posted := [] } : State) = s := by rw [← noPosted]
  have performed : s.settlePosted [{ pas := pas, data := data }] = s.homeWrite pas data := by
    simp only [State.settlePosted, State.postedPas, State.refusesPosted, State.performPosted, clean, free, Option.isSome_none,
      Bool.false_eq_true, false_and, Bool.or_self, if_false, if_true]
  have settled : ({ s.homeWrite pas data with dues := [] } : State) = s.homeWrite pas data := by
    rw [← (s.homeWrite_dues pas data none).trans noDues]
  calc s.post pas data
      = (let t := ({ s with posted := [] } : State).settlePosted (s.posted ++ [{ pas := pas, data := data }])
         ({ t with dues := [] } : State).settleDues t.dues) := rfl
    _ = ({ s.homeWrite pas data with dues := [] } : State).settleDues (s.homeWrite pas data).dues := by
        rw [same, noPosted, List.nil_append, performed]
    _ = s.homeWrite pas data := by
        rw [s.homeWrite_dues pas data none, noDues, settled]
        rfl

theorem all_eq_false_of_exists {l : List Nat} {f : Nat → Bool} (h : ∃ p ∈ l, f p = false) : l.all f = false :=
  List.all_eq_false.2 (h.imp fun _ ⟨hp, hf⟩ => ⟨hp, by simp [hf]⟩)

/-! ### The host (R132, R146, R147, R166) -/

/-- The addresses of `n` bytes from one. -/
abbrev bytesFrom (pa n : Nat) : List Nat := (List.range n).map (pa + ·)

section
variable {s : State} {fn pa n : Nat}

theorem execHostRead_waits (posted : s.postedAt (bytesFrom pa n) = true) : execHostRead fn pa n s = .next s :=
  if_pos posted

variable (free : s.postedAt (bytesFrom pa n) = false)
include free

theorem execHostRead_outside (out : (bytesFrom pa n).all (s.hostAdmits fn) = false) :
    execHostRead fn pa n s = .next { s with reply := [0x18] } := by
  simp [execHostRead, free, out]

variable (mine : (bytesFrom pa n).all (s.hostAdmits fn) = true)
include mine

theorem execHostRead_poisoned (bad : s.anyPoison (bytesFrom pa n) = true) :
    execHostRead fn pa n s = .next { s with reply := [0x16] } := by
  simp only [execHostRead, free, mine, bad]
  rfl

theorem execHostRead_serves (clean : s.anyPoison (bytesFrom pa n) = false) : execHostRead fn pa n s =
    .next { s with reply := 0 :: bytesDws ((n + 7) / 8) (s.hostBytes pa n), fresh := s.fresh + n / 8 + 2 } := by
  simp only [execHostRead, free, mine, clean]
  rfl

end

section
variable {s : State} {fn pa : Nat} {data : List Byte}

theorem execHostWrite_outside (out : (bytesFrom pa data.length).all (s.hostAdmits fn) = false) :
    execHostWrite fn pa data s = .next { s with reply := [0x18] } := by
  simp [execHostWrite, out]

variable (mine : (bytesFrom pa data.length).all (s.hostAdmits fn) = true)
include mine

theorem execHostWrite_metaLost (lost : s.metaLost (bytesFrom pa data.length) = true) :
    execHostWrite fn pa data s = .next (s.metaTold (bytesFrom pa data.length)) := by
  simp only [execHostWrite, mine, lost]
  rfl

variable (known : s.metaLost (bytesFrom pa data.length) = false)
include known

theorem execHostWrite_poisoned (bad : s.anyPoison (bytesFrom pa data.length) = true) :
    execHostWrite fn pa data s = .next { s with reply := [0x16] } := by
  simp only [execHostWrite, mine, known, bad]
  rfl

theorem execHostWrite_posts (clean : s.anyPoison (bytesFrom pa data.length) = false) : execHostWrite fn pa data s =
    .next { s.post (bytesFrom pa data.length) data with reply := [0] } := by
  simp only [execHostWrite, mine, known, clean]
  rfl

end

/-! ### Peers (R249) -/

/-- A link carries an access of a peer: it is live, and each byte lies in its window and in memory that its owner may reach. -/
def State.peerMay (s : State) (link : Nat) (pas : List Nat) : Bool :=
  (s.link link).live && pas.all fun p => decide ((s.link link).low ≤ p) && decide (p ≤ (s.link link).high) && s.inDevice p &&
    ((s.link link).pkg || (s.slice (s.link link).owner).hasDie (homeDie p))

theorem State.peerMay_iff {s : State} {link : Nat} {pas : List Nat} : s.peerMay link pas = true ↔
    (let l := s.link link
     l.enabled = true ∧ l.up = true ∧ ∀ p ∈ pas, l.low ≤ p ∧ p ≤ l.high ∧ s.inDevice p = true ∧
      (l.pkg = true ∨ (s.slice l.owner).hasDie (homeDie p) = true)) := by
  simp [State.peerMay, Link.live, and_assoc]

/-- The bytes that a peer's access reaches. -/
def peerBytes (pa n : Nat) (write : Bool) (data : List Byte) : List Nat := bytesFrom pa (if write then data.length else n)

theorem execPeerAccess_eq (link pa n : Nat) (write : Bool) (data : List Byte) (s : State) :
    execPeerAccess link pa n write data s =
      (let pas := peerBytes pa n write data
       if !s.peerMay link pas then .next { s with reply := [0x18] }
       else if write && s.metaLost pas then .next (s.metaTold pas)
       else if s.anyPoison pas then .next { s with reply := [0x16] }
       else if write then .next { s.post pas data with reply := [0] }
       else if s.postedAt pas then .next s
       else .next { s with reply := 0 :: bytesDws ((n + 7) / 8) (pas.map s.rdByte) }) := rfl

section
variable {s : State} {link pa n : Nat} {write : Bool} {data : List Byte}

theorem execPeerAccess_outside (out : s.peerMay link (peerBytes pa n write data) = false) :
    execPeerAccess link pa n write data s = .next { s with reply := [0x18] } := by
  rw [execPeerAccess_eq]
  exact if_pos (by rw [out]; rfl)

variable (may : s.peerMay link (peerBytes pa n write data) = true)
include may

theorem execPeerAccess_metaLost (writes : write = true) (lost : s.metaLost (peerBytes pa n write data) = true) :
    execPeerAccess link pa n write data s = .next (s.metaTold (peerBytes pa n write data)) := by
  subst writes
  simp only [execPeerAccess_eq, may, lost]
  rfl

section
variable (known : (write && s.metaLost (peerBytes pa n write data)) = false)
include known

theorem execPeerAccess_poisoned (bad : s.anyPoison (peerBytes pa n write data) = true) :
    execPeerAccess link pa n write data s = .next { s with reply := [0x16] } := by
  simp only [execPeerAccess_eq, may, known, bad]
  rfl

variable (clean : s.anyPoison (peerBytes pa n write data) = false)
include clean

theorem execPeerAccess_posts (writes : write = true) : execPeerAccess link pa n write data s =
    .next { s.post (peerBytes pa n write data) data with reply := [0] } := by
  subst writes
  simp only [execPeerAccess_eq, may, known, clean]
  rfl

end

variable (reads : write = false) (clean : s.anyPoison (peerBytes pa n write data) = false)
include reads clean

theorem execPeerAccess_serves (free : s.postedAt (peerBytes pa n write data) = false) : execPeerAccess link pa n write data s =
    .next { s with reply := 0 :: bytesDws ((n + 7) / 8) ((peerBytes pa n write data).map s.rdByte) } := by
  subst reads
  simp only [execPeerAccess_eq, may, clean, free]
  rfl

theorem execPeerAccess_waits (posted : s.postedAt (peerBytes pa n write data) = true) :
    execPeerAccess link pa n write data s = .next s := by
  subst reads
  simp only [execPeerAccess_eq, may, clean, posted]
  rfl

end

/-! ### Errors in data and in its metadata (R145 to R147) -/

/-- A byte of device memory lies in a line of device memory. -/
theorem State.inDevice_lineOf {s : State} {pa : Nat} (h : s.inDevice pa = true) : s.inDevice (128 * lineOf pa) = true := by
  have below : 128 * lineOf pa ≤ pa := Nat.mul_div_le pa 128
  simp only [State.inDevice, Bool.and_eq_true, decide_eq_true_eq] at h ⊢
  exact ⟨Nat.lt_of_le_of_lt below h.1, Nat.lt_of_le_of_lt below h.2⟩

theorem execMetadataError_line {s : State} {line : Nat} (h : s.inDevice (128 * line) = true) : execMetadataError 1025 line s =
    .next { s.poisonLine line with badMeta := sset false s.badMeta line true } :=
  congrArg Host.Outcome.next (if_pos h)

/-! ### Corrected errors (R238, R239) -/

/-- The entry of a unit in a die's table of corrected errors. -/
abbrev Die.errOf (d : Die) (kind unit : Nat) : Option ErrUnit := d.errs.find? fun u => decide (u.kind = kind) && decide (u.unit = unit)

/-- The entry of a unit with a corrected error now. -/
def Die.stamp (d : Die) (kind unit : Nat) : ErrUnit :=
  { kind := kind, unit := unit, newer := d.eqt, older := (d.errOf kind unit).map (·.newer) }

/-- A corrected error now is the unit's third within 24 hours. -/
def Die.third (d : Die) (kind unit : Nat) : Prop :=
  ∃ u o, d.errOf kind unit = some u ∧ u.older = some o ∧ (d.eqt - o).toNat ≤ dayUnits

/-- A die with a corrected error of a unit stamped. -/
def Die.stamped (d : Die) (kind unit : Nat) : Die := { d with errs := putUnit d.errs (d.stamp kind unit) }

/-- A die with a unit stamped and among those with lasting faults. -/
def Die.faulty (d : Die) (kind unit : Nat) : Die :=
  { d.stamped kind unit with
    lasting := if d.lasting.contains (kind, unit) then d.lasting else d.lasting ++ [(kind, unit)] }

theorem Die.stampError_fst (d : Die) (kind unit : Nat) :
    (stampError (d.errOf kind unit) kind unit d.eqt).1 = d.stamp kind unit := by
  unfold Die.stamp
  cases d.errOf kind unit <;> rfl

theorem Die.stampError_snd (d : Die) (kind unit : Nat) :
    (stampError (d.errOf kind unit) kind unit d.eqt).2 = true ↔ d.third kind unit := by
  unfold Die.third
  cases d.errOf kind unit with
  | none => simp [stampError]
  | some u => cases h : u.older <;> simp [stampError, h]

section
variable {s : State} {die kind unit : Nat} (page : Nat)

theorem execCorrectedError_stamps (h : ¬ (s.die die).third kind unit) :
    execCorrectedError die kind unit page s = .next (s.setDie die ((s.die die).stamped kind unit)) := by
  rw [← Die.stampError_snd, Bool.not_eq_true] at h
  have entry := (s.die die).stampError_fst kind unit
  simp only [execCorrectedError, h, entry]
  rfl

/-- What a third corrected error does to a die, its kind apart. -/
theorem execCorrectedError_third (h : (s.die die).third kind unit) : execCorrectedError die kind unit page s =
    (let d := (s.die die).faulty kind unit
     match kind with
     | 0 =>
       let used := sget 0 d.spares (unit % 256)
       if used < 8 then .next (s.setDie die { d with spares := sset 0 d.spares (unit % 256) (used + 1) })
       else .next ((s.setDie die d).faultRecord ((s.sliceOfDie die).getD 0)
         [BitVec.ofNat 64 (page / 65536 * 65536), packDw [(die, 29), (2, 0)], (s.die die).eqt, packDw [(unit % 2 ^ 26, 0)]])
     | 1 => .next (s.setDie die { d with ways := sset 0 d.ways unit (sget 0 d.ways unit + 1) })
     | _ => .next ((s.setDie die d).modTile (tileInDie die (unit / 256)) fun t => { t with unplaceable := true })) := by
  rw [← Die.stampError_snd] at h
  have entry := (s.die die).stampError_fst kind unit
  simp only [execCorrectedError, h, entry, Bool.not_true, Bool.false_eq_true, if_false]
  rcases kind with _ | _ | kind <;> rfl

end

/-- Settles O43: whom the access comes from, what its bytes meet and what waits before it select its reply; an error is acted
upon by its kind, and by the unit's earlier ones. -/
theorem outsideAccesses : Obligations.OutsideAccesses := by
  intro s fn link pa n data
  refine ⟨⟨?_, ?_, ?_, ?_⟩, ⟨?_, ?_⟩, ?_, fun noPosted noDues pas => State.post_eq_homeWrite data noPosted noDues, rfl,
    fun device => execMetadataError_line (State.inDevice_lineOf device), fun _ _ => rfl, ?_, fun _ _ => rfl⟩
  · intro free mine clean
    exact execHostRead_serves (State.postedAt_eq_false_iff.2 free) (List.all_eq_true.2 mine) clean
  · intro free out
    exact execHostRead_outside (State.postedAt_eq_false_iff.2 free) (all_eq_false_of_exists out)
  · intro free mine bad
    exact execHostRead_poisoned (State.postedAt_eq_false_iff.2 free) (List.all_eq_true.2 mine) bad
  · intro posted
    exact execHostRead_waits (State.postedAt_of_not_free posted)
  · intro out
    exact execHostWrite_outside (all_eq_false_of_exists out)
  · intro mine
    have mine := List.all_eq_true.2 mine
    exact ⟨execHostWrite_metaLost mine, execHostWrite_poisoned mine, execHostWrite_posts mine⟩
  · intro write
    refine ⟨fun out => ?_, fun ok writes lost => ?_, fun ok known => ⟨fun bad => ?_, fun clean writes => ?_,
      fun clean reads free => ?_, fun clean reads posted => ?_⟩⟩
    · exact execPeerAccess_outside (eq_false_of_ne_true (mt State.peerMay_iff.1 out))
    · exact execPeerAccess_metaLost (State.peerMay_iff.2 ok) writes lost
    · exact execPeerAccess_poisoned (State.peerMay_iff.2 ok) (Bool.and_eq_false_imp.2 known) bad
    · exact execPeerAccess_posts (State.peerMay_iff.2 ok) (Bool.and_eq_false_imp.2 known) clean writes
    · exact execPeerAccess_serves (State.peerMay_iff.2 ok) reads clean (State.postedAt_eq_false_iff.2 free)
    · exact execPeerAccess_waits (State.peerMay_iff.2 ok) reads clean (State.postedAt_of_not_free posted)
  · intro die kind unit page
    refine ⟨execCorrectedError_stamps page, fun third row spare => ?_, fun third row used => ?_, fun third bank => ?_,
      fun third tile => ?_⟩
    · subst row
      exact (execCorrectedError_third page third).trans (if_pos spare)
    · subst row
      exact (execCorrectedError_third page third).trans (if_neg (Nat.not_lt.2 used))
    · subst bank
      exact execCorrectedError_third page third
    · obtain ⟨m, rfl⟩ := Nat.exists_eq_add_of_le' tile
      exact execCorrectedError_third page third

end Sys2Proof.Machine

namespace Sys2Proof.Machine

open Sys2Proof.Safety

/-! ## An access joins its port

A fence and an access note what they do in the running actor's fence alone, so all that an access changes beside its own place
in the port stands in the regions. -/

/-! ### The running actor's fence -/

/-- The state with the running actor's fence changed. -/
def State.modFence (s : State) (f : Fence → Fence) : State :=
  s.modActor s.runner.1 s.runner.2 fun x => { x with fence := f x.fence }

/-- A fence of the running actor changes the regions alone. -/
theorem State.modFence_eq_setRegions (s : State) (f : Fence → Fence) :
    s.modFence f = { s with regions := (s.modFence f).regions } :=
  s.modRegion_eq_setRegions _ _

theorem State.modFence_runner (s : State) (f : Fence → Fence) : (s.modFence f).runner = s.runner :=
  (congrArg State.runner (s.modFence_eq_setRegions f)).trans rfl

@[simp] theorem Region.modActor_asid (g : Region) (a : Nat) (f : Actor → Actor) : (g.modActor a f).asid = g.asid := by
  unfold Region.modActor
  split <;> rfl

@[simp] theorem State.modFence_runAsid (s : State) (f : Fence → Fence) : (s.modFence f).runAsid = s.runAsid := by
  rw [State.runAsid, State.modFence_runner, State.runAsid]
  cases h : s.region s.runner.1 with
  | none => rw [State.modFence, State.modActor, State.modRegion_none _ _ _ h, h]
  | some g => simp [State.modFence, State.modActor, State.modRegion_some _ _ _ g h]

theorem State.runActor_modFence {s : State} {x : Actor} (hx : s.runActor = some x) (f : Fence → Fence) :
    (s.modFence f).runActor = some { x with fence := f x.fence } := by
  obtain ⟨g, hg, ha⟩ := Option.bind_eq_some_iff.1 hx
  rw [State.runActor, State.modFence_runner]
  simp [State.actor, State.modFence, State.modActor, State.modRegion_some _ _ _ g hg, Region.modActor, ha]

/-! ### A release annotation (R155, R156) -/

/-- A fence after a release ORD at a scope that names a list of accesses. -/
def Fence.released (f : Fence) (sc : Nat) (l : List Dep) : Fence :=
  { f with rel := f.rel ++ l, next := some (max sc (f.next.getD 0)), maybe := [] }

theorem State.fenceHere_release (s : State) (sc : Scope) :
    s.fenceHere sc 2 = s.modFence (·.released sc.toNat (s.releaseSet sc)) := by
  simp [State.fenceHere, State.modFence, Fence.released]

/-- The state in which an access whose annotation is no acquire joins its port: a release annotation has acted. -/
def State.annotated (s : State) (acc : Access) : State := if 2 ≤ acc.ord.toNat then s.fenceHere acc.sc 2 else s

/-- The running actor's fence as such an access finds it. -/
def State.fenceFor (s : State) (acc : Access) (f : Fence) : Fence :=
  if 2 ≤ acc.ord.toNat then f.released acc.sc.toNat (s.releaseSet acc.sc) else f

section
variable (s : State) (acc : Access)

theorem State.annotated_eq_setRegions : s.annotated acc = { s with regions := (s.annotated acc).regions } := by
  unfold State.annotated
  split
  · rw [s.fenceHere_release]
    exact s.modFence_eq_setRegions _
  · rfl

theorem State.annotated_runAsid : (s.annotated acc).runAsid = s.runAsid := by
  unfold State.annotated
  split
  · rw [s.fenceHere_release, State.modFence_runAsid]
  · rfl

theorem State.runActor_annotated {x : Actor} (hx : s.runActor = some x) :
    (s.annotated acc).runActor = some { x with fence := s.fenceFor acc x.fence } := by
  unfold State.annotated State.fenceFor
  split
  · rw [s.fenceHere_release, State.runActor_modFence hx]
  · exact hx

theorem State.fenceFor_all (f : Fence) : (s.fenceFor acc f).all = f.all := by
  unfold State.fenceFor
  split <;> rfl

theorem State.fenceFor_rel_of_release (release : 2 ≤ acc.ord.toNat) (f : Fence) :
    (s.fenceFor acc f).rel = f.rel ++ s.releaseSet acc.sc :=
  congrArg Fence.rel (if_pos release)

theorem State.rel_subset_fenceFor (f : Fence) : f.rel ⊆ (s.fenceFor acc f).rel := by
  unfold State.fenceFor
  split
  · exact List.subset_append_left ..
  · exact List.Subset.refl _

end

/-! ### The access in the port (R119, R125) -/

/-- A fence after an access that may be the release write that it asks for. -/
def Fence.issued (f : Fence) (k : ReqKind) (id : Nat) : Fence :=
  if k.tries then { f with maybe := f.maybe ++ [id] } else { f with next := none, maybe := [] }

theorem Fence.issued_rel (f : Fence) (k : ReqKind) (id : Nat) : (f.issued k id).rel = f.rel := by
  unfold Fence.issued
  split <;> rfl

/-- The state in which the running actor's fence has noted an access under the next name. -/
def State.noted (s : State) (k : ReqKind) : State := if k.mayWrite then s.modFence (·.issued k s.nextId) else s

theorem State.noted_eq_setRegions (s : State) (k : ReqKind) : s.noted k = { s with regions := (s.noted k).regions } := by
  unfold State.noted
  split
  · exact s.modFence_eq_setRegions _
  · rfl

theorem State.noted_annotated_eq_setRegions (s : State) (acc : Access) : (s.annotated acc).noted acc.kind =
    { s with regions := ((s.annotated acc).noted acc.kind).regions } := by
  rw [(s.annotated acc).noted_eq_setRegions, s.annotated_eq_setRegions]

/-- Noting an access leaves what the actor's fence releases. -/
theorem State.runActor_noted {s : State} {x : Actor} (hx : s.runActor = some x) (k : ReqKind) :
    ∃ y, (s.noted k).runActor = some y ∧ y.fence.rel = x.fence.rel := by
  unfold State.noted
  split
  · exact ⟨_, State.runActor_modFence hx _, Fence.issued_rel ..⟩
  · exact ⟨x, hx, rfl⟩

theorem ReqKind.writes_of_mayWrite {k : ReqKind} (h : k.mayWrite = true) : k.writes = true := by
  cases k with
  | write | atomic | cas | futPut => rfl
  | _ => cases h

/-- A tile with an access at the end of its memory port. -/
def Tile.joined (t : Tile) (a : Access) : Tile := { t with port := t.port ++ [a] }

/-- What a change of an actor makes of the regions depends on the regions alone. -/
theorem State.modActor_eq_of_regions {s t : State} (same : t.regions = s.regions) (r a : Nat) (f : Actor → Actor) :
    t.modActor r a f = { t with regions := (s.modActor r a f).regions } := by
  unfold State.modActor State.modRegion State.region State.setRegion
  rw [same]
  split
  · rfl
  · rw [← same]

/-- An access in the port of the tile in focus leaves the running actor that the regions give. -/
theorem State.runActor_joined {s : State} (hs : swf ({} : Tile) s.tiles = true) (a : Access)
    (R : Sparse (Option Region)) (n : Nat) :
    ({ s.modTile s.focus (·.joined a) with regions := R, nextId := n } : State).runActor =
      ({ s with regions := R } : State).runActor := by
  have runner : (s.modTile s.focus (·.joined a)).runner = s.runner := by
    unfold State.runner State.core
    rw [State.modTile_focus, State.modTile, State.tile_setTile_same _ _ _ hs]
    rfl
  exact congrArg (fun p => ({ s with regions := R } : State).actor p.1 p.2) runner

/-- An access as an actor of the state issues it: named, with what its actor's fence and what it has received hold it behind. -/
def State.issuedBy (s : State) (runner : Nat × Nat) (x : Actor) (acc : Access) : Access :=
  let k := if acc.kind.mayWrite then x.fence.next else none
  { acc with
    id := s.nextId, region := runner.1, actor := runner.2, asid := s.runAsid
    after := x.fence.all ++ (if acc.kind.writes then x.fence.rel else [])
    behind := s.carried x, rel := k, relIf := if k.isSome then x.fence.maybe else []
    relDeps := if k.isSome then s.pendingOf s.focus runner.1 runner.2 ++ s.carried x else [] }

/-- An access joins the port past its annotation: it uses a name and is noted. -/
def State.issue (s : State) (runner : Nat × Nat) (acc : Access) : State :=
  let t := ({ s with nextId := s.nextId + 1 } : State).modTile s.focus (·.joined (s.issuedBy runner (s.runActor.getD {}) acc))
  if acc.kind.mayWrite then
    t.modActor runner.1 runner.2 fun x => { x with fence := x.fence.issued acc.kind s.nextId }
  else t

theorem State.pushAccess_eq_issue (s : State) {acc : Access} (noAcquire : acc.ord.toNat % 2 = 0) :
    s.pushAccess acc = (s.annotated acc).issue s.runner acc :=
  if_neg (by rw [noAcquire]; decide)

theorem State.issue_eq {s : State} {x : Actor} (hx : s.runActor = some x) (acc : Access) : s.issue s.runner acc =
    { s.modTile s.focus (·.joined (s.issuedBy s.runner x acc)) with
      regions := (s.noted acc.kind).regions, nextId := s.nextId + 1 } := by
  unfold State.issue State.noted
  rw [hx]
  split
  · exact (State.modActor_eq_of_regions (s := s) (by rfl) ..).trans rfl
  · rfl

/-- All that an access without an acquire annotation changes: it joins the end of its tile's port, a name is used, and the
actor's fence notes its annotation and itself. -/
theorem State.pushAccess_eq {s : State} {acc : Access} {x : Actor} (hx : s.runActor = some x)
    (noAcquire : acc.ord.toNat % 2 = 0) : s.pushAccess acc =
      { s.modTile s.focus (·.joined (s.issuedBy s.runner { x with fence := s.fenceFor acc x.fence } acc)) with
        regions := ((s.annotated acc).noted acc.kind).regions, nextId := s.nextId + 1 } := by
  have same := s.annotated_eq_setRegions acc
  have runner : (s.annotated acc).runner = s.runner := (congrArg State.runner same).trans rfl
  have asid := s.annotated_runAsid acc
  rw [s.pushAccess_eq_issue noAcquire, ← runner, State.issue_eq (s.runActor_annotated acc hx)]
  unfold State.issuedBy
  rw [asid]
  generalize ((s.annotated acc).noted acc.kind).regions = R
  rw [same]
  rfl

/-- Settles O18: the access reads its place and its fences off the state that its annotation leaves, which differs from the state
before it in the running actor's fence alone. -/
theorem accessJoinsPort : Obligations.AccessJoinsPort := by
  intro s acc x hs hx noAcquire
  rw [State.pushAccess_eq hx noAcquire]
  refine ⟨⟨_, _, _, _, State.tile_setTile_same _ _ _ hs.tiles, fun q hq => ?_, fun writes q hq => ?_,
    fun writes release q hq => ?_⟩, fun release => ?_, rfl, rfl, fun reads relaxed => ?_,
    fun k hk => State.tile_setTile_other _ _ _ _ hs.tiles hk⟩
  · rw [s.fenceFor_all]
    exact List.mem_append_left _ hq
  · rw [if_pos writes]
    exact List.mem_append_right _ (s.rel_subset_fenceFor acc x.fence hq)
  · rw [if_pos writes, s.fenceFor_rel_of_release acc release]
    exact List.mem_append_right _ (List.mem_append_right _ hq)
  · obtain ⟨y, hy, rel⟩ := State.runActor_noted (s.runActor_annotated acc hx) acc.kind
    refine ⟨y, ?_, rel.trans (s.fenceFor_rel_of_release acc release x.fence)⟩
    rw [State.runActor_joined hs.tiles, ← hy]
    exact congrArg State.runActor (s.noted_annotated_eq_setRegions acc).symm
  · have relaxed : ¬ 2 ≤ acc.ord.toNat := by simp [relaxed]
    have still : ¬ acc.kind.mayWrite = true := fun h => by simp [ReqKind.writes_of_mayWrite h] at reads
    simp only [State.annotated, State.noted, if_neg relaxed, if_neg still]

end Sys2Proof.Machine

namespace Sys2Proof.Machine

open Sys2Proof.Safety

/-! ## k registers, time, power credits and the class (R47, R169, R189, R194, R344, R397, R398) -/

@[simp] theorem Core.setRegs_pc (l : List Dw) (c : Core) (r : Nat) : (c.setRegs r l).pc = c.pc := by
  induction l generalizing c r with
  | nil => rfl
  | cons v l ih => exact (ih _ _).trans (c.setReg_pc _ v)

theorem exec_krd {s : State} {x : Actor} (hx : s.runActor = some x) (g : Reg) (k : BitVec 4) :
    exec (.krd g k) s = .next (wrote s g (sget 0 x.k k.toNat)) := by
  show retire s g ((s.runActor.map fun x => sget 0 x.k k.toNat).getD 0) = _
  rw [hx, retire_eq_wrote]
  rfl

theorem exec_time (s : State) (g : Reg) : exec (.time g) s = .next (s.setCore
    { s.core.setRegs g.toNat [(s.die (dieOf s.focus)).eqt, (s.die (dieOf s.focus)).eqe] with pc := s.core.pc + 4 }) := by
  show Host.Outcome.next (s.setCore (Core.step4 _)) = _
  rw [Core.step4, Core.setRegs_pc]

section
variable {s : State} {g : Region} (hg : s.region s.runner.1 = some g)
include hg

/-- PWREQ with enough credits in the bucket (R194). -/
theorem exec_pwreq_moves {a : Reg} (enough : (s.reg a).toNat ≤ g.credit) (d : Reg) : exec (.pwreq d a) s =
    .next (wrote ((s.setRegion s.runner.1 { g with credit := g.credit - (s.reg a).toNat }).modFiring
      fun f => { f with grant := f.grant + (s.reg a).toNat }) d 1) := by
  show execPwreq d a s = _
  simp only [execPwreq, hg, if_pos enough, retire_eq_wrote]

/-- PWREQ with too few (R194). -/
theorem exec_pwreq_refuses {a : Reg} (short : g.credit < (s.reg a).toNat) (d : Reg) : exec (.pwreq d a) s =
    .next (wrote (s.setRegion s.runner.1 { g with refusals := g.refusals + 1 }) d 0) := by
  show execPwreq d a s = _
  simp only [execPwreq, hg, if_neg (Nat.not_le.2 short), retire_eq_wrote]

theorem exec_prio {l : Launch} (hl : g.launch = some l) (c : BitVec 2) : exec (.prio c) s =
    .next (passed (s.modActor s.runner.1 s.runner.2 fun x => { x with cls := if c.toNat ≤ l.ccap.toNat then c else l.ccap })) := by
  have cap : (((s.region s.runner.1).bind (·.launch)).map (·.ccap)).getD 3 = l.ccap := by
    rw [hg, Option.bind_some, hl, Option.map_some, Option.getD_some]
  show execPrio c s = _
  simp only [execPrio, cap, BitVec.ule, decide_eq_true_eq]
  rfl

end

theorem exec_pwrel {s : State} {f : Firing} (hf : s.firing = some f) : exec .pwrel s =
    .next (passed ((s.modRegion s.runner.1 fun g => { g with credit := min (g.credit + f.grant) g.bdepth }).modFiring
      fun f => { f with grant := 0 })) := by
  show Host.Outcome.next (State.advance _) = _
  rw [hf]
  rfl

/-- Settles O22: each instruction answers as its own lemma says; KRD after KWR is a canonical map read after a write. -/
theorem kRegistersTimeAndPower : Obligations.KRegistersTimeAndPower := by
  unfold Obligations.KRegistersTimeAndPower
  refine ⟨fun s g a k x hx => ⟨exec_krd hx g k, rfl, fun canon j => ?_, exec_time s g⟩,
    fun s d a c g f l hg hf hl => ⟨fun enough => exec_pwreq_moves hg enough d, fun short => exec_pwreq_refuses hg short d,
      exec_pwrel hf, exec_prio hg hl c⟩⟩
  split
  · next same => rw [same, sget_sset_same _ _ _ _ canon]
  · next other => exact sget_sset_other _ _ _ _ _ canon other

end Sys2Proof.Machine

namespace Sys2Proof.Machine

open Sys2Proof.Safety

/-! ## Work graphs (R191, R192, R410, R411)

A record's way to the backing store changes memory and what is noted about it: the tiles, and with them the firing that
emits it, stay. -/

/-! ### Writes of the hardware leave the tiles alone -/

/-- The tiles and which of them is in focus. -/
def State.seats (s : State) : Nat × Sparse Tile := (s.focus, s.tiles)

theorem State.firing_of_seats {s t : State} (h : s.seats = t.seats) : s.firing = t.firing := by
  obtain ⟨focus, tiles⟩ := Prod.mk.inj h
  simp only [State.firing, State.core, State.tile, focus, tiles]

theorem State.seats_putBytes (ps : List Nat) (l : List Byte) (s : State) : (s.putBytes ps l).seats = s.seats := by
  induction ps generalizing s l with
  | nil => cases l <;> rfl
  | cons p ps ih =>
    cases l with
    | nil => rfl
    | cons b l => exact ih l (s.wrByte p b)

theorem State.seats_wrBytes (l : List Byte) (s : State) (pa : Nat) : (s.wrBytes pa l).seats = s.seats := by
  induction l generalizing s pa with
  | nil => rfl
  | cons b l ih => exact ih (s.wrByte pa b) (pa + 1)

theorem State.seats_sendInvs (keep : Option Nat) (l : List Nat) (s : State) : (s.sendInvs keep l).seats = s.seats := by
  induction l generalizing s with
  | nil => rfl
  | cons n l ih => exact ih _

theorem State.seats_invalidate (s : State) (keep : Option Nat) (l : List Nat) :
    ((s.invalidate keep l).getD s).seats = s.seats := by
  unfold State.invalidate
  split
  · exact s.seats_sendInvs keep l
  · rfl

theorem State.seats_settleDues (l : List (Nat × Bool)) (s : State) : (s.settleDues l).seats = s.seats := by
  induction l generalizing s with
  | nil => rfl
  | cons d l ih =>
    unfold State.settleDues
    split
    · exact ih _
    · split
      · exact (ih _).trans (s.seats_wrBytes _ _)
      · exact (ih _).trans (s.seats_invalidate none _)

theorem State.seats_mark (w : Bool) (l : List Nat) (s : State) : (s.mark w l).seats = s.seats := by
  induction l generalizing s with
  | nil => rfl
  | cons a l ih =>
    refine (ih _).trans ?_
    split
    · rfl
    · exact s.seats_settleDues _

theorem State.seats_performPosted (s : State) (w : Posted) : (s.performPosted w).seats = s.seats := by
  unfold State.performPosted
  split <;> exact s.seats_putBytes _ _

theorem State.seats_dropPosted (s : State) (w : Posted) : (s.dropPosted w).seats = s.seats := by
  unfold State.dropPosted
  split <;> rfl

theorem State.seats_settlePosted (l : List Posted) (s : State) : (s.settlePosted l).seats = s.seats := by
  induction l generalizing s with
  | nil => rfl
  | cons w l ih =>
    unfold State.settlePosted
    dsimp only
    split
    · exact ih _
    · split
      · exact (ih _).trans (s.seats_dropPosted w)
      · split
        · exact (ih _).trans (s.seats_performPosted w)
        · exact (ih _).trans (s.seats_invalidate none _)

theorem State.seats_hwWrite (s : State) (ps : List Nat) (l : List Byte) : (s.hwWrite ps l).seats = s.seats :=
  (State.seats_settleDues _ _).trans (State.seats_settlePosted _ _)

theorem State.seats_freeDws (n : Nat) (s : State) : (s.freeDws n).2.seats = s.seats := by
  induction n generalizing s with
  | zero => rfl
  | succ n ih => exact ih s.free.2

theorem State.seats_touchHeader (s : State) (g : Region) (n : WNode) : (s.touchHeader g n).seats = s.seats := by
  have seen (va : Nat) : (s.storeSeen g { w := true } va 64).seats = s.seats := State.seats_mark _ _ s
  unfold State.touchHeader
  dsimp only
  split
  · exact (State.seats_hwWrite _ _ _).trans ((State.seats_freeDws 8 _).trans (seen _))
  · exact seen _

/-- A record that goes to the backing store leaves every tile alone. -/
theorem State.seats_storeRecord (s : State) (g : Region) (n : WNode) (data : List Dw) : (s.storeRecord g n data).seats = s.seats := by
  refine (State.seats_touchHeader _ g n).trans ?_
  split
  · exact (State.seats_hwWrite _ _ _).trans (State.seats_mark _ _ s)
  · exact State.seats_mark _ _ s

/-- Two changes that agree on the running firing are one. -/
theorem State.modFiring_congr {s : State} {f : Firing} {u v : Firing → Firing} (hf : s.firing = some f) (agree : u f = v f) :
    s.modFiring u = s.modFiring v := by
  have hc : s.core.firing = some f := hf
  simp only [State.modFiring, hc, agree]

/-! ### WEMIT and WRSV -/

/-- What the release of a record's emission by `x` orders before its use by a child: the accesses of `x` that are pending and
those that it carries, at the scope that covers both actors. -/
def State.emitDeps (s : State) (x child : Actor) : List Dep :=
  (s.pendingOf x.tile s.runner.1 s.runner.2 ++ s.carried x).map fun p =>
    { tile := p.1, id := p.2, sc := (tileScope x.tile child.tile).toNat }

section
variable {s : State} {e : BitVec 3}

theorem exec_wemit_noEdge (none_here : s.edgeHere e = none) (g : Reg) (n : BitVec 3) :
    exec (.wemit g e n) s = .next (s.takeTrap 1 s.wordHere) := by
  show execWemit g e n s = _
  simp only [execWemit, none_here, illegal, trapNow]

theorem exec_wrsv_noEdge (none_here : s.edgeHere e = none) (g : Reg) (m : BitVec 8) :
    exec (.wrsv g e m) s = .next (s.takeTrap 1 s.wordHere) := by
  show execWrsv g e m s = _
  simp only [execWrsv, none_here, illegal, trapNow]

section
variable {k : Nat} {w : WNode} (edge : s.edgeHere e = some (k, w))
include edge

theorem exec_wemit_badLength {n : BitVec 3} (bad : w.size ≠ 8 * (n.toNat + 1)) (g : Reg) :
    exec (.wemit g e n) s = .next (s.takeTrap 1 s.wordHere) := by
  show execWemit g e n s = _
  simp only [execWemit, edge, if_pos bad, illegal, trapNow]

/-- A record emitted into a reserved slot (R191, R411). -/
theorem exec_wemit_queues {n : BitVec 3} (g : Reg) {f : Firing} {x : Actor} {gr : Region} (fits : w.size = 8 * (n.toNat + 1))
    (hf : s.firing = some f) (held : sget 0 f.wrsv k ≠ 0) (hx : s.runActor = some x) (hg : s.region s.runner.1 = some gr) :
    exec (.wemit g e n) s = .next (passed
      (((s.storeRecord gr w (s.core.regs g.toNat (n.toNat + 1))).modFiring fun f =>
        { f with wrsv := sset 0 f.wrsv k (sget 0 f.wrsv k - 1) }).modRegion s.runner.1 fun gr' =>
          gr'.setNode k { w with recs := w.recs ++ [{ tok := { payload := s.core.regs g.toNat (n.toNat + 1) }
                                                      after := s.emitDeps x ((gr.actor w.actor).getD {}) }]
                                 reserved := w.reserved - 1 })) := by
  have emits : (s.storeRecord gr w (s.core.regs g.toNat (n.toNat + 1))).firing = some f :=
    (State.firing_of_seats (s.seats_storeRecord gr w _)).trans hf
  rw [State.modFiring_congr (v := fun f' => { f' with wrsv := sset 0 f'.wrsv k (sget 0 f.wrsv k - 1) }) emits rfl]
  show execWemit g e n s = _
  simp only [execWemit, edge, fits, ne_eq, not_true_eq_false, if_false, hf, Option.map_some, Option.getD_some, if_neg held, hg, hx,
    Option.bind_some]
  rfl

/-- A record without a reserved slot (R13, R411). -/
theorem exec_wemit_discards {n : BitVec 3} (g : Reg) {f : Firing} (fits : w.size = 8 * (n.toNat + 1))
    (hf : s.firing = some f) (spent : sget 0 f.wrsv k = 0) : exec (.wemit g e n) s =
      .next (passed (s.errorAt s.runner.1 s.runner.2 0xFF (8 + e.toNat) 0x04 (s.reg g))) := by
  have first : (s.core.regs g.toNat (n.toNat + 1)).headD 0 = s.reg g :=
    congrArg s.core.reg (BitVec.ofNat_toNat 5 g)
  show execWemit g e n s = _
  simp only [execWemit, edge, fits, ne_eq, not_true_eq_false, if_false, hf, Option.map_some, Option.getD_some, spent, if_true, first]
  rfl

theorem exec_wrsv_reserves {m : BitVec 8} {gr : Region} (g : Reg) (hg : s.region s.runner.1 = some gr)
    (room : m.toNat + 1 ≤ gr.nodeFree w) : exec (.wrsv g e m) s = .next (wrote
      ((s.modFiring fun f => { f with wrsv := sset 0 f.wrsv k (sget 0 f.wrsv k + (m.toNat + 1)) }).modRegion s.runner.1
        fun gr => gr.setNode k { w with reserved := w.reserved + (m.toNat + 1) }) g 1) := by
  show execWrsv g e m s = _
  simp only [execWrsv, edge, hg, Option.map_some, Option.getD_some, if_pos room, retire_eq_wrote]

theorem exec_wrsv_refuses {m : BitVec 8} {gr : Region} (g : Reg) (hg : s.region s.runner.1 = some gr)
    (full : gr.nodeFree w < m.toNat + 1) : exec (.wrsv g e m) s = .next (wrote s g 0) := by
  show execWrsv g e m s = _
  simp only [execWrsv, edge, hg, Option.map_some, Option.getD_some, if_neg (Nat.not_le.2 full), retire_eq_wrote]

end
end

/-- Settles O15: the firing that a record's emission finds is still there once the record has gone to the backing store. -/
theorem workGraph : Obligations.WorkGraph := by
  unfold Obligations.WorkGraph
  intro s g e n m
  refine ⟨fun none_here => ⟨exec_wemit_noEdge none_here g n, exec_wrsv_noEdge none_here g m⟩, fun k w edge =>
    ⟨fun bad => exec_wemit_badLength edge bad g,
      fun f x gr fits hf held hx hg => ⟨_, exec_wemit_queues edge g fits hf held hx hg⟩,
      fun f fits hf spent => exec_wemit_discards edge g fits hf spent,
      fun gr hg => ⟨exec_wrsv_reserves edge g hg, exec_wrsv_refuses edge g hg⟩⟩⟩

end Sys2Proof.Machine

namespace Sys2Proof.Machine

open Sys2Proof.Safety

/-! ## Selection (R21, R25, R184, R185, R187, R426) -/

/-! ### The pick of the selector -/

/-- The oldest candidate of its class passed over, where one was (R185). -/
def State.passOver (s : State) : Option (Nat × Nat) → State
  | some (r, a) => s.modActor r a fun x => { x with cand := x.cand.map Cand.passed }
  | none => s

/-- A tile's rotation once class `c` has been served (R185). -/
def State.rotate (s : State) (tile c : Nat) : State :=
  if c = 0 then s else s.modTile tile fun t => { t with rot := (t.rot + 1) % 7 }

/-- A tile's selection from its candidates brought up to date, once the pick is known. -/
theorem exec_firingSelect_picks {s u : State} {tile r a : Nat} {x : Actor} {k : Cand} {byp : Option (Nat × Nat)}
    (fresh : s.refreshSlots tile (List.range 16) = u) (room : (u.tile tile).shadow.length < 2)
    (pick : pickOf ((u.candsOf tile).filter fun y => decide (y.2.2.1.cls.toNat = rotationClass (u.candsOf tile) (u.tile tile).rot))
      (u.tile tile).core.bypass.toNat = some ((r, a, x, k), byp)) :
    exec (.firingSelect tile) s = .next ((((((u.passOver byp).rotate tile (rotationClass (u.candsOf tile) (u.tile tile).rot)).modActor
      r a fun x => { x with cand := none }).selectFor tile r a)).refresh r) := by
  show occur s (s.select tile) = _
  simp only [State.select, fresh, if_neg (Nat.not_le.2 room), pick, occur_some]
  cases byp <;> rfl

section
variable {l : List (Nat × Nat × Actor × Cand)} {limit : Nat} {o h : Nat × Nat × Actor × Cand}
variable (oldest : oldestOf l = some o) (resident : oldestOf (l.filter fun c => c.2.2.2.hit) = some h)
include oldest resident

theorem pickOf_resident (below : o.2.2.2.bypass < limit) (absent : o.2.2.2.hit = false) :
    pickOf l limit = some (h, some (o.1, o.2.1)) := by
  simp [pickOf, oldest, resident, below, absent]

theorem pickOf_oldest (due : limit ≤ o.2.2.2.bypass ∨ o.2.2.2.hit = true) : pickOf l limit = some (o, none) := by
  simp only [pickOf, oldest, resident, if_pos due]

end

/-! ### The firing of the actor picked -/

section
variable {s : State} {r a : Nat} {g : Region} {x : Actor} (hg : s.region r = some g) (hx : g.actor a = some x)
include hg hx

/-- An actor without a waiting call fires its lowest satisfied rule. -/
theorem State.selectFor_rule {n : Nat} {ru : Rule} (tile : Nat) (noCall : x.noteCalls.waits = [])
    (lowest : g.ruleOf a x = some (n, ru)) : s.selectFor tile r a = s.selectRule tile r a g x n ru := by
  simp only [State.selectFor, hg, hx, noCall, lowest]

/-- An actor whose oldest call waits in its queue fires that call. -/
theorem State.selectFor_call {l : List (Option Nat)} {u : Token} {rest : List Token} (tile : Nat)
    (waiting : x.noteCalls.waits = none :: l) (calls : x.calls = u :: rest) : s.selectFor tile r a =
      (s.modActor r a fun x => { x with calls := x.calls.drop 1, waits := l }).selectCall tile r a x u 0xFF := by
  simp only [State.selectFor, hg, hx, waiting, calls, List.headD_cons]

end

theorem State.selectRule_validEntry {g : Region} {x : Actor} {ru : Rule} (valid : x.validEntry ru.entry.toNat = true) (s : State)
    (tile r a n : Nat) : s.selectRule tile r a g x n ru =
      let outs := g.joinedOf a (maskList ru.outMask)
      let f : Firing := {
        id := s.nextId + 1, region := r, actor := a, rule := some n, entry := ru.entry.toNat
        trig := (maskList ru.inMask).filterMap fun p => (x.head p).map fun t => (p, t, false)
        rsv := outs.foldl (fun m p => sset 0 m p 1) [], wrsv := budgets (g.edgesOf a), cls := x.cls }
      ({ s with nextId := s.nextId + 1 }.setRegion r ((g.reserveOuts a outs).reserveNodes (g.edgesOf a))).modTile tile fun v =>
        { v with shadow := v.shadow ++ [f] } := by
  simp only [State.selectRule, valid, Bool.not_true, Bool.false_eq_true, if_false]

theorem State.selectCall_validEntry {x : Actor} {u : Token} (valid : x.validEntry (dwAt (u.dw 0) 8 4) = true) (s : State)
    (tile r a chan : Nat) : s.selectCall tile r a x u chan =
      let f : Firing := {
        id := s.nextId + 1, region := r, actor := a, rule := none, entry := dwAt (u.dw 0) 8 4, call := some u, cls := x.cls }
      { s with nextId := s.nextId + 1 }.modTile tile fun v => { v with shadow := v.shadow ++ [f] } := by
  simp only [State.selectCall, valid, Bool.not_true, Bool.false_eq_true, if_false]

/-! ### Residency and the start of a task -/

/-- The address in a probe register translates at its actor's tile. -/
def State.probeTranslates (s : State) (g : Region) (x : Actor) (k : Nat) : Bool :=
  match s.xlate (dieOf x.tile) g.asid (s.tile x.tile).ranges {} 1 (sget 0 x.k k).toNat 1 with
  | .ok _ _ => true
  | _ => false

theorem exec_residencyProbe_sets {s : State} {r a k : Nat} {g : Region} {x : Actor} {c : Cand} (present : Bool)
    (hg : s.region r = some g) (hx : s.actor r a = some x) (hc : x.cand = some c) (probe : x.probe = some k) :
    exec (.residencyProbe r a present) s =
      .next (s.modActor r a fun y => { y with cand := some { c with hit := present && s.probeTranslates g x k } }) := by
  show execResidencyProbe r a present s = _
  simp only [execResidencyProbe, hg, hx, hc, probe, occur_some]
  rfl

theorem Core.begin_eq (c : Core) (asid pc : Nat) (f : Firing) : c.begin asid pc f =
    { c with
      g := if c.lastAsid = some asid then c.g else [], sys := false, pc := BitVec.ofNat 32 pc, lastAsid := some asid
      firing := some f } := by
  unfold Core.begin
  split <;> rfl

/-- A free core starts the firing selected first (R187). -/
theorem exec_taskStart_starts {s : State} {tile : Nat} {f : Firing} {rest : List Firing} {g : Region} {x : Actor}
    (free : (s.tile tile).core.firing = none) (first : (s.tile tile).shadow = f :: rest) (hg : s.region f.region = some g)
    (hx : s.actor f.region f.actor = some x) (noError : x.holdsNone = true) (goes : g.halted = false) :
    exec (.taskStart tile) s = .next ((s.modActor f.region f.actor fun x =>
      x.acquire (f.trig.flatMap (·.2.1.deps) ++ (f.call.map (·.deps)).getD [])).modTile tile fun t =>
        { t with shadow := rest, core := t.core.begin g.asid (x.codeB + dwAt (sget 0 x.htab f.entry) 0 32) f }) := by
  show occur s (s.taskStarts tile) = _
  simp only [State.taskStarts, free, first, hg, hx, noError, goes, Bool.true_eq_false, Bool.false_eq_true, or_self, if_false,
    occur_some]

/-- Settles O39: a selection is the pick, the choice of call or rule, and the firing made of it, each said once above. -/
theorem selection : Obligations.Selection := by
  unfold Obligations.Selection
  intro s tile
  refine ⟨fun r a x k byp room pick => exec_firingSelect_picks rfl room pick,
    fun l limit o h oldest resident =>
      ⟨pickOf_resident oldest resident, pickOf_oldest oldest resident⟩,
    fun r a g x n ru hg hx noCall lowest valid => ?_, fun r a g x l u rest hg hx waiting calls valid => ?_,
    fun r a g x c k present hg hx hc probe =>
      ⟨_, exec_residencyProbe_sets present hg hx hc probe, fun hit => (Bool.and_eq_true_iff.1 hit).1⟩,
    fun f rest g x free first hg hx noError goes => ?_⟩
  · exact (State.selectFor_rule hg hx tile noCall lowest).trans (State.selectRule_validEntry valid s tile r a n)
  · rw [State.selectFor_call hg hx tile waiting calls, State.selectCall_validEntry valid]
    simp only [State.modActor_nextId]
  · simp only [exec_taskStart_starts free first hg hx noError goes, Core.begin_eq]

end Sys2Proof.Machine

namespace Sys2Proof.Machine

open Sys2Proof.Safety

/-! ## Elastic stages (R181, R182, R183, R208, R416, R417)

One lemma for each step function of a stage and each way it goes on; what shuts the other ways is a named hypothesis. -/

section
variable {s : State} {r k : Nat} {g : Region} {t : Stage} (hg : s.region r = some g) (ht : g.stage k = some t)
include hg ht

/-! ### Sampling (R181) -/

theorem State.sampleStage_samples (due : (usecUnits : Int) ≤ ((s.die g.die).eqt - t.sampled).toInt)
    (open_ : t.samples < t.window) : s.sampleStage r k = some (s.setStage r k
      { t with
        samples := t.samples + 1, sums := t.replicas.foldl (fun m p => sset 0 m p.1 (sget 0 m p.1 + g.load k t p.1)) t.sums
        counts := t.replicas.foldl (fun m p => sset 0 m p.1 (sget 0 m p.1 + 1)) t.counts
        sampled := t.sampled + BitVec.ofNat 64 usecUnits }) := by
  simp only [State.sampleStage, hg, ht, Int.not_lt.2 due, Nat.not_le.2 open_, decide_false, Bool.or_false, Bool.false_eq_true,
    if_false]

end

/-! ### The end of a window (R181) -/

/-- The windows running that have been below the low mark, once the window that ends is counted. -/
def Region.lowWindows (g : Region) (t : Stage) : Nat :=
  if !t.replicas.isEmpty && t.replicas.all fun p => t.below (g.inSlots t) p.1 then t.lowWins + 1 else 0

/-- The state `u` of stage `t` with the next window begun. -/
def Stage.nextWindow (t u : Stage) : Stage :=
  { u with samples := 0, sums := [], counts := [], wstart := t.wstart + BitVec.ofNat 64 (t.window * usecUnits) }

/-- No cut and no change of the stage is under way. -/
def Region.idle (g : Region) (t : Stage) : Prop := g.cutBy = none ∧ g.cutWait = none ∧ t.change = none ∧ t.retiring = none

/-- A replica is above the high mark, and the limit allows a further one. -/
def Region.wantsMore (g : Region) (t : Stage) : Prop :=
  (∃ p ∈ t.replicas, t.above (g.inSlots t) p.1 = true) ∧ t.replicas.length < t.lim

/-- Two windows running have been below the low mark, and more than the least number of replicas stand. -/
def Region.wantsFewer (g : Region) (t : Stage) : Prop := 2 ≤ g.lowWindows t ∧ t.m < t.replicas.length

theorem Region.idle_iff (g : Region) (t : Stage) :
    g.idle t ↔ (g.cutBy.isSome || g.cutWait.isSome || t.change.isSome || t.retiring.isSome) = false := by
  simp only [Region.idle, Bool.or_eq_false_iff, Option.isSome_eq_false_iff, Option.isNone_iff_eq_none, and_assoc]

theorem Region.wantsMore_iff (g : Region) (t : Stage) : g.wantsMore t ↔
    ((t.replicas.any fun p => t.above (g.inSlots t) p.1) && decide (t.replicas.length < t.lim)) = true := by
  simp only [Region.wantsMore, Bool.and_eq_true, List.any_eq_true, decide_eq_true_eq]

theorem Region.wantsFewer_iff (g : Region) (t : Stage) : g.wantsFewer t ↔
    (decide (2 ≤ g.lowWindows t) && decide (t.m < t.replicas.length)) = true := by
  simp only [Region.wantsFewer, Bool.and_eq_true, decide_eq_true_eq]

section
variable {s : State} {r k : Nat} {g : Region} {t : Stage} (hg : s.region r = some g) (ht : g.stage k = some t)
variable (sampled : t.window ≤ t.samples) (due : ((t.window * usecUnits : Nat) : Int) ≤ ((s.die g.die).eqt - t.wstart).toInt)
include hg ht sampled due

theorem State.windowEnd_unchanged (h : ¬ g.idle t ∨ (¬ g.wantsMore t ∧ ¬ g.wantsFewer t)) :
    s.windowEnd r k = some (s.setStage r k (t.nextWindow { t with lowWins := g.lowWindows t })) := by
  rw [Int.natCast_mul] at due
  rw [Region.idle_iff, Region.wantsMore_iff, Region.wantsFewer_iff] at h
  cases busy : g.cutBy.isSome || g.cutWait.isSome || t.change.isSome || t.retiring.isSome with
  | true =>
    simp only [State.windowEnd, hg, ht, Nat.not_lt.2 sampled, Int.not_lt.2 due, decide_false, Bool.or_false, Bool.false_eq_true,
      if_false, busy, if_true]
    rfl
  | false =>
    obtain ⟨noMore, noFewer⟩ := h.resolve_left (not_not_intro busy)
    simp only [State.windowEnd, hg, ht, Nat.not_lt.2 sampled, Int.not_lt.2 due, decide_false, Bool.or_false, Bool.false_eq_true,
      if_false, busy, noMore]
    exact if_neg noFewer

section
variable (idle : g.idle t)
include idle

theorem State.windowEnd_more (more : g.wantsMore t) : s.windowEnd r k = some (
    if t.ordered then s.setStage r k (t.nextWindow
      { t with lowWins := 0, change := if (s.growTile g t).isSome then some (t.position, none) else none })
    else ((s.setStage r k { t with lowWins := 0 }).grow r k).modRegion r fun g => match g.stage k with
      | some u => g.setStage k (t.nextWindow u)
      | none => g) := by
  rw [Int.natCast_mul] at due
  rw [Region.idle_iff] at idle
  rw [Region.wantsMore_iff] at more
  simp only [State.windowEnd, hg, ht, Nat.not_lt.2 sampled, Int.not_lt.2 due, decide_false, Bool.or_false, Bool.false_eq_true,
    if_false, idle, more, if_true]
  cases t.ordered <;> rfl

theorem State.windowEnd_fewer (noMore : ¬ g.wantsMore t) (fewer : g.wantsFewer t) {p : Nat × Nat}
    (newest : t.replicas.getLast? = some p) : s.windowEnd r k = some (s.setStage r k (t.nextWindow
      (if t.ordered then { t with lowWins := g.lowWindows t, change := some (t.position, some p.1) }
      else { t with lowWins := g.lowWindows t, retiring := some p.1 }))) := by
  rw [Int.natCast_mul] at due
  rw [Region.idle_iff] at idle
  rw [Region.wantsMore_iff] at noMore
  rw [Region.wantsFewer_iff] at fewer
  simp only [State.windowEnd, hg, ht, Nat.not_lt.2 sampled, Int.not_lt.2 due, decide_false, Bool.or_false, Bool.false_eq_true,
    if_false, idle, noMore, newest, Option.map_some]
  refine (if_pos fewer).trans ?_
  cases t.ordered <;> rfl

end
end

/-! ### The distributor (R182, R183, R208, R417) -/

section
variable {s : State} {r k : Nat} {g : Region} {t : Stage} {x : Actor} {tok : Token} {key : Nat}

/-- Between bursts a data token of an arrival stage goes to the least loaded replica. -/
theorem State.routeData_leastLoaded (between : (x.port 0).left = 0) (least : g.leastLoaded k t t.taking = some key)
    (room : g.takes k t key = true) : s.routeData r g k t x tok =
      some (((s.modActor r t.dist fun x => x.takeTracked 0).toReplica r g k t key tok).setStage r k
        { t with burstTo := some key, position := t.position + 1 }) := by
  simp only [State.routeData, between, ne_eq, not_true_eq_false, decide_false, Bool.false_and, Bool.false_eq_true, if_false, least,
    room, Bool.not_true]

/-- Between bursts a stage that keeps order gives data to the least loaded replica and nulls to the others. -/
theorem State.routeOrdered_data (data : tok.kind = 0) (between : (x.port 0).left = 0)
    (least : g.leastLoaded k t t.replicas = some key) (room : (t.replicas.map (·.1)).all (g.takes k t) = true)
    (takes : g.takes k t key = true) : s.routeOrdered r g k t x tok =
      some (((((t.replicas.map (·.1)).filter fun o => decide (o ≠ key)).foldl
        (fun u o => u.toReplica r g k t o { kind := 1, payload := [0] })
        ((s.modActor r t.dist fun x => x.takeTracked 0).toReplica r g k t key tok))).setStage r k
          { t with position := t.position + 1, burstTo := some key }) := by
  have noNull : ¬ (tok.kind = 1 ∨ tok.kind = 2 ∨ tok.kind = 4) := by rw [data]; decide
  have noCtl : decide (tok.kind = 5) = false := by rw [data]; decide
  simp only [State.routeOrdered, if_neg noNull, noCtl, between, ne_eq, not_true_eq_false, decide_false, Bool.false_and,
    Bool.false_eq_true, if_false, least, room, takes, Bool.not_true, Bool.or_self, Bool.not_false, Bool.true_and]

/-- A new ray goes to the less loaded owner of its partition (R183, R208). -/
theorem State.routeRay_admits {port : Nat}
    (least : g.leastLoaded k t (t.taking.filter fun p => decide (p.2 = rayPart tok)) = some key)
    (room : g.takes k t key = true) : s.routeRay r g k t x port tok true =
      some (((s.modActor r t.dist fun x => x.takeTracked port).toReplica r g k t key tok).setStage r k
        { t with inside := t.inside + 1 }) := by
  simp only [State.routeRay, least, room, Bool.not_true, Bool.false_eq_true, if_false, if_true]

section
variable (hg : s.region r = some g) (ht : g.stage k = some t) (hx : g.actor t.dist = some x) (act : g.active x = true)
include hg ht hx act

section
variable (unchanged : t.change = none) (noRays : t.part = false) (noEos : t.eos = none) (hd : x.head 0 = some tok)
include unchanged noRays noEos hd

theorem State.distribute_data (arrival : t.ordered = false) (data : tok.kind = 0) :
    s.distribute r k = s.routeData r g k t x tok := by
  simp [State.distribute, hg, ht, hx, act, unchanged, noRays, noEos, hd, arrival, data]

/-- An EOS of an arrival stage waits in the distributor. -/
theorem State.distribute_eos (arrival : t.ordered = false) (eos : tok.kind = 2) :
    s.distribute r k = some ((s.modActor r t.dist fun x => x.takeTracked 0).setStage r k { t with eos := some tok.eosErr }) := by
  simp [State.distribute, hg, ht, hx, act, unchanged, noRays, noEos, hd, arrival, eos]

theorem State.distribute_ordered (ordered : t.ordered = true) (data : tok.kind = 0) :
    s.distribute r k = s.routeOrdered r g k t x tok := by
  simp [State.distribute, hg, ht, hx, act, unchanged, noRays, noEos, hd, ordered, data]

end

theorem State.admitRay_new (rays : t.part = true) (noEos : t.eos = none) (noneMigrates : g.migrating k t x = none)
    (room : t.inside < t.limit) (hd : x.head 0 = some tok) (data : tok.kind = 0) :
    s.admitRay r k = s.routeRay r g k t x 0 tok true := by
  simp [State.admitRay, hg, ht, hx, act, rays, noEos, noneMigrates, Nat.not_le.2 room, hd, data]

end

/-! ### Release of an EOS and changes of membership (R182, R183, R417) -/

/-- The change of membership that an ordered stage has waited for: a further replica, or the named one less. -/
def State.changeMember (s : State) (r k : Nat) : Option Nat → State
  | none => s.grow r k
  | some key => s.dropReplica r k key

section
variable (hg : s.region r = some g) (ht : g.stage k = some t)
include hg ht

theorem State.releaseEos_empty {e : Bool} {y : Actor} (hy : g.actor t.coll = some y) (waits : t.eos = some e)
    (act : g.active y = true) (empty : s.stageEmpty r g k t = true) (ready : g.outReady t.coll 0 = true) :
    s.releaseEos r k = some ((s.sendEos r t.coll 0 e).setStage r k { t with eos := none }) := by
  simp only [State.releaseEos, hg, ht, waits, hy, act, empty, ready, Bool.not_true, Bool.or_self, Bool.false_eq_true, if_false]

section
variable (hx : g.actor t.dist = some x) (between : (x.port 0).left = 0)
include hx between

theorem State.retireReplica_empty (retiring : t.retiring = some key) (empty : s.replicaEmpty r g k t key = true) :
    s.retireReplica r k = some ((s.dropReplica r k key).resumeCut r) := by
  simp only [State.retireReplica, hg, ht, retiring, hx, between, ne_eq, not_true_eq_false, decide_false, Bool.false_and, empty,
    Bool.not_true, Bool.or_self, Bool.false_eq_true, if_false]

theorem State.changeMembers_empty {n : Nat} {who : Option Nat} (change : t.change = some (n, who))
    (empty : s.stageEmpty r g k t = true) : s.changeMembers r k =
      some (((s.setStage r k { t with change := none }).changeMember r k who).resumeCut r) := by
  simp only [State.changeMembers, hg, ht, change, hx, between, ne_eq, not_true_eq_false, decide_false, empty, Bool.not_true,
    Bool.or_self, Bool.false_eq_true, if_false]
  cases who <;> rfl

end
end
end

/-- Settles O40: each event is the step of its function that the lemmas above single out. -/
theorem elasticStages : Obligations.ElasticStages := by
  unfold Obligations.ElasticStages
  intro s r k g t x y hg ht hx hy
  refine ⟨fun due more => exec_becomes rfl (State.sampleStage_samples hg ht due more), fun sampled due =>
      ⟨fun h => exec_becomes rfl (State.windowEnd_unchanged hg ht sampled due h), fun idle more ordered => ?_,
        fun idle more arrival => ?_, fun p idle noMore fewer newest =>
          exec_becomes rfl (State.windowEnd_fewer hg ht sampled due idle noMore fewer newest)⟩,
    fun tok act unchanged noRays noEos hd arrival => ⟨fun key data between least room => ?_, fun eos => ?_⟩,
    fun tok key act unchanged noRays noEos hd ordered data between least room takes => ?_,
    fun e waits act empty ready => exec_becomes rfl (State.releaseEos_empty hg ht hy waits act empty ready),
    fun tok key act rays noEos noneMigrates room hd data least takes => ?_,
    fun key retiring between empty => exec_becomes rfl (State.retireReplica_empty hg ht hx between retiring empty),
    fun n key between empty => ⟨fun change => ?_, fun change => ?_⟩⟩
  · exact exec_becomes rfl ((State.windowEnd_more hg ht sampled due idle more).trans (by rw [if_pos ordered]; rfl))
  · exact exec_becomes rfl ((State.windowEnd_more hg ht sampled due idle more).trans (by rw [arrival]; rfl))
  · exact exec_becomes rfl ((State.distribute_data hg ht hx act unchanged noRays noEos hd arrival data).trans
      (State.routeData_leastLoaded between least room))
  · exact exec_becomes rfl (State.distribute_eos hg ht hx act unchanged noRays noEos hd arrival eos)
  · exact exec_becomes rfl ((State.distribute_ordered hg ht hx act unchanged noRays noEos hd ordered data).trans
      (State.routeOrdered_data data between least room takes))
  · exact exec_becomes rfl ((State.admitRay_new hg ht hx act rays noEos noneMigrates room hd data).trans
      (State.routeRay_admits least takes))
  · exact exec_becomes rfl (State.changeMembers_empty hg ht hx between change empty)
  · exact exec_becomes rfl (State.changeMembers_empty hg ht hx between change empty)

end Sys2Proof.Machine

namespace Sys2Proof.Machine

open Sys2Proof.Safety

/-! ## Moves of elements (R190, R337, R338): a command whose 4 KiB transfer is longer than 4 KiB

The obligation lets a command say any number of bytes left of the transfer under way, while the engine never leaves more than
4,096. A command with 8,192 left moves them in one turn where its units cannot be parted: a line that the units cover whole is
not cut, and here every row of the destination is the same line. -/

/-! ### Units that cannot be parted (R146, R338) -/

/-- Units of which no number but all leaves the whole lines uncut go in one event, whatever the free value. -/
theorem chunkLen_of_cut {l : List (List Nat)} (cut : ∀ n, 0 < n → n < l.length → uncut l n = false) (v : Nat) :
    chunkLen l v = l.length := by
  unfold chunkLen
  cases found : (List.range (l.length + 1)).find? fun n => decide (v % max 1 l.length < n) && uncut l n with
  | none => rfl
  | some n =>
    have range : n < l.length + 1 := List.mem_range.1 (List.mem_of_find?_eq_some found)
    have hit := List.find?_some found
    simp only [Bool.and_eq_true, decide_eq_true_eq] at hit
    obtain ⟨above, whole⟩ := hit
    rcases Nat.lt_or_ge n l.length with less | all
    · rw [cut n (by omega) less] at whole
      cases whole
    · exact Nat.le_antisymm (Nat.lt_succ_iff.1 range) all

/-- A line covered whole with a byte on both sides of a place is cut there. -/
theorem uncut_eq_false {l : List (List Nat)} {n i : Nat} (whole : i ∈ wholeLines l.flatten) (before : i ∈ linesOf (l.take n).flatten)
    (behind : i ∈ linesOf (l.drop n).flatten) : uncut l n = false := by
  refine List.all_eq_false.2 ⟨i, whole, ?_⟩
  simp only [List.contains_iff_mem.2 before, List.contains_iff_mem.2 behind, Bool.and_self, Bool.not_true, Bool.false_eq_true,
    not_false_eq_true]

theorem mem_linesOf {i : Nat} {keys : List Nat} : i ∈ linesOf keys ↔ ∃ k ∈ keys, lineOf k = i := by
  simp only [linesOf, List.mem_eraseDups, List.mem_map]

theorem mem_wholeLines {i : Nat} {keys : List Nat} (h : ∀ j < 128, 128 * i + j ∈ keys) : i ∈ wholeLines keys := by
  refine List.mem_filter.2 ⟨mem_linesOf.2 ⟨128 * i + 0, h 0 (by decide), by unfold lineOf; omega⟩, ?_⟩
  exact List.all_eq_true.2 fun j hj => List.contains_iff_mem.2 (h j (List.mem_range.1 hj))

/-- The keys of `n` bytes that follow one another through a scratchpad line again and again. -/
def roundKeys (n : Nat) : List (List Nat) := (List.range n).map fun i => [localKey + i % 128]

theorem mem_roundKeys_take {n m i : Nat} (below : i < m) (h : i < n) : localKey + i % 128 ∈ ((roundKeys n).take m).flatten := by
  simp only [roundKeys, ← List.map_take, List.take_range, List.mem_flatten, List.mem_map, List.mem_range]
  exact ⟨_, ⟨i, by omega, rfl⟩, List.mem_singleton_self _⟩

theorem mem_roundKeys_drop {n m i : Nat} (above : m ≤ i) (h : i < n) : localKey + i % 128 ∈ ((roundKeys n).drop m).flatten := by
  refine List.mem_flatten.2 ⟨[localKey + i % 128], List.mem_drop_iff_getElem.2 ⟨i - m, ?_, ?_⟩, List.mem_singleton_self _⟩
  · simp only [roundKeys, List.length_map, List.length_range]
    omega
  · simp only [roundKeys, List.getElem_map, List.getElem_range, Nat.add_sub_cancel' above]

theorem lineOf_localKey (i : Nat) : lineOf (localKey + i % 128) = 2 ^ 53 := by
  unfold lineOf localKey
  omega

theorem chunkLen_roundKeys {n : Nat} (h : 128 ≤ n) (v : Nat) : chunkLen (roundKeys n) v = n := by
  have len : (roundKeys n).length = n := by simp only [roundKeys, List.length_map, List.length_range]
  refine (chunkLen_of_cut (fun m pos less => ?_) v).trans len
  rw [len] at less
  refine uncut_eq_false (i := 2 ^ 53) (mem_wholeLines fun j hj => ?_)
    (mem_linesOf.2 ⟨_, mem_roundKeys_take pos (by omega), lineOf_localKey 0⟩)
    (mem_linesOf.2 ⟨_, mem_roundKeys_drop (i := n - 1) (by omega) (by omega), lineOf_localKey _⟩)
  have key : 128 * 2 ^ 53 + j = localKey + j % 128 := by
    unfold localKey
    omega
  rw [key, ← List.take_of_length_le (l := roundKeys n) (i := n) (Nat.le_of_eq len)]
  exact mem_roundKeys_take (by omega) (by omega)

/-! ### Moves within a scratchpad -/

/-- A state without a poisoned line has no poisoned byte. -/
theorem State.poisoned_of_clean {s : State} (clean : s.poison = []) (k : Nat) : s.poisoned k = false := by
  simp only [State.poisoned, clean, sget]

/-- Elements of a local tensor are read without change of the state. -/
theorem State.readElems_local {s : State} {d : Tensor} (loc : d.loc = true) (e : Via) (js : List (Nat × Nat × Nat)) :
    ∃ l, s.readElems e [] d js = (s, .ok l) := by
  induction js with
  | nil => exact ⟨_, rfl⟩
  | cons j js ih =>
    obtain ⟨l, hl⟩ := ih
    by_cases out : d.excludes j = true
    · exact ⟨_, by simp only [State.readElems, out, if_true, hl]; rfl⟩
    · have unread (ks : List Nat) : (ks.any fun k => (sget (none : Option Byte) [] k).isSome) = false := by simp [sget]
      exact ⟨_, by
        simp only [State.readElems, out, State.viaSeen, State.viaXl, loc, if_true, unread, Bool.false_eq_true, if_false, hl]; rfl⟩

section
variable {m : Move} (op : m.op = 1)
include op

theorem Move.at_copy (t : Tile) (i : Nat) : m.at_ t i =
    .ok (if m.tr then ((m.dst.split i).2.1, (m.dst.split i).1, (m.dst.split i).2.2) else m.dst.split i, m.dst.split i) := by
  simp only [Move.at_, op, if_true]

variable (src : m.src.loc = true) (dst : m.dst.loc = true)
include src dst

/-- A copy within a scratchpad gathers its next unit, whose keys are local, without change of the state. -/
theorem State.gather_local_succ (s : State) (e : Via) (scale n u : Nat) (g : List MoveUnit) : ∃ y : MoveUnit,
    s.gather e m [] scale (n + 1) u g = s.gather e m [] scale n (u + 1) (g ++ [y]) ∧
      y.keys = (List.range m.unitBytes).map (localKey + (m.dst.place (m.dst.split (u * m.unitElems))).1 + ·) := by
  obtain ⟨l, hl⟩ := State.readElems_local (s := s) src e
    ((List.range m.unitElems).filterMap fun i => match m.at_ (s.tile e.tile) (u * m.unitElems + i) with
      | .ok (sj, _) => some sj
      | .error _ => none)
  exact ⟨_, by
    simp only [State.gather, Move.at_copy op] at hl ⊢
    simp only [hl, State.viaXl, dst, if_true]
    rfl, rfl⟩

/-- A copy within a scratchpad gathers every unit, all their keys being local. -/
theorem State.gather_local (s : State) (e : Via) (scale n u : Nat) (g : List MoveUnit)
    (here : ∀ k ∈ g.flatMap (·.keys), localKey ≤ k) : ∃ gt, s.gather e m [] scale n u g = (s, .done gt) ∧
      (∀ k ∈ gt.flatMap (·.keys), localKey ≤ k) ∧
      (gt.flatMap (·.keys)).length = (g.flatMap (·.keys)).length + n * m.unitBytes := by
  induction n generalizing u g with
  | zero => exact ⟨g, rfl, here, by omega⟩
  | succ n ih =>
    obtain ⟨y, step, keys⟩ := State.gather_local_succ op src dst s e scale n u g
    have all : (g ++ [y]).flatMap (·.keys) = g.flatMap (·.keys) ++ y.keys := by simp
    obtain ⟨gt, done, locals, len⟩ := ih (u + 1) (g ++ [y]) (by
      rw [all, keys]
      intro k hk
      obtain hk | hk := List.mem_append.1 hk
      · exact here k hk
      · obtain ⟨i, -, rfl⟩ := List.mem_map.1 hk
        omega)
    refine ⟨gt, step.trans done, locals, ?_⟩
    rw [len, all, keys, List.length_append, List.length_map, List.length_range, Nat.succ_mul]
    omega

end

theorem keyLines_of_local {keys : List Nat} (h : ∀ k ∈ keys, localKey ≤ k) : keyLines keys = [] := by
  have none_below : keys.filter (fun q => decide (q < localKey)) = [] :=
    List.filter_eq_nil_iff.2 fun k hk => by simpa using h k hk
  rw [keyLines, none_below]
  rfl

theorem State.partialPoison_of_clean {s : State} (clean : s.poison = []) (g : List MoveUnit) : s.partialPoison g = none := by
  have found (whole : List Nat) :
      (g.find? fun u => u.keys.any fun k => s.poisoned k && !whole.contains (lineOf k)) = none := by
    simp [State.poisoned_of_clean clean]
  rw [State.partialPoison, found]
  rfl

/-! ### A copy of 33 rows onto one line -/

/-- 33 rows of 128 bytes of scratchpad, every row at address 0. -/
def stacked : Tensor := { loc := true, fmt := 9, n0 := 128, n1 := 33, n2 := 1 }

/-- The copy of these rows onto themselves. -/
def stackedMove : Move := { src := stacked, dst := stacked }

/-- The CPY that asks for it by the descriptor at local address 0, with 8,192 bytes left of the transfer under way. -/
def stackedCmd : Cmd := { eng := .copy 0 0, w := 0x01000000, started := true, scale := some 127, left := 8192 }

/-- The region of its issuer, with the 17 credits that 4,224 bytes cost. -/
def stackedRegion : Region := { actors := [(0, some { locL := 1024 })], credit := 17 }

/-- The package in which copy engine 0 of die 0 serves it: the scratchpad of tile 0 holds the descriptor. -/
def stackedState : State :=
  { regions := [(0, some stackedRegion)], cmds := [stackedCmd]
    tiles := [(0, { spad := [(8, 0x49), (16, 0x80), (20, 33), (24, 1)] })] }

theorem stacked_place (e : Nat) : (stacked.place (stacked.split e)).1 = e % 128 := by
  show (((0 : Int) + (e % 128 * 8 / 8 : Nat) + (e / 128 % 33 : Nat) * 0 + (e / 128 / 33 : Nat) * 0) % (2 ^ 64 : Nat)).toNat = _
  omega

theorem destKeys_stacked (s : State) (e : Via) (n : Nat) : s.destKeys e stackedMove 0 n = roundKeys n := by
  unfold State.destKeys roundKeys
  refine List.map_congr_left fun i _ => ?_
  have unit : stackedMove.unitBytes = 1 := rfl
  have elems : stackedMove.unitElems = 1 := rfl
  simp only [Move.at_copy (m := stackedMove) rfl, State.viaXl, unit, elems, Nat.zero_add, Nat.mul_one]
  show (List.range 1).map (localKey + (stacked.place (stacked.split i)).1 + ·) = _
  rw [stacked_place]
  rfl

/-- The engine's next turn moves all 4,224 bytes. -/
theorem moveChunk_stacked (s : State) (e : Via) : s.moveChunk e stackedMove stackedCmd = 4224 := by
  show chunkLen (s.destKeys e stackedMove 0 4224) _ = 4224
  rw [destKeys_stacked, chunkLen_roundKeys (by decide)]

/-- Refutes O29 in its clause on a turn of a move, which bounds the turn by 4 KiB whatever the command says is left of its
transfer: the copy of 33 rows onto one line moves 4,224 bytes at once when 8,192 are left. -/
theorem not_moveAndReduceCommands : ¬ Obligations.MoveAndReduceCommands := by
  unfold Obligations.MoveAndReduceCommands
  rintro ⟨moves, -⟩
  obtain ⟨-, -, turn, -, -⟩ := (moves stackedState 0 0 0 stackedCmd stackedRegion { locL := 1024 } _ _ (.cpy 0 0)
    List.mem_cons_self rfl rfl rfl rfl (rfl : _ = some (_, Command.cpy false false 0 0 none)) rfl).1 stackedMove rfl
  obtain ⟨gt, done, locals, len⟩ := State.gather_local (m := stackedMove) rfl rfl rfl stackedState.free.2
    (stackedState.viaOf stackedCmd 0) 127 4224 0 [] (by simp)
  have bytes : (gt.flatMap (·.keys)).length = 4224 := len
  have charge : stackedState.free.2.chargeBytes 0 0 4224 =
    some (stackedState.free.2.setRegion 0 { stackedRegion with credit := 0 }) := rfl
  have bound := (turn 127 _ _ gt rfl rfl (by decide) rfl (by rw [moveChunk_stacked]; exact done)
    (State.partialPoison_of_clean rfl gt) (by rw [bytes]; exact charge) (by rw [keyLines_of_local locals]; rfl)).1
  rw [moveChunk_stacked] at bound
  exact absurd bound (by decide)

end Sys2Proof.Machine

namespace Sys2Proof.Machine

open Sys2Proof.Safety

/-! ## Traps and the return from them (R44, R217 to R220, R349) -/

/-! ### TSTAT's fields as its bits (R49) -/

theorem tstatOf_enter_graph (cls : BitVec 2) : tstatOf false cls true false false = 0b001000 ||| (cls.setWidth 6 <<< 1) := by
  decide +revert

theorem tstatOf_enter_sys (t : BitVec 6) : tstatOf true 3 true (t.getLsbD 4) false = 0b001111 ||| (t &&& 0b010000) := by
  decide +revert

theorem tstatOf_leave (t : BitVec 6) :
    tstatOf (t.getLsbD 0) (t.extractLsb' 1 2) false (t.getLsbD 4) false = t &&& 0b010111 := by
  decide +revert

/-! ### Entry to the handler, by mode -/

theorem Core.enter_of_graph {c : Core} (graph : c.sys = false) (code : BitVec 8) (v : Dw) : c.enter code v =
    { c with
      tcause := code, tepc := c.pc, tval := v, tstat := 0b001000 ||| (c.cls.setWidth 6 <<< 1), sys := true, pc := c.tvec
      firing := c.firing.map fun f => { f with cls := 3, over6 := f.over6 || decide (code = 6) } } := by
  rw [← tstatOf_enter_graph, Core.enter, graph]
  rfl

theorem Core.enter_of_sys {c : Core} (sys : c.sys = true) (code : BitVec 8) (v : Dw) : c.enter code v =
    { c with
      tcause := code, tepc := c.pc, tval := v, tstat := 0b001111 ||| (c.tstat &&& 0b010000), sys := true, pc := c.tvec
      firing := c.firing.map fun f => { f with cls := 3, over6 := f.over6 || decide (code = 6) } } := by
  rw [← tstatOf_enter_sys, Core.enter, sys]
  rfl

/-- A trap in a handler is a double trap. -/
theorem State.takeTrap_double {s : State} (sys : s.core.sys = true) (handling : s.core.inHandler = true) (code : BitVec 8)
    (v : Dw) : s.takeTrap code v = s.fatalHere 0x51 (packDw [(code.toNat, 0), (s.core.pc.toNat, 32)]) 0 := by
  rw [State.takeTrap, sys, handling]
  rfl

/-- A trap in graph mode without a handler ends the launch with what the handler would have been given. -/
theorem State.takeTrap_unhandled {s : State} (graph : s.core.sys = false) (bare : (s.tile s.focus).hasHandler = false)
    (code : BitVec 8) (v : Dw) : ∃ e : ErrRec, e.code = 0x5A ∧ e.cause = code.toNat ∧ e.tile = s.focus ∧ e.tepc = s.core.pc ∧
      e.tval = v ∧ s.takeTrap code v = s.fatalIn s.runner.1 e := by
  simp only [State.takeTrap, graph, bare]
  exact ⟨_, rfl, rfl, rfl, rfl, rfl, rfl⟩

theorem exec_handlerLimitExceeded {s : State} {f : Firing} (hf : s.firing = some f) : exec .handlerLimitExceeded s =
    .next (s.fatalHere 0x59 (s.core.pc.setWidth 64) (BitVec.ofNat 64 f.hcount)) := by
  show Host.Outcome.next (s.fatalHere 0x59 s.core.pcDw (BitVec.ofNat 64 ((s.firing.map (·.hcount)).getD 0))) = _
  rw [hf]
  rfl

/-- Settles O24: the instructions and limits are `State.takeTrap` and record 0x59, and taking a trap enters the handler or ends
the launch by the mode, TSTAT[3] and the handler. -/
theorem traps : Obligations.Traps := by
  refine ⟨fun s c f hf => ⟨rfl, rfl, rfl, exec_handlerLimitExceeded hf⟩,
    fun s code v => ⟨fun graph handler => ?_, fun sys outside => ?_, fun sys handling => ?_, fun graph bare => ?_⟩⟩
  · rw [s.takeTrap_enters code v (.inl graph) (.inr handler), Core.enter_of_graph graph]
  · rw [s.takeTrap_enters code v (.inr outside) (.inl sys), Core.enter_of_sys sys]
  · exact State.takeTrap_double sys handling code v
  · exact State.takeTrap_unhandled graph bare code v

/-! ### ERET -/

theorem Core.leave_eq (c : Core) : c.leave =
    { c with
      sys := c.tstat.getLsbD 0, pc := c.tepc, tstat := c.tstat &&& 0b010111
      firing := c.firing.map fun f => { f with cls := if c.tstat.getLsbD 0 then 3 else c.tstat.extractLsb' 1 2 } } := by
  rw [← tstatOf_leave]
  rfl

theorem exec_eret (s : State) : exec .eret s =
    if s.core.sys then (if !s.core.tMode && s.core.mxSaved then .next (s.fatalHere 0x53 0 0) else .next (s.setCore s.core.leave))
    else privileged s := by
  show execEret s = _
  dsimp only [execEret]
  cases s.core.sys <;> rfl

/-- Settles O25: ERET branches on the mode, then on a return to graph mode with the matrix state still put aside. -/
theorem trapReturn : Obligations.TrapReturn := by
  refine fun s => ⟨fun graph => ?_, fun sys toGraph saved => ?_, fun sys free => ?_⟩
  · rw [exec_eret, graph]
    rfl
  · rw [exec_eret, sys, Core.tMode, toGraph, Core.mxSaved, saved]
    rfl
  · have goes : (!s.core.tMode && s.core.mxSaved) = false := by
      rcases free with mode | saved
      · rw [Core.tMode, mode]
        rfl
      · rw [Core.mxSaved, saved, Bool.and_false]
    rw [exec_eret, sys, goes, Core.leave_eq]
    rfl

end Sys2Proof.Machine

namespace Sys2Proof.Machine

open Sys2Proof.Safety

/-! ## MXREST while a follow-on command is on its way (R222, R392)

MXREST waits for the command input to be idle, so that the matrix commands of the handler have completed before it reads. The
obligation names what stands at the input and in the batches, but not a follow-on command that a copy engine still holds for the
matrix actor (R340, R341); MXREST waits for it as well. -/

/-- A copy engine holds a follow-on command of an issuer for a matrix actor of its region. -/
def State.followsTo (s : State) (r : Nat) (g : Region) (a : Nat) : Bool :=
  s.follows.any fun f => decide (f.region = r) && decide (f.issuer = a) && ((g.actor f.actor).map (·.isMatrix)).getD false

/-- MXREST in a handler that has put its matrix state aside waits for such a command, and the wait is not counted. -/
theorem exec_mxrest_waits {s : State} {g : Region} {x : Actor} (hg : s.region s.runner.1 = some g)
    (hx : s.actor s.runner.1 s.runner.2 = some x) (sys : s.core.sys = true) (saved : s.core.mxSaved = true)
    (coming : s.followsTo s.runner.1 g s.runner.2 = true) :
    exec .mxrest s = .next (s.modFiring fun f => { f with hcount := f.hcount - 1 }) := by
  have waits : (g.matrixBusy s.runner.2 || s.followsTo s.runner.1 g s.runner.2) = true := by rw [coming, Bool.or_true]
  show execMxrest s = _
  unfold execMxrest
  simp only [sys, saved, hg, hx]
  exact if_pos waits

/-- A task actor and a matrix actor. -/
def followedRegion : Region := { actors := [(0, some {}), (1, some { body := .matrix [] })], launch := some {} }

/-- Actor 0 is in a handler with its matrix state put aside and nothing held, and a copy engine holds a follow-on command of it for
the matrix actor. -/
def followedState : State :=
  { regions := [(0, some followedRegion)], follows := [{ region := 0, actor := 1, issuer := 0 }]
    tiles := [(0, { core := { sys := true, tstat := 0b011000, firing := some { region := 0, actor := 0 } } })] }

/-- Refutes O28 in its last clause: MXREST waits at its pc for the follow-on command that a copy engine holds. -/
theorem not_matrixState : ¬ Obligations.MatrixState := by
  intro h
  obtain ⟨-, -, -, restores⟩ := h followedState followedRegion {} rfl rfl
  have clears := restores rfl rfl (by decide) rfl rfl
  rw [exec_mxrest_waits rfl rfl rfl rfl (by decide)] at clears
  injection clears with same
  exact absurd (congrArg (fun t : State => t.core.pc) same) (by decide)

end Sys2Proof.Machine

namespace Sys2Proof.Machine

open Sys2Proof.Safety

/-! ## Cuts (R215, R227, R229, R230, R253, R363, R386) -/

/-! ### A request -/

section
variable {s : State} {r n : Nat} {g : Region} {v : Word} (hg : s.region r = some g) (key : r = regionKey n (v.toNat % 65536))
  (admitted : s.pageAdmits n = true) (ready : (s.slice n).cutstat.toNat % 4 ≠ 1)
include hg key admitted ready

/-- A request for a region with a running launch and no cut begins one. -/
theorem exec_cutreqWrite_begins (uncut : g.cutBy = none) (unwaited : g.cutWait = none) (running : g.launch ≠ none) :
    exec (.cutreqWrite n v) s = .next ((s.setSlice n { s.slice n with
      cutreq := v, cutstat := BitVec.ofNat 32 (65536 * (v.toNat % 65536) + 1) }).beginCut r (.host n)) := by
  subst key
  have launched : g.launch.isNone = false := Option.isNone_eq_false_iff.2 (Option.isSome_iff_ne_none.2 running)
  show Host.Outcome.next (if s.pageAdmits n then s.cutRequest n v else s) = _
  simp only [admitted, if_true, State.cutRequest, ready, if_false, hg, launched, uncut, unwaited, Option.isSome_none, Bool.or_self,
    Bool.false_eq_true]

/-- A request for a region without a launch is refused in CUTSTAT. -/
theorem exec_cutreqWrite_refused (noLaunch : g.launch = none) : exec (.cutreqWrite n v) s =
    .next (s.setSlice n { s.slice n with cutreq := v, cutstat := BitVec.ofNat 32 (65536 * (v.toNat % 65536) + 3) }) := by
  subst key
  show Host.Outcome.next (if s.pageAdmits n then s.cutRequest n v else s) = _
  simp only [admitted, if_true, State.cutRequest, ready, if_false, hg, noLaunch, Option.isNone_none]

end

/-! ### FINISH and RECORD -/

section
variable {s : State} {r a p : Nat} {g : Region} {x : Actor} (hg : s.region r = some g)
include hg

/-- A solstice at the head of an input closes it, but for an input whose next token is still to be applied and the ingress port. -/
theorem State.solstice_closes {t : Token} (ha : a < 2 ^ 40) (hx : g.actor a = some x) (cut : g.cutBy ≠ none) (hp : p < 2 ^ 16)
    (head : x.head p = some t) (sol : t.kind = 6) (applied : p = 0 → x.abacus.bind x.configNext = none)
    (inner : g.ingress ≠ some (a, p)) : s.solstice r a p = some (((s.modActor r a fun x =>
      x.setPort p { x.port p with q := (x.port p).q.drop 1, closed := true, exp := t.seq }).enterFinish r a).settleCut r) := by
  have cutting : g.cutBy.isNone = false := Option.isNone_eq_false_iff.2 (Option.isSome_iff_ne_none.2 cut)
  have port : p ≠ extraPort ∧ p ≠ enablePort := by unfold extraPort enablePort; omega
  have taken : (decide (p = 0) && (x.abacus.bind x.configNext).isSome) = false := by
    by_cases first : p = 0
    · rw [applied first, Option.isSome_none, Bool.and_false]
    · rw [decide_eq_false first, Bool.false_and]
  simp only [State.solstice, Nat.not_le.2 ha, hg, hx, cutting, port, head, sol, taken, inner, if_false, List.append_nil, ne_eq,
    not_true_eq_false, decide_false, Bool.or_self, Bool.false_eq_true]
  rfl

/-- An actor in FINISH with nothing in progress writes its entry, sends its solstices and goes to RECORD. -/
theorem State.saveActor_saves {u : State} (hx : g.actor a = some x) (finish : x.cut = .finish) (idle : s.idle r a x = true)
    (written : s.writeEntry r g a { x.recordWaiting with cut := .record } = .ok u) : s.saveActor r a =
      some ((if x.recordWaiting.recd = [] then (u.forward r a).modActor r a fun x => { x.recordWaiting with cut := .record }
        else State.orFault ((u.forward r a).modActor r a fun x => { x.recordWaiting with cut := .record }) r a
          (State.writeRecorded ((u.forward r a).modActor r a fun x => { x.recordWaiting with cut := .record }) g a
            { x.recordWaiting with cut := .record })).settleCut r) := by
  simp only [State.saveActor, hg, hx, finish, idle, written, ne_eq, not_true_eq_false, Bool.not_true, Bool.false_eq_true, or_self,
    if_false]

/-- An actor in RECORD takes the next token of an open input into its entry. -/
theorem State.record_takes {t : Token} {l : List Token} (ha : a < 2 ^ 40) (hx : g.actor a = some x) (recording : x.cut = .record)
    (hp : p < 2 ^ 16) (queue : (x.port p).q = t :: l) (other : t.kind ≠ 6) (opened : (x.port p).closed = false) :
    let y := x.setPort p { x.port p with
      q := l, credits := if (x.port p).resp.isSome then (x.port p).credits - 1 else (x.port p).credits }
    let z : Actor := { y with recd := y.recd ++ [{ port := p, response := (x.port p).resp.isSome, tok := t }] }
    let s1 := s.modActor r a fun _ => z
    s.record r a p = some ((s1.orFault r a (s1.writeRecorded g a z)).settleCut r) := by
  have port : p ≠ enablePort := by unfold enablePort; omega
  simp only [State.record, Nat.not_le.2 ha, hg, hx, recording, port, queue, other, opened, if_false, ne_eq, not_true_eq_false,
    Bool.false_eq_true, or_self]

end

/-! ### The snapshot -/

/-- A cut whose actors, controllers, commands, stores and sessions have all finished writes the snapshot; the region is freed and
its launch waits to resume. -/
theorem State.snapshot_saves {s u : State} {r : Nat} {g : Region} {l : Launch} (hg : s.region r = some g) (cut : g.cutBy ≠ none)
    (shown : s.displayDone r = true) (reported : g.allCut = true) (commands : s.commandsRecorded r g = true)
    (stores : s.storesDone r = true) (written : s.writeSnapshot { g with cuts := g.cuts + 1 } = .ok u)
    (resumes : g.haltInCut = false) (hl : g.launch = some l) :
    let g1 : Region := { g with cuts := g.cuts + 1 }
    s.snapshot r = some ((((((u.setRegion r { g1 with cutBy := none }).cutOver g1 true).keep r { g1 with cutBy := none }).dropPorts
      r).unplace r).modSlice g.slice fun n =>
        { n with waiting := n.waiting ++ [{ launch := l, saved := some (g.ctxb, g.num), stamp := l.order }] }) := by
  have cutting : g.cutBy.isNone = false := Option.isNone_eq_false_iff.2 (Option.isSome_iff_ne_none.2 cut)
  simp only [State.snapshot, hg, cutting, shown, reported, commands, stores, written, Bool.not_true,
    Bool.or_self, Bool.false_eq_true, if_false]
  simp only [resumes, hl, Bool.false_eq_true, if_false]

/-! ## Checkpoints (R235, R236) -/

section
variable {s : State} {base : Nat} (quiet : s.quiet = true) (safe : s.safeTier base = true)
include quiet safe

/-- With no copy under way one is begun with its 96 parts. -/
theorem State.packageCopy_begins (idle : s.ckpt = none) (back : Bool) : s.packageCopy base back = some { s with
    ckpt := some { base := base, back := back, parts := List.range 96, lacks := s.fitted }, ckptDone := false, ckptBad := [] } := by
  simp only [State.packageCopy, quiet, safe, idle, Bool.not_true, Bool.or_self, Bool.false_eq_true, if_false]

/-- A copy under way copies one of the parts that are left, and counts its bytes. -/
theorem State.packageCopy_part {c : PackageCopy} {back : Bool} (hc : s.ckpt = some c) (same : c.base = base) (left : c.parts ≠ [])
    (way : c.back = back) : ∃ i ∈ c.parts, s.packageCopy base back = some
      { (if back then { s with fresh := s.fresh + 1 }.partBack base i else { s with fresh := s.fresh + 1 }.partOut base i) with
        ckpt := some { c with parts := c.parts.erase i, lacks := c.lacks - (partSpan s.fitted i).2 } } := by
  have pos : s.free.1.toNat % c.parts.length < c.parts.length := Nat.mod_lt _ (List.length_pos_iff.2 left)
  have served : ¬ (c.base ≠ base ∨ c.back ≠ back ∨ c.parts = []) := by
    rintro (base' | back' | noParts)
    · exact base' same
    · exact back' way
    · exact left noParts
  refine ⟨c.parts.getD (s.free.1.toNat % c.parts.length) 0, ?_, ?_⟩
  · rw [List.getD_eq_getElem?_getD, List.getElem?_eq_getElem pos]
    exact List.getElem_mem pos
  · simp only [State.packageCopy, quiet, safe, hc, Bool.not_true, Bool.or_self, Bool.false_eq_true, if_false]
    rw [if_neg served]
    cases back <;> rfl

end

theorem exec_checkpointCopyDone {s : State} {c : PackageCopy} (hc : s.ckpt = some c) : exec .checkpointCopyDone s =
    .next (if c.lacks = 0 then { s with ckpt := none, ckptDone := true } else s) := by
  show occur s (s.ckpt.bind _) = _
  rw [hc, Option.bind_some]
  split <;> rfl

/-- 96 parts of `partBytes` bytes reach the end of device memory. -/
theorem fitted_le_parts (fitted : Nat) : fitted ≤ 96 * partBytes fitted := by
  unfold partBytes
  omega

/-- Every byte of device memory lies in the part of its quotient. -/
theorem mem_partSpan {fitted pa : Nat} (h : pa < fitted) :
    ∃ i, i < 96 ∧ (partSpan fitted i).1 ≤ pa ∧ pa < (partSpan fitted i).1 + (partSpan fitted i).2 := by
  have reach := fitted_le_parts fitted
  have pos : 0 < partBytes fitted := by omega
  have below : pa / partBytes fitted < 96 := (Nat.div_lt_iff_lt_mul pos).2 (by omega)
  have start := Nat.div_mul_le_self pa (partBytes fitted)
  have stop := Nat.lt_div_mul_add (a := pa) pos
  refine ⟨pa / partBytes fitted, below, start, ?_⟩
  show pa < pa / partBytes fitted * partBytes fitted + min (partBytes fitted) (fitted - pa / partBytes fitted * partBytes fitted)
  omega

/-- Settles O47: each event of a cut is the step that the lemmas above single out, and the parts of a checkpoint cover device
memory. -/
theorem cutsAndCheckpoints : Obligations.CutsAndCheckpoints := by
  refine ⟨fun s r a p g v hg => ⟨?_, ?_, ?_, ?_, ?_⟩, fun s base => ⟨?_, ?_, ?_, ?_⟩⟩
  · intro n asked key admitted ready uncut unwaited
    exact ⟨exec_cutreqWrite_begins hg key admitted ready uncut unwaited, exec_cutreqWrite_refused hg key admitted ready⟩
  · intro x t ha hx cut hp head sol applied inner
    exact exec_becomes rfl (State.solstice_closes hg ha hx cut hp head sol applied inner)
  · intro x u hx finish idle y written v
    exact exec_becomes rfl (State.saveActor_saves hg hx finish idle written)
  · intro x t l ha hx recording hp queue other opened
    exact exec_becomes rfl (State.record_takes hg ha hx recording hp queue other opened)
  · intro u l cut shown reported commands stores g1 written resumes hl
    exact exec_becomes rfl (State.snapshot_saves hg cut shown reported commands stores written resumes hl)
  · intro quiet safe idle
    have begun := State.packageCopy_begins quiet safe idle
    exact ⟨congrArg (occur s) (begun false), congrArg (occur s) (begun true)⟩
  · intro c quiet safe hc same left
    refine ⟨fun out => ?_, fun back => ?_⟩
    · obtain ⟨i, mem, step⟩ := State.packageCopy_part quiet safe hc same left out
      exact ⟨i, mem, congrArg (occur s) step⟩
    · obtain ⟨i, mem, step⟩ := State.packageCopy_part quiet safe hc same left back
      exact ⟨i, mem, congrArg (occur s) step⟩
  · intro c hc
    exact ⟨fun done => (exec_checkpointCopyDone hc).trans (by rw [if_pos done]),
      fun lacking => (exec_checkpointCopyDone hc).trans (by rw [if_neg lacking])⟩
  · exact fun pa h => mem_partSpan h

end Sys2Proof.Machine

namespace Sys2Proof.Machine

open Sys2Proof.Safety

/-! ## The connection table, links, and Equinox time and trust (R167, R168, R242 to R251, R255)

Each event is an update under a guard; a lemma below says what the update is under the guard, and the obligation takes its clauses
from them. -/

/-- An event that occurs under a condition changes the state under it alone. -/
theorem occur_ite (c : Prop) [Decidable c] (s t : State) : occur s (if c then some t else none) = .next (if c then t else s) := by
  split <;> rfl

theorem occur_if_pos {c : Prop} [Decidable c] {s t : State} (h : c) : occur s (if c then some t else none) = .next t :=
  (occur_ite c s t).trans (congrArg _ (if_pos h))

/-! ### The connection table (R242, R243) -/

section
variable {s : State} {e : Nat} {v : Dw} (below : e < 256) (admitted : s.mgmtAdmits = true)
  (oldOpen : entV (s.entry e) = true → s.frozenDie (entA (s.entry e)) = false ∧ s.frozenDie (entB (s.entry e)) = false)
  (newOpen : entV v = true → s.frozenDie (entA v) = false ∧ s.frozenDie (entB v) = false)

include below admitted in
theorem exec_connectionEntryWrite : exec (.connectionEntryWrite e v) s = .next (s.writeEntry' e v) :=
  congrArg Host.Outcome.next (if_pos ⟨below, admitted⟩)

theorem exec_connectionEntryWrite_shut (shut : s.mgmtAdmits = false) : exec (.connectionEntryWrite e v) s = .next s :=
  congrArg Host.Outcome.next (if_neg fun h => Bool.false_ne_true (shut.symm.trans h.2))

/-- An entry whose dies' slices are open, where it is valid, is not frozen. -/
theorem State.entry_open {w : Dw} (h : entV w = true → s.frozenDie (entA w) = false ∧ s.frozenDie (entB w) = false) :
    (entV w && (s.frozenDie (entA w) || s.frozenDie (entB w))) = false := by
  cases hv : entV w with
  | false => rfl
  | true =>
    obtain ⟨a, b⟩ := h hv
    rw [a, b]
    rfl

include oldOpen newOpen

theorem State.writeEntry'_installs (sets : entV v = true) (fits : s.refuseEntry e v = none) : s.writeEntry' e v =
    { s.setEntry e (v &&& 0xBFFFFFFFFFFFFFFF) with draining := sset false s.draining e false } := by
  simp only [State.writeEntry', State.entry_open oldOpen, State.entry_open newOpen, Bool.or_self, Bool.false_eq_true, if_false]
  simp only [sets, fits, if_true]

theorem State.writeEntry'_refuses (sets : entV v = true) {why : Nat} (refused : s.refuseEntry e v = some why) :
    s.writeEntry' e v = s.refuseCircuit e why := by
  simp only [State.writeEntry', State.entry_open oldOpen, State.entry_open newOpen, Bool.or_self, Bool.false_eq_true, if_false]
  simp only [sets, refused, if_true]

theorem State.writeEntry'_clears (clears : entV v = false) (inUse : entV (s.entry e) = true) : s.writeEntry' e v =
    if s.circuitUsed e (s.entry e) then s.refuseCircuit e 6
    else if entBulk (s.entry e) then
      { s.setEntry e (s.entry e &&& 0xBFFFFFFFFFFFFFFF) with draining := sset false s.draining e true }
    else s.setEntry e (v &&& 0x3FFEE00000000000) := by
  simp only [State.writeEntry', State.entry_open oldOpen, State.entry_open newOpen, Bool.or_self, Bool.false_eq_true, if_false]
  simp only [clears, inUse, Bool.not_true, Bool.false_eq_true, if_false]

end

theorem exec_circuitCalibrated {s : State} {e : Nat} (valid : entV (s.entry e) = true) (uncalibrated : entRdy (s.entry e) = false)
    (kept : sget false s.draining e = false) :
    exec (.circuitCalibrated e) s = .next (s.setEntry e (s.entry e ||| 0x4000000000000000)) :=
  occur_if_pos (by rw [valid, uncalibrated, kept]; rfl)

theorem exec_bulkCircuitDrain {s : State} {e : Nat} (drains : sget false s.draining e = true) : exec (.bulkCircuitDrain e) s =
    .next { s.setEntry e (s.entry e &&& 0x7FFFFFFFFFFFFFFF) with draining := sset false s.draining e false } :=
  occur_if_pos drains

theorem exec_ctstatWrite (s : State) (w : Word) : exec (.ctstatWrite w) s =
    .next (if w.getLsbD 31 = true ∧ s.mgmtAdmits = true then { s with ctSticky := false } else s) := by
  show Host.Outcome.next (if (w.getLsbD 31 && s.mgmtAdmits) = true then _ else _) = _
  simp only [Bool.and_eq_true]

/-! ### Die edges and sister links (R245, R249, R251) -/

theorem exec_flitReplay {s : State} {e : Nat} (edge : e < 10) : exec (.flitReplay e) s =
    .next { s with replays := sset 0 s.replays e (min 16 (sget 0 s.replays e + 1)) } :=
  congrArg Host.Outcome.next (if_pos edge)

theorem exec_dieEdgeDown {s : State} {e : Nat} (failed : 16 ≤ sget 0 s.replays e) (up : sget false s.edgesDown e = false) :
    let hit := s.regions.filterMap fun g => match g.2 with
      | some v => if s.crossesEdge v e && v.launch.isSome then some g.1 else none
      | none => none
    exec (.dieEdgeDown e) s = .next (hit.foldl
      (fun s r => s.endRegion r (BitVec.ofNat 64 (((edgeBlocks[e]?).map (·.1)).getD 0)) 0)
      { s with edgesDown := sset false s.edgesDown e true }) := by
  have goes : ¬ (sget 0 s.replays e < 16 ∨ sget false s.edgesDown e = true) := by
    rw [up]
    rintro (few | down)
    · omega
    · cases down
  show occur s (s.edgeDown e) = _
  rw [State.edgeDown, if_neg goes]
  rfl

theorem exec_sisterLinkDown {s : State} {k : Nat} (up : (s.link k).up = true) :
    let s1 := s.setLink k { s.link k with cfg := (s.link k).cfg ^^^ 0x100, owed := [] }
    exec (.sisterLinkDown k) s = .next ((s1.linkNumbers k).foldl (fun s n => s.deliverHalf k n)
      ((s1.linkNumbers k).foldl (fun s n => s.failHalf k n) s1)) := by
  show occur s (s.linkDown k) = _
  simp only [State.linkDown, up, Bool.not_true, Bool.false_eq_true, if_false, occur_some]

theorem exec_sisterLinkUp {s : State} {k : Nat} (link : k < 8) (enabled : (s.link k).enabled = true) : exec (.sisterLinkUp k) s =
    .next (s.setLink k { s.link k with cfg := (s.link k).cfg ||| 0x100 }) :=
  congrArg Host.Outcome.next (if_pos ⟨link, enabled⟩)

theorem exec_sisterLinkUp_disabled {s : State} {k : Nat} (disabled : (s.link k).enabled = false) : exec (.sisterLinkUp k) s = .next s :=
  congrArg Host.Outcome.next (if_neg fun h => Bool.false_ne_true (disabled.symm.trans h.2))

section
variable {s : State} {k n : Nat} {tok : List Dw} {sb : BitVec 16} (some_dw : tok ≠ [])
include some_dw

theorem exec_linkChannelToken_disabled (disabled : (s.link k).enabled = false) :
    exec (.linkChannelToken k n tok sb) s = .next s := by
  show occur s (s.linkToken k n tok sb) = _
  simp only [State.linkToken, if_neg some_dw, Link.live, disabled, Bool.false_and, Bool.not_false, Bool.true_or, if_true, occur_none]

theorem exec_linkChannelToken_waits (enabled : (s.link k).enabled = true) (up : (s.link k).up = true) (sister : (s.link k).pkg = false)
    (room : (sget [] (s.link k).recv n).length < 256) : exec (.linkChannelToken k n tok sb) s = .next ((s.setLink k { s.link k with
      recv := sset [] (s.link k).recv n (sget [] (s.link k).recv n ++
        [{ kind := sb.extractLsb' 12 4, seq := sb.extractLsb' 0 12, payload := tok }])
      nexts := sset none (s.link k).nexts n (some (sb.extractLsb' 0 12 + 1)) }).deliverHalf k n) := by
  have full : decide (256 ≤ (sget [] (s.link k).recv n).length) = false := decide_eq_false (Nat.not_le.2 room)
  show occur s (s.linkToken k n tok sb) = _
  simp only [State.linkToken, if_neg some_dw, Link.live, enabled, up, sister, full, Bool.and_self, Bool.not_true, Bool.or_self,
    Bool.false_eq_true, if_false, occur_some]

end

/-! ### Equinox time (R167, R168, R250) -/

theorem exec_equinoxSyncMessage (s : State) (d : Nat) (fwd : Bool) (step : Nat) (eqe : Dw) :
    let off : Int := ((s.die d).eqt - s.ref).toInt
    let c : Int := if fwd then (step : Int) else -(step : Int)
    exec (.equinoxSyncMessage d fwd step eqe) s = .next
      (if (s.die d).locked = true ∧ (s.timeReaches d = true ∧ s.boundOk d eqe = true) ∧ off.natAbs ≤ eqe.toNat ∧
        (off + c).natAbs ≤ eqe.toNat then s.modDie d fun d => { d with eqe := eqe, holdover := 0, slew := c } else s) := by
  show execEquinoxSyncMessage d fwd step eqe s = _
  simp only [execEquinoxSyncMessage, Bool.and_eq_true, decide_eq_true_eq, and_assoc]
  exact occur_ite _ _ _

theorem exec_equinoxLock (s : State) (d : Nat) (eqt eqe : Dw) : exec (.equinoxLock d eqt eqe) s = .next
      (if s.set = true ∧ (s.die d).locked = false ∧ (s.timeReaches d = true ∧ s.boundOk d eqe = true) ∧
        (eqt - s.ref).toInt.natAbs ≤ eqe.toNat then
        s.modDie d fun d => { d with eqt := eqt, eqe := eqe, locked := true, holdover := 0, slew := 0 } else s) := by
  show execEquinoxLock d eqt eqe s = _
  simp only [execEquinoxLock, State.timeOk, Bool.and_eq_true, Bool.not_eq_true', decide_eq_true_eq, and_assoc]
  exact occur_ite _ _ _

/-- A bound that is accepted keeps within 3 ns, alone and with that of each other die that is up to date. -/
theorem State.within_of_boundOk {s : State} {d : Nat} {eqe : Dw} (h : s.boundOk d eqe = true) : eqe.toNat ≤ 192 ∧
    ∀ j, j < 8 → j ≠ d → (s.die j).updated = true → eqe.toNat + (s.die j).eqe.toNat ≤ 192 := by
  simp only [State.boundOk, Bool.and_eq_true, decide_eq_true_eq, List.all_eq_true, List.mem_range, Bool.or_eq_true,
    Bool.not_eq_true'] at h
  obtain ⟨alone, others⟩ := h
  refine ⟨alone, fun j below other updated => ?_⟩
  rcases others j below with (same | stale) | sum
  · exact absurd same other
  · exact absurd (stale.symm.trans updated) Bool.false_ne_true
  · exact sum

theorem State.die_setDie_same (s : State) (d : Nat) (v : Die) (h : swf ({} : Die) s.dies = true) : (s.setDie d v).die d = v :=
  sget_sset_same ({} : Die) v s.dies d h

theorem State.die_setDie_other (s : State) (d n : Nat) (v : Die) (h : swf ({} : Die) s.dies = true) (hn : n ≠ d) :
    (s.setDie d v).die n = s.die n :=
  sget_sset_other ({} : Die) v s.dies d n h hn

/-- What a change makes true of any die is true of every die that the change went through. -/
theorem State.die_foldl_modDie {P : Die → Prop} {f : Die → Die} (makes : ∀ x, P (f x)) (j : Nat) (l : List Nat) (s : State)
    (canon : swf ({} : Die) s.dies = true) (h : j ∈ l ∨ P (s.die j)) : P ((l.foldl (fun s d => s.modDie d f) s).die j) := by
  induction l generalizing s with
  | nil => exact h.resolve_left List.not_mem_nil
  | cons d l ih =>
    refine ih (s.modDie d f) (swf_sset _ _ _ _ canon) ?_
    by_cases same : j = d
    · subst same
      exact .inr (by rw [State.modDie, State.die_setDie_same _ _ _ canon]; exact makes _)
    · rw [State.modDie, State.die_setDie_other _ _ _ _ canon same]
      exact h.imp_left fun mem => (List.mem_cons.1 mem).resolve_left same

/-- A field that each update of a list leaves alone the whole list leaves alone. -/
theorem State.foldl_frame {β γ : Type} (field : State → γ) {f : State → β → State} (hf : ∀ s x, field (f s x) = field s) (l : List β)
    (s : State) : field (l.foldl f s) = field s :=
  List.foldlRecOn (motive := fun u => field u = field s) l f rfl fun u hu x _ => (hf u x).trans hu

/-- Changes of dies leave alone what a change of one die leaves alone. -/
theorem State.foldl_modDie_frame {γ : Type} (field : State → γ) (hf : ∀ s d v, field (s.setDie d v) = field s) (f : Nat → Die → Die)
    (l : List Nat) (s : State) : field (l.foldl (fun s d => s.modDie d (f d)) s) = field s :=
  State.foldl_frame field (fun s d => hf s d _) l s

/-- The reference that a write of TROOT chooses, whose time is a free value where it is neither this package's own nor the last. -/
def State.withRoot (s : State) (v : Word) : State :=
  { s with
    fresh := s.fresh + 1, troot := v &&& 0x3F
    ref := if timeSource v = 0 then s.ioClock else if timeSource v = timeSource s.troot then s.ref else s.free.1 }

/-- A die that has not locked, whose error is unbounded. -/
def Die.unlocked (d : Die) : Die := { d with locked := false, eqe := 0xFFFFFFFFFFFFFFFF }

theorem exec_trootWrite {s : State} (admitted : s.mgmtAdmits = true) (v : Word) : exec (.trootWrite v) s =
    .next ((List.range 8).foldl (fun s d => s.modDie d Die.unlocked) (s.withRoot v)) := by
  have reached : ¬ s.mgmtAdmits = false := by rw [admitted]; exact Bool.noConfusion
  show execTrootWrite v s = _
  rw [execTrootWrite, if_neg reached]
  rfl

theorem exec_trootWrite_shut {s : State} (shut : s.mgmtAdmits = false) (v : Word) : exec (.trootWrite v) s = .next s := by
  show execTrootWrite v s = _
  rw [execTrootWrite, if_pos shut]

/-! ### Trust (R247, R254, R255) -/

theorem exec_ideIntegrityFailure {s : State} {n : Nat} (bound : (s.slice n).tdi = .locked ∨ (s.slice n).tdi = .run) :
    exec (.ideIntegrityFailure n) s =
      .next (((s.modSlice n fun n => { n with tdi := .error }).stopSlice n).remeasure n) :=
  occur_if_pos (by simpa only [Slice.frozen, Bool.or_eq_true, decide_eq_true_eq] using bound)

theorem exec_tdiStateChange (s : State) (n : Nat) (st : TdiState) : exec (.tdiStateChange n st) s =
    if s.recovery = true ∨ (s.slice n).tdi = st then .next s
    else .next ((s.modSlice n fun n => { n with tdi := st }).remeasure n) := rfl

/-- Settles O48: each clause is the update of its event's lemma above, under the guard that its hypotheses meet. -/
theorem connectionsLinksAndTime : Obligations.ConnectionsLinksAndTime := by
  refine ⟨fun s e v w => ⟨fun below admitted oldOpen newOpen => ⟨?_, ?_, ?_, ?_⟩, exec_circuitCalibrated, exec_bulkCircuitDrain, ?_, ?_⟩,
    fun s e k n tok sb => ⟨exec_flitReplay, exec_dieEdgeDown, exec_sisterLinkDown, exec_sisterLinkUp, ?_, exec_linkChannelToken_waits⟩,
    fun s d n fwd step eqt eqe v st => ⟨⟨?_, ?_⟩, ⟨?_, ?_⟩, State.within_of_boundOk, ?_,
      fun shut => exec_trootWrite_shut shut v, exec_ideIntegrityFailure, ?_, ?_⟩⟩
  · intro sets fits
    rw [exec_connectionEntryWrite below admitted, State.writeEntry'_installs oldOpen newOpen sets fits]
  · intro why sets refused
    rw [exec_connectionEntryWrite below admitted, State.writeEntry'_refuses oldOpen newOpen sets refused]
    rfl
  · intro clears inUse used
    rw [exec_connectionEntryWrite below admitted, State.writeEntry'_clears oldOpen newOpen clears inUse, if_pos used]
    rfl
  · intro clears inUse unused bulk
    rw [exec_connectionEntryWrite below admitted, State.writeEntry'_clears oldOpen newOpen clears inUse, unused, if_pos bulk]
    rfl
  · intro admitted
    rw [exec_ctstatWrite, admitted]
    simp only [and_true]
  · intro shut
    refine ⟨exec_connectionEntryWrite_shut shut, ?_⟩
    rw [exec_ctstatWrite, shut]
    simp only [Bool.false_eq_true, and_false, if_false]
  · exact fun disabled => ⟨exec_sisterLinkUp_disabled disabled, fun some_dw => exec_linkChannelToken_disabled some_dw disabled⟩
  · exact fun holds => (exec_equinoxSyncMessage s d fwd step eqe).trans (congrArg _ (if_pos holds))
  · exact fun fails => (exec_equinoxSyncMessage s d fwd step eqe).trans (congrArg _ (if_neg fails))
  · exact fun holds => (exec_equinoxLock s d eqt eqe).trans (congrArg _ (if_pos holds))
  · exact fun fails => (exec_equinoxLock s d eqt eqe).trans (congrArg _ (if_neg fails))
  · exact fun admitted => ⟨_, exec_trootWrite admitted v, State.foldl_modDie_frame State.troot (fun _ _ _ => rfl) _ _ _,
      fun own => (State.foldl_modDie_frame State.ref (fun _ _ _ => rfl) _ _ _).trans (if_pos own),
      fun j canon below => State.die_foldl_modDie (P := fun x => x.locked = false ∧ x.eqe = 0xFFFFFFFFFFFFFFFF)
        (fun _ => ⟨rfl, rfl⟩) j _ (s.withRoot v) canon (.inl (List.mem_range.2 below))⟩
  · exact fun recovery => (exec_tdiStateChange s n st).trans (if_pos (.inl recovery))
  · intro normal changes
    refine (exec_tdiStateChange s n st).trans (if_neg ?_)
    rintro (recovery | same)
    · exact Bool.false_ne_true (normal.symm.trans recovery)
    · exact changes same

end Sys2Proof.Machine

namespace Sys2Proof.Machine

open Sys2Proof.Safety

/-! ## Slices and management registers (R9, R44, R129, R143, R252, R253) -/

/-! ### Slice descriptors -/

section
variable {s : State} {n : Nat} {d : BitVec 128}

theorem exec_sldescWrite (below : n < 8) (admitted : s.mgmtAdmits = true) : exec (.sldescWrite n d) s = .next (s.writeDesc n d) :=
  congrArg Host.Outcome.next (if_pos ⟨below, admitted⟩)

theorem exec_sldescWrite_shut (shut : s.mgmtAdmits = false) : exec (.sldescWrite n d) s = .next s :=
  congrArg Host.Outcome.next (if_neg fun h => Bool.false_ne_true (shut.symm.trans h.2))

variable (unlocked : (s.slice n).frozen = false)
include unlocked

/-- A descriptor of a slice that is not enabled takes effect unless it is refused, and a slice that it enables is measured. -/
theorem State.writeDesc_disabled (off : (s.slice n).on = false) :
    let new : Slice := { s.slice n with desc := d &&& 0xFFFF03FF }
    s.writeDesc n d = if s.refuseDesc n new = true then s
      else if new.on then (s.setSlice n new).remeasure n else s.setSlice n new := by
  simp only [State.writeDesc, unlocked, off, Bool.false_eq_true, if_false]
  rfl

/-- A write that keeps an enabled slice enabled changes nothing. -/
theorem State.writeDesc_keeps (on : (s.slice n).on = true) (keeps : d.getLsbD 8 = true) : s.writeDesc n d = s := by
  simp only [State.writeDesc, unlocked, on, keeps, Bool.false_eq_true, if_false, if_true]

/-- A clear of an enabled slice's enable stops the slice, whose dies are then a former slice's. -/
theorem State.writeDesc_stops (on : (s.slice n).on = true) (clears : d.getLsbD 8 = false) : s.writeDesc n d =
    (List.range 8).foldl (fun u j => if (s.slice n).hasDie j then u.modDie j fun x => { x with former := some n } else u)
      ((s.stopSlice n).modSlice n fun x => { x with desc := x.desc &&& 0xFFFF02FF }) := by
  simp only [State.writeDesc, unlocked, on, clears, Bool.false_eq_true, if_false, if_true]
  rfl

theorem exec_sldescWrite_keeps (below : n < 8) (on : (s.slice n).on = true) (keeps : d.getLsbD 8 = true) :
    exec (.sldescWrite n d) s = .next s := by
  cases admitted : s.mgmtAdmits with
  | false => exact exec_sldescWrite_shut admitted
  | true => rw [exec_sldescWrite below admitted, State.writeDesc_keeps unlocked on keeps]

end

/-- A former slice's die that no enabled slice has loses its lines of memory, and no other byte of memory. -/
theorem exec_dieStateCleared {s : State} {j : Nat} (former : (s.die j).former ≠ none) (unowned : s.sliceOfDie j = none) :
    ∃ u, exec (.dieStateCleared j) s = .next u ∧ ∀ c, c ∈ u.mem ↔ c ∈ s.mem ∧ ¬ (c.1 < 2 ^ 40 ∧ homeDie c.1 = j) := by
  have clears : ((s.die j).former.isNone || (s.sliceOfDie j).isSome) = false := by
    rw [unowned, Option.isNone_eq_false_iff.2 (Option.isSome_iff_ne_none.2 former)]
    rfl
  show ∃ u, occur s (s.clearDie j) = _ ∧ _
  simp only [State.clearDie, clears, Bool.false_eq_true, if_false, occur_some]
  refine ⟨_, rfl, fun c => ?_⟩
  simp only [State.foldl_modTile_mem, List.mem_filter, Bool.not_eq_true', Bool.and_eq_false_iff,
    decide_eq_false_iff_not, Decidable.not_and_iff_or_not]

/-! ### Translation invalidation (R129, R253) -/

section
variable {s : State} {n : Nat} {v : Dw}

theorem exec_tinv0Write : exec (.tinv0Write n v) s = .next (if s.pageAdmits n = true then s.modSlice n fun n =>
    if n.tinvDone then { n with tinv0 := v &&& 0x803FFFFFFFFFFFFF } else { n with tinvRefused := true } else s) := by
  show execTinv0Write n v s = _
  rw [execTinv0Write]
  cases s.pageAdmits n <;> rfl

theorem exec_tinv1Write_shut (shut : s.pageAdmits n = false) : exec (.tinv1Write n v) s = .next s :=
  if_pos shut

theorem exec_tinv1Write_starts (admitted : s.pageAdmits n = true) (idle : (s.slice n).tinvDone = true)
    (own : (s.slice n).hasAsid (dwAt (s.slice n).tinv0 40 14) = true) : exec (.tinv1Write n v) s =
      .next (s.setSlice n { s.slice n with tinvPages := v.extractLsb' 0 32, tinvDone := false }) := by
  show execTinv1Write n v s = _
  simp only [execTinv1Write, admitted, State.modSlice, idle, own, Bool.not_true, Bool.true_eq_false, Bool.false_eq_true, if_false,
    if_true]

/-- An invalidation ends once no access of the slice's tiles is on its way. -/
theorem exec_tinvDone_ends (busy : (s.slice n).tinvDone = false)
    (performed : ∀ t ∈ s.tiles, ∀ a ∈ t.2.port, a.pas = [] ∨ a.performed 2 = true) : exec (.tinvDone n) s =
      .next (((List.range 8).foldl (fun u d => if (s.slice n).hasDie d then u.modDie d fun x =>
        { x with tlb := x.tlb.filter fun e => !(s.slice n).invalidates e.asid e.page } else u) s).setSlice n
          { s.slice n with tinvDone := true }) := by
  have clear : (s.tiles.all fun t => !(s.slice n).hasDie (dieOf t.1) || t.2.port.all fun a =>
      decide (a.pas = []) || !(a.pages.any ((s.slice n).invalidates a.asid)) || a.performed 2) = true := by
    refine List.all_eq_true.2 fun t ht => Bool.or_eq_true_iff.2 (.inr (List.all_eq_true.2 fun a ha => ?_))
    rcases performed t ht a ha with none_left | done
    · rw [decide_eq_true none_left, Bool.true_or, Bool.true_or]
    · rw [done, Bool.or_true]
  show occur s (s.tinvEnds n) = _
  simp only [State.tinvEnds, busy, clear, Bool.not_true, Bool.or_self, Bool.false_eq_true, if_false, occur_some]

end

/-! ### Hotness windows and tile registers (R44, R143) -/

section
variable {s : State} {j : Nat}

theorem exec_of_die_shut (shut : s.dieAdmits j = false) (v : Dw) : exec (.hwcntRead j) s = .next { s with reply := [0] } ∧
    exec (.trdataRead j) s = .next { s with reply := [0] } ∧ exec (.trresWrite j v) s = .next s ∧
    exec (.trdataWrite j v) s = .next s :=
  ⟨if_pos shut, if_pos shut, if_pos (.inr (.inr shut)), if_pos shut⟩

variable (admitted : s.dieAdmits j = true)
include admitted

theorem not_die_shut : ¬ s.dieAdmits j = false := by
  rw [admitted]
  exact Bool.noConfusion

theorem exec_hwcntRead :
    let w := (s.tile (s.hwTile j)).win (s.hwWin j)
    exec (.hwcntRead j) s = .next
      { s.modTile (s.hwTile j) fun u => { u with hot := sset {} u.hot (s.hwWin j) { w with delivered := 0, starved := 0 } } with
        reply := [packDw [(w.delivered.toNat, 0), (w.starved.toNat, 32)]] } :=
  if_neg (not_die_shut admitted)

theorem exec_trdataRead : exec (.trdataRead j) s = .next { s.modDie j Die.nextTraddr with
    reply := [if (s.tile (s.trTile j)).inHandler (s.die j).traddr.toNat
      then BitVec.ofNat 64 ((s.tile (s.trTile j)).load (s.die j).traddr.toNat 8) else 0] } :=
  if_neg (not_die_shut admitted)

variable (one : (s.die j).trsel.getLsbD 31 = false)
include one

omit admitted in
/-- With TRSEL's broadcast bit clear, a tile register write reaches the one tile that TRSEL names. -/
theorem State.trTiles_one : s.trTiles j = [s.trTile j] := by
  rw [State.trTiles, one]
  rfl

theorem exec_trresWrite_one {v : Dw} (base : (v.extractLsb' 0 13).toNat ≤ 4096) (limit : (v.extractLsb' 16 13).toNat ≤ 4096) :
    exec (.trresWrite j v) s = .next
      (if s.meetsWindow (s.trTile j) (v.extractLsb' 0 13).toNat (v.extractLsb' 16 13).toNat then s
        else s.modTile (s.trTile j) fun u => { u with hrBase := v.extractLsb' 0 13, hrLimit := v.extractLsb' 16 13 }) := by
  have served : ¬ (4096 < (v.extractLsb' 0 13).toNat ∨ 4096 < (v.extractLsb' 16 13).toNat ∨ s.dieAdmits j = false) := by
    rintro (past | past | shut)
    · exact absurd base (Nat.not_le.2 past)
    · exact absurd limit (Nat.not_le.2 past)
    · exact not_die_shut admitted shut
  show execTrresWrite j v s = _
  simp only [execTrresWrite, if_neg served, State.trTiles_one one, List.foldl_cons, List.foldl_nil]

theorem exec_trdataWrite_one (v : Dw) : exec (.trdataWrite j v) s = .next
    ((s.modTile (s.trTile j) fun u => if u.inHandler (s.die j).traddr.toNat then u.setBytes (s.die j).traddr.toNat (dwBytes v)
      else u).modDie j Die.nextTraddr) := by
  show execTrdataWrite j v s = _
  simp only [execTrdataWrite, if_neg (not_die_shut admitted), State.trTiles_one one, List.foldl_cons, List.foldl_nil]

end

/-! ## Measured boot (R254, R255, R260) -/

/-! ### The configuration record (R257) -/

/-- The map of a list holds each item at its place. -/
theorem sparseOf_concat {α : Type} [DecidableEq α] (d : α) (l : List α) (a : α) :
    sparseOf d (l ++ [a]) = sset d (sparseOf d l) l.length a := by
  simp [sparseOf, List.zipIdx_append]

theorem swf_sparseOf {α : Type} [DecidableEq α] (d : α) (l : List α) : swf d (sparseOf d l) = true :=
  swf_foldl_sset d Prod.snd Prod.fst _ [] rfl

theorem sget_sparseOf {α : Type} [DecidableEq α] (d : α) (l : List α) (n : Nat) : sget d (sparseOf d l) n = l.getD n d := by
  induction l using List.reverseRecOn with
  | nil => rfl
  | append_singleton l a ih =>
    rw [sparseOf_concat]
    by_cases last : n = l.length
    · subst last
      rw [sget_sset_same _ _ _ _ (swf_sparseOf d l)]
      simp
    · rw [sget_sset_other _ _ _ _ _ (swf_sparseOf d l) last, ih]
      rcases Nat.lt_or_gt_of_ne last with below | above
      · exact (List.getD_append _ _ _ _ below).symm
      · rw [List.getD_eq_default _ _ (Nat.le_of_lt above), List.getD_eq_default _ _ (by simpa using above)]

/-- What a configuration record fixes beside the links and the dies' clocks. -/
theorem State.configure_fixes (s : State) (r : Config.BootRecord) : (s.configure r).qm900 = r.module_ ∧
    (s.configure r).fitted = r.fitted ∧ (s.configure r).limits.dvfsLow = r.dvfsLow ∧
    (s.configure r).limits.dvfsHigh = r.dvfsHigh ∧
    (s.configure r).slices = sparseOf {} (r.slices.map fun d => ({ desc := d } : Slice)) :=
  ⟨rfl, rfl, rfl, rfl, rfl⟩

theorem State.configure_desc (s : State) (r : Config.BootRecord) (n : Nat) :
    ((s.configure r).slice n).desc = r.slices.getD n 0 := by
  obtain ⟨-, -, -, -, slices⟩ := s.configure_fixes r
  rw [State.slice, slices, sget_sparseOf]
  exact (List.getD_map (f := fun d => ({ desc := d } : Slice)) ..) ▸ rfl

/-! ### The stages -/

/-- A failed stage enters the recovery state with a failure code other than zero. -/
theorem State.bootFails_eq (s : State) (stage : Nat) : ∃ c u, s.bootFails stage =
    { u with failure := c, recovery := true, stage := BitVec.ofNat 4 stage } ∧ c ≠ 0 ∧ u = s.free.2 := by
  refine ⟨if (s.free.1.setWidth 8 : BitVec 8) = 0 then 1 else s.free.1.setWidth 8, s.free.2, rfl, ?_, rfl⟩
  split
  · decide
  · assumption

section
variable {s : State} {stage : Nat} {l : List Byte} (powered : s.powered = true) (normal : s.recovery = false)
  (inTurn : stage = s.stage.toNat + 1)
include powered normal inTurn

/-- The next stage below 4 is measured, and then runs if it verifies. -/
theorem exec_bootStage_below (below : stage < 4) (verified : Bool) : exec (.bootStage stage l verified) s = .next
    (if verified then (s.extend (stage - 1) (Config.sha3 l)).runStage stage l
      else (s.extend (stage - 1) (Config.sha3 l)).bootFails stage).enumerate := by
  have inOrder : decide (stage ≠ s.stage.toNat + 1) = false := decide_eq_false (not_not_intro inTurn)
  show occur s (s.boot stage l verified) = _
  simp only [State.boot, powered, normal, inOrder, if_neg (Nat.ne_of_lt below), if_neg (Nat.lt_asymm below), Bool.not_true,
    Bool.or_self, Bool.false_eq_true, if_false, occur_some]

/-- Stage 4 waits for every die whose memory is trained to have locked. -/
theorem exec_bootStage_four (four : stage = 4) (verified : Bool) : exec (.bootStage stage l verified) s = .next
    (if (List.range 8).any fun d => (s.die d).trained && !(s.die d).locked then s
      else State.enumerate { (List.range 8).foldl (fun s n => if (s.slice n).on then s.remeasure n else s) s with stage := 4 }) := by
  have inOrder : decide (stage ≠ s.stage.toNat + 1) = false := decide_eq_false (not_not_intro inTurn)
  show occur s (s.boot stage l verified) = _
  simp only [State.boot, powered, normal, inOrder, if_pos four, Bool.not_true, Bool.or_self, Bool.false_eq_true, if_false]
  split <;> rfl

end

theorem State.runStage_three_takes {s : State} {l : List Byte} {r : Config.BootRecord} (hr : Config.bootRecord l = some r)
    (ok : recordOk r = true) : s.runStage 3 l =
      { (({ s with stage := 3 } : State).configure r).train.dropUntrained with conn := defaultConn, draining := [] } := by
  simp only [State.runStage, hr, ok, if_true]
  rfl

theorem State.runStage_three_fails {s : State} {l : List Byte} (bad : ∀ r, Config.bootRecord l = some r → recordOk r = false) :
    s.runStage 3 l = s.bootFails 3 := by
  cases hr : Config.bootRecord l with
  | none => simp only [State.runStage, hr]
  | some r => simp only [State.runStage, hr, bad r hr, Bool.false_eq_true, if_false]

/-! ### The measurement of the slices (R254) -/

theorem State.extend_meas (s : State) (k : Nat) (d : BitVec 256) (canon : swf 0 s.meas = true) :
    sget 0 (s.extend k d).meas k = Config.sha3 (digestBytes (sget 0 s.meas k) ++ digestBytes d) :=
  sget_sset_same _ _ _ _ canon

/-- A slice's register after it has been reset and extended with the slice's image. -/
def State.sliceDigest (s : State) (n : Nat) : BitVec 256 :=
  Config.sha3 (digestBytes 0 ++ digestBytes (Config.sha3 (s.sliceImage n)))

/-- An enabled slice measured. -/
def State.measureSlice (s : State) (n : Nat) : State := if (s.slice n).on then s.remeasure n else s

/-- A measurement changes the registers alone. -/
theorem State.measureSlice_eq (s : State) (n : Nat) : s.measureSlice n = { s with meas := (s.measureSlice n).meas } := by
  unfold State.measureSlice
  split <;> rfl

theorem State.swf_measureSlice {s : State} (canon : swf 0 s.meas = true) (n : Nat) : swf 0 (s.measureSlice n).meas = true := by
  unfold State.measureSlice
  split
  · exact swf_sset _ _ _ _ (swf_sset _ _ _ _ canon)
  · exact canon

theorem State.measureSlice_meas {s : State} (canon : swf 0 s.meas = true) (n k : Nat) : sget 0 (s.measureSlice n).meas (8 + k) =
    if k = n ∧ (s.slice k).on = true then s.sliceDigest k else sget 0 s.meas (8 + k) := by
  have cleared := swf_sset 0 0 s.meas (8 + n) canon
  by_cases on : (s.slice n).on = true
  · rw [State.measureSlice, if_pos on]
    by_cases same : k = n
    · subst same
      rw [if_pos ⟨rfl, on⟩, State.remeasure, State.extend_meas _ _ _ cleared, sget_sset_same _ _ _ _ canon]
      rfl
    · have other : 8 + k ≠ 8 + n := by omega
      rw [if_neg fun h => same h.1]
      exact (sget_sset_other _ _ _ _ _ cleared other).trans (sget_sset_other _ _ _ _ _ canon other)
  · rw [State.measureSlice, if_neg on, if_neg]
    rintro ⟨rfl, on'⟩
    exact on on'

/-- After the measurement of a list of slices the registers of its enabled slices hold their digests. -/
theorem State.foldl_measureSlice_meas (l : List Nat) {s : State} (canon : swf 0 s.meas = true) (k : Nat) :
    sget 0 (l.foldl State.measureSlice s).meas (8 + k) =
      if k ∈ l ∧ (s.slice k).on = true then s.sliceDigest k else sget 0 s.meas (8 + k) := by
  induction l generalizing s with
  | nil => exact (if_neg fun h => List.not_mem_nil h.1).symm
  | cons n l ih =>
    have step := s.measureSlice_eq n
    have slice : (s.measureSlice n).slice k = s.slice k := by rw [step]; rfl
    have digest : (s.measureSlice n).sliceDigest k = s.sliceDigest k := by rw [step]; rfl
    rw [List.foldl_cons, ih (State.swf_measureSlice canon n), State.measureSlice_meas canon, slice, digest]
    by_cases here : k = n
    · subst here
      by_cases on : (s.slice k).on = true <;> simp [on]
    · simp [here]

/-- Once every trained die has locked, stage 4 measures the slices. -/
theorem exec_bootStage_measures {s : State} {stage : Nat} {l : List Byte} (powered : s.powered = true) (normal : s.recovery = false)
    (inTurn : stage = s.stage.toNat + 1) (four : stage = 4) (locked : ∀ d, d < 8 → (s.die d).trained = true → (s.die d).locked = true) :
    exec (.bootStage stage l true) s =
      .next (State.enumerate { (List.range 8).foldl State.measureSlice s with stage := 4 }) := by
  have ready : ¬ ((List.range 8).any fun d => (s.die d).trained && !(s.die d).locked) = true := by
    simpa only [List.any_eq_true, List.mem_range, Bool.and_eq_true, Bool.not_eq_true', not_exists, not_and, Bool.not_eq_false]
      using locked
  rw [exec_bootStage_four powered normal inTurn four, if_neg ready]
  rfl

theorem exec_bootStage_waits {s : State} {stage : Nat} {l : List Byte} (powered : s.powered = true) (normal : s.recovery = false)
    (inTurn : stage = s.stage.toNat + 1) (four : stage = 4) (late : ∃ d, d < 8 ∧ (s.die d).trained = true ∧ (s.die d).locked = false) :
    exec (.bootStage stage l true) s = .next s := by
  have waits : ((List.range 8).any fun d => (s.die d).trained && !(s.die d).locked) = true := by
    simpa only [List.any_eq_true, List.mem_range, Bool.and_eq_true, Bool.not_eq_true'] using late
  rw [exec_bootStage_four powered normal inTurn four, if_pos waits]

/-! ### Power-good, recovery and enumeration (R254, R260) -/

theorem exec_powerGood {s : State} (off : s.powered = false) :
    exec .powerGood s = .next { s with powered := true, stage := 0, failure := 0 } := by
  show occur s (if s.powered then none else some _) = _
  rw [off]
  rfl

theorem exec_recoveryImage {s : State} {l : List Byte} (recovery : s.recovery = true) (image : l ≠ []) (verified : Bool) :
    exec (.recoveryImage l verified) s =
      .next (if verified then { s with recovery := false, failure := 0, stage := 0, enumerated := false } else s) := by
  show occur s (if s.recovery && verified && decide (l ≠ []) then _ else _) = _
  rw [recovery, decide_eq_true image]
  cases verified <;> rfl

theorem State.enumerate_eq (s : State) : s.enumerate =
    if s.perst = true ∧ (s.recovery = true ∨ s.stage = 4) then { s with enumerated := true } else s := by
  have four : s.stage.toNat = 4 ↔ s.stage = 4 := BitVec.toNat_inj (y := 4)
  simp only [State.enumerate, Bool.and_eq_true, Bool.or_eq_true, decide_eq_true_eq, four]

/-! ### Debug (R255, R256, R258), attestation (R256) and thermal limits (R257, R259) -/

theorem exec_debugUnlock (s : State) (verified : Bool) :
    exec (.debugUnlock verified) s = .next (if verified && !s.recovery then s.unlockDebug else s) := rfl

theorem exec_frzWrite (s : State) (v : Word) : exec (.frzWrite v) s =
    .next (if s.mgmtAdmits = true ∧ s.debug = true ∧ v.getLsbD 0 = true then { s with frz := true } else s) := by
  show execFrzWrite v s = _
  simp only [execFrzWrite, Bool.and_eq_true, and_assoc]

theorem exec_spdm (s : State) (fn : Nat) (l : List Byte) (i : Instr) (code : Nat)
    (h : (i, code) ∈ [(Instr.spdmGetVersion fn l, 0), (Instr.spdmGetCapabilities fn l, 1), (Instr.spdmNegotiateAlgorithms fn l, 2),
      (Instr.spdmGetDigests fn l, 3), (Instr.spdmGetCertificate fn l, 4), (Instr.spdmKeyExchange fn l, 7),
      (Instr.spdmFinish fn l, 8)]) : exec i s = .next (s.spdm code fn l []) := by
  simp only [List.mem_cons, Prod.mk.injEq, List.not_mem_nil, or_false] at h
  rcases h with ⟨rfl, rfl⟩ | ⟨rfl, rfl⟩ | ⟨rfl, rfl⟩ | ⟨rfl, rfl⟩ | ⟨rfl, rfl⟩ | ⟨rfl, rfl⟩ | ⟨rfl, rfl⟩ <;> rfl

theorem exec_spdmGetMeasurements (s : State) (fn : Nat) (l : List Byte) :
    let u := s.spdm 6 fn l (s.blocks fn)
    exec (.spdmGetMeasurements fn l) s = .next (if s.recovery = true ∨ s.presents fn = false then u else { u with
      reply := (s.blocks fn).flatMap (fun m => bytesDws 4 (digestBytes m)) ++ u.reply }) := by
  show execSpdmGetMeasurements fn l s = _
  simp only [execSpdmGetMeasurements, Bool.or_eq_true, Bool.not_eq_true']

theorem State.blocks_of_slice (s : State) {fn : Nat} (virtual : 0 < fn) :
    s.blocks fn = [sget 0 s.meas 0, sget 0 s.meas 1, sget 0 s.meas 2, sget 0 s.meas (8 + (fn - 1))] := by
  rw [State.blocks, if_neg (Nat.ne_of_gt virtual)]
  rfl

theorem exec_thermalThrottle (s : State) (j mhz : Nat) : exec (.thermalThrottle j mhz) s =
    .next (if s.limits.dvfsLow ≤ mhz ∧ mhz ≤ (s.die j).mhz then s.modDie j fun d => { d with mhz := mhz } else s) :=
  occur_ite _ _ _

/-! ### Management and bring-up together -/

/-- Settles O49: the registers are the updates of their lemmas above under their page's guard; a stage of the boot is `runStage` or
`bootFails` after its measurement, and stage 4 the measurement of the slices. -/
theorem managementAndBringUp : Obligations.ManagementAndBringUp := by
  refine ⟨fun s n j d v reg => ⟨?_, ?_, ?_, exec_sldescWrite_shut, ?_, fun shut => exec_of_die_shut shut v, ?_, ?_,
      exec_tinv1Write_starts, exec_tinvDone_ends, exec_hwcntRead, ?_, rfl, fun m => rfl⟩,
    fun s stage fn j mhz l v => ⟨exec_powerGood, ?_, ?_, s.bootFails_eq stage, ?_, rfl, s.enumerate_eq, ?_, ?_, rfl,
      exec_frzWrite s v, rfl, exec_spdm s fn l, rfl, exec_spdmGetMeasurements s fn l, s.blocks_of_slice, ?_, ?_, rfl⟩⟩
  · intro below admitted unlocked off
    rw [exec_sldescWrite below admitted, State.writeDesc_disabled unlocked off]
    exact ⟨fun fits => by rw [if_neg (Bool.eq_false_iff.1 fits)], fun refused => by rw [if_pos refused]⟩
  · exact fun below unlocked on keeps => exec_sldescWrite_keeps unlocked below on keeps
  · intro below admitted unlocked on clears
    rw [exec_sldescWrite below admitted, State.writeDesc_stops unlocked on clears]
  · intro shut
    exact ⟨exec_tinv0Write.trans (by rw [if_neg (Bool.eq_false_iff.1 shut)]), exec_tinv1Write_shut shut⟩
  · intro former unowned
    obtain ⟨u, clears, mem⟩ := exec_dieStateCleared former unowned
    exact ⟨u, clears, fun c hc => ((mem c).1 hc).2, fun c hc other => (mem c).2 ⟨hc, other⟩⟩
  · exact fun admitted => exec_tinv0Write.trans (by rw [if_pos admitted])
  · intro admitted one
    refine ⟨exec_trresWrite_one admitted one, exec_trdataRead admitted, fun _ => exec_trdataWrite_one admitted one v⟩
  · intro powered normal inTurn
    have runs (below : stage < 4) := exec_bootStage_below (l := l) powered normal inTurn below
    refine ⟨fun below => runs below false, ?_, ?_, ?_, ?_, exec_bootStage_waits powered normal inTurn, ?_, State.extend_meas s _ _⟩
    · rintro rfl
      exact runs (by decide) true
    · rintro rfl
      exact runs (by decide) true
    · rintro rfl r hr
      rw [runs (by decide) true]
      refine ⟨fun ok => ?_, fun bad => ?_⟩
      · rw [State.runStage_three_takes hr ok]
        rfl
      · rw [State.runStage_three_fails fun r' hr' => by rwa [← Option.some.inj (hr.symm.trans hr')]]
        rfl
    · rintro rfl absent
      rw [runs (by decide) true, State.runStage_three_fails fun r hr => nomatch absent.symm.trans hr]
      rfl
    · intro four locked
      refine ⟨_, exec_bootStage_measures powered normal inTurn four locked, rfl, ?_, ?_, fun canon n below => ?_⟩
      · exact State.foldl_frame State.regions (fun u n => by rw [State.measureSlice_eq]) _ _
      · exact State.foldl_frame State.mem (fun u n => by rw [State.measureSlice_eq]) _ _
      · exact (State.foldl_measureSlice_meas _ canon n).trans (by simp only [List.mem_range, below, true_and]; rfl)
  · intro r
    obtain ⟨form, fitted, low, high, -⟩ := s.configure_fixes r
    exact ⟨form, fitted, low, high, fun n _ => s.configure_desc r n⟩
  · exact fun recovery image => ⟨exec_recoveryImage recovery image true, exec_recoveryImage recovery image false⟩
  · exact fun normal => ⟨s.unlockDebug, by rw [exec_debugUnlock, normal]; rfl, rfl, rfl, rfl, rfl⟩
  · exact fun recovery => by rw [exec_debugUnlock, recovery]; rfl
  · exact fun low high => (exec_thermalThrottle s j mhz).trans (by rw [if_pos ⟨low, high⟩])
  · exact fun low => (exec_thermalThrottle s j mhz).trans (by rw [if_neg fun h => Nat.not_le.2 low h.1])

end Sys2Proof.Machine

namespace Sys2Proof

/-! ## Decoding and encoding (R272 to R286)

A field is two bit strings joined just when its upper and lower parts are these. Every format, and every function field made of
smaller ones, is said once as such an equivalence: it turns an encoding into equations on fields, which the decoder reads in one
direction and the encoder in the other. -/

/-! ### Parts of a bit string -/

/-- A bit string of `w` is `x` above `y` just when its upper and lower parts are these. -/
theorem extract_eq_append {v n m : Nat} {w : BitVec v} {x : BitVec n} {y : BitVec m} (lo : Nat) :
    w.extractLsb' lo (n + m) = x ++ y ↔ w.extractLsb' (lo + m) n = x ∧ w.extractLsb' lo m = y := by
  constructor
  · intro h
    rw [← BitVec.extractLsb'_append_extractLsb'_eq_extractLsb' rfl] at h
    have high := congrArg (·.extractLsb' m n) h
    have low := congrArg (·.extractLsb' 0 m) h
    simp only [extract_high _ _ _ _ (Nat.le_refl m), Nat.sub_self, extract_all] at high
    simp only [extract_low _ _ _ _ (Nat.zero_add m).le, extract_all] at low
    exact ⟨high, low⟩
  · rintro ⟨rfl, rfl⟩
    exact (BitVec.extractLsb'_append_extractLsb'_eq_extractLsb' rfl).symm

/-- The same with the upper part taken apart further. -/
theorem extract_snoc {v : Nat} {w : BitVec v} (lo n m : Nat) {x : BitVec n} {y : BitVec m} {P : Prop}
    (upper : w.extractLsb' (lo + m) n = x ↔ P) : w.extractLsb' lo (n + m) = x ++ y ↔ P ∧ w.extractLsb' lo m = y :=
  (extract_eq_append lo).trans (and_congr_left' upper)

theorem fld_snoc {w : Word} (lo n m : Nat) {x : BitVec n} {y : BitVec m} {P : Prop} (upper : fld w (lo + m) n = x ↔ P) :
    fld w lo (n + m) = x ++ y ↔ P ∧ fld w lo m = y := extract_snoc lo n m upper

theorem extract_eq_bit {v : Nat} {w : BitVec v} {lo : Nat} {b : Bool} : w.extractLsb' lo 1 = bit b ↔ w.getLsbD lo = b := by
  rw [bit, ← BitVec.ofBool_eq_iff_eq]
  have one : w.extractLsb' lo 1 = BitVec.ofBool (w.getLsbD lo) := by
    ext i below
    obtain rfl : i = 0 := by omega
    simp
  rw [one]

theorem fld_bit {w : Word} {lo : Nat} {b : Bool} : fld w lo 1 = bit b ↔ w.getLsbD lo = b := extract_eq_bit

theorem fld_clear {w : Word} {lo : Nat} : fld w lo 1 = 0#1 ↔ w.getLsbD lo = false := fld_bit (b := false)

theorem eq_word {v w : Word} : v = w ↔ fld w 0 32 = v := by rw [fld, extract_all, eq_comm]

/-! ### The formats (R272) -/

theorem fmtR_eq {maj : BitVec 6} {d a b : Reg} {fn : BitVec 11} {w : Word} :
    fmtR maj d a b fn = w ↔ (((fld w 26 6 = maj ∧ fld w 21 5 = d) ∧ fld w 16 5 = a) ∧ fld w 11 5 = b) ∧ fld w 0 11 = fn :=
  eq_word.trans (fld_snoc 0 21 11 (fld_snoc 11 16 5 (fld_snoc 16 11 5 (fld_snoc 21 6 5 Iff.rfl))))

theorem fmtQ_eq {maj : BitVec 6} {d a b c : Reg} {fn : BitVec 6} {w : Word} :
    fmtQ maj d a b c fn = w ↔ ((((fld w 26 6 = maj ∧ fld w 21 5 = d) ∧ fld w 16 5 = a) ∧ fld w 11 5 = b) ∧ fld w 6 5 = c) ∧
      fld w 0 6 = fn :=
  eq_word.trans (fld_snoc 0 26 6 (fld_snoc 6 21 5 (fld_snoc 11 16 5 (fld_snoc 16 11 5 (fld_snoc 21 6 5 Iff.rfl)))))

theorem fmtI_eq {maj : BitVec 6} {d a : Reg} {imm : BitVec 16} {w : Word} :
    fmtI maj d a imm = w ↔ ((fld w 26 6 = maj ∧ fld w 21 5 = d) ∧ fld w 16 5 = a) ∧ fld w 0 16 = imm :=
  eq_word.trans (fld_snoc 0 16 16 (fld_snoc 16 11 5 (fld_snoc 21 6 5 Iff.rfl)))

theorem fmtB_eq {maj : BitVec 6} {cond : BitVec 3} {a b : Reg} {off : BitVec 13} {w : Word} :
    fmtB maj cond a b off = w ↔ (((fld w 26 6 = maj ∧ fld w 23 3 = cond) ∧ fld w 18 5 = a) ∧ fld w 13 5 = b) ∧
      fld w 0 13 = off :=
  eq_word.trans (fld_snoc 0 19 13 (fld_snoc 13 14 5 (fld_snoc 18 9 5 (fld_snoc 23 6 3 Iff.rfl))))

theorem fmtJ_eq {maj : BitVec 6} {off : BitVec 26} {w : Word} :
    fmtJ maj off = w ↔ fld w 26 6 = maj ∧ fld w 0 26 = off :=
  eq_word.trans (fld_snoc 0 6 26 Iff.rfl)

theorem fmtML_eq {maj : BitVec 6} {g base : Reg} {sz : BitVec 2} {sx : BitVec 1} {off : BitVec 13} {w : Word} :
    fmtML maj g base sz sx off = w ↔ ((((fld w 26 6 = maj ∧ fld w 21 5 = g) ∧ fld w 16 5 = base) ∧ fld w 14 2 = sz) ∧
      fld w 13 1 = sx) ∧ fld w 0 13 = off :=
  eq_word.trans (fld_snoc 0 19 13 (fld_snoc 13 18 1 (fld_snoc 14 16 2 (fld_snoc 16 11 5 (fld_snoc 21 6 5 Iff.rfl)))))

theorem fmtMG_eq {maj : BitVec 6} {g base : Reg} {port : Port} {fn : BitVec 5} {sc ord : BitVec 2} {z : BitVec 4}
    {w : Word} :
    fmtMG maj g base port fn sc ord z = w ↔ ((((((fld w 26 6 = maj ∧ fld w 21 5 = g) ∧ fld w 16 5 = base) ∧
      fld w 13 3 = port) ∧ fld w 8 5 = fn) ∧ fld w 6 2 = sc) ∧ fld w 4 2 = ord) ∧ fld w 0 4 = z :=
  eq_word.trans (fld_snoc 0 28 4 (fld_snoc 4 26 2 (fld_snoc 6 24 2 (fld_snoc 8 19 5 (fld_snoc 13 16 3
      (fld_snoc 16 11 5 (fld_snoc 21 6 5 Iff.rfl)))))))

theorem fmtT_eq {maj : BitVec 6} {g : Reg} {port cnt : BitVec 3} {fl : BitVec 15} {w : Word} :
    fmtT maj g port cnt fl = w ↔ (((fld w 26 6 = maj ∧ fld w 21 5 = g) ∧ fld w 18 3 = port) ∧ fld w 15 3 = cnt) ∧
      fld w 0 15 = fl :=
  eq_word.trans (fld_snoc 0 17 15 (fld_snoc 15 14 3 (fld_snoc 18 11 3 (fld_snoc 21 6 5 Iff.rfl))))

theorem fmtS_eq {maj : BitVec 6} {g a : Reg} {csr : BitVec 12} {fn : BitVec 4} {w : Word} :
    fmtS maj g a csr fn = w ↔ (((fld w 26 6 = maj ∧ fld w 21 5 = g) ∧ fld w 16 5 = a) ∧ fld w 4 12 = csr) ∧ fld w 0 4 = fn :=
  eq_word.trans (fld_snoc 0 28 4 (fld_snoc 4 16 12 (fld_snoc 16 11 5 (fld_snoc 21 6 5 Iff.rfl))))

theorem fmtC_eq {maj : BitVec 6} {oport : BitVec 3} {entry : BitVec 11} {mask : BitVec 4} {patch : BitVec 5} {z : BitVec 3}
    {w : Word} :
    fmtC maj oport entry mask patch z = w ↔ ((((fld w 26 6 = maj ∧ fld w 23 3 = oport) ∧ fld w 12 11 = entry) ∧
      fld w 8 4 = mask) ∧ fld w 3 5 = patch) ∧ fld w 0 3 = z :=
  eq_word.trans (fld_snoc 0 29 3 (fld_snoc 3 24 5 (fld_snoc 8 20 4 (fld_snoc 12 9 11 (fld_snoc 23 6 3 Iff.rfl)))))

/-! ### Function, flag and immediate fields of several parts (R276 to R285) -/

theorem fn_flag {w : Word} {z : BitVec 4} {b : Bool} {c : BitVec 6} :
    fld w 0 11 = z ++ bit b ++ c ↔ (fld w 7 4 = z ∧ w.getLsbD 6 = b) ∧ fld w 0 6 = c :=
  fld_snoc 0 5 6 ((fld_snoc 6 4 1 Iff.rfl).trans (and_congr_right' fld_bit))

theorem fn_format {w : Word} {f : BitVec 3} {m : BitVec 2} {c : BitVec 6} :
    fld w 0 11 = f ++ m ++ c ↔ (fld w 8 3 = f ∧ fld w 6 2 = m) ∧ fld w 0 6 = c := fld_snoc 0 5 6 (fld_snoc 6 3 2 Iff.rfl)

theorem fn_slot {w : Word} {t : BitVec 6} {c : BitVec 4} :
    fld w 0 11 = 0#1 ++ t ++ c ↔ (w.getLsbD 10 = false ∧ fld w 4 6 = t) ∧ fld w 0 4 = c :=
  fld_snoc 0 7 4 (fld_snoc 4 1 6 (fld_bit (b := false)))

theorem fn_port {w : Word} {z : BitVec 4} {p : BitVec 3} {c : BitVec 4} :
    fld w 0 11 = z ++ p ++ c ↔ (fld w 7 4 = z ∧ fld w 4 3 = p) ∧ fld w 0 4 = c := fld_snoc 0 7 4 (fld_snoc 4 4 3 Iff.rfl)

theorem fn_zero {w : Word} : fld w 0 11 = 0#11 ↔ fld w 4 7 = 0 ∧ fld w 0 4 = 0 :=
  fld_snoc 0 7 4 (x := 0) (y := 0) Iff.rfl

theorem fn_one {w : Word} : fld w 0 11 = 1#11 ↔ fld w 4 7 = 0 ∧ fld w 0 4 = 1 :=
  fld_snoc 0 7 4 (x := 0) (y := 1) Iff.rfl

theorem fnQ_format {w : Word} {z f m : BitVec 2} :
    fld w 0 6 = z ++ f ++ m ↔ (fld w 4 2 = z ∧ fld w 2 2 = f) ∧ fld w 0 2 = m := fld_snoc 0 4 2 (fld_snoc 2 2 2 Iff.rfl)

theorem imm_shift {w : Word} {k : BitVec 2} {z : BitVec 7} {b : Bool} {t : BitVec 6} :
    fld w 0 16 = k ++ z ++ bit b ++ t ↔ ((fld w 14 2 = k ∧ fld w 7 7 = z) ∧ w.getLsbD 6 = b) ∧ fld w 0 6 = t :=
  fld_snoc 0 10 6 ((fld_snoc 6 9 1 (fld_snoc 7 2 7 Iff.rfl)).trans (and_congr_right' fld_bit))

theorem imm_class {w : Word} {z : BitVec 14} {c : BitVec 2} : fld w 0 16 = z ++ c ↔ fld w 2 14 = z ∧ fld w 0 2 = c :=
  fld_snoc 0 14 2 Iff.rfl

theorem order_flag {w : Word} {o : Bool} : fld w 4 2 = 0#1 ++ bit o ↔ w.getLsbD 5 = false ∧ w.getLsbD 4 = o :=
  (fld_snoc 4 1 1 (fld_bit (b := false))).trans (and_congr_right' fld_bit)

theorem fl_recv {w : Word} {z : BitVec 10} {c s : Bool} {f : BitVec 3} :
    fld w 0 15 = z ++ bit c ++ bit s ++ f ↔ ((fld w 5 10 = z ∧ w.getLsbD 4 = c) ∧ w.getLsbD 3 = s) ∧ fld w 0 3 = f :=
  fld_snoc 0 12 3 ((fld_snoc 3 11 1 ((fld_snoc 4 10 1 Iff.rfl).trans (and_congr_right' fld_bit))).trans
    (and_congr_right' fld_bit))

theorem fl_control {w : Word} {z : BitVec 14} {c : Bool} : fld w 0 15 = z ++ bit c ↔ fld w 1 14 = z ∧ w.getLsbD 0 = c :=
  (fld_snoc 0 14 1 Iff.rfl).trans (and_congr_right' fld_bit)

theorem fl_end {w : Word} {z : BitVec 12} {e : Bool} {c : BitVec 2} :
    fld w 0 15 = z ++ bit e ++ c ↔ (fld w 3 12 = z ∧ w.getLsbD 2 = e) ∧ fld w 0 2 = c :=
  fld_snoc 0 13 2 ((fld_snoc 2 12 1 Iff.rfl).trans (and_congr_right' fld_bit))

theorem fl_null {w : Word} : fld w 0 15 = 0#15 ↔ (fld w 3 12 = 0 ∧ w.getLsbD 2 = false) ∧ fld w 0 2 = 0 :=
  fl_end (z := 0) (e := false) (c := 0)

theorem fl_error {w : Word} : fld w 0 15 = 2#15 ↔ (fld w 3 12 = 0 ∧ w.getLsbD 2 = false) ∧ fld w 0 2 = 2 :=
  fl_end (z := 0) (e := false) (c := 2)

theorem fl_query {w : Word} {z : BitVec 11} {f c : BitVec 2} :
    fld w 0 15 = z ++ f ++ c ↔ (fld w 4 11 = z ∧ fld w 2 2 = f) ∧ fld w 0 2 = c := fld_snoc 0 13 2 (fld_snoc 2 11 2 Iff.rfl)

theorem fl_header {w : Word} : fld w 0 15 = 1#15 ↔ fld w 2 13 = 0 ∧ fld w 0 2 = 1 :=
  fld_snoc 0 13 2 (x := 0) (y := 1) Iff.rfl

theorem fl_count {w : Word} {z : BitVec 7} {n : BitVec 8} : fld w 0 15 = z ++ n ↔ fld w 8 7 = z ∧ fld w 0 8 = n :=
  fld_snoc 0 7 8 Iff.rfl

theorem input_port {w : Word} {z : BitVec 2} {i : Port} : fld w 21 5 = z ++ i ↔ fld w 24 2 = z ∧ fld w 21 3 = i :=
  fld_snoc 21 2 3 Iff.rfl

theorem no_count_or_flag {w : Word} : fld w 0 18 = 0#18 ↔ fld w 15 3 = 0 ∧ fld w 0 15 = 0 :=
  fld_snoc 0 3 15 (x := 0) (y := 0) Iff.rfl

theorem csr_k {w : Word} {z : BitVec 8} {k : BitVec 4} : fld w 4 12 = z ++ k ↔ fld w 8 8 = z ∧ fld w 4 4 = k :=
  fld_snoc 4 8 4 Iff.rfl

/-- The upper part of a function field whose value is known. -/
theorem fnQ_high {w : Word} {c : BitVec 6} (h : fld w 0 6 = c) : fld w 4 2 = c.extractLsb' 4 2 := by
  rw [← h]
  exact (BitVec.extractLsb'_extractLsb'_of_le (x := w) (start := 4) (len := 2) (len' := 6) (by decide)).symm

/-! ### The major opcodes (R275) -/

theorem decode_int {w : Word} (maj : fld w 26 6 = 0 ∨ fld w 26 6 = 1) : decode w = decodeInt w := by
  rcases maj with h | h <;> simp [decode, h]

theorem decode_float {w : Word} (maj : fld w 26 6 = 2) : decode w = decodeFloat w := by
  simp [decode, maj]

theorem decode_three {w : Word} (maj : fld w 26 6 = 3) : decode w = decodeThree w := by
  simp [decode, maj]

theorem decode_imm {w : Word} (maj : (fld w 26 6).toNat ∈ [4, 5, 6, 7, 8, 9, 10, 11]) : decode w = decodeImm w := by
  simp only [List.mem_cons, List.not_mem_nil, or_false] at maj
  rcases maj with h | h | h | h | h | h | h | h <;> simp only [decode, h]

theorem decode_control {w : Word} (maj : (fld w 26 6).toNat ∈ [0x10, 0x11, 0x12, 0x13, 0x14, 0x15]) :
    decode w = decodeControl w := by
  simp only [List.mem_cons, List.not_mem_nil, or_false] at maj
  rcases maj with h | h | h | h | h | h <;> simp only [decode, h]

theorem decode_local {w : Word} (maj : fld w 26 6 = 0x18 ∨ fld w 26 6 = 0x19) : decode w = decodeLocal w := by
  rcases maj with h | h <;> simp [decode, h]

theorem decode_global {w : Word} (maj : (fld w 26 6).toNat ∈ [0x1A, 0x1B, 0x1C, 0x1D, 0x1E, 0x1F, 0x20]) :
    decode w = decodeGlobal w := by
  simp only [List.mem_cons, List.not_mem_nil, or_false] at maj
  rcases maj with h | h | h | h | h | h | h <;> simp only [decode, h]

theorem decode_token {w : Word} (maj : (fld w 26 6).toNat ∈ [0x24, 0x25, 0x26, 0x27, 0x28, 0x29, 0x2A, 0x2B, 0x2C]) :
    decode w = decodeToken w := by
  simp only [List.mem_cons, List.not_mem_nil, or_false] at maj
  rcases maj with h | h | h | h | h | h | h | h | h <;> simp only [decode, h]

theorem decode_engine {w : Word} (maj : (fld w 26 6).toNat ∈ [0x30, 0x31, 0x32, 0x33, 0x34, 0x35, 0x36]) :
    decode w = decodeEngine w := by
  simp only [List.mem_cons, List.not_mem_nil, or_false] at maj
  rcases maj with h | h | h | h | h | h | h <;> simp only [decode, h]

theorem decode_system {w : Word} (maj : (fld w 26 6).toNat ∈ [0x38, 0x39, 0x3A, 0x3B]) : decode w = decodeSystem w := by
  simp only [List.mem_cons, List.not_mem_nil, or_false] at maj
  rcases maj with h | h | h | h <;> simp only [decode, h]

/-! ### What the decoder accepts is the encoding of what it reads -/

/-- A decoding that answers only well-formed instructions whose word is `w`. -/
def Faithful (w : Word) (r : Except DecodeErr Instr) : Prop := ∀ i, r = .ok i → encode i = some w ∧ i.wf = true

@[simp] theorem faithful_error {w : Word} {e : DecodeErr} : Faithful w (.error e) := nofun

@[simp] theorem faithful_ok {w : Word} {i : Instr} : Faithful w (.ok i) ↔ encode i = some w ∧ i.wf = true :=
  ⟨fun h => h i rfl, fun h _ e => Except.ok.inj e ▸ h⟩

@[simp] theorem faithful_need {w : Word} {c : Bool} {e : DecodeErr} {k : Except DecodeErr Instr} :
    Faithful w (need c e k) ↔ (c = true → Faithful w k) := by
  cases c <;> simp [need, faithful_error]

theorem faithful_decodeInt {w : Word} (maj : fld w 26 6 = 0 ∨ fld w 26 6 = 1) : Faithful w (decodeInt w) := by
  simp only [decodeInt]
  split
  · split <;> simp_all [encode, Instr.wf, fmtR_eq, fn_flag, BitVec.toNat_eq_nat]
  · split <;> simp_all [encode, Instr.wf, fmtR_eq, fn_flag, BitVec.toNat_eq_nat]

theorem faithful_decodeFloat {w : Word} (maj : fld w 26 6 = 2) : Faithful w (decodeFloat w) := by
  simp only [decodeFloat]
  split <;> simp_all [encode, Instr.wf, fmtR_eq, fn_format, BitVec.toNat_eq_nat]

theorem faithful_decodeThree {w : Word} (maj : fld w 26 6 = 3) : Faithful w (decodeThree w) := by
  simp only [decodeThree]
  split
  · simp_all [encode, Instr.wf, fmtQ_eq, fnQ_format]
  · split <;> simp_all [encode, Instr.wf, fmtQ_eq, BitVec.toNat_eq_nat]

/-- The shift code that is none of the three named ones is the fourth. -/
theorem rotr_kind : ∀ k : BitVec 2, k.toNat ≠ 0 → k.toNat ≠ 1 → k.toNat ≠ 2 → k = 3 := by decide

theorem faithful_decodeImm {w : Word} (maj : (fld w 26 6).toNat ∈ [4, 5, 6, 7, 8, 9, 10, 11]) :
    Faithful w (decodeImm w) := by
  simp only [decodeImm]
  split
  case h_8 =>
    split
    case h_4 zero one two =>
      have kind := rotr_kind (fld w 14 2) zero one two
      simp_all [encode, Instr.wf, fmtI_eq, imm_shift, BitVec.toNat_eq_nat, -BitVec.reduceAppend]
    all_goals simp_all [encode, Instr.wf, fmtI_eq, imm_shift, BitVec.toNat_eq_nat, -BitVec.reduceAppend]
  all_goals simp_all [encode, Instr.wf, fmtI_eq, BitVec.toNat_eq_nat]

theorem faithful_decodeControl {w : Word} (maj : (fld w 26 6).toNat ∈ [0x10, 0x11, 0x12, 0x13, 0x14, 0x15]) :
    Faithful w (decodeControl w) := by
  simp only [decodeControl]
  split
  case h_5 | h_6 => split <;> simp_all [encode, Instr.wf, fmtR_eq, BitVec.toNat_eq_nat]
  all_goals simp_all [encode, Instr.wf, fmtB_eq, fmtJ_eq, BitVec.toNat_eq_nat]

theorem faithful_decodeLocal {w : Word} (maj : fld w 26 6 = 0x18 ∨ fld w 26 6 = 0x19) : Faithful w (decodeLocal w) := by
  simp only [decodeLocal]
  split <;> simp_all [encode, Instr.wf, fmtML_eq, fld_bit, fld_clear]

theorem faithful_decodeGlobal {w : Word} (maj : (fld w 26 6).toNat ∈ [0x1A, 0x1B, 0x1C, 0x1D, 0x1E, 0x1F, 0x20]) :
    Faithful w (decodeGlobal w) := by
  simp only [decodeGlobal]
  split
  case h_5 | h_6 => split <;> simp_all [encode, Instr.wf, fmtMG_eq, order_flag, BitVec.toNat_eq_nat]
  all_goals simp_all [encode, Instr.wf, fmtMG_eq, order_flag, BitVec.toNat_eq_nat]

theorem faithful_decodeToken {w : Word} (maj : (fld w 26 6).toNat ∈ [0x24, 0x25, 0x26, 0x27, 0x28, 0x29, 0x2A, 0x2B, 0x2C]) :
    Faithful w (decodeToken w) := by
  simp only [decodeToken]
  split
  case h_4 => split <;> simp_all [encode, Instr.wf, fmtT_eq, BitVec.toNat_eq_nat, fl_null, fl_end, fl_error]
  case h_7 => split <;> simp_all [encode, Instr.wf, fmtT_eq, BitVec.toNat_eq_nat, fl_query, fl_header]
  all_goals simp_all [encode, Instr.wf, fmtT_eq, fl_recv, fl_control, input_port, no_count_or_flag, fl_count,
    BitVec.toNat_eq_nat]

theorem faithful_decodeEngine {w : Word} (maj : (fld w 26 6).toNat ∈ [0x30, 0x31, 0x32, 0x33, 0x34, 0x35, 0x36]) :
    Faithful w (decodeEngine w) := by
  simp only [decodeEngine]
  split
  case h_1 => simp_all [encode, Instr.wf, fmtC_eq, BitVec.toNat_eq_nat]
  case h_6 => split <;> simp_all [encode, Instr.wf, fmtR_eq, fn_zero, fn_one, BitVec.toNat_eq_nat]
  case h_7 => simp_all [encode, Instr.wf, fmtI_eq, imm_class, BitVec.toNat_eq_nat]
  all_goals split <;> simp_all [encode, Instr.wf, fmtR_eq, fn_slot, fn_port, BitVec.toNat_eq_nat]

theorem faithful_decodeSystem {w : Word} (maj : (fld w 26 6).toNat ∈ [0x38, 0x39, 0x3A, 0x3B]) :
    Faithful w (decodeSystem w) := by
  simp only [decodeSystem]
  split
  case h_2 => simp_all [encode, Instr.wf, fmtS_eq, BitVec.toNat_eq_nat]
  all_goals split <;> simp_all [encode, Instr.wf, fmtS_eq, csr_k, BitVec.toNat_eq_nat]

/-- Every word that decodes is the encoding of its instruction. -/
theorem faithful_decode (w : Word) : Faithful w (decode w) := by
  unfold decode
  split
  case h_1 h => exact faithful_decodeInt (.inl (BitVec.eq_of_toNat_eq h))
  case h_2 h => exact faithful_decodeInt (.inr (BitVec.eq_of_toNat_eq h))
  case h_3 h => exact faithful_decodeFloat (BitVec.eq_of_toNat_eq h)
  case h_4 h => exact faithful_decodeThree (BitVec.eq_of_toNat_eq h)
  case h_5 h | h_6 h | h_7 h | h_8 h | h_9 h | h_10 h | h_11 h | h_12 h => exact faithful_decodeImm (by simp [h])
  case h_13 h | h_14 h | h_15 h | h_16 h | h_17 h | h_18 h => exact faithful_decodeControl (by simp [h])
  case h_19 h => exact faithful_decodeLocal (.inl (BitVec.eq_of_toNat_eq h))
  case h_20 h => exact faithful_decodeLocal (.inr (BitVec.eq_of_toNat_eq h))
  case h_21 h | h_22 h | h_23 h | h_24 h | h_25 h | h_26 h | h_27 h => exact faithful_decodeGlobal (by simp [h])
  case h_28 h | h_29 h | h_30 h | h_31 h | h_32 h | h_33 h | h_34 h | h_35 h | h_36 h =>
    exact faithful_decodeToken (by simp [h])
  case h_37 h | h_38 h | h_39 h | h_40 h | h_41 h | h_42 h | h_43 h => exact faithful_decodeEngine (by simp [h])
  case h_44 h | h_45 h | h_46 h | h_47 h => exact faithful_decodeSystem (by simp [h])
  case h_48 => simp +contextual [encode, Instr.wf]
  case h_49 => exact faithful_error

/-! ### The word of a well-formed instruction decodes to it -/

@[simp] theorem need_true {c : Bool} {e : DecodeErr} {k : Except DecodeErr Instr} (h : c = true) : need c e k = k := by
  rw [need, if_pos h]

/-- The encoding gives the word's fields, its major opcode the decoder, and the fields what that decoder answers. -/
theorem decode_of_encode {i : Instr} {w : Word} (wf : i.wf = true) (h : encode i = some w) : decode w = .ok i := by
  cases i with
  | add | sub | and | or | xor | andn | shl | shr | sar | rotr | min | max | minu | maxu | slt | sltu | seq | clz | ctz | popc
  | mul | mulh | mulhu | div | divu | rem | remu =>
    simp only [encode, Option.some.injEq, fmtR_eq, fn_flag] at h
    rw [decode_int (by simp [h])]
    simp [decodeInt, h, -BitVec.getLsbD_eq_getElem]
  | fadd | fsub | fmul | fmin | fmax | fcmpEq | fcmpLt | fcmpLe | fcmpUo | fcvt | frcp | frsq | fexp2 | flog2 | fsgnCp | fsgnNeg
  | fsgnXor =>
    simp only [encode, Option.some.injEq, fmtR_eq, fn_format] at h
    rw [decode_float (by simp [h])]
    simp_all [decodeFloat, Instr.wf]
  | fma =>
    simp only [encode, Option.some.injEq, fmtQ_eq, fnQ_format] at h
    rw [decode_three (by simp [h])]
    simp [decodeThree, h]
  | sel | ins | exts | extu =>
    simp only [encode, Option.some.injEq, fmtQ_eq] at h
    have high := fnQ_high h.2
    rw [decode_three (by simp [h])]
    simp_all [decodeThree]
  | addi | andi | ori | xori | slti | ldhi | addpc | shli | shri | sari | rotri =>
    simp only [encode, Option.some.injEq, fmtI_eq, imm_shift] at h
    rw [decode_imm (by simp [h])]
    simp [decodeImm, h, -BitVec.getLsbD_eq_getElem]
  | br | loop | jmp | call | ret | jtab | callr | endTask | endrTask =>
    simp only [encode, Option.some.injEq, fmtB_eq, fmtJ_eq, fmtR_eq] at h
    rw [decode_control (by simp [h])]
    simp_all [decodeControl, Instr.wf]
  | ldl | stl =>
    simp only [encode, Option.some.injEq, fmtML_eq, BitVec.ofNat_eq_ofNat, fld_bit, fld_clear] at h
    rw [decode_local (by simp [h])]
    simp_all [decodeLocal, Instr.wf, -BitVec.getLsbD_eq_getElem]
  | ldg | stg | atom | cas | futGet | futPut | futClear | prf | cwb | cinv | ord =>
    simp only [encode, Option.some.injEq, fmtMG_eq, order_flag] at h
    rw [decode_global (by simp [h])]
    simp_all [decodeGlobal, Instr.wf, -BitVec.getLsbD_eq_getElem]
  | recv | peek | send | fwd | rsv | chq | wemit | wrsv =>
    simp only [encode, Option.some.injEq, fmtT_eq, fl_recv, fl_control, fl_query, fl_count, input_port] at h
    rw [decode_token (by simp [h])]
    simp_all [decodeToken, no_count_or_flag, Instr.wf, -BitVec.getLsbD_eq_getElem]
  | sendn | sende | senderr | hdr =>
    simp only [encode, Option.some.injEq, fmtT_eq, BitVec.ofNat_eq_ofNat, fl_null, fl_end, fl_error, fl_header] at h
    rw [decode_token (by simp [h])]
    simp_all [decodeToken, Instr.wf, -BitVec.getLsbD_eq_getElem]
  | issue | barset | baradd | abload | abswap | abdrop | abqry | cfgload | cfgloadRestore | place | mark | pwreq | pwrel
  | prio =>
    simp only [encode, Option.some.injEq, fmtC_eq, fmtR_eq, fmtI_eq, BitVec.ofNat_eq_ofNat, fn_slot, fn_port, fn_zero, fn_one,
      imm_class] at h
    rw [decode_engine (by simp [h])]
    simp_all [decodeEngine, Instr.wf, -BitVec.getLsbD_eq_getElem]
  | csrr | csrw | csrx | krd | kwr | time | trap | eret | brk | halt | mxsave | mxrest =>
    simp only [encode, Option.some.injEq, fmtS_eq, csr_k] at h
    rw [decode_system (by simp [h])]
    simp_all [decodeSystem, Instr.wf]
  | nop =>
    cases h
    rfl
  | _ => cases h

/-- Settles O51: the fields of a well-formed instruction's word lead the decoder back to it, and each decoder answers only
instructions whose encoding has the fields that it read and checked. -/
theorem decodeEncode : Obligations.DecodeEncode :=
  ⟨fun _ _ wf h => decode_of_encode wf h, fun i w h => faithful_decode w i h⟩

/-! ## Stream commands and lane words (R287, R288, R292, R293) -/

/-! ### The words of a command -/

section
variable {w : BitVec 128}

theorem cfld_bit {lo : Nat} {b : Bool} : cfld w lo 1 = bit b ↔ w.getLsbD lo = b := extract_eq_bit

theorem command_eq {w3 w2 w1 w0 : Word} : w3 ++ w2 ++ w1 ++ w0 = w ↔
    ((cfld w 96 32 = w3 ∧ cfld w 64 32 = w2) ∧ cfld w 32 32 = w1) ∧ cfld w 0 32 = w0 := by
  rw [eq_comm, show (w = _) = (w.extractLsb' 0 128 = _) by rw [extract_all]]
  exact (extract_snoc 0 96 32 (extract_snoc 32 64 32 (extract_snoc 64 32 32 Iff.rfl)))

theorem cmdW0_eq {op : BitVec 8} {h : CmdHead} {per : BitVec 14} : cfld w 0 32 = cmdW0 op h per ↔
    ((((cfld w 24 8 = op ∧ w.getLsbD 23 = h.slot.isSome) ∧ cfld w 17 6 = h.slot.getD 0) ∧ cfld w 15 2 = h.sc) ∧
      w.getLsbD 14 = h.ct) ∧ cfld w 0 14 = per :=
  extract_snoc 0 18 14 ((extract_snoc 14 17 1 (extract_snoc 15 15 2 (extract_snoc 17 9 6
    ((extract_snoc 23 8 1 Iff.rfl).trans (and_congr_right' cfld_bit))))).trans (and_congr_right' cfld_bit))

/-- The head that is read from a word is encoded as it stands there, if the slot field of a command without a slot is zero. -/
theorem cmdW0_read {op : BitVec 8} {per : BitVec 14} (clear : ¬(!w.getLsbD 23 && decide (cfld w 17 6 ≠ 0)) = true) :
    cfld w 0 32 = cmdW0 op ⟨if w.getLsbD 23 then some (cfld w 17 6) else none, cfld w 15 2, w.getLsbD 14⟩ per ↔
      cfld w 24 8 = op ∧ cfld w 0 14 = per := by
  rw [cmdW0_eq]
  cases named : w.getLsbD 23 <;> simp_all [-BitVec.getLsbD_eq_getElem]

theorem addrW_eq {lo : Nat} {a : BitVec 18} : cfld w lo 32 = addrW a ↔ cfld w (lo + 18) 14 = 0#14 ∧ cfld w lo 18 = a :=
  extract_snoc lo 14 18 Iff.rfl

theorem optW3_some {a : BitVec 18} :
    cfld w 96 32 = optW3 (some a) ↔ (w.getLsbD 127 = true ∧ cfld w 114 13 = 0#13) ∧ cfld w 96 18 = a :=
  extract_snoc 96 14 18 (extract_snoc 114 1 13 (cfld_bit (b := true)))

theorem optW3_none : cfld w 96 32 = optW3 none ↔ (w.getLsbD 127 = false ∧ cfld w 114 13 = 0#13) ∧ cfld w 96 18 = 0#18 :=
  extract_snoc (x := 0) (y := 0) 96 14 18 (extract_snoc (x := 0) (y := 0) 114 1 13 (cfld_bit (b := false)))

/-- The optional address that is read is the one that the word encodes. -/
theorem optW3_of_optAddr {x : Option (BitVec 18)} (h : optAddr w = some x) : cfld w 96 32 = optW3 x := by
  unfold optAddr at h
  split at h
  · cases h
  · next zero =>
    split at h
    · next present =>
      cases h
      exact optW3_some.2 ⟨⟨present, not_not.1 zero⟩, rfl⟩
    · next absent =>
      split at h
      · next clear =>
        cases h
        exact optW3_none.2 ⟨⟨Bool.eq_false_iff.2 absent, not_not.1 zero⟩, clear⟩
      · cases h

theorem per_copy {tr fo : Bool} {z : BitVec 12} :
    cfld w 0 14 = bit tr ++ bit fo ++ z ↔ (w.getLsbD 13 = tr ∧ w.getLsbD 12 = fo) ∧ cfld w 0 12 = z :=
  extract_snoc 0 2 12 ((extract_snoc 12 1 1 cfld_bit).trans (and_congr_right' cfld_bit))

theorem per_op {op : BitVec 4} {z : BitVec 10} : cfld w 0 14 = op ++ z ↔ cfld w 10 4 = op ∧ cfld w 0 10 = z :=
  extract_snoc 0 4 10 Iff.rfl

theorem per_acc {d r : BitVec 2} {c : Bool} {z : BitVec 9} : cfld w 0 14 = d ++ bit c ++ r ++ z ↔
    ((cfld w 12 2 = d ∧ w.getLsbD 11 = c) ∧ cfld w 9 2 = r) ∧ cfld w 0 9 = z :=
  extract_snoc 0 5 9 (extract_snoc 9 3 2 ((extract_snoc 11 2 1 Iff.rfl).trans (and_congr_right' cfld_bit)))

theorem per_seg {g : BitVec 2} {z : BitVec 12} : cfld w 0 14 = g ++ z ↔ cfld w 12 2 = g ∧ cfld w 0 12 = z :=
  extract_snoc 0 2 12 Iff.rfl

theorem per_link {l : BitVec 3} {z : BitVec 11} : cfld w 0 14 = l ++ z ↔ cfld w 11 3 = l ∧ cfld w 0 11 = z :=
  extract_snoc 0 3 11 Iff.rfl

theorem mma_w1 {pol : BitVec 4} {k : BitVec 16} {bc ac : Bool} {bf af : BitVec 5} :
    cfld w 32 32 = pol ++ k ++ bit bc ++ bit ac ++ bf ++ af ↔
    ((((cfld w 60 4 = pol ∧ cfld w 44 16 = k) ∧ w.getLsbD 43 = bc) ∧ w.getLsbD 42 = ac) ∧ cfld w 37 5 = bf) ∧
      cfld w 32 5 = af :=
  extract_snoc 32 27 5 (extract_snoc 37 22 5 ((extract_snoc 42 21 1 ((extract_snoc 43 20 1 (extract_snoc 44 4 16 Iff.rfl)).trans
    (and_congr_right' cfld_bit))).trans (and_congr_right' cfld_bit)))

theorem mma_w2 {z : BitVec 26} {bi ai : Port} :
    cfld w 64 32 = z ++ bi ++ ai ↔ (cfld w 70 26 = z ∧ cfld w 67 3 = bi) ∧ cfld w 64 3 = ai :=
  extract_snoc 64 29 3 (extract_snoc 67 26 3 Iff.rfl)

theorem mmac_w1 {z : BitVec 7} {pol : BitVec 4} {bf f : BitVec 5} {bc : Bool} {e : BitVec 8} {s : BitVec 2} :
    cfld w 32 32 = z ++ pol ++ bf ++ bit bc ++ e ++ f ++ s ↔
    (((((cfld w 57 7 = z ∧ cfld w 53 4 = pol) ∧ cfld w 48 5 = bf) ∧ w.getLsbD 47 = bc) ∧ cfld w 39 8 = e) ∧
      cfld w 34 5 = f) ∧ cfld w 32 2 = s :=
  extract_snoc 32 30 2 (extract_snoc 34 25 5 (extract_snoc 39 17 8 ((extract_snoc 47 16 1 (extract_snoc 48 11 5
    (extract_snoc 53 7 4 Iff.rfl))).trans (and_congr_right' cfld_bit))))

theorem accrd_w1 {z : BitVec 7} {pol : BitVec 4} {b j : BitVec 8} {f : BitVec 5} : cfld w 32 32 = z ++ pol ++ b ++ j ++ f ↔
    (((cfld w 57 7 = z ∧ cfld w 53 4 = pol) ∧ cfld w 45 8 = b) ∧ cfld w 37 8 = j) ∧ cfld w 32 5 = f :=
  extract_snoc 32 27 5 (extract_snoc 37 19 8 (extract_snoc 45 11 8 (extract_snoc 53 7 4 Iff.rfl)))

theorem port_w2 {z : BitVec 29} {p : Port} : cfld w 64 32 = z ++ p ↔ cfld w 67 29 = z ∧ cfld w 64 3 = p :=
  extract_snoc 64 29 3 Iff.rfl

theorem scale_w3 {z : BitVec 24} {e : BitVec 8} : cfld w 96 32 = z ++ e ↔ cfld w 104 24 = z ∧ cfld w 96 8 = e :=
  extract_snoc 96 24 8 Iff.rfl

/-! ### What is accepted is the encoding of what is read -/

/-- A decoding that answers only a head and a command whose encoding is `w`. -/
def FaithfulCmd (w : BitVec 128) (r : Option (CmdHead × Command)) : Prop := ∀ h c, r = some (h, c) → encodeCommand h c = w

@[simp] theorem faithfulCmd_none : FaithfulCmd w none := nofun

@[simp] theorem faithfulCmd_some {h : CmdHead} {c : Command} : FaithfulCmd w (some (h, c)) ↔ encodeCommand h c = w :=
  ⟨fun f => f h c rfl, fun f _ _ e => by cases e; exact f⟩

@[simp] theorem faithfulCmd_ite {p : Prop} [Decidable p] {r : Option (CmdHead × Command)} :
    FaithfulCmd w (if p then r else none) ↔ (p → FaithfulCmd w r) := by
  by_cases h : p <;> simp [h]

theorem faithful_decodeCommand : FaithfulCmd w (decodeCommand w) := by
  simp only [decodeCommand]
  split
  · exact faithfulCmd_none
  · next clear =>
    split
    case h_11 => exact faithfulCmd_none
    case h_1 | h_4 | h_8 | h_10 =>
      split
      · exact faithfulCmd_none
      · next addr =>
        have w3 := optW3_of_optAddr addr
        simp only [faithfulCmd_ite, faithfulCmd_some, encodeCommand]
        refine fun checks => command_eq.2 ?_
        simp only [cmdW0_read clear, w3, addrW_eq, per_copy, per_op, per_seg, per_link]
        simp_all [BitVec.toNat_eq_nat]
    all_goals
      simp only [faithfulCmd_ite, faithfulCmd_some, encodeCommand]
      refine fun checks => command_eq.2 ?_
      simp only [cmdW0_read clear, addrW_eq, optW3_some, per_acc, mma_w1, mma_w2, mmac_w1, accrd_w1, port_w2, scale_w3]
      simp_all [BitVec.toNat_eq_nat]

theorem cfld_toNat {lo n : Nat} : (cfld w lo n).toNat = w.toNat / 2 ^ lo % 2 ^ n := by
  rw [cfld, BitVec.extractLsb'_toNat, Nat.shiftRight_eq_div_pow]

theorem decodeCommand_unassigned (h : w.toNat / 2 ^ 24 % 256 = 0 ∨ 0x0A < w.toNat / 2 ^ 24 % 256) : decodeCommand w = none := by
  have op : (cfld w 24 8).toNat = w.toNat / 2 ^ 24 % 256 := cfld_toNat
  simp only [decodeCommand]
  split
  · rfl
  · split
    case h_11 => rfl
    all_goals omega

end

/-! ### Lane words -/

theorem laneWord_eq {op : BitVec 6} {sa sb sc out : BitVec 3} {pol : BitVec 4} {p : BitVec 10} {w : Word} :
    op ++ sa ++ sb ++ sc ++ out ++ pol ++ p = w ↔ (((((fld w 26 6 = op ∧ fld w 23 3 = sa) ∧ fld w 20 3 = sb) ∧
      fld w 17 3 = sc) ∧ fld w 14 3 = out) ∧ fld w 10 4 = pol) ∧ fld w 0 10 = p :=
  eq_word.trans (fld_snoc 0 22 10 (fld_snoc 10 18 4 (fld_snoc 14 15 3 (fld_snoc 17 12 3 (fld_snoc 20 9 3
      (fld_snoc 23 6 3 Iff.rfl))))))

theorem encodeLane_of_decodeLane {w : Word} {l : LaneWord} (h : decodeLane w = some l) : encodeLane l = w := by
  simp only [decodeLane] at h
  split at h
  · cases h
  · split at h
    · cases h
      simp [encodeLane, laneWord_eq]
    · cases h

theorem laneOp_unassigned {n : Nat} (h : 0x1D < n) : laneOp n = none := by
  unfold laneOp
  split
  case h_28 => rfl
  all_goals omega

theorem decodeLane_unassigned {w : Word} (h : 0x1D < w.toNat / 2 ^ 26) : decodeLane w = none := by
  have op : (fld w 26 6).toNat = w.toNat / 2 ^ 26 := by
    rw [fld, BitVec.extractLsb'_toNat, Nat.shiftRight_eq_div_pow]
    omega
  simp only [decodeLane]
  rw [laneOp_unassigned (op ▸ h)]

/-- Settles O52: an accepted command's four words and an accepted lane word are those of its fields, and no arm of either
decoder stands for an unassigned opcode. -/
theorem commandAndLaneWords : Obligations.CommandAndLaneWords :=
  ⟨fun _ h c => faithful_decodeCommand h c, fun _ _ => encodeLane_of_decodeLane, fun _ => decodeCommand_unassigned,
    fun _ => decodeLane_unassigned⟩

/-! ## Samples (R272, R275 to R285) -/

/-- Settles O50: each word is decoded by computation. -/
theorem decodeSamples : Obligations.DecodeSamples := by
  and_intros <;> rfl

end Sys2Proof

namespace Sys2Proof.Machine

open Sys2Proof.Safety

/-! ## Floating point arithmetic (R353, R358) -/

/-- A float result that retires is the state that the claims on float instructions name. -/
theorem retireFloat_eq_wroteFloat (s : State) (d : Reg) (r : Nat × Flags) : retireFloat s d r = .next (wroteFloat s d r) :=
  retire_eq_wrote _ _ _

/-- Settles O5: each instruction retires `floatResult` of its exact value, which rounds once. -/
theorem floatArithmetic : Obligations.FloatArithmetic := fun s d _ _ _ _ _ _ =>
  ⟨retireFloat_eq_wroteFloat s d _, retireFloat_eq_wroteFloat s d _, retireFloat_eq_wroteFloat s d _,
    retireFloat_eq_wroteFloat s d _⟩

/-! ## Jumps (R322, R326, R327, R376) -/

/-! ### Two writes of the core -/

/-- Below its first key a map takes a new entry in front. -/
theorem sset_of_swfFrom {α : Type} [DecidableEq α] {d : α} {m : Sparse α} {k : Nat} (h : swfFrom d (some k) m = true) (v : α) :
    sset d m k v = if v = d then m else (k, v) :: m := by
  cases m with
  | nil => rfl
  | cons p m =>
    obtain ⟨j, u⟩ := p
    simp only [swfFrom, Bool.and_eq_true, decide_eq_true_eq] at h
    obtain ⟨⟨above, -⟩, -⟩ := h
    rw [sset, if_neg (Nat.ne_of_lt above), if_pos above]

theorem sset_sset_same {α : Type} [DecidableEq α] {d : α} {m : Sparse α} (h : swf d m = true) (k : Nat) (v u : α) :
    sset d (sset d m k v) k u = sset d m k u := by
  induction m with
  | nil => by_cases hv : v = d <;> simp [sset, hv]
  | cons p m ih =>
    obtain ⟨j, x⟩ := p
    have tail : swfFrom d (some j) m = true := by
      simp only [swf, swfFrom, Bool.and_eq_true] at h
      exact h.2
    by_cases same : k = j
    · subst same
      by_cases hv : v = d
      · simp only [sset, if_pos, hv, sset_of_swfFrom tail]
      · simp only [sset, if_pos, if_neg hv]
    · by_cases below : k < j
      · by_cases hv : v = d <;> simp [sset, same, below, hv]
      · simp only [sset, if_neg same, if_neg below, ih (swfFrom_none d m _ tail)]

/-- Of two writes of the core in focus the second stands. -/
theorem State.setCore_setCore {s : State} (h : swf ({} : Tile) s.tiles = true) (c e : Core) :
    (s.setCore c).setCore e = s.setCore e := by
  rw [State.setCore, State.setCore_focus, State.tile_setCore_focus h]
  simp only [State.setCore, State.setTile, sset_sset_same h]

theorem State.goto_setReg {s : State} (h : swf ({} : Tile) s.tiles = true) (r : Reg) (v : Dw) (pc : Word) :
    (s.setReg r v).goto pc = s.setCore { s.core.setReg r v with pc := pc } := by
  rw [State.goto, State.setReg, State.core_setCore s _ h, State.setCore_setCore h]

theorem State.advance_setReg {s : State} (h : swf ({} : Tile) s.tiles = true) (r : Reg) (v : Dw) :
    (s.setReg r v).advance = s.setCore { s.core.setReg r v with pc := s.core.pc + 4 } := by
  rw [State.advance, State.setReg, State.core_setCore s _ h, State.setCore_setCore h, Core.step4, Core.setReg_pc]

/-! ### Targets and conditions -/

theorem target13_eq (pc : Word) (o : BitVec 13) : target13 pc o = pc + BitVec.ofInt 32 (o.toInt * 4) := by
  rw [target13, BitVec.ofInt_mul]
  rfl

theorem target26_eq (pc : Word) (o : BitVec 26) : target26 pc o = pc + BitVec.ofInt 32 (o.toInt * 4) := by
  rw [target26, BitVec.ofInt_mul]
  rfl

/-- A branch whose condition is `P` goes to its target just when `P` holds. -/
theorem exec_br {s : State} {c : BitVec 3} {a b : Reg} {P : Prop} [Decidable P]
    (taken : branchTaken c (s.reg a) (s.reg b) = true ↔ P) (o : BitVec 13) : exec (.br c a b o) s =
      .next (if P then jumped s (s.core.pc + BitVec.ofInt 32 (o.toInt * 4)) else passed s) := by
  rw [← target13_eq, ← if_congr taken rfl rfl]
  rfl

theorem exec_loop {s : State} (canon : Canon s) (a : Reg) (o : BitVec 13) : exec (.loop a o) s = .next (s.setCore
    { s.core.setReg a (s.reg a - 1) with
      pc := if s.reg a - 1 ≠ 0 then s.core.pc + BitVec.ofInt 32 (o.toInt * 4) else s.core.pc + 4 }) := by
  have loops : exec (.loop a o) s = .next (if s.reg a - 1 ≠ 0 then (s.setReg a (s.reg a - 1)).goto (target13 s.core.pc o)
    else (s.setReg a (s.reg a - 1)).advance) := rfl
  rw [loops, State.goto_setReg canon.tiles, State.advance_setReg canon.tiles, target13_eq]
  split <;> rfl

theorem badTarget_iff {v : Dw} : badTarget v = true ↔ 2 ^ 32 ≤ v.toNat ∨ v.toNat % 4 ≠ 0 := by
  simp [badTarget]

theorem exec_ret (s : State) (a : Reg) : exec (.ret a) s =
    if badTarget (s.reg a) then .next (s.takeTrap 3 (s.reg a)) else .next (jumped s ((s.reg a).setWidth 32)) := rfl

theorem exec_callr (s : State) (d a : Reg) : exec (.callr d a) s = if badTarget (s.reg a) then .next (s.takeTrap 3 (s.reg a))
    else .next ((s.setReg d (BitVec.setWidth 64 (s.core.pc + 4))).goto ((s.reg a).setWidth 32)) := rfl

/-- Settles O8: a branch is decided by its relation, and a jump through a register by `badTarget`; with a canonical state the
link and the new pc are one write of the core. -/
theorem jumps : Obligations.Jumps := by
  refine ⟨fun s a b o j => ⟨exec_br ?_ o, exec_br ?_ o, exec_br ?_ o, exec_br ?_ o, exec_br ?_ o, exec_br ?_ o,
    exec_br ?_ o, ?_, fun canon => ⟨exec_loop canon a o, ?_⟩⟩, fun s d a => ⟨fun low aligned => ?_, fun bad => ?_⟩⟩
  · exact beq_iff_eq
  · exact bne_iff_ne
  · exact BitVec.slt_iff_toInt_lt
  · simp [branchTaken, BitVec.slt_eq_decide]
  · exact BitVec.ult_iff_lt
  · simp [branchTaken, BitVec.ult_eq_decide]
  · exact bne_iff_ne
  · rw [← target26_eq]
    rfl
  · rw [← target26_eq, ← State.goto_setReg canon.tiles]
    rfl
  · have good : ¬badTarget (s.reg a) = true := by
      rw [badTarget_iff]
      omega
    refine ⟨?_, fun canon => ?_⟩
    · rw [exec_ret, if_neg good]
    · rw [exec_callr, if_neg good, State.goto_setReg canon.tiles]
  · exact ⟨(exec_ret s a).trans (if_pos (badTarget_iff.2 bad)), (exec_callr s d a).trans (if_pos (badTarget_iff.2 bad))⟩

/-! ## The order of trap causes (R274) -/

section
variable {s : State}

/-- With the clocks running and no turn named, the step is the turn of the core in focus. -/
theorem step_of_coreTurn (runs : s.frz = false) (on : s.stopped = false) (idle : s.agenda = []) : step s = coreTurn s := by
  simp [step, runs, on, idle]

/-- A firing in its core keeps a tile from being unlisted, so such a core is read back in every state. -/
theorem State.core_setCore_of_firing {c : Core} {f : Firing} (h : c.firing = some f) : (s.setCore c).core = c := by
  refine congrArg Tile.core (sget_sset_same_of_ne _ _ (fun unlisted => ?_) _ _)
  have idle : c.firing = none := congrArg (fun t : Tile => t.core.firing) unlisted
  exact nomatch h.symm.trans idle

variable {f : Firing} (fires : s.firing = some f)
include fires

theorem coreTurn_fetch (bad : s.fetchOk = false) : coreTurn s = .next (s.takeTrap 3 (s.core.pc.setWidth 64)) := by
  simp [coreTurn, fires, bad, Core.pcDw]

theorem coreTurn_limit (fetch : s.fetchOk = true) {i : Instr} (limit : s.limitOf f s.fetched = some i) :
    coreTurn s = exec i s := by
  simp [coreTurn, fires, fetch, limit]

theorem coreTurn_error (fetch : s.fetchOk = true) (limit : s.limitOf f s.fetched = none) {e : DecodeErr}
    (word : decode s.fetched = .error e) : coreTurn s = .next (s.counted.takeTrap 1 (s.fetched.setWidth 64)) := by
  simp [coreTurn, fires, fetch, limit, word]

theorem coreTurn_ok (fetch : s.fetchOk = true) (limit : s.limitOf f s.fetched = none) {i : Instr}
    (word : decode s.fetched = .ok i) : coreTurn s = exec i s.counted := by
  simp [coreTurn, fires, fetch, limit, word]

theorem State.core_modFiring (g : Firing → Firing) : (s.modFiring g).core = { s.core with firing := some (g f) } := by
  rw [State.modFiring, show s.core.firing = some f from fires]
  exact State.core_setCore_of_firing rfl

/-- Counting an instruction leaves the mode. -/
theorem State.counted_sys : s.counted.core.sys = s.core.sys := by
  unfold State.counted
  split <;> rw [State.core_modFiring fires]

end

/-! ### The limits, and the instructions that trap -/

theorem limitOf_taskLength {s : State} {f : Firing} {w : Word} (graph : s.core.sys = false)
    (past : (f.over6 = false ∧ 4096 ≤ f.count) ∨ (f.over6 = true ∧ decode w ≠ .ok .endTask ∧ decode w ≠ .ok .endrTask)) :
    s.limitOf f w = some .taskLengthExceeded := by
  obtain ⟨first, count⟩ | ⟨again, noEnd, noEndr⟩ := past
  · simp [State.limitOf, graph, first, count]
  · simp only [State.limitOf, graph, again]
    split <;> simp_all

section
variable {u : State}

/-- What CSRR, CSRW and CSRX answer where the register's number refuses every access with trap `t`. -/
theorem exec_csr_traps {t : BitVec 8} {g a : Reg} {c : BitVec 12} (traps : ∀ write, csrTrap u.core.sys write c.toNat = some t)
    {i : Instr} (names : i = .csrr g c ∨ i = .csrw a c ∨ i = .csrx g a c) : exec i u = .next (u.takeTrap t u.wordHere) := by
  obtain rfl | rfl | rfl := names
  · show execCsrr g c u = _
    rw [execCsrr, traps false]
    rfl
  · show execCsrw a c u = _
    rw [execCsrw, traps true]
    rfl
  · show execCsrx g a c u = _
    rw [execCsrx, traps true]
    rfl

theorem csrTrap_unassigned {n : Nat}
    (free : n ∉ [0, 1, 2, 3, 4, 5, 0x10, 0x11, 0x12, 0x13, 0x14, 0x15, 0x20, 0x21, 0x30, 0x31, 0x40, 0x41]) (sys write : Bool) :
    csrTrap sys write n = some 1 := by
  have none : csrAccess n = none := by
    simp only [List.mem_cons, List.not_mem_nil, or_false, not_or] at free
    unfold csrAccess
    split <;> simp_all
  rw [csrTrap, none]

theorem csrTrap_privileged {n : Nat} (system : n ∈ [5, 0x10, 0x11, 0x12, 0x13, 0x14, 0x15]) (write : Bool) :
    csrTrap false write n = some 2 := by
  have access : csrAccess n = some (.none, .rw) := by
    simp only [List.mem_cons, List.not_mem_nil, or_false] at system
    rcases system with rfl | rfl | rfl | rfl | rfl | rfl | rfl <;> rfl
  rw [csrTrap, access]
  rfl

theorem exec_privileged (graph : u.core.sys = false) {i : Instr} (system : i ∈ [Instr.eret, .mxsave, .mxrest]) :
    exec i u = .next (u.takeTrap 2 u.wordHere) := by
  simp only [List.mem_cons, List.not_mem_nil, or_false] at system
  obtain rfl | rfl | rfl := system
  · show execEret u = _
    simp [execEret, graph, privileged, trapNow]
  · show execMxsave u = _
    simp [execMxsave, graph, privileged, trapNow]
  · show execMxrest u = _
    simp [execMxrest, graph, privileged, trapNow]

theorem localTrap_outside {la : Dw} {n : Nat} (outside : u.localOk la.toNat n = false) : u.localTrap la n = some 3 := by
  simp [State.localTrap, outside]

theorem localTrap_misaligned {la : Dw} {n : Nat} (inside : u.localOk la.toNat n = true) (odd : la.toNat % n ≠ 0) :
    u.localTrap la n = some 4 := by
  simp [State.localTrap, inside, odd]

/-- LDL and STL take the trap of their access. -/
theorem exec_local_traps {g b : Reg} {z : BitVec 2} {x : Bool} {o : BitVec 13} {t : BitVec 8}
    (traps : u.localTrap (localAddr (u.reg b) o) (2 ^ z.toNat) = some t) {i : Instr}
    (names : i = .ldl g b z x o ∨ i = .stl g b z o) :
    exec i u = .next (u.takeTrap t (localAddr (u.reg b) o)) := by
  obtain rfl | rfl := names
  · show execLdl g b z x o u = _
    simp only [execLdl, traps, trapNow]
  · show execStl g b z o u = _
    simp only [execStl, traps, trapNow]

theorem exec_jtab_outside {a b : Reg} (outside : 2 ^ 18 ≤ (u.reg a).toNat) :
    exec (.jtab a b) u = .next (u.takeTrap 5 (u.reg a)) := by
  show execJtab a b u = _
  rw [execJtab, if_pos outside, trapNow]

theorem exec_jtab_misaligned {a b : Reg} (inside : (u.reg a).toNat < 2 ^ 18) (odd : (u.reg a).toNat % 4 ≠ 0) :
    exec (.jtab a b) u = .next (u.takeTrap 4 (u.reg a)) := by
  show execJtab a b u = _
  rw [execJtab, if_neg (Nat.not_le.2 inside), if_pos odd, trapNow]

theorem exec_jtab_past {a b : Reg} (inside : (u.reg a).toNat < 2 ^ 18) (aligned : (u.reg a).toNat % 4 = 0)
    (listed : (u.reg b).toNat < (u.tile u.focus).load (u.reg a).toNat 4 % 65536)
    (past : 0x3FFFC < (u.reg a).toNat + 4 + 4 * (u.reg b).toNat) :
    exec (.jtab a b) u = .next (u.takeTrap 5 (BitVec.ofNat 64 ((u.reg a).toNat + 4 + 4 * (u.reg b).toNat))) := by
  have entry : ¬(BitVec.ofNat 32 ((u.tile u.focus).load (u.reg a).toNat 4)).toNat % 65536 ≤ (u.reg b).toNat := by
    rw [BitVec.toNat_ofNat]
    omega
  show execJtab a b u = _
  simp only [execJtab, if_neg (Nat.not_le.2 inside), aligned, ne_eq, not_true_eq_false, if_false, if_neg entry, if_pos past,
    trapNow]

end

/-- Settles O54: the turn of a core asks for the fetch, the limit and the decoding in this order, and what an instruction
answers first is the trap of its own lemma above. -/
theorem trapOrder : Obligations.TrapOrder := by
  intro s f runs on idle fires
  rw [step_of_coreTurn runs on idle]
  refine ⟨coreTurn_fetch fires, fun fetch graph past => coreTurn_limit fires fetch (limitOf_taskLength graph past),
    fun fetch limit => ?_⟩
  have counted := State.counted_sys fires
  have issue {i : Instr} {o : Res} (word : decode s.fetched = .ok i) (answers : exec i s.counted = o) : coreTurn s = o :=
    (coreTurn_ok fires fetch limit word).trans answers
  have csr {t : BitVec 8} {g a : Reg} {c : BitVec 12} (traps : ∀ write, csrTrap s.counted.core.sys write c.toNat = some t)
      (word : decode s.fetched = .ok (.csrr g c) ∨ decode s.fetched = .ok (.csrw a c) ∨ decode s.fetched = .ok (.csrx g a c)) :
      coreTurn s = .next (s.counted.takeTrap t s.counted.wordHere) := by
    obtain word | word | word := word
    · exact issue word (exec_csr_traps (a := a) traps (.inl rfl))
    · exact issue word (exec_csr_traps (g := g) traps (.inr (.inl rfl)))
    · exact issue word (exec_csr_traps traps (.inr (.inr rfl)))
  refine ⟨fun e => coreTurn_error fires fetch limit, ?_, ?_, ?_, ?_, ?_, fun word => issue word rfl,
    fun c word => issue word rfl⟩
  · exact fun g a c free word => csr (csrTrap_unassigned free _) word
  · exact fun graph i system word => issue word (exec_privileged (counted.trans graph) system)
  · exact fun graph g a c system word => csr (fun write => counted.trans graph ▸ csrTrap_privileged system write) word
  · intro g b z x o word
    have access {t : BitVec 8} (traps : s.counted.localTrap (localAddr (s.counted.reg b) o) (2 ^ z.toNat) = some t) :
        coreTurn s = .next (s.counted.takeTrap t (localAddr (s.counted.reg b) o)) :=
      word.elim (fun ldl => issue ldl (exec_local_traps traps (.inl rfl)))
        fun stl => issue stl (exec_local_traps (x := x) traps (.inr rfl))
    exact ⟨fun outside => access (localTrap_outside outside), fun inside odd => access (localTrap_misaligned inside odd)⟩
  · exact fun a b word => ⟨fun outside => issue word (exec_jtab_outside outside),
      fun inside odd => issue word (exec_jtab_misaligned inside odd),
      fun inside aligned listed past => issue word (exec_jtab_past inside aligned listed past)⟩

end Sys2Proof.Machine

namespace Sys2Proof.Machine

open Sys2Proof.Safety

/-! ## Integer instructions (R73, R312 to R315, R345, R350, R372, R391, R400, R405) -/

section
variable {s : State} {d : Reg} {i : Instr} {f : (n : Nat) → BitVec n → BitVec n → BitVec n} {x y v : Dw}

theorem exec_of_retire (op : exec i s = retire s d x) (value : x = v) : exec i s = .next (wrote s d v) :=
  op.trans ((retire_eq_wrote s d x).trans (by rw [value]))

theorem exec_onWidth64 (op : exec i s = retire s d (onWidth false f x y)) (value : f 64 x y = v) :
    exec i s = .next (wrote s d v) :=
  exec_of_retire op value

/-- The 32-bit form works on the low words and its result is sign-extended (R73). -/
theorem exec_onWidth32 (op : exec i s = retire s d (onWidth true f x y)) (value : sx (f 32 (low x) (low y)) = v) :
    exec i s = .next (wrote s d v) :=
  exec_of_retire op value

end

/-! ### Arithmetic, logic and comparison (R312) -/

section
variable {n : Nat} (x y : BitVec n)

theorem bvMin_eq : bvMin x y = if x.toInt ≤ y.toInt then x else y := by
  simp only [bvMin, BitVec.sle_iff_toInt_le]

theorem bvMax_eq : bvMax x y = if x.toInt ≤ y.toInt then y else x := by
  simp only [bvMax, BitVec.sle_iff_toInt_le]

theorem bvMinu_eq : bvMinu x y = if x.toNat ≤ y.toNat then x else y := by
  simp only [bvMinu, BitVec.ule_iff_toNat_le]

theorem bvMaxu_eq : bvMaxu x y = if x.toNat ≤ y.toNat then y else x := by
  simp only [bvMaxu, BitVec.ule_iff_toNat_le]

theorem bvBool_slt : (bvBool (x.slt y) : BitVec n) = if x.toInt < y.toInt then 1 else 0 := by
  simp only [bvBool, BitVec.slt_iff_toInt_lt]

theorem bvBool_ult : (bvBool (x.ult y) : BitVec n) = if x.toNat < y.toNat then 1 else 0 := by
  simp only [bvBool, BitVec.ult_iff_toNat_lt]

theorem bvBool_beq : (bvBool (x == y) : BitVec n) = if x = y then 1 else 0 := by
  simp only [bvBool, beq_iff_eq]

end

/-- A truth value is the same doubleword in both forms. -/
theorem sx_ite {p : Prop} [Decidable p] : sx (if p then 1 else 0) = if p then 1 else 0 := by
  split <;> rfl

/-- Settles O1: each instruction applies its operation on the width of its form, and its order is that of the integers or of the
naturals. -/
theorem aluArithmetic : Obligations.AluArithmetic :=
  ⟨fun _ _ _ _ => ⟨exec_onWidth64 rfl rfl, exec_onWidth64 rfl rfl, exec_onWidth64 rfl rfl, exec_onWidth64 rfl rfl,
    exec_onWidth64 rfl rfl, exec_onWidth64 rfl rfl, exec_onWidth64 rfl (bvMin_eq _ _), exec_onWidth64 rfl (bvMax_eq _ _),
    exec_onWidth64 rfl (bvMinu_eq _ _), exec_onWidth64 rfl (bvMaxu_eq _ _), exec_onWidth64 rfl (bvBool_slt _ _),
    exec_onWidth64 rfl (bvBool_ult _ _), exec_onWidth64 rfl (bvBool_beq _ _)⟩,
  fun _ _ _ _ => ⟨exec_onWidth32 rfl rfl, exec_onWidth32 rfl rfl, exec_onWidth32 rfl rfl, exec_onWidth32 rfl rfl,
    exec_onWidth32 rfl rfl, exec_onWidth32 rfl rfl, exec_onWidth32 rfl (congrArg sx (bvMin_eq _ _)),
    exec_onWidth32 rfl (congrArg sx (bvMax_eq _ _)), exec_onWidth32 rfl (congrArg sx (bvMinu_eq _ _)),
    exec_onWidth32 rfl (congrArg sx (bvMaxu_eq _ _)), exec_onWidth32 rfl ((congrArg sx (bvBool_slt _ _)).trans sx_ite),
    exec_onWidth32 rfl ((congrArg sx (bvBool_ult _ _)).trans sx_ite),
    exec_onWidth32 rfl ((congrArg sx (bvBool_beq _ _)).trans sx_ite)⟩⟩

/-! ### Shifts and immediates (R312, R314, R315, R372, R400, R405) -/

theorem low_toNat_mod (y : Dw) : (low y).toNat % 32 = y.toNat % 32 := by
  rw [low, BitVec.toNat_setWidth]
  omega

theorem amount64 (k : BitVec 6) : (k.setWidth 64).toNat % 64 = k.toNat := by
  rw [BitVec.toNat_setWidth]
  omega

theorem amount32 (k : BitVec 6) : (low (k.setWidth 64)).toNat % 32 = k.toNat % 32 := by
  rw [low_toNat_mod, BitVec.toNat_setWidth]
  omega

theorem simm_shiftLeft (i : BitVec 16) : simm i <<< 16 = BitVec.ofInt 64 (i.toInt * 2 ^ 16) := by
  rw [BitVec.ofInt_mul, BitVec.shiftLeft_eq_mul_twoPow]
  rfl

theorem simm_mul_four (i : BitVec 16) : simm i * 4 = BitVec.ofInt 64 (i.toInt * 4) := by
  rw [BitVec.ofInt_mul]
  rfl

theorem simm_toInt (i : BitVec 16) : (simm i).toInt = i.toInt := BitVec.toInt_signExtend_of_le (by decide)

/-- Settles O2: a shift is by its amount modulo the width, an immediate is extended to 64 bits. -/
theorem shiftsAndImmediates : Obligations.ShiftsAndImmediates := by
  refine ⟨fun s d a b k => ?_, fun s d a b c i => ?_⟩
  · let x := s.reg a
    have by32 := low_toNat_mod (s.reg b)
    have imm64 := amount64 k
    have imm32 := amount32 k
    exact ⟨exec_onWidth64 rfl rfl, exec_onWidth64 rfl rfl, exec_onWidth64 rfl rfl, exec_onWidth64 rfl rfl,
      exec_onWidth32 rfl (congrArg (fun n => sx (low x <<< n)) by32),
      exec_onWidth32 rfl (congrArg (fun n => sx (low x >>> n)) by32),
      exec_onWidth32 rfl (congrArg (fun n => sx ((low x).sshiftRight n)) by32),
      exec_onWidth32 rfl (congrArg (fun n => sx ((low x).rotateRight n)) by32),
      exec_onWidth64 rfl (congrArg (x <<< ·) imm64), exec_onWidth64 rfl (congrArg (x >>> ·) imm64),
      exec_onWidth64 rfl (congrArg x.sshiftRight imm64), exec_onWidth64 rfl (congrArg x.rotateRight imm64),
      exec_onWidth32 rfl (congrArg (fun n => sx (low x <<< n)) imm32),
      exec_onWidth32 rfl (congrArg (fun n => sx (low x >>> n)) imm32),
      exec_onWidth32 rfl (congrArg (fun n => sx ((low x).sshiftRight n)) imm32),
      exec_onWidth32 rfl (congrArg (fun n => sx ((low x).rotateRight n)) imm32)⟩
  · refine ⟨exec_of_retire rfl rfl, exec_of_retire rfl rfl, exec_of_retire rfl rfl, exec_of_retire rfl rfl,
      exec_of_retire rfl ?_, exec_of_retire rfl (simm_shiftLeft i), exec_of_retire rfl ?_, exec_of_retire rfl ?_, rfl⟩
    · rw [bvBool_slt, simm_toInt]
    · rw [simm_mul_four, Core.pcDw, BitVec.ofNat_toNat]
    · rw [ite_not]

/-! ### Bit counts (R312) -/

theorem leadZeros_spec {x k : Nat} (bound : x < 2 ^ k) : leadZeros x k ≤ k ∧ x < 2 ^ (k - leadZeros x k) ∧
    (leadZeros x k < k → 2 ^ (k - 1 - leadZeros x k) ≤ x) := by
  induction k with
  | zero => exact ⟨Nat.le_refl _, bound, fun h => absurd h (Nat.lt_irrefl _)⟩
  | succ k ih =>
    rw [leadZeros]
    split
    · next top => exact ⟨Nat.zero_le _, bound, fun _ => Nat.ge_two_pow_of_testBit top⟩
    · next clear =>
      have below : x < 2 ^ k := by
        have high : x / 2 ^ k < 2 := Nat.div_lt_of_lt_mul (by rwa [← Nat.pow_succ])
        have even : x / 2 ^ k % 2 ≠ 1 := by simpa [Nat.testBit_eq_decide_div_mod_eq] using clear
        generalize quotient : x / 2 ^ k = q at high even
        obtain rfl : q = 0 := by omega
        exact (Nat.div_eq_zero_iff.1 quotient).resolve_left (by positivity)
      obtain ⟨le, lt, least⟩ := ih below
      rw [show k + 1 - (leadZeros x k + 1) = k - leadZeros x k by omega,
        show k + 1 - 1 - (leadZeros x k + 1) = k - 1 - leadZeros x k by omega]
      exact ⟨by omega, lt, fun h => least (by omega)⟩

theorem trailZeros_spec (x i k : Nat) : trailZeros x i k ≤ k ∧ (∀ j < trailZeros x i k, x.testBit (i + j) = false) ∧
    (trailZeros x i k < k → x.testBit (i + trailZeros x i k) = true) := by
  induction k generalizing i with
  | zero => exact ⟨Nat.le_refl _, fun _ h => absurd h (Nat.not_lt_zero _), fun h => absurd h (Nat.lt_irrefl _)⟩
  | succ k ih =>
    rw [trailZeros]
    split
    · next set => exact ⟨Nat.zero_le _, fun _ h => absurd h (Nat.not_lt_zero _), fun _ => set⟩
    · next clear =>
      obtain ⟨le, zeros, one⟩ := ih (i + 1)
      refine ⟨by omega, fun j below => ?_, fun h => ?_⟩
      · cases j with
        | zero => simpa using clear
        | succ j => simpa [Nat.add_assoc, Nat.add_comm 1] using zeros j (by omega)
      · simpa [Nat.add_assoc, Nat.add_comm 1] using one (by omega)

/-- The trailing zeros by what they divide. -/
theorem trailZeros_mod (x k : Nat) : x % 2 ^ trailZeros x 0 k = 0 ∧
    (trailZeros x 0 k < k → x % 2 ^ (trailZeros x 0 k + 1) ≠ 0) := by
  obtain ⟨-, zeros, one⟩ := trailZeros_spec x 0 k
  refine ⟨Nat.eq_of_testBit_eq fun j => ?_, fun below multiple => ?_⟩
  · rw [Nat.testBit_mod_two_pow, Nat.zero_testBit]
    by_cases h : j < trailZeros x 0 k
    · simpa [h] using zeros j h
    · simp [h]
  · have bit := congrArg (Nat.testBit · (trailZeros x 0 k)) multiple
    simp only [Nat.testBit_mod_two_pow, Nat.zero_testBit, Nat.lt_succ_self, decide_true, Bool.true_and] at bit
    simp [bit] at one
    omega

theorem popCount_eq (x k : Nat) : popCount x k = (List.range k).countP x.testBit := by
  induction k with
  | zero => rfl
  | succ k ih => rw [popCount, ih, List.range_succ, List.countP_append, List.countP_singleton, b2n]

theorem popCount_le (x k : Nat) : popCount x k ≤ k := by
  simpa [popCount_eq] using List.countP_le_length (p := x.testBit) (l := List.range k)

theorem sx_ofNat {n : Nat} (small : n ≤ 32) : sx (BitVec.ofNat 32 n) = BitVec.ofNat 64 n := by
  have positive : (BitVec.ofNat 32 n).msb = false := by
    simp only [BitVec.msb_eq_decide, BitVec.toNat_ofNat, decide_eq_false_iff_not]
    omega
  refine (BitVec.signExtend_eq_setWidth_of_msb_false positive).trans (BitVec.eq_of_toNat_eq ?_)
  simp only [BitVec.toNat_setWidth, BitVec.toNat_ofNat]
  omega

/-- A count of bits of a form is the same doubleword in both forms. -/
theorem exec_count {s : State} {d a : Reg} {w : Bool} {i : Instr} {f : Nat → Nat → Nat} (small : ∀ x n, x < 2 ^ n → f x n ≤ n)
    (op : exec i s = alu s d a 0 w fun n x _ => BitVec.ofNat n (f x.toNat n)) :
    exec i s = .next (wrote s d (BitVec.ofNat 64 (f ((s.reg a).toNat % 2 ^ (if w then 32 else 64)) (if w then 32 else 64)))) := by
  cases w with
  | false =>
    refine exec_onWidth64 op ?_
    simp only [Bool.false_eq_true, if_false]
    rw [Nat.mod_eq_of_lt (s.reg a).isLt]
  | true =>
    refine exec_onWidth32 op ?_
    simp only [if_true]
    rw [← BitVec.toNat_setWidth]
    exact sx_ofNat (small _ 32 (BitVec.isLt _))

/-! ### Bit fields (R350) -/

theorem fieldOf_eq (c : Dw) : fieldOf c = (c.toNat % 64, min (c.toNat / 256 % 128) (64 - c.toNat % 64)) := by
  simp only [fieldOf, dwAt, bitsAt, Nat.pow_zero, Nat.div_one, Nat.reducePow, Prod.mk.injEq, true_and]
  omega

section
variable {x y : Dw} {pos n j : Nat}

theorem getLsbD_extractBits (inside : j < 64) : (extractBits x pos n).getLsbD j = (decide (j < n) && x.getLsbD (pos + j)) := by
  rw [extractBits, bitsAt, BitVec.getLsbD_ofNat, Nat.testBit_mod_two_pow, Nat.testBit_div_two_pow, Nat.add_comm j]
  simp [inside, BitVec.getLsbD]

theorem sextNat_eq_toInt (x : Nat) {n : Nat} (pos : 0 < n) : sextNat x n = (BitVec.ofNat n x).toInt := by
  obtain ⟨k, rfl⟩ := Nat.exists_eq_succ_of_ne_zero pos.ne'
  rw [sextNat, BitVec.toInt_eq_toNat_cond, BitVec.toNat_ofNat, Nat.succ_sub_one, Nat.pow_succ]
  refine if_congr ⟨fun h => ?_, fun h => ?_⟩ rfl rfl <;> omega

theorem getLsbD_signFrom (inside : j < 64) :
    (signFrom x n).getLsbD j = (decide (0 < n) && x.getLsbD (min j (n - 1))) := by
  obtain rfl | pos := Nat.eq_zero_or_pos n
  · simp [signFrom]
  · have top : (BitVec.ofNat n x.toNat).msb = x.getLsbD (n - 1) := by
      simp [BitVec.msb_eq_getLsbD_last, pos, BitVec.getLsbD]
    rw [signFrom, if_neg pos.ne', sextNat_eq_toInt _ pos]
    rw [show BitVec.ofInt 64 (BitVec.ofNat n x.toNat).toInt = (BitVec.ofNat n x.toNat).signExtend 64 from rfl,
      BitVec.getLsbD_signExtend, top]
    by_cases below : j < n
    · simp [below, inside, pos, BitVec.getLsbD, Nat.min_eq_left (Nat.le_sub_one_of_lt below)]
    · simp [below, inside, pos, Nat.min_eq_right (show n - 1 ≤ j by omega)]

theorem getLsbD_insertBits (inside : j < 64) : (insertBits x y pos n).getLsbD j =
    if pos ≤ j ∧ j < pos + n then y.getLsbD (j - pos) else x.getLsbD j := by
  have mask : (BitVec.ofNat 64 ((2 ^ n - 1) * 2 ^ pos)).getLsbD j = decide (pos ≤ j ∧ j < pos + n) := by
    rw [BitVec.getLsbD_ofNat, Nat.testBit_mul_two_pow, Nat.testBit_two_pow_sub_one]
    simp only [inside, decide_true, Bool.true_and, ← Bool.decide_and, decide_eq_decide]
    omega
  simp only [insertBits, BitVec.getLsbD_or, BitVec.getLsbD_and, BitVec.getLsbD_not, BitVec.getLsbD_shiftLeft, mask]
  by_cases field : pos ≤ j ∧ j < pos + n
  · simp [field, inside]
  · simp [field, inside]

end

/-- Settles O3: the counts are those of the lemmas above, and each field instruction is read bit by bit. -/
theorem bitCountsAndFields : Obligations.BitCountsAndFields := by
  refine ⟨fun s d a w => ?_, fun s d a b c => ?_⟩
  · intro width x
    have bound : x < 2 ^ width := Nat.mod_lt _ (by positivity)
    obtain ⟨leadLe, leadLt, leadLeast⟩ := leadZeros_spec bound
    obtain ⟨divides, exact⟩ := trailZeros_mod x width
    refine ⟨⟨_, leadLe, leadLt, leadLeast, exec_count (fun _ _ h => (leadZeros_spec h).1) rfl⟩,
      ⟨_, (trailZeros_spec x 0 width).1, divides, exact, exec_count (fun x n _ => (trailZeros_spec x 0 n).1) rfl⟩, ?_⟩
    rw [← popCount_eq]
    exact exec_count (fun x n _ => popCount_le x n) rfl
  · intro pos len
    have field : fieldOf (s.reg c) = (pos, len) := fieldOf_eq _
    refine ⟨⟨_, exec_of_retire rfl rfl, fun j inside => ?_⟩, ⟨_, exec_of_retire rfl rfl, fun j inside => ?_⟩,
      ⟨_, exec_of_retire rfl rfl, fun j inside => ?_⟩⟩
    · rw [field, getLsbD_extractBits inside]
    · rw [field, getLsbD_signFrom inside, getLsbD_extractBits (by omega)]
      by_cases some : 0 < len
      · simp [some, show min j (len - 1) < len by omega]
      · simp [some]
    · rw [field, getLsbD_insertBits inside]

/-! ### Multiplication and division (R345, R391) -/

section
variable {n : Nat} (x y : BitVec n)

theorem mul_eq_ofNat : x * y = BitVec.ofNat n (x.toNat * y.toNat) :=
  BitVec.eq_of_toNat_eq (by rw [BitVec.toNat_mul, BitVec.toNat_ofNat])

theorem sdiv_eq_ofInt : x.sdiv y = BitVec.ofInt n (x.toInt.tdiv y.toInt) :=
  BitVec.eq_of_toInt_eq (by rw [BitVec.toInt_sdiv, BitVec.toInt_ofInt])

theorem srem_eq_ofInt : x.srem y = BitVec.ofInt n (x.toInt.tmod y.toInt) := by
  rw [← BitVec.toInt_srem, BitVec.ofInt_toInt]

theorem udiv_eq_ofNat : x / y = BitVec.ofNat n (x.toNat / y.toNat) := by
  rw [← BitVec.toNat_udiv, BitVec.ofNat_toNat, BitVec.setWidth_eq]

theorem umod_eq_ofNat : x % y = BitVec.ofNat n (x.toNat % y.toNat) := by
  rw [← BitVec.toNat_umod, BitVec.ofNat_toNat, BitVec.setWidth_eq]

theorem divSigned_eq : divSigned x y = if y = 0 then BitVec.allOnes n else BitVec.ofInt n (x.toInt.tdiv y.toInt) := by
  rw [divSigned, sdiv_eq_ofInt]

theorem divUnsigned_eq : divUnsigned x y = if y = 0 then BitVec.allOnes n else BitVec.ofNat n (x.toNat / y.toNat) := by
  rw [divUnsigned, udiv_eq_ofNat]

theorem remSigned_eq : remSigned x y = if y = 0 then x else BitVec.ofInt n (x.toInt.tmod y.toInt) := by
  rw [remSigned, srem_eq_ofInt]

theorem remUnsigned_eq : remUnsigned x y = if y = 0 then x else BitVec.ofNat n (x.toNat % y.toNat) := by
  rw [remUnsigned, umod_eq_ofNat]

end

/-- The quotient by zero is all ones in both forms. -/
theorem sx_ite_allOnes {p : Prop} [Decidable p] (x : Word) :
    sx (if p then BitVec.allOnes 32 else x) = if p then BitVec.allOnes 64 else sx x := by
  split <;> rfl

/-- Settles O4: each instruction applies its operation on the width of its form, which the lemmas above read as integers. -/
theorem multiplyAndDivide : Obligations.MultiplyAndDivide :=
  ⟨fun _ _ _ _ => ⟨exec_onWidth64 rfl (mul_eq_ofNat _ _), exec_onWidth64 rfl rfl, exec_onWidth64 rfl rfl,
    exec_onWidth64 rfl (divSigned_eq _ _), exec_onWidth64 rfl (divUnsigned_eq _ _), exec_onWidth64 rfl (remSigned_eq _ _),
    exec_onWidth64 rfl (remUnsigned_eq _ _)⟩,
  fun _ _ _ _ => ⟨exec_onWidth32 rfl (congrArg sx (mul_eq_ofNat _ _)), exec_onWidth32 rfl rfl, exec_onWidth32 rfl rfl,
    exec_onWidth32 rfl ((congrArg sx (divSigned_eq _ _)).trans (sx_ite_allOnes _)),
    exec_onWidth32 rfl ((congrArg sx (divUnsigned_eq _ _)).trans (sx_ite_allOnes _)),
    exec_onWidth32 rfl (congrArg sx (remSigned_eq _ _)), exec_onWidth32 rfl (congrArg sx (remUnsigned_eq _ _))⟩⟩

end Sys2Proof.Machine

namespace Sys2Proof.Machine

open Sys2Proof.Safety

/-! ## Scalar float comparisons, signs and functions (R354 to R357) -/

/-! ### Comparisons (R354) -/

theorem Val.lt_asymm {x y : Val} (h : x.lt y = true) : y.lt x = false := by
  cases x <;> cases y <;> simp only [Val.lt] at h ⊢ <;> grind

/-- On values that are no NaN, not above is below or equal. -/
theorem Val.not_lt_iff {x y : Val} (hx : x.isNaN = false) (hy : y.isNaN = false) :
    y.lt x = false ↔ x.lt y = true ∨ x.eqv y = true := by
  cases below : x.lt y with
  | true => simp [Val.lt_asymm below]
  | false => simp [Val.eqv, hx, hy, below]

theorem exec_float {s : State} {d : Reg} {i : Instr} {r u : Nat × Flags} (op : exec i s = retireFloat s d r) (value : r = u) :
    exec i s = .next (wroteFloat s d u) :=
  op.trans (value ▸ retireFloat_eq_wroteFloat s d r)

section
variable (x y : Val)

theorem eqv_iff : x.eqv y = true ↔ (!(x.isNaN || y.isNaN)) = true ∧ x.eqv y = true := by
  cases hx : x.isNaN <;> cases hy : y.isNaN <;> simp [Val.eqv, hx, hy]

theorem compare_le_iff :
    (compare 2 x y).1 = true ↔ (!(x.isNaN || y.isNaN)) = true ∧ (x.lt y = true ∨ x.eqv y = true) := by
  cases hx : x.isNaN <;> cases hy : y.isNaN <;> simp [compare, hx, hy, Val.not_lt_iff]

end

/-- A relation of FCMP as the number it writes and its flags. -/
theorem relation_eq {b sig : Bool} {p : Prop} [Decidable p] (h : b = true ↔ p) :
    ((b2n b, { invalid := sig }) : Nat × Flags) = (if p then 1 else 0, { invalid := sig }) := by
  rw [b2n, if_congr h rfl rfl]

/-! ### Signs (R357) -/

theorem Fmt.width_pos (f : Fmt) : 0 < f.width := by
  cases f <;> decide

theorem Fmt.width_le (f : Fmt) : f.width ≤ 64 := by
  cases f <;> decide

/-- A magnitude of `k` bits under a sign, bit by bit. -/
theorem testBit_signed (x k j : Nat) (sign : Bool) :
    (x % 2 ^ k + signBit sign k).testBit j = if j = k then sign else decide (j < k) && x.testBit j := by
  have shape : x % 2 ^ k + signBit sign k = 2 ^ k * b2n sign + x % 2 ^ k := by
    cases sign <;> simp [signBit, b2n, Nat.add_comm]
  rw [shape, Nat.testBit_two_pow_mul_add _ (Nat.mod_lt _ (by positivity))]
  obtain below | rfl | above := Nat.lt_trichotomy j k
  · simp [below, below.ne, Nat.testBit_mod_two_pow]
  · cases sign <;> simp [b2n]
  · have past : ¬j < k := by omega
    obtain ⟨n, hn⟩ : ∃ n, j - k = n + 1 := ⟨j - k - 1, by omega⟩
    cases sign <;> simp [past, above.ne', b2n, hn, Nat.testBit_add_one]

theorem State.fbits_testBit (s : State) (f : Fmt) (r : Reg) {j : Nat} (inside : j < f.width) :
    (s.fbits f r).testBit j = (s.reg r).getLsbD j := by
  simp [State.fbits, Nat.testBit_mod_two_pow, inside, BitVec.getLsbD]

/-- FSGN's result: the magnitude of its first operand under the sign that `sg` makes of both. -/
theorem exec_fsgn {s : State} {d a b : Reg} {f : BitVec 3} {i : Instr} {sg : Bool → Bool → Bool}
    (op : exec i s = floatSign s d a b f sg) :
    let k := (Fmt.ofScalar f.toNat).width - 1
    ∃ v, exec i s = .next (wrote s d v) ∧ ∀ j, j < 64 → v.getLsbD j =
      if j = k then sg ((s.reg a).getLsbD k) ((s.reg b).getLsbD k) else decide (j < k) && (s.reg a).getLsbD j := by
  intro k
  have top : k < (Fmt.ofScalar f.toNat).width := Nat.sub_lt (Fmt.width_pos _) Nat.one_pos
  refine ⟨_, exec_of_retire op rfl, fun j inside => ?_⟩
  rw [BitVec.getLsbD_ofNat, testBit_signed, State.fbits_testBit _ _ _ top, State.fbits_testBit _ _ _ top]
  simp only [inside, decide_true, Bool.true_and]
  refine if_congr Iff.rfl rfl ?_
  by_cases below : j < k
  · rw [State.fbits_testBit _ _ a (below.trans top)]
  · rw [decide_eq_false below, Bool.false_and, Bool.false_and]

theorem decode_fsgn_mode {w : Word} (major : fld w 26 6 = 2) (function : (fld w 0 6).toNat ∈ [0x18, 0x19, 0x1A])
    (mode : fld w 6 2 ≠ 0) : decode w = .error .mustBeZero := by
  simp only [List.mem_cons, List.not_mem_nil, or_false] at function
  rw [decode_float major]
  obtain h | h | h := function <;> simp only [decodeFloat, h, need, decide_eq_false mode, Bool.false_eq_true, if_false]

/-- Settles O6: a comparison is `compare` on the values, and a sign is one bit above the magnitude. -/
theorem floatCompareAndSign : Obligations.FloatCompareAndSign := by
  refine ⟨fun s d a b f => ?_, fun s d a b f => ?_⟩
  · intro t x y nan sig
    exact ⟨exec_float rfl (relation_eq (eqv_iff x y)), exec_float rfl (relation_eq Bool.and_eq_true_iff),
      exec_float rfl (relation_eq (compare_le_iff x y)), exec_float rfl rfl⟩
  · exact ⟨exec_fsgn (sg := fun _ y => y) rfl, exec_fsgn (sg := fun _ y => !y) rfl, exec_fsgn (sg := fun x y => x != y) rfl,
      fun _ => decode_fsgn_mode⟩

/-! ### Minimum, maximum, conversion and the one-operand functions (R354 to R356) -/

/-- Settles O7: each instruction retires the result of its function with its flags. -/
theorem floatFunctions : Obligations.FloatFunctions := fun _ _ _ _ _ _ =>
  ⟨exec_float rfl rfl, exec_float rfl rfl, exec_float rfl rfl, exec_float rfl rfl, exec_float rfl rfl, exec_float rfl rfl,
    retire_eq_wrote _ _ _⟩

/-! ## Jump tables and local memory (R366, R373) -/

theorem exec_jtab {s : State} {a b : Reg} (inside : (s.reg a).toNat < 2 ^ 18) (aligned : (s.reg a).toNat % 4 = 0) :
    let h : Word := BitVec.ofNat 32 ((s.tile s.focus).load (s.reg a).toNat 4)
    let e := (s.reg a).toNat + 4 + 4 * (s.reg b).toNat
    exec (.jtab a b) s =
      if h.toNat % 65536 ≤ (s.reg b).toNat then .next (jumped s (s.core.pc + (h.extractLsb' 16 16).signExtend 32 * 4))
      else if 0x3FFFC < e then .next (s.takeTrap 5 (BitVec.ofNat 64 e))
      else .next (jumped s (s.core.pc + BitVec.ofNat 32 ((s.tile s.focus).load e 4) * 4)) := by
  intro h e
  show execJtab a b s = _
  rw [execJtab, if_neg (Nat.not_le.2 inside), if_neg (not_not.2 aligned)]
  rfl

/-- Settles O9: the branches of the instruction in their order. -/
theorem jumpTable : Obligations.JumpTable := by
  intro s a b v i word n e
  refine ⟨exec_jtab_outside, exec_jtab_misaligned, fun inside aligned => ⟨fun past => ?_, fun listed outside => ?_,
    fun listed fits => ?_⟩⟩
  · rw [exec_jtab inside aligned, if_pos past]
  · rw [exec_jtab inside aligned, if_neg (Nat.not_le.2 listed), if_pos outside]
  · rw [exec_jtab inside aligned, if_neg (Nat.not_le.2 listed), if_neg (Nat.not_lt.2 fits)]

/-! ### Local memory -/

theorem leNat_lt (l : List Byte) : leNat l < 2 ^ (8 * l.length) := by
  induction l with
  | nil => exact Nat.one_pos
  | cons b l ih =>
    have byte := b.isLt
    rw [leNat, List.length_cons, Nat.mul_succ, Nat.pow_add]
    omega

theorem Tile.length_bytes (t : Tile) (a n : Nat) : (t.bytes a n).length = n := by
  induction n generalizing a with
  | zero => rfl
  | succ n ih => exact congrArg (· + 1) (ih _)

theorem Tile.load_lt (t : Tile) (a n : Nat) : t.load a n < 2 ^ (8 * n) := by
  simpa only [Tile.length_bytes, Tile.load] using leNat_lt (t.bytes a n)

theorem length_leBytes (n x : Nat) : (leBytes n x).length = n := by
  induction n generalizing x with
  | zero => rfl
  | succ n ih => exact congrArg (· + 1) (ih _)

/-- A number's bytes written to scratchpad, each at its place. -/
theorem Tile.byte_setBytes_leBytes {u : Tile} (h : swf (0 : Byte) u.spad = true) (a n x p : Nat) :
    (u.setBytes a (leBytes n x)).byte p = if a ≤ p ∧ p < a + n then BitVec.ofNat 8 (x / 256 ^ (p - a)) else u.byte p := by
  induction n generalizing u a x with
  | zero => exact (if_neg (by omega)).symm
  | succ n ih =>
    rw [leBytes, Tile.setBytes, ih (u.wf_setByte a _ h), Tile.byte_setByte u a p _ h]
    obtain below | rfl | above := Nat.lt_trichotomy p a
    · rw [if_neg (by omega), if_neg (by omega), if_neg (by omega)]
    · rw [if_neg (by omega), if_pos rfl, if_pos (by omega), Nat.sub_self, Nat.pow_zero, Nat.div_one]
    · rw [show p - a = p - (a + 1) + 1 by omega, Nat.pow_succ', ← Nat.div_div_eq_div_mul, if_neg above.ne']
      exact if_congr (by omega) rfl rfl

theorem ofNat_div_pow_eq_shift (v : Dw) (j : Nat) : BitVec.ofNat 8 (v.toNat / 256 ^ j) = (v >>> (8 * j)).setWidth 8 := by
  apply BitVec.eq_of_toNat_eq
  rw [BitVec.toNat_ofNat, BitVec.toNat_setWidth, BitVec.toNat_ushiftRight, Nat.shiftRight_eq_div_pow, Nat.pow_mul]

section
variable {s : State} {g b : Reg} {z : BitVec 2} {o : BitVec 13} {x : Bool}

theorem localTrap_none {la : Dw} {n : Nat} (inside : s.localOk la.toNat n = true) (aligned : la.toNat % n = 0) :
    s.localTrap la n = none := by
  simp [State.localTrap, inside, aligned]

variable (goes : s.localTrap (localAddr (s.reg b) o) (2 ^ z.toNat) = none)
include goes

/-- LDL's value: the bytes as a number, less the modulus where they are signed and the top bit is set. -/
theorem exec_ldl :
    let n := 2 ^ z.toNat
    let v := (s.tile s.focus).load (localAddr (s.reg b) o).toNat n
    exec (.ldl g b z x o) s = .next (wrote s g
      (if x ∧ 2 ^ (8 * n - 1) ≤ v then BitVec.ofInt 64 ((v : Int) - 2 ^ (8 * n)) else BitVec.ofNat 64 v)) := by
  intro n v
  have bound : v % 2 ^ (8 * n) = v := Nat.mod_eq_of_lt (Tile.load_lt _ _ _)
  have answers : exec (.ldl g b z x o) s =
      retire s g (if x then BitVec.ofInt 64 (sextNat v (8 * n)) else BitVec.ofNat 64 v) := by
    show execLdl g b z x o s = _
    simp only [execLdl, goes, v, n]
  refine exec_of_retire answers ?_
  cases x with
  | false => simp
  | true =>
    rw [sextNat, bound]
    by_cases negative : 2 ^ (8 * n - 1) ≤ v
    · simp [negative, Nat.not_lt.2 negative]
    · simp [negative, Nat.not_le.1 negative]

theorem exec_stl (canon : Canon s) : Answers (.stl g b z o) s fun t =>
    t.core = { s.core with pc := s.core.pc + 4 } ∧ t.mem = s.mem ∧ t.regions = s.regions ∧
    (∀ k, k ≠ s.focus → t.tile k = s.tile k) ∧
    t.tile s.focus = { (s.tile s.focus).setBytes (localAddr (s.reg b) o).toNat (leBytes (2 ^ z.toNat) (s.reg g).toNat) with
      core := { s.core with pc := s.core.pc + 4 } } := by
  have answers : exec (.stl g b z o) s = .next (s.modTile s.focus fun t =>
      t.setBytes (localAddr (s.reg b) o).toNat (leBytes (2 ^ z.toNat) (s.reg g).toNat)).advance := by
    show execStl g b z o s = _
    simp only [execStl, goes]
  refine ⟨_, answers, ?_⟩
  generalize (localAddr (s.reg b) o).toNat = a
  generalize leBytes (2 ^ z.toNat) (s.reg g).toNat = l
  let u := s.modTile s.focus fun t => t.setBytes a l
  have tiles : swf ({} : Tile) u.tiles = true := swf_sset _ _ _ _ canon.tiles
  have written : u.tile u.focus = (s.tile s.focus).setBytes a l := State.tile_setTile_same s s.focus _ canon.tiles
  have core : u.core = s.core := by
    rw [State.core, written, Tile.setBytes_eq_setSpad]
    rfl
  have moved : u.core.step4 = { s.core with pc := s.core.pc + 4 } := by rw [core, Core.step4]
  refine ⟨(State.core_setCore u _ tiles).trans moved, rfl, rfl, fun k other => ?_, ?_⟩
  · exact (State.tile_setCore_other tiles _ other).trans (State.tile_setTile_other s s.focus k _ canon.tiles other)
  · exact (State.tile_setCore_focus tiles _).trans (by rw [written, moved])

end

/-- Settles O10: the traps are those of `State.localTrap`; without one LDL reads and STL writes the bytes at the address. -/
theorem localMemory : Obligations.LocalMemory := by
  intro s g b z x o la n v
  refine ⟨fun outside => ?_, fun inside odd => ?_, fun inside aligned => ⟨?_, fun canon => ?_⟩⟩
  · have trap := localTrap_outside outside
    exact ⟨exec_local_traps (x := x) trap (.inl rfl), exec_local_traps (x := x) trap (.inr rfl)⟩
  · have trap := localTrap_misaligned inside odd
    exact ⟨exec_local_traps (x := x) trap (.inl rfl), exec_local_traps (x := x) trap (.inr rfl)⟩
  · exact exec_ldl (localTrap_none inside aligned)
  · obtain ⟨t, answers, core, mem, regions, others, written⟩ :=
      exec_stl (g := g) (localTrap_none inside aligned) canon
    refine ⟨t, answers, core, mem, regions, others, fun p => ?_⟩
    rw [written, ← ofNat_div_pow_eq_shift]
    exact Tile.byte_setBytes_leBytes (canon.spad s.focus) _ _ _ _

end Sys2Proof.Machine

namespace Sys2Proof.Machine

open Sys2Proof.Safety

/-! ## Receiving, forwarding, reserving, the port snapshot and ISSUE (R333, R361, R365, R395, R402) -/

/-! ### Receiving (R395) -/

section
variable {s : State} {x : Actor} {p : Port} {t : Token}

theorem State.readable_head (runs : s.runActor = some x) (head : x.head p.toNat = some t) (visible : t.kind ≠ 6) :
    s.readable p false = some t := by
  simpa [State.readable, runs, head] using visible

theorem State.readable_empty (runs : s.runActor = some x) (empty : x.head p.toNat = none) : s.readable p false = none := by
  simp [State.readable, runs, empty]

theorem State.readable_call {f : Firing} (fires : s.firing = some f) (call : f.call = some t) (visible : t.kind ≠ 6) :
    s.readable p true = some t := by
  simpa [State.readable, fires, call] using visible

end

section
variable (s : State) (g : Reg) (p : Port) (n : BitVec 3) (c sb : Bool) (f : BitVec 3)

/-- RECV writes the values of what it reads and dequeues it, but for a call token. -/
theorem exec_recv : exec (.recv g p n c sb f) s =
    let u := if (s.readable p c).isSome && !c then s.dequeue p.toNat else s
    .next (u.setCore { u.core.setRegs g.toNat (recvValues (s.readable p c) (n.toNat + 1) f.toNat sb) with
      pc := u.core.pc + 4 }) := by
  show execRecv g p n c sb f s = _
  simp only [execRecv, Core.step4, Core.setRegs_pc]

/-- PEEK writes the values of what it reads, which the actor has then received. -/
theorem exec_peek : exec (.peek g p n c sb f) s =
    let u := s.modActor s.runner.1 s.runner.2 fun x => x.acquire (((s.readable p c).map (·.deps)).getD [])
    .next (u.setCore { u.core.setRegs g.toNat (recvValues (s.readable p c) (n.toNat + 1) f.toNat sb) with
      pc := u.core.pc + 4 }) := by
  show execPeek g p n c sb f s = _
  simp only [execPeek, Core.step4, Core.setRegs_pc]

end

/-- Settles O11: both instructions write the values of the token they read, of which there is none at an empty input. -/
theorem receive : Obligations.Receive := by
  intro s g p n f sb x runs got words heard none_
  refine ⟨fun t head visible => ?_, fun empty => ?_, fun fr t fires call visible => ?_⟩
  · rw [exec_peek, exec_recv, State.readable_head runs head visible]
    exact ⟨rfl, rfl⟩
  · rw [exec_peek, exec_recv, State.readable_empty runs empty]
    exact ⟨rfl, rfl⟩
  · rw [exec_peek, exec_recv, State.readable_call fires call visible]
    exact ⟨rfl, rfl⟩

/-! ### Forwarding, reservations and snapshots (R333, R361, R402) -/

section
variable {s : State} {g : Reg} {p : Port} {n : BitVec 3} {x : Actor} {gr : Region} {ci : Nat} {c : Chan}

theorem exec_fwd {i : Port} {t : Token} (readable : s.readable i false = some t) :
    exec (.fwd i p) s = .next (passed ((s.dequeue i.toNat).sendHere p.toNat t.kind t.payload)) := by
  show execFwd i p s = _
  simp only [execFwd, readable]
  rfl

theorem exec_rsv (region : s.region s.runner.1 = some gr) (leaves : gr.chanOf (.actor s.runner.2 p.toNat) = some (ci, c)) :
    exec (.rsv g p n) s = .next
      (if n.toNat + 1 ≤ gr.freeSlots c ∧ s.reserved p.toNat + (n.toNat + 1) ≤ 256 then wrote
        ((s.setRegion s.runner.1 (gr.setChan ci { c with reserved := c.reserved + (n.toNat + 1) })).modFiring fun f =>
          { f with rsv := sset 0 f.rsv p.toNat (sget 0 f.rsv p.toNat + (n.toNat + 1)) }) g 1
      else wrote s g 0) := by
  show execRsv g p n s = _
  simp only [execRsv, region, leaves, retire_eq_wrote]
  split <;> rfl

theorem State.chqInput_empty (runs : s.runActor = some x) {q : Nat} (empty : x.head q = none) : s.chqInput q = 0xF000 := by
  have none : (x.port q).q = [] := List.head?_eq_none_iff.1 empty
  simp only [State.chqInput, runs, none]
  rfl

theorem State.chqOutput_eq (runs : s.runActor = some x) (region : s.region s.runner.1 = some gr) (q : Nat) :
    s.chqOutput q = packDw [((x.outp q).seq.toNat, 18), (s.reserved q, 9), (gr.outFree s.runner.2 q, 0)] := by
  simp only [State.chqOutput, runs, region]
  rfl

theorem State.chqQuota_eq (runs : s.runActor = some x) :
    s.chqQuota = packDw ((x.quota - x.quotaUsed, 56) :: (List.range 8).map fun j => ((x.port j).freeCredits, 7 * j)) := by
  simp only [State.chqQuota, runs]

end

/-- Settles O14: FWD reads as RECV does and sends what it read, RSV asks for free slots first, CHQ writes its snapshot. -/
theorem forwardReserveQuery : Obligations.ForwardReserveQuery := by
  intro s g i p n
  refine ⟨fun x t runs head visible => exec_fwd (State.readable_head runs head visible),
    fun gr ci c region leaves => ⟨fun room => ?_, fun full => ?_⟩, fun x runs => ⟨fun empty => ?_, fun gr region => ?_, ?_⟩⟩
  · rw [exec_rsv region leaves, if_pos room]
  · rw [exec_rsv region leaves, if_neg fun room => absurd room.1 (Nat.not_le.2 full)]
  · exact exec_of_retire rfl (State.chqInput_empty runs empty)
  · exact exec_of_retire rfl (State.chqOutput_eq runs region _)
  · exact exec_of_retire rfl (State.chqQuota_eq runs)

/-! ### ISSUE (R221, R284, R365) -/

/-- Word `j` of the pool entry at `la`, patched by the register from `p` up that the mask names. -/
def State.patchedWord (s : State) (la : Nat) (m : BitVec 4) (p : BitVec 5) (j : Nat) : Word :=
  if m.getLsbD j then low (s.reg (p + BitVec.ofNat 5 j)) else BitVec.ofNat 32 ((s.tile s.focus).load (la + 4 * j) 4)

section
variable {s : State} {o : BitVec 3} {e : BitVec 11} {m : BitVec 4} {p : BitVec 5}

theorem patchedWords_eq (la : Nat) : patchedWords s.core (s.tile s.focus) la m p =
    [s.patchedWord la m p 0, s.patchedWord la m p 1, s.patchedWord la m p 2, s.patchedWord la m p 3] := rfl

theorem exec_issue_outside (outside : s.localOk (16 * e.toNat) 16 = false) :
    exec (.issue o e m p) s = .next (s.takeTrap 3 (BitVec.ofNat 64 (16 * e.toNat))) := by
  show execIssue o e m p s = _
  simp only [execIssue, outside]
  rfl

/-- The state that a refusal of matrix use in a handler makes (R221). -/
theorem State.refuseMatrix_eq : s.refuseMatrix = if s.core.tstat.getLsbD 5 then s.fatalHere 0x52 s.wordHere 0
    else s.setCore { s.core with tstat := s.core.tstat ||| 0b100000, pc := s.core.tvec } := rfl

theorem Core.mxBarred_iff {c : Core} :
    c.mxBarred = true ↔ c.sys = true ∧ c.tstat.getLsbD 3 = true ∧ c.tstat.getLsbD 4 = false := by
  simp [Core.mxBarred, Core.inHandler, Core.mxSaved, and_assoc]

/-- Inside the window ISSUE sends its entry, or refuses a matrix command in a handler before MXSAVE. -/
theorem exec_issue_inside (inside : s.localOk (16 * e.toNat) 16 = true) :
    let w := s.patchedWord (16 * e.toNat) m p
    exec (.issue o e m p) s = .next
      (if (s.core.sys = true ∧ s.core.tstat.getLsbD 3 = true ∧ s.core.tstat.getLsbD 4 = false) ∧
          ((w 0).toNat / 2 ^ 24 = 5 ∨ (w 0).toNat / 2 ^ 24 = 6 ∨ (w 0).toNat / 2 ^ 24 = 7) then s.refuseMatrix
      else passed (s.sendHere o.toNat 0 [w 1 ++ w 0, w 3 ++ w 2])) := by
  intro w
  show execIssue o e m p s = _
  simp only [execIssue, inside, patchedWords_eq, Bool.not_true, Bool.false_eq_true, if_false, ← Core.mxBarred_iff]
  rw [apply_ite Host.Outcome.next]
  refine if_congr ?_ rfl rfl
  simp [w, or_assoc]

end

/-- Settles O27: the window is asked first, then whether a handler may use the matrix. -/
theorem issue : Obligations.Issue := by
  intro s o e m p la w matrix barred
  refine ⟨exec_issue_outside, fun inside allowed => ?_, fun inside bars uses => ?_⟩
  · exact (exec_issue_inside inside).trans (congrArg Host.Outcome.next (if_neg allowed))
  · exact (exec_issue_inside inside).trans (congrArg Host.Outcome.next (if_pos ⟨bars, uses⟩))

end Sys2Proof.Machine

namespace Sys2Proof.Machine

open Sys2Proof.Safety

/-! ## Barrier slots (R158 to R160, R320, R321) -/

section
variable {s : State} {r slot : Nat} {g : Region} (region : s.region r = some g)

theorem Region.barrier_setBarrier_same (canon : swf ({} : Barrier) g.barriers = true) (b : Barrier) :
    (g.setBarrier slot b).barrier slot = b := sget_sset_same _ _ _ _ canon

include region

theorem State.barComplete_eq : s.barComplete r slot = (s.setRegion r (g.setBarrier slot { g.barrier slot with
    armed := false, pending := 0, err := false, overcount := false, abandoned := false, code := 0 })).netCall r
      (g.barrier slot).target (g.barrier slot).entry.toNat (g.barrier slot).written ((g.barrier slot).statusWord slot) := by
  simp only [State.barComplete, region]

omit region in
/-- A call on the control network joins the region's messages and changes nothing else of the region. -/
theorem State.region_netCall_setRegion (s : State) (r : Nat) (g : Region) (a e : Nat) (x y : Dw) :
    ∃ net, ((s.setRegion r g).netCall r a e x y).region r = some { g with net := net } := by
  let u : State := { s.setRegion r g with fresh := s.fresh + 1 }
  have same : u.region r = some g := State.region_setRegion_same s r g
  exact ⟨_, (congrArg (·.region r) (State.modRegion_some u r _ g same)).trans (State.region_setRegion_same u r _)⟩

/-- A completed phase leaves the slot idle. -/
theorem State.barComplete_idle (canon : swf ({} : Barrier) g.barriers = true) :
    ∃ g', (s.barComplete r slot).region r = some g' ∧ (g'.barrier slot).armed = false := by
  rw [State.barComplete_eq region]
  obtain ⟨net, after⟩ := State.region_netCall_setRegion s r (g.setBarrier slot _) (g.barrier slot).target
    (g.barrier slot).entry.toNat (g.barrier slot).written ((g.barrier slot).statusWord slot)
  exact ⟨_, after, congrArg (·.armed) (Region.barrier_setBarrier_same canon _)⟩

/-! ### BARSET -/

theorem State.barSet_idle (idle : (g.barrier slot).armed = false) (n : Dw) (target : Nat) (entry : BitVec 4) :
    s.barSet r slot n target entry =
      let t := s.setRegion r (g.setBarrier slot
        { armed := true, pending := n, written := 0, target := target, entry := entry
          cls := ((g.actor target).map (·.cls)).getD 0, phase := (g.barrier slot).phase + 1 })
      if n = 0 then t.barComplete r slot else t := by
  simp only [State.barSet, region, idle, Bool.false_eq_true, if_false]

/-- On an armed slot the old phase completes as abandoned, and the slot is then set as an idle one. -/
theorem State.barSet_armed (armed : (g.barrier slot).armed = true) (canon : swf ({} : Barrier) g.barriers = true) (n : Dw)
    (target : Nat) (entry : BitVec 4) : s.barSet r slot n target entry =
      ((s.setRegion r (g.setBarrier slot { g.barrier slot with abandoned := true })).barComplete r slot).barSet r slot n target
        entry := by
  obtain ⟨g', after, idle⟩ := State.barComplete_idle (slot := slot)
    (State.region_setRegion_same s r (g.setBarrier slot { g.barrier slot with abandoned := true })) (swf_sset _ _ _ _ canon)
  rw [State.barSet_idle after idle]
  simp only [State.barSet, region]
  rw [if_pos armed, after]

/-! ### BARADD -/

theorem State.barAdd_idle (idle : (g.barrier slot).armed = false) (n : Dw) : s.barAdd r slot n =
    if n = 0 then s else s.setRegion r (g.setBarrier slot { g.barrier slot with
      armed := true, pending := n, written := 0, phase := (g.barrier slot).phase + 1 }) := by
  simp only [State.barAdd, region, idle, Bool.false_eq_true, if_false]

theorem State.barAdd_armed (armed : (g.barrier slot).armed = true) (n : Dw) : s.barAdd r slot n =
    s.setRegion r (g.setBarrier slot (if 2 ^ 64 ≤ (g.barrier slot).pending.toNat + n.toNat
      then { g.barrier slot with pending := BitVec.allOnes 64, overcount := true }
      else { g.barrier slot with pending := (g.barrier slot).pending + n })) := by
  have sum : BitVec.ofNat 64 ((g.barrier slot).pending.toNat + n.toNat) = (g.barrier slot).pending + n :=
    BitVec.eq_of_toNat_eq (by rw [BitVec.toNat_add, BitVec.toNat_ofNat])
  simp only [State.barAdd, region, armed, if_true, sum]

/-! ### Subtractions -/

theorem State.barSub_idle (idle : (g.barrier slot).armed = false) (m : Nat) : s.barSub r slot m false 0 =
    s.setRegion r (g.setBarrier slot { g.barrier slot with overcount := true }) := by
  simp only [State.barSub, region, idle, Bool.not_false, Bool.false_eq_true, if_false, if_true]

/-- Fewer bytes than are pending leave the phase under way. -/
theorem State.barSub_below {m : Nat} (armed : (g.barrier slot).armed = true) (below : m < (g.barrier slot).pending.toNat)
    (failed : Bool) (code : Byte) : s.barSub r slot m failed code =
      let b := g.barrier slot
      s.setRegion r (g.setBarrier slot (if failed
        then { b with err := true, code := if b.code = 0 then code else b.code, pending := b.pending - BitVec.ofNat 64 m }
        else { b with written := b.written + BitVec.ofNat 64 m, pending := b.pending - BitVec.ofNat 64 m })) := by
  have left : (g.barrier slot).pending - BitVec.ofNat 64 m ≠ 0 := by
    intro zero
    have := congrArg BitVec.toNat (BitVec.sub_eq_iff_eq_add.1 zero)
    simp at this
    omega
  have least : ¬(g.barrier slot).pending.toNat < m := Nat.not_lt.2 below.le
  cases failed <;>
    simp only [State.barSub, region, armed, least, left, Bool.not_true, Bool.false_eq_true, if_false, if_true]

/-- As many bytes as are pending, or more, complete the phase. -/
theorem State.barSub_reaches {m : Nat} (armed : (g.barrier slot).armed = true) (reaches : (g.barrier slot).pending.toNat ≤ m) :
    s.barSub r slot m false 0 = (s.setRegion r (g.setBarrier slot { g.barrier slot with
      written := (g.barrier slot).written + BitVec.ofNat 64 m, pending := 0
      overcount := (g.barrier slot).overcount || decide ((g.barrier slot).pending.toNat < m) })).barComplete r slot := by
  by_cases past : (g.barrier slot).pending.toNat < m
  · simp only [State.barSub, region, armed, past, Bool.not_true, Bool.false_eq_true, if_false, if_true, decide_true,
      Bool.or_true]
  · obtain rfl : m = (g.barrier slot).pending.toNat := by omega
    simp only [State.barSub, region, armed, past, Bool.not_true, Bool.false_eq_true, if_false, decide_false,
      Bool.or_false, BitVec.ofNat_toNat, BitVec.setWidth_eq, BitVec.sub_self]
    rfl

end

/-- Settles O23: each transition is the branch of its operation that the slot's state and the count select. -/
theorem barriers : Obligations.Barriers := by
  refine ⟨fun s a b sl => ⟨?_, rfl⟩, ?_⟩
  · have target : dwAt (s.reg b) 0 20 = (s.reg b).toNat % 2 ^ 20 := by rw [dwAt, bitsAt, Nat.pow_zero, Nat.div_one]
    rw [← target]
    rfl
  · intro s r slot g n target entry m code region b put
    refine ⟨fun idle some => ?_, fun idle => ?_, fun armed canon => State.barSet_armed region armed canon n target entry,
      fun idle some => ?_, fun idle => ?_, fun armed fits => ?_, fun armed saturates => ?_, fun idle => State.barSub_idle region idle m,
      fun armed below => State.barSub_below region armed below false 0,
      fun armed below => State.barSub_below region armed below true code,
      fun armed reaches => State.barSub_reaches region armed reaches, State.barComplete_eq region⟩
    · exact (State.barSet_idle region idle n target entry).trans (if_neg some)
    · exact (State.barSet_idle region idle 0 target entry).trans (if_pos rfl)
    · exact (State.barAdd_idle region idle n).trans (if_neg some)
    · exact (State.barAdd_idle region idle 0).trans (if_pos rfl)
    · rw [State.barAdd_armed region armed, if_neg (Nat.not_le.2 fits)]
    · rw [State.barAdd_armed region armed, if_pos saturates]

end Sys2Proof.Machine

namespace Sys2Proof.Machine

open Sys2Proof.Safety

/-! ## Lane operations on one element (R368 to R370, R375, R377, R381 to R383) -/

section
variable {c : LaneCtx} {g : Group} {v : Nat → Nat}

/-- An opcode that neither keeps groups nor sends statistics works element by element. -/
theorem LaneCtx.run_plain (op : c.w.op ∉ [16, 17, 19, 20, 21]) (value : ∀ j, c.elem g j = v j) : c.run g = c.plain g v := by
  obtain rfl : c.elem g = v := funext value
  unfold LaneCtx.run
  split <;> simp_all

end

theorem laneArith_int {f : Fmt} (int : f.isInt = true) (pol : BitVec 4) (i : Int → Int → Int) (v : Val → Val → Val × Bool)
    (a b : Nat) : laneArith f pol i v a b = intResult f pol (i (sextNat a f.width) (sextNat b f.width)) := if_pos int

theorem laneArith_float {f : Fmt} (float : f.isInt = false) (pol : BitVec 4) (i : Int → Int → Int)
    (v : Val → Val → Val × Bool) (a b : Nat) :
    laneArith f pol i v a b = laneRound f pol (v (f.operand pol a) (f.operand pol b)) :=
  if_neg (Bool.eq_false_iff.1 float)

/-- LSCALE gives the canonical NaN under the scale of an invalid block. -/
theorem laneScale_eq (f : Fmt) (pol : BitVec 4) (e : Byte) (a b : Nat) :
    laneScale f pol e.toNat a b = if e = 0xFF then (f.canonNaN).getD 0 else laneScale f pol e.toNat a b := by
  split
  · next invalid => rw [invalid]; rfl
  · rfl

/-- Settles O33: the lane's turn is the element-wise one, and each opcode's element is its function's. -/
theorem laneElements : Obligations.LaneElements := by
  intro c g f p A B is int
  have plain {op : Nat} {v : Nat → Nat} (free : op ∉ [16, 17, 19, 20, 21])
      (value : c.w.op = op → ∀ j, c.elem g j = v j) : is op v := fun h => LaneCtx.run_plain (h ▸ free) (value h)
  refine ⟨fun whole => ⟨?_, ?_, ?_, ?_⟩, fun float => ⟨?_, ?_, ?_, ?_⟩, ?_, ?_, ?_, ?_, ?_, ?_, ?_, ?_, ?_, ?_, ?_, ?_⟩
  · refine plain (by decide) fun h j => ?_
    simp only [LaneCtx.elem, h, laneAdd]
    exact laneArith_int whole ..
  · refine plain (by decide) fun h j => ?_
    simp only [LaneCtx.elem, h, laneSub]
    exact laneArith_int whole ..
  · refine plain (by decide) fun h j => ?_
    simp only [LaneCtx.elem, h, laneMul]
    exact laneArith_int whole ..
  · refine plain (by decide) fun h j => ?_
    simp only [LaneCtx.elem, h, laneFma]
    exact if_pos whole
  · refine plain (by decide) fun h j => ?_
    simp only [LaneCtx.elem, h, laneAdd]
    exact laneArith_float float ..
  · refine plain (by decide) fun h j => ?_
    simp only [LaneCtx.elem, h, laneSub]
    exact laneArith_float float ..
  · refine plain (by decide) fun h j => ?_
    simp only [LaneCtx.elem, h, laneMul]
    exact laneArith_float float ..
  · refine plain (by decide) fun h j => ?_
    simp only [LaneCtx.elem, h, laneFma]
    exact if_neg (Bool.eq_false_iff.1 float)
  iterate 11
    exact plain (by decide) fun h j => by simp only [LaneCtx.elem, h]; rfl
  · refine plain (by decide) fun h j => ?_
    simp only [LaneCtx.elem, h]
    exact laneScale_eq ..

/-! ## Rendering lanes (R199 to R202, R335, R346, R399, R403) -/

section
variable {s : State} {tile lane r a : Nat} {x : Actor} {seg : LaneSeg}
variable (owner : s.laneOwner tile lane = some (r, a, x, seg))
include owner

/-- A lane with a group waiting takes its turn when the opcode is its own. -/
theorem State.laneStep_isSome {op : Nat} {gp : Group} {rest : List Group} (opcode : ((s.tile tile).laneWord lane).op = op)
    (plain : op ≠ 11) (waiting : ((s.tile tile).laneSt lane).q = gp :: rest) (f : LaneCtx → Group → LaneOut) :
    (s.laneStep tile lane op false f).isSome = true := by
  simp [State.laneStep, owner, opcode, plain, waiting]

theorem exec_edge {g : Group} {u : State} (head : (s.tile tile).headGroup lane = some g)
    (turn : s.laneStep tile lane 0x18 false LaneCtx.edge = some u) :
    let l := g.tokA ((s.tile tile).laneWord lane)
    exec (.edge tile lane) s = becomes
      (if g.void = false ∧ (winNs l = 3 ∨ winReserved l = true) then
        u.errorAt r a 0xFF (winNs l + 4 * b2n (winReserved l)) 0x46 (pdw l 5)
      else u) r := by
  intro l
  refine exec_becomes (o := some _) ?_ rfl
  show execEdge tile lane s = _
  simp only [execEdge, owner, head, turn, Option.map_some]
  congr 2
  exact if_congr (by simp [l]) rfl rfl

/-- COVER's tokens join the resolver's store or leave as its routing says. -/
theorem exec_cover {g : Group} (head : (s.tile tile).headGroup lane = some g) (some_ : g.void = false) :
    let t := s.tile tile
    let w := t.laneWord lane
    let made := s.coverTokens w.pol (g.tokA w) (LaneCtx.b { t := t, seg := seg, inF := .fp32, i := lane, w := w } g 0)
      (t.laneSt lane).tag
    exec (.cover tile lane) s = occurIn s r (made.2.2.laneStep tile lane 0x19 false fun c q =>
      let st := c.t.laneSt c.i
      if w.out = 6 then { t := c.t.setLaneSt c.i { st with
          tag := made.2.1, samples := st.samples ++ made.1.map (sampleEntry (winNs (q.tokA w))) }, g := q }
      else { t := c.t.setLaneSt c.i { st with tag := made.2.1 }, g := q
             toks := made.1.flatMap fun k => ([0, 1].filter (routes w.out)).map fun p => (p, { payload := k.2 }) }) := by
  show execCover tile lane s = _
  simp only [execCover, owner, head, some_]
  rfl

/-! ### The resolver (R200, R201) -/

section
variable {l : List Dw} (head : (s.tile tile).sampleHead lane = some l) (resolver : (s.tile tile).resolver lane = true)
include head resolver

theorem exec_resolverTileBegin (sample : isFragment l = false) (begins : sampleRk l = 1) :
    let t := s.tile tile
    let lo := max (t.storeBase lane) x.locB
    let hi := min (t.storeBase lane + 8 * 1024 * 2 ^ (pdw l 2).toNat) x.locL
    exec (.resolverTileBegin tile lane) s = becomes (s.setTile tile
      ((t.tookSample lane fun st => { st with openTile := some (sampleTile l) }).setBytes lo
        (List.replicate (hi - lo) 0xFF))) r := by
  refine exec_becomes (o := some _) ?_ rfl
  show execResolverTileBegin tile lane s = _
  simp only [execResolverTileBegin, owner, head, resolver, sample, begins]
  rfl

theorem exec_resolverTileDone (sample : isFragment l = false) (done : sampleRk l = 2) :
    exec (.resolverTileDone tile lane) s = becomes
      (((s.setTile tile ((s.tile tile).tookSample lane id)).modSeg r a fun g =>
        { g with pend := g.pend ++ [(0, { payload := l.take 2 })] }).drainPend r a) r := by
  refine exec_becomes (o := some _) ?_ rfl
  show execResolverTileDone tile lane s = _
  simp only [execResolverTileDone, owner, head, resolver, sample, done]
  rfl

theorem exec_resolverSample_fragment (fragment : isFragment l = true) :
    exec (.resolverSample tile lane) s = becomes
      (((s.setTile tile ((s.tile tile).tookSample lane id)).modSeg r a fun g =>
        { g with pend := g.pend ++ [(0, { payload := l.take 2 })] }).drainPend r a) r := by
  refine exec_becomes (o := some _) ?_ rfl
  show execResolverSample tile lane s = _
  simp only [execResolverSample, owner, head, resolver, fragment]
  rfl

variable (sample : isFragment l = false) (kind : sampleRk l = 0)
include sample kind

/-- A sample of the open tile lowers its word of the store, where the word lies in the local window. -/
theorem exec_resolverSample_open (opened : ((s.tile tile).laneSt lane).openTile = some (sampleTile l)) :
    let t := s.tile tile
    let gone := t.tookSample lane id
    let at_ := t.storeBase lane + 8 * ((32 * dwAt (pdw l 1) 5 5 + dwAt (pdw l 1) 0 5) * 2 ^ (pdw l 2).toNat + dwAt (pdw l 1) 10 2)
    exec (.resolverSample tile lane) s = becomes (s.setTile tile
      (if within at_ 8 x.locB x.locL ∧ (pdw l 0).toNat < t.load at_ 8 then gone.setBytes at_ (dwBytes (pdw l 0)) else gone)) r := by
  refine exec_becomes (o := some _) ?_ rfl
  show execResolverSample tile lane s = _
  simp only [execResolverSample, owner, head, resolver, sample, kind, opened, Bool.not_true, Bool.false_eq_true, if_false,
    ne_eq, not_true_eq_false]

theorem exec_resolverSample_other (other : ((s.tile tile).laneSt lane).openTile ≠ some (sampleTile l)) :
    exec (.resolverSample tile lane) s = becomes ((s.setTile tile ((s.tile tile).tookSample lane id)).errorAt r a 0xFF
      (dwAt (pdw l 1) 0 10) 0x45 (packDw [((sampleTile l).1, 0), ((sampleTile l).2, 12)])) r := by
  refine exec_becomes (o := some _) ?_ rfl
  show execResolverSample tile lane s = _
  simp only [execResolverSample, owner, head, resolver, sample, kind, other, Bool.not_true, Bool.false_eq_true, if_false,
    ne_eq, not_true_eq_false, not_false_eq_true, if_true]

end

/-! ### APLANE, RBOX and RTRI (R202, R399, R403) -/

theorem exec_aplane : exec (.aplane tile lane) s = occurIn s r (s.laneStep tile lane 0x1A false (LaneCtx.aplane x.locB x.locL)) := by
  show execAplane tile lane s = _
  simp only [execAplane, owner]

theorem exec_rbox : exec (.rbox tile lane) s = occurIn s r (s.laneStep tile lane 0x1C false (LaneCtx.pair boxToken)) := by
  show execRbox tile lane s = _
  simp only [execRbox, owner]

theorem exec_rtri : exec (.rtri tile lane) s = occurIn s r (s.laneStep tile lane 0x1D false (LaneCtx.pair triToken)) := by
  show execRtri tile lane s = _
  simp only [execRtri, owner]

end

/-! ## The blender (R203, R204, R216) -/

theorem tileBegin_fragment {l : List Dw} (fragment : dwAt (pdw l 0) 28 36 = 0) : tileBegin l = none := if_pos fragment

theorem tileBegin_tile {l : List Dw} (other : dwAt (pdw l 0) 28 36 ≠ 0) (kind : sampleRk l = 1)
    (clear : dwAt (pdw l 1) 36 24 = 0) : tileBegin l = some (some (sampleTile l)) := by
  rw [tileBegin, if_neg other, if_pos ⟨kind, clear⟩]

theorem packNat_three (a b c i j k : Nat) : packNat [(a, i), (b, j), (c, k)] = a * 2 ^ i + b * 2 ^ j + c * 2 ^ k := by
  simp only [packNat, List.foldl_cons, List.foldl_nil, Nat.zero_add]

/-- The detail of code 0x44 (R216): the next tag and the tile. -/
def blendDetail (next : BitVec 16) (xy : Nat × Nat) : Dw := packDw [(next.toNat, 0), (xy.1, 16), (xy.2, 28)]

theorem blendDetail_toNat (next : BitVec 16) (xy : Nat × Nat) :
    (blendDetail next xy).toNat = (next.toNat + xy.1 * 2 ^ 16 + xy.2 * 2 ^ 28) % 2 ^ 64 := by
  rw [blendDetail, packDw, BitVec.toNat_ofNat, packNat_three, Nat.pow_zero, Nat.mul_one]

theorem blendDetail_next (next : BitVec 16) (xy : Nat × Nat) : dwAt (blendDetail next xy) 0 16 = next.toNat := by
  have bound := next.isLt
  rw [dwAt, bitsAt, blendDetail_toNat]
  omega

theorem blendDetail_tile (next : BitVec 16) {xy : Nat × Nat} (hx : xy.1 < 4096) (hy : xy.2 < 4096) :
    dwAt (blendDetail next xy) 16 12 = xy.1 ∧ dwAt (blendDetail next xy) 28 12 = xy.2 := by
  have bound := next.isLt
  rw [dwAt, bitsAt, dwAt, bitsAt, blendDetail_toNat]
  omega

section
variable {s : State} {r a credit win : Nat} {g : Region} {x : Actor} {seg : LaneSeg} {t : Token}
variable (region : s.region r = some g) (actor : g.actor a = some x) (window : s.creditOf r a = some (credit, win))
  (body : x.body = .lane seg) (head : x.head 0 = some t) (active : g.active x = true) (data : t.kind = 0)
  (drained : (s.tile x.tile).drained seg = true)
include region actor window body head active data drained

theorem State.blend_tile {tile : Option (Nat × Nat)} (begins : tileBegin t.payload = some tile) :
    s.blend r a = some ((s.modActor r a fun x => x.popPort 0).modTile x.tile fun u => u.setLaneSt seg.first
      { u.laneSt seg.first with next := 0, frags := [], ends := [], openTile := tile }) := by
  have here : s.actor r a = some x := by simp [State.actor, region, actor]
  simp only [State.blend, region, here, window, body, head, active, data, drained, begins]
  rfl

/-- A fragment or primitive end whose tag lies within the window. -/
theorem State.blend_inside (other : tileBegin t.payload = none)
    (inside : (BitVec.ofNat 16 (fragTag t.payload) - ((s.tile x.tile).laneSt seg.first).next).toNat < win) :
    let upd (f : LaneSt → LaneSt) : State :=
      (s.modActor r a fun x => x.popPort 0).modTile x.tile fun u => u.setLaneSt seg.first (f (u.laneSt seg.first))
    s.blend r a = some ((if fragRk t.payload = 3
      then upd fun st => { st with ends := st.ends ++ [(fragTag t.payload, dwAt (pdw t.payload 0) 32 32)] }
      else upd fun st => { st with frags := st.frags ++ [(fragTag t.payload, t.payload)] }).applyTags r a x seg credit win) := by
  have here : s.actor r a = some x := by simp [State.actor, region, actor]
  simp only [State.blend, region, here, window, body, head, active, data, drained, other, inside, if_true]
  rfl

/-- A token whose tag lies outside the window is reported with the open tile, or a free one where none is open. -/
theorem State.blend_outside (other : tileBegin t.payload = none)
    (outside : ¬(BitVec.ofNat 16 (fragTag t.payload) - ((s.tile x.tile).laneSt seg.first).next).toNat < win) :
    ∃ xy, s.blend r a = some ((s.modActor r a fun x => x.popPort 0).free.2.errorAt r a (chanField (g.chanTo a 0))
        (fragTag t.payload) 0x44 (blendDetail ((s.tile x.tile).laneSt seg.first).next xy)) ∧
      ∀ opened, ((s.tile x.tile).laneSt seg.first).openTile = some opened → xy = opened := by
  have here : s.actor r a = some x := by simp [State.actor, region, actor]
  let v := (s.modActor r a fun x => x.popPort 0).free.1
  refine ⟨(((s.tile x.tile).laneSt seg.first).openTile).getD (v.toNat % 4096, v.toNat / 4096 % 4096), ?_,
    fun opened is => by rw [is, Option.getD_some]⟩
  simp only [State.blend, region, here, window, body, head, active, data, drained, other, outside, if_false]
  rfl

end

/-- Settles O34: each event is the step of its function under the conditions of its lemma above. -/
theorem renderingLanesAndBlender : Obligations.RenderingLanesAndBlender := by
  refine ⟨fun s tile lane r a x seg owner => ?_, fun s r a credit win g x seg t region actor window body head active data
    drained => ?_⟩
  · intro t w gone toO0
    refine ⟨fun g head => ⟨fun u turn => ?_, fun _ => rfl, fun some_ _ => ?_⟩, fun l head resolver => ?_, ?_, ?_, ?_,
      fun op f gp rest opcode plain waiting => State.laneStep_isSome owner opcode plain waiting f⟩
    · intro l bad
      have answers := exec_edge owner head turn
      refine ⟨fun some_ malformed => answers.trans ?_, fun passes => answers.trans ?_⟩
      · rw [if_pos ⟨some_, malformed⟩]
      · rw [if_neg]
        rintro ⟨some_, malformed⟩
        obtain void | good := passes
        · exact absurd (void.symm.trans some_) (by decide)
        · exact good malformed
    · intro made run u turn
      rw [exec_cover owner head some_]
      exact congrArg (occurIn s r) turn
    · exact ⟨exec_resolverTileBegin owner head resolver, exec_resolverTileDone owner head resolver,
        exec_resolverSample_fragment owner head resolver, exec_resolverSample_open owner head resolver,
        exec_resolverSample_other owner head resolver⟩
    · exact fun u turn => exec_becomes (exec_aplane owner) turn
    · exact fun u turn => exec_becomes (exec_rbox owner) turn
    · exact fun u turn => exec_becomes (exec_rtri owner) turn
  · intro l s1 st upd inside
    have answers {u : State} (next : s.blend r a = some u) : exec (.blenderToken r a) s = becomes u r := exec_becomes rfl next
    refine ⟨tileBegin_fragment, tileBegin_tile, fun tile begins => answers ?_, fun other fits => answers ?_,
      fun other past => ?_⟩
    · exact State.blend_tile region actor window body head active data drained begins
    · exact State.blend_inside region actor window body head active data drained other fits
    · obtain ⟨xy, next, opened⟩ := State.blend_outside region actor window body head active data drained other past
      refine ⟨_, answers next, blendDetail_next _ _, fun tile is hx hy => ?_⟩
      obtain rfl := opened tile is
      exact blendDetail_tile _ hx hy

end Sys2Proof.Machine

namespace Sys2Proof.Machine

open Sys2Proof.Safety

/-! ## Matrix commands (O31) -/

/-- The next command of a serving actor whose kind accepts it goes to its own operation (R291, R341). -/
theorem State.unitCommand_of_next {s : State} {r a issuer by_ op : Nat} {w : BitVec 128} {fo : Bool} {g : Region} {x : Actor}
    {accepts : Nat → Bool} {run : State → Region → Actor → Nat → Nat → BitVec 128 → Bool → Option State}
    (region : s.region r = some g) (actor : g.actor a = some x) (serves : g.serves x = true)
    (next : g.nextCommand a x = some (.cmd issuer by_ w fo)) (accepted : accepts (opOf w) = true)
    (decodes : decodeCommand w ≠ none) :
    s.unitCommand r a op accepts run = if opOf w ≠ op then none else run s g x issuer by_ w fo := by
  have decodes : (decodeCommand w).isNone = false := by simpa [Option.isSome_iff_ne_none] using decodes
  simp [State.unitCommand, State.withCommand, region, actor, serves, next, accepted, decodes]

/-- An actor whose commands may start belongs to a launch and no cut has reached it. -/
theorem Region.serves_runs {g : Region} {x : Actor} (serves : g.serves x = true) : g.launch.isSome = true ∧ x.cut = .run := by
  simp only [Region.serves, Region.active, Bool.or_eq_true, Bool.and_eq_true, decide_eq_true_eq] at serves
  obtain ⟨⟨⟨launch, -⟩, cut⟩, -⟩ | ⟨⟨⟨launch, -⟩, cut⟩, -⟩ := serves
  · exact ⟨launch, cut⟩
  · exact ⟨launch, cut⟩

/-- The state with a matrix command taken: its entry popped, its accumulator cleared where it asks, its batch open (R388). -/
def State.batchOpened (s : State) (r a issuer : Nat) (x : Actor) (w : BitVec 128) (fo : Bool) (m : MatCmd) : State :=
  let s2 := s.modActor r a fun x => x.popCommand fo
  let s3 := if m.clear then s2.modTile x.tile fun t => t.clearAcc m.d else s2
  s3.modBatches r a fun l => l ++ [m.open_ (s2.tile x.tile) issuer w]

/-- An admitted matrix command starts once its charge is covered, where only heavy ones are asked for if it is heavy (R194). -/
theorem State.startMat_of_charged {only fo : Bool} {s s1 : State} {r a issuer by_ : Nat} {x : Actor} {w : BitVec 128} {m : MatCmd}
    {l : List Batch} (body : x.body = .matrix l) (free : runBatch l = none) (reads : matCmd w = some m)
    (admitted : m.refusal (s.accHolder r issuer x fo) w = none) (heavy : only = true → s.isHeavy r m.charge = true)
    (charged : s.chargeCommand r issuer by_ m.charge = some s1) :
    s.startMat only r a x issuer by_ w fo = some (s1.batchOpened r a issuer x w fo m) := by
  have isMatrix : x.isMatrix = true := by simp [Actor.isMatrix, body]
  have batches : x.batches = l := by simp [Actor.batches, body]
  have light : (only && !s.isHeavy r m.charge) = false := by
    cases only with
    | false => rfl
    | true => simp [heavy rfl]
  simp [State.startMat, State.batchOpened, reads, isMatrix, batches, free, admitted, light, charged]

/-- A word that reads as an ACCRD decodes. -/
theorem decodeCommand_ne_none_of_accRead {w : BitVec 128} {c : AccRead} (reads : accRead w = some c) : decodeCommand w ≠ none := by
  intro none
  simp [accRead, none] at reads

/-- An admitted MMA or MMAC whose charge is covered is taken by its own operation, and a heavy one by HEAVY_COMMAND_HOLD. -/
theorem matrixCommand_taken {s s1 : State} {r a issuer by_ : Nat} {w : BitVec 128} {fo : Bool} {g : Region} {x : Actor}
    {l : List Batch} {m : MatCmd} (region : s.region r = some g) (actor : g.actor a = some x) (body : x.body = .matrix l)
    (serves : g.serves x = true) (next : g.nextCommand a x = some (.cmd issuer by_ w fo)) (decodes : decodeCommand w ≠ none)
    (free : runBatch l = none) (reads : matCmd w = some m) (admitted : m.refusal (s.accHolder r issuer x fo) w = none)
    (charged : s.chargeCommand r issuer by_ m.charge = some s1) :
    (opOf w = 5 → exec (.mma r a) s = becomes (s1.batchOpened r a issuer x w fo m) r) ∧
    (opOf w = 6 → exec (.mmac r a) s = becomes (s1.batchOpened r a issuer x w fo m) r) ∧
    (opOf w = 5 ∨ opOf w = 6 → s.isHeavy r m.charge = true →
      exec (.heavyCommandHold r a) s = becomes (s1.batchOpened r a issuer x w fo m) r) := by
  have starts (only : Bool) (heavy : only = true → s.isHeavy r m.charge = true) :=
    State.startMat_of_charged (only := only) (a := a) body free reads admitted heavy charged
  have unit (op : Nat) (accepted : matAccepts (opOf w) = true)
      (run : State → Region → Actor → Nat → Nat → BitVec 128 → Bool → Option State) :=
    State.unitCommand_of_next (op := op) (run := run) region actor serves next accepted decodes
  have here : s.actor r a = some x := by simp [State.actor, region, actor]
  refine ⟨fun op => ?_, fun op => ?_, fun op heavy => ?_⟩
  · refine exec_becomes (by rfl) ?_
    rw [unit 5 (by simp [matAccepts, op])]
    simp [op, starts]
  · refine exec_becomes (by rfl) ?_
    rw [unit 6 (by simp [matAccepts, op])]
    simp [op, starts]
  · show execHeavyCommandHold r a s = _
    have accepted : matAccepts (opOf w) = true := by obtain op | op := op <;> simp [matAccepts, op]
    simp only [execHeavyCommandHold, here, body, unit _ accepted, starts true fun _ => heavy]
    obtain op | op := op
    · simp [op, occurIn, becomes]
    · simp [op, occurIn, becomes]

/-- A group whose operands are there is added, and the batch goes on or ends (R88). -/
theorem State.groupAdd_of_group {s : State} {r a n e : Nat} {g : Region} {x : Actor} {l : List Batch} {b : Batch} {m : MatCmd}
    (region : s.region r = some g) (actor : g.actor a = some x) (body : x.body = .matrix l) (launch : g.launch.isSome = true)
    (cut : x.cut = .run) (holdsNone : x.holdsNone = true) (runs : runBatch l = some (n, b)) (reads : matCmd b.cmd = some m)
    (sound : b.failed = false) (group : b.groupEnd m 16 b.nextK = some e) :
    s.groupAdd r a = some (
      if m.k ≤ e then (s.modTile x.tile (Tile.addGroup b m b.nextK e 4096)).endBatch r a n
      else (s.modTile x.tile (Tile.addGroup b m b.nextK e 4096)).setBatch r a n { b with nextK := e }) := by
  have batches : x.batches = l := by simp [Actor.batches, body]
  simp [State.groupAdd, region, actor, launch, cut, holdsNone, batches, runs, reads, sound, group]

/-- ACCRD is taken from the command input of a free matrix actor. -/
theorem State.accRead_of_taken {s : State} {r a issuer by_ : Nat} {w : BitVec 128} {fo : Bool} {g : Region} {x : Actor}
    {l : List Batch} {c : AccRead} (region : s.region r = some g) (actor : g.actor a = some x) (body : x.body = .matrix l)
    (serves : g.serves x = true) (next : g.nextCommand a x = some (.cmd issuer by_ w fo)) (free : runBatch l = none)
    (op : opOf w = 7) (reads : Sys2Proof.Machine.accRead w = some c)
    (admitted : c.refusal g a (s.accHolder r issuer x fo) w = none) :
    s.accRead r a = some ((s.modActor r a fun x => x.popCommand fo).modBatches r a fun l => l ++ [{ cmd := w, issuer := issuer }]) := by
  have isMatrix : x.isMatrix = true := by simp [Actor.isMatrix, body]
  have batches : x.batches = l := by simp [Actor.batches, body]
  simp only [State.accRead, region, actor, batches, free]
  rw [State.unitCommand_of_next region actor serves next (by simp [matAccepts, op]) (decodeCommand_ne_none_of_accRead reads)]
  simp [op, reads, isMatrix, admitted]

/-- An ACCRD that runs takes its next step. -/
theorem State.accRead_of_running {s : State} {r a n : Nat} {g : Region} {x : Actor} {l : List Batch} {b : Batch} {c : AccRead}
    (region : s.region r = some g) (actor : g.actor a = some x) (body : x.body = .matrix l) (serves : g.serves x = true)
    (holdsNone : x.holdsNone = true) (runs : runBatch l = some (n, b)) (reads : Sys2Proof.Machine.accRead b.cmd = some c) :
    s.accRead r a = s.accStep r a g x n b c := by
  have batches : x.batches = l := by simp [Actor.batches, body]
  simp [State.accRead, region, actor, batches, runs, reads, serves, holdsNone]

/-- A block's header leaves first (R310). -/
theorem State.accStep_of_header {s : State} {r a n : Nat} {g : Region} {x : Actor} {b : Batch} {c : AccRead}
    (ready : g.outReady a c.out = true) (first : b.hdrA = none) :
    let hd := (c.block (s.tile x.tile) (b.nextK / c.len * c.len)).1
    s.accStep r a g x n b c = some ((s.setBatch r a n { b with hdrA := some hd }).sendOn r a c.out 3 [hd]) := by
  simp [State.accStep, ready, first]

/-- After its header a block's data tokens leave; the last of the last block ends the batch (R310). -/
theorem State.accStep_of_data {s : State} {r a n : Nat} {g : Region} {x : Actor} {b : Batch} {c : AccRead} {hd : Dw}
    (ready : g.outReady a c.out = true) (sent : b.hdrA = some hd) :
    let per := perToken ((Fmt.ofCode c.f).getD .fp32).width
    let start := b.nextK / c.len * c.len
    let len := min c.len (4096 - start)
    let done := min (b.nextK - start + per) len
    let s1 := s.sendOn r a c.out 0 (((c.block (s.tile x.tile) start).2[(b.nextK - start) / per]?).getD [0])
    s.accStep r a g x n b c = some (
      if 4096 ≤ start + done then
        if c.clear then (s1.endBatch r a n).modTile x.tile fun t => t.clearAcc c.d else s1.endBatch r a n
      else s1.setBatch r a n { b with nextK := start + done, hdrA := if done = len then none else some hd }) := by
  simp only [State.accStep, ready, sent, Bool.not_true, Bool.false_eq_true, if_false]
  exact (apply_ite some _ _ _).symm

/-- Settles O31: a command that is taken opens its batch, a group or a block's token is the one branch of the running batch. -/
theorem matrixCommands : Obligations.MatrixCommands := by
  intro s r a issuer by_ w fo g x l region actor body serves holdsNone
  obtain ⟨launch, cut⟩ := Region.serves_runs serves
  refine ⟨?_, ?_, ?_, ?_, ?_⟩
  · intro m next decodes free reads admitted took s1 charged
    exact matrixCommand_taken region actor body serves next decodes free reads admitted charged
  · intro n b m e runs reads sound group added
    exact exec_becomes (by rfl) (State.groupAdd_of_group region actor body launch cut holdsNone runs reads sound group)
  · intro c next _ free op reads admitted
    exact exec_becomes (by rfl) (State.accRead_of_taken region actor body serves next free op reads admitted)
  · intro n b c runs reads ready first hd
    exact exec_becomes (by rfl)
      ((State.accRead_of_running region actor body serves holdsNone runs reads).trans (State.accStep_of_header ready first))
  · intro n b c hd runs reads ready sent per start len done s1
    have steps := (State.accRead_of_running region actor body serves holdsNone runs reads).trans
      (State.accStep_of_data (s := s) (r := r) (n := n) (x := x) ready sent)
    refine ⟨fun more => exec_becomes (by rfl) ?_, fun last => exec_becomes (by rfl) ?_⟩
    · rw [steps]
      exact congrArg some (if_neg (Nat.not_le.mpr more))
    · rw [steps]
      exact congrArg some (if_pos last)

end Sys2Proof.Machine

namespace Sys2Proof.Machine

open Sys2Proof.Safety

/-! ## Remote sends and deliveries (O30) -/

/-- An engine that serves a command of its own op, one that decodes and waits for no write, runs it (R190, R291). -/
theorem State.withEngine_of_served {s : State} {eng : Engine} {op k : Nat} {accepts : Nat → Bool} {c : Cmd} {g : Region} {x : Actor}
    {h : CmdHead} {d : Command} {run : Nat → Cmd → Region → Actor → Tile → CmdHead → Command → Option State}
    (served : s.engineCmd eng = some (k, c)) (region : s.region c.region = some g) (actor : g.actor c.actor = some x)
    (sound : c.bad = false) (decodes : decodeCommand c.w = some (h, d)) (accepted : accepts (opOf c.w) = true)
    (same : opOf c.w = op) (free : s.cmdWaits c = false) :
    s.withEngine eng op accepts run = run k c g x (s.tile x.tile) h d := by
  subst same
  simp [State.withEngine, served, region, actor, sound, decodes, accepted, free]

/-- The region of the command an engine serves is that command's. -/
theorem State.engineRegion_of_served {s : State} {eng : Engine} {k : Nat} {c : Cmd} (served : s.engineCmd eng = some (k, c)) :
    s.engineRegion eng = c.region := by
  simp [State.engineRegion, served]

/-- The move that an RSEND without an extension block asks for (R401). -/
def sendMove (t : Tile) (a b : BitVec 18) : Move :=
  { op := 1, src := (tensorAt t a.toNat).1, dst := (tensorAt t b.toNat).1, ext := extOf t none }

/-- A link engine's turn on a well-formed RSEND: it starts or is refused, sends whole units, or completes (R401). -/
theorem State.linkTurn_of_wellFormed {s : State} {die k : Nat} {c : Cmd} {g : Region} {x : Actor} {h : CmdHead} {l : BitVec 3}
    {a b : BitVec 18} (served : s.engineCmd (.link die) = some (k, c)) (region : s.region c.region = some g)
    (actor : g.actor c.actor = some x) (sound : c.bad = false) (decodes : decodeCommand c.w = some (h, .rsend l a b none))
    (op : opOf c.w = 10) (free : s.cmdWaits c = false) {m : Move} (move : m = sendMove (s.tile x.tile) a b)
    (source : x.tensorOk (s.tile x.tile) a.toNat = true) (target : x.tensorOk (s.tile x.tile) b.toNat = true)
    (remote : m.dst.loc = false) (plain : m.ext.cv = false) (format : m.src.fmt = m.dst.fmt) (shapes : m.shapes = true) :
    s.linkTurn die =
      if !c.started then
        if s.linkServes g.slice l.toNat then some (s.setCmd k { c with started := true, scale := some 127 })
        else some (s.refuseCmd k c 0x26 l.toNat (c.w.extractLsb' 0 64) m.total m.ext)
      else if m.units ≤ c.pos then some (s.finishCmd k c m.ext 0)
      else
        let n := min (256 / m.unitBytes) (m.units - c.pos)
        if !s.readsReach (s.viaOf c die) m.src ((List.range (n * m.unitElems)).map fun i => m.src.split (c.pos * m.unitElems + i))
        then none else s.sendPart (s.viaOf c die) k c m l.toNat n := by
  have usable : ¬ (!(x.tensorOk (s.tile x.tile) a.toNat && x.tensorOk (s.tile x.tile) b.toNat && true)) = true := by
    simp [source, target]
  have sends : ¬ (m.dst.loc || m.ext.cv || decide (m.src.fmt ≠ m.dst.fmt) || !m.shapes) = true := by
    simp [remote, plain, format, shapes]
  subst move
  rw [State.linkTurn, State.withEngine_of_served served region actor sound decodes (by simp [op]) op free]
  exact (if_neg usable).trans (if_neg sends)

/-- RSEND does what its link engine's turn does, in the region of the command served. -/
theorem exec_rsend_of_turn {s t : State} {die k : Nat} {c : Cmd} (served : s.engineCmd (.link die) = some (k, c))
    (turn : s.linkTurn die = some t) : exec (.rsend die) s = becomes t c.region := by
  refine exec_becomes ?_ turn
  rw [← State.engineRegion_of_served served]
  rfl

/-- The barrier slot of a remote part told of its bytes (R159, R401). -/
def Remote.settle (m : Remote) (failed : Bool) (code : Byte) (u : State) : State :=
  match m.barrier with
  | some b => { u with subs := u.subs ++
      [{ region := m.region, slot := b, bytes := m.cells.length, failed := failed, code := code }] }
  | none => u

/-- The bytes of a remote part performed at the peer. -/
def Remote.perform (m : Remote) (u : State) : State := m.cells.foldl (fun u p => u.wrByte (sisterPa m.link p.1) p.2) u

/-- The first part queued on a link delivers its completion, is lost, or is performed or turned away at the peer (R401). -/
theorem State.remoteDelivered_of_first {s : State} {k : Nat} {m : Remote} (queued : s.remotes[k]? = some m)
    (first : ((s.remotes.take k).any fun q => decide (q.link = m.link)) = false) :
    let s1 : State := { s with remotes := ldrop s.remotes k }
    (∀ q, m.comp = some q → s.remoteDelivered k = some { s1 with comps := s1.comps ++ [q] }) ∧
    (m.comp = none → (s.link m.link).live = false → s.remoteDelivered k = some (s1.remoteLost m (m.settle true 0x18))) ∧
    (m.comp = none → (s.link m.link).live = true → (∀ p ∈ m.cells, p.1 < 2 ^ 40) →
      s.remoteDelivered k = some (if dwBit s1.free.1 0 then s1.free.2.remoteLost m (m.settle true 0x18)
        else m.settle false 0 (m.perform s1.free.2))) := by
  intro s1
  refine ⟨fun q comp => ?_, fun comp lost => ?_, fun comp live inside => ?_⟩
  · simp [State.remoteDelivered, queued, first, comp, s1]
  · simp only [State.remoteDelivered, queued, first, comp, lost]
    rfl
  · have bounded : (m.cells.any fun p => decide (2 ^ 40 ≤ p.1)) = false := by
      simp only [List.any_eq_false, decide_eq_true_eq, Nat.not_le]
      exact inside
    simp only [State.remoteDelivered, queued, first, comp, live, bounded]
    exact (apply_ite some _ _ _).symm

/-- RSEND_REMOTE_DELIVERY delivers in the region of its part. -/
theorem exec_rsendRemoteDelivery_of_delivered {s t : State} {k : Nat} {m : Remote} (queued : s.remotes[k]? = some m)
    (delivered : s.remoteDelivered k = some t) : exec (.rsendRemoteDelivery k) s = becomes t m.region := by
  refine exec_becomes (?_ : execRsendRemoteDelivery k s = _) delivered
  simp [execRsendRemoteDelivery, queued]

/-- A completion token becomes a call to its target where the narrow plane reaches the region's die (R140, R242). -/
theorem completionToken_delivers {s : State} {k : Nat} {c : Completion} {g : Region} (waits : s.comps[k]? = some c)
    (region : s.region c.region = some g) :
    (s.narrowWay c.die g.die = true → exec (.completionToken k) s =
      becomes (({ s with comps := ldrop s.comps k } : State).netCall c.region c.actor c.entry (BitVec.ofNat 64 c.bytes) c.status)
        c.region) ∧
    (s.narrowWay c.die g.die = false → exec (.completionToken k) s = .next s) := by
  refine ⟨fun reach => ?_, fun cut => ?_⟩
  · show execCompletionToken k s = _
    simp [execCompletionToken, waits, region, reach, occurIn, becomes]
  · show execCompletionToken k s = _
    simp [execCompletionToken, waits, region, cut, occurIn]

/-- At most the bytes that wait are subtracted at once. -/
theorem State.subLen_le (s : State) (b : BarSub) : s.subLen b ≤ b.bytes := by
  unfold State.subLen
  split
  case isTrue none => simp [none]
  case isFalse some =>
    have := Nat.mod_lt s.free.1.toNat (Nat.pos_of_ne_zero some)
    omega

/-- Where bytes wait, one at least is subtracted. -/
theorem State.subLen_pos (s : State) {b : BarSub} (some : 0 < b.bytes) : 0 < s.subLen b := by
  rw [State.subLen, if_neg some.ne']
  omega

/-- The oldest follow-on of an actor in RUN joins its queue while fewer than four wait there (R341). -/
theorem State.followDelivered_of_first {s : State} {k : Nat} {f : FollowOn} {x : Actor} (waits : s.follows[k]? = some f)
    (first : ((s.follows.take k).any fun q => decide (q.region = f.region) && decide (q.actor = f.actor)) = false)
    (actor : s.actor f.region f.actor = some x) (cut : x.cut = .run) :
    s.followDelivered k = if 4 ≤ x.follow.length then none else
      some (({ s with follows := ldrop s.follows k } : State).modActor f.region f.actor fun x =>
        { x with follow := x.follow ++ [{ ahead := (x.port 7).q.length, issuer := f.issuer, by_ := f.by_, w := f.w }] }) := by
  simp [State.followDelivered, waits, first, actor, cut]

/-- Settles O30: each delivery is the one branch of its operation that its state allows. -/
theorem remoteSendsAndDeliveries : Obligations.RemoteSendsAndDeliveries := by
  refine ⟨⟨?_, ?_⟩, ?_⟩
  · intro s die k c g x h l a b served region actor sound decodes op free t m source target remote plain format shapes
    have turn := State.linkTurn_of_wellFormed served region actor sound decodes op free (m := m) rfl source target remote plain
      format shapes
    refine ⟨fun idle serves => ?_, fun idle closed => ?_, fun started done => ?_, ?_⟩
    · exact exec_rsend_of_turn served (by simp [turn, idle, serves])
    · exact exec_rsend_of_turn served (by simp [turn, idle, closed])
    · exact exec_rsend_of_turn served (by simp [turn, started, done])
    · intro u started more n reach part
      refine exec_rsend_of_turn served ?_
      simp only [turn, started, Nat.not_le.mpr more, Bool.not_true, Bool.false_eq_true, if_false]
      exact (if_neg (ne_of_eq_of_ne (congrArg not reach) Bool.false_ne_true)).trans part
  · intro s k m queued first s1 subs
    obtain ⟨ends, lost, meets⟩ := State.remoteDelivered_of_first queued first
    exact ⟨fun q comp => exec_rsendRemoteDelivery_of_delivered queued (ends q comp),
      fun comp dead => exec_rsendRemoteDelivery_of_delivered queued (lost comp dead),
      fun comp live inside => exec_rsendRemoteDelivery_of_delivered queued (meets comp live inside)⟩
  · intro s k
    refine ⟨fun c g waits region => completionToken_delivers waits region, fun b waits => ?_, fun f x waits first actor cut => ?_⟩
    · refine ⟨?_, s.subLen_le b, s.subLen_pos⟩
      show execBarrierSubtract k s = _
      simp [execBarrierSubtract, waits, occurIn, becomes]
    · have delivered := State.followDelivered_of_first waits first actor cut
      refine ⟨fun fewer => ?_, fun full => ?_⟩
      · show execFollowOnDelivery k s = _
        simp [execFollowOnDelivery, waits, delivered, Nat.not_le.mpr fewer, occurIn, becomes]
      · show execFollowOnDelivery k s = _
        simp [execFollowOnDelivery, delivered, full, occurIn]

end Sys2Proof.Machine

namespace Sys2Proof.Machine

open Sys2Proof.Safety

/-! ## Commands at lane and abacus actors (O45) -/

/-- An actor that may take a step may start its commands. -/
theorem Region.serves_of_active {g : Region} {x : Actor} (active : g.active x = true) : g.serves x = true := by
  simp [Region.serves, active]

/-- The issuer of a command stands with its own tile. -/
theorem Region.issuerTile_of_actor {s : State} {g : Region} {i : Nat} {u : Actor} (issuer : g.actor i = some u) :
    Region.issuerTile s g i = some (u, s.tile u.tile) := by
  simp [Region.issuerTile, issuer]

/-- A unit without a command under way is not busy. -/
theorem State.unitBusy_of_none {s : State} {r a : Nat} (idle : s.unitCmd r a = none) : s.unitBusy r a = false := by
  simp [State.unitBusy, idle]

/-- An LSTR under way runs once the lanes of its segment hold no group (R384). -/
theorem State.laneStreamTurn_of_running {s : State} {r a k : Nat} {c : Cmd} {g : Region} {x u : Actor} {h : CmdHead}
    {num : BitVec 2} {xa da : BitVec 18} {ya : Option (BitVec 18)} {l : LaneSeg} {m : LaneStream} (region : s.region r = some g)
    (actor : g.actor a = some x) (runs : s.unitCmd r a = some (k, c)) (decodes : decodeCommand c.w = some (h, .lstr num xa da ya))
    (body : x.body = .lane l) (issuer : g.actor c.actor = some u) (drained : (s.tile x.tile).drained l = true)
    (free : s.cmdWaits c = false) (stream : laneStream u (s.tile u.tile) xa da ya = some m) :
    s.laneStreamTurn r a = s.runStream r a k c x l m := by
  simp [State.laneStreamTurn, runs, region, actor, decodes, body, Region.issuerTile_of_actor issuer, drained, free, stream]

/-- An LSTR that stands next at an idle segment is taken where its operands fit, else refused (R384). -/
theorem State.laneStreamTurn_of_next {s : State} {r a i by_ : Nat} {w : BitVec 128} {fo : Bool} {g : Region} {x u : Actor}
    {h : CmdHead} {num : BitVec 2} {xa da : BitVec 18} {ya : Option (BitVec 18)} {l : LaneSeg} {m : LaneStream}
    (region : s.region r = some g) (actor : g.actor a = some x) (idle : s.unitCmd r a = none) (active : g.active x = true)
    (next : g.nextCommand a x = some (.cmd i by_ w fo)) (op : opOf w = 8)
    (decodes : decodeCommand w = some (h, .lstr num xa da ya)) (body : x.body = .lane l) (issuer : g.actor i = some u)
    (stream : laneStream u (s.tile u.tile) xa da ya = some m) :
    s.laneStreamTurn r a = some (
      if m.misfit g a (s.tile x.tile) l (decide (num.toNat = s.segNumber x.tile l)) then
        s.refuseUnit r a i w 0x21 (opOf w) (w.extractLsb' 0 64) (refusedBytes u (s.tile u.tile) (.lstr num xa da ya))
      else s.takeUnit r a i w) := by
  simp only [State.laneStreamTurn, idle]
  rw [State.unitCommand_of_next region actor (Region.serves_of_active active) next (by simp [op]) (by simp [decodes])]
  simp only [op, ne_eq, not_true_eq_false, if_false, body, decodes, Region.issuerTile_of_actor issuer, stream]
  exact (apply_ite some _ _ _).symm

/-- An ABRUN under way runs its next vector, or ends after the last (R309). -/
theorem State.abRunTurn_of_running {s : State} {r a k : Nat} {c : Cmd} {g : Region} {x u : Actor} {h : CmdHead}
    {xa da : BitVec 18} {sc : BitVec 8} {b : Abacus} {p : Plane} (region : s.region r = some g) (actor : g.actor a = some x)
    (runs : s.unitCmd r a = some (k, c)) (decodes : decodeCommand c.w = some (h, .abrun xa da sc)) (abacus : x.abacus = some b)
    (plane : b.active = some p) (issuer : g.actor c.actor = some u) (free : s.cmdWaits c = false) :
    let xt := (tensorAt (s.tile u.tile) xa.toNat).1
    let dt := (tensorAt (s.tile u.tile) da.toNat).1
    s.abRunTurn false r a =
      if xt.n1 * xt.n2 ≤ c.pos then some (s.dropCmd k) else s.runOne r a k c x p xt dt sc.toNat := by
  simp [State.abRunTurn, runs, region, actor, decodes, abacus, plane, Region.issuerTile_of_actor issuer, free]

/-- An ABRUN whose operands fit the active reckoning is taken once its charge is covered (R194, R309). -/
theorem State.startRun_of_charged {s s1 : State} {r a i by_ : Nat} {w : BitVec 128} {g : Region} {x u : Actor} {h : CmdHead}
    {xa da : BitVec 18} {e : BitVec 8} {b : Abacus} {p : Plane} (idle : s.unitCmd r a = none)
    (decodes : decodeCommand w = some (h, .abrun xa da e)) (abacus : x.abacus = some b) (issuer : g.actor i = some u)
    (boundary : x.atBoundary = true) (sent : b.outq = []) (plane : b.active = some p)
    (source : u.tensorOk (s.tile u.tile) xa.toNat = true) (target : u.tensorOk (s.tile u.tile) da.toNat = true)
    (fits : p.reck.fits (tensorAt (s.tile u.tile) xa.toNat).1 (tensorAt (s.tile u.tile) da.toNat).1 = true)
    (charged : s.chargeCommand r i by_ (p.reck.charge ((tensorAt (s.tile u.tile) xa.toNat).1.n1 *
      (tensorAt (s.tile u.tile) xa.toNat).1.n2)) = some s1) :
    s.startRun false r a g x i by_ w = some (s1.takeUnit r a i w) := by
  simp [State.startRun, abacus, decodes, Region.issuerTile_of_actor issuer, boundary, sent, State.unitBusy_of_none idle, source,
    target, plane, fits, charged]

/-- An ABRUN that stands next at an idle abacus actor starts. -/
theorem State.abRunTurn_of_next {s : State} {r a i by_ : Nat} {w : BitVec 128} {fo : Bool} {g : Region} {x : Actor}
    (region : s.region r = some g) (actor : g.actor a = some x) (idle : s.unitCmd r a = none) (active : g.active x = true)
    (next : g.nextCommand a x = some (.cmd i by_ w fo)) (op : opOf w = 9) (decodes : decodeCommand w ≠ none) :
    s.abRunTurn false r a = s.startRun false r a g x i by_ w := by
  simp only [State.abRunTurn, idle]
  rw [State.unitCommand_of_next region actor (Region.serves_of_active active) next (by simp [op]) decodes]
  simp [op]

/-- A vector without a scale in range gives zeros and fails its bytes with code 0x24 (R309). -/
theorem runVector_of_unscaled {k : Reckoning} {sc : Nat} {es : List Nat} (out : sc = 0xFF ∨ k.scaleOut sc < 0 ∨ 254 < k.scaleOut sc) :
    runVector k sc es = (List.replicate k.nout 0, some 0x24, none, []) :=
  if_pos out

/-- A vector with a scale in range faults with zeros and code 0x31, or gives its outputs (R309). -/
theorem runVector_of_scaled {k : Reckoning} {sc : Nat} {es : List Nat} (valid : sc ≠ 0xFF) (low : 0 ≤ k.scaleOut sc)
    (high : k.scaleOut sc ≤ 254) :
    (∀ q, (k.run (k.mantissas es)).fault = some q →
      runVector k sc es = (List.replicate k.nout 0, some 0x31, some q, (k.run (k.mantissas es)).sticky)) ∧
    ((k.run (k.mantissas es)).fault = none →
      runVector k sc es = (k.outputs (k.run (k.mantissas es)), none, none, (k.run (k.mantissas es)).sticky)) := by
  have scaled : ¬ (sc = 0xFF ∨ k.scaleOut sc < 0 ∨ 254 < k.scaleOut sc) := by omega
  refine ⟨fun q fault => ?_, fun fault => ?_⟩
  · simp only [runVector, if_neg scaled, fault]
  · simp only [runVector, if_neg scaled, fault]

/-! ### Inputs, answers, loads and swaps of an abacus actor -/

/-- The abacus state of an actor whose body is one. -/
theorem Actor.abacus_of_body {x : Actor} {b : Abacus} (body : x.body = .abacus b) : x.abacus = some b := by
  simp [Actor.abacus, body]

/-- No configuration token holds i0 back inside a burst, nor at a boundary without one (R113). -/
theorem Actor.configNext_eq_none {x : Actor} {b : Abacus} (clear : x.atBoundary = true → b.config = [] ∧ x.configHead = none) :
    x.configNext b = none := by
  unfold Actor.configNext
  split
  case isTrue boundary =>
    obtain ⟨taken, head⟩ := clear boundary
    simp [taken, head]
  case isFalse => rfl

/-- What an abacus actor does with a token of i0 in its place (R97): a burst's header and data are kept, the others answered. -/
def State.abToken (s : State) (r a : Nat) (g : Region) (x : Actor) (b : Abacus) (t : Token) : Option State :=
  if t.kind = 3 ∧ !burstType (g.inType a 0) then
    some ((s.modActor r a fun x => x.takeTracked 0).errorAt r a (chanField (g.chanTo a 0)) 0 0x05 0)
  else if t.kind = 3 then some ((s.modActor r a fun x => x.takeTracked 0).modAbacus r a fun b => { b with part := [] })
  else if t.kind = 0 then some (s.abData r a g x b t)
  else if t.kind = 1 then some ((s.modActor r a fun x => x.takeTracked 0).sendOn r a 0 1 [0])
  else if t.kind = 2 then some ((s.modActor r a fun x => x.takeTracked 0).sendEos r a 0 t.eosErr)
  else if t.kind = 4 then some ((s.modActor r a fun x => x.takeTracked 0).sendOn r a 0 4 t.payload)
  else if t.kind = 7 then some (s.modActor r a fun x => x.takeTracked 0)
  else none

/-- An abacus actor that nothing holds back handles the well-framed token at the head of i0 (R97). -/
theorem State.abInput_of_head {s : State} {r a : Nat} {g : Region} {x : Actor} {b : Abacus} {t : Token}
    (region : s.region r = some g) (actor : g.actor a = some x) (body : x.body = .abacus b) (active : g.active x = true)
    (clear : x.atBoundary = true → b.config = [] ∧ x.configHead = none ∧ b.shState ≠ .swapPending)
    (free : s.unitBusy r a = false) (keep : (x.port 0).drop = false) (sent : b.outq = []) (ready : g.outReady a 0 = true)
    (framed : s.framing r a 0 = none) (head : x.head 0 = some t) : s.abInput r a = s.abToken r a g x b t := by
  have unconfigured : x.configNext b = none := Actor.configNext_eq_none fun boundary => by
    obtain ⟨taken, head, -⟩ := clear boundary
    exact ⟨taken, head⟩
  have settled : (x.atBoundary && decide (b.shState = .swapPending)) = false := by
    cases boundary : x.atBoundary with
    | false => rfl
    | true => simpa using (clear boundary).2.2
  simp [State.abInput, State.abToken, region, actor, Actor.abacus_of_body body, active, unconfigured, settled, free, keep, sent,
    ready, framed, head]

/-- The oldest answer of an abacus actor in RUN leaves where o0 is ready (R98). -/
theorem State.abOutput_of_answer {s : State} {r a : Nat} {g : Region} {x : Actor} {b : Abacus} {t : Token} {l : List Token}
    (region : s.region r = some g) (actor : g.actor a = some x) (body : x.body = .abacus b) (answers : b.outq = t :: l)
    (ready : g.outReady a 0 = true) (holdsNone : x.holdsNone = true) (cut : x.cut = .run) :
    s.abOutput r a = some ((s.modAbacus r a fun b => { b with outq := l }).sendOn r a 0 t.kind t.payload) := by
  simp [State.abOutput, region, actor, Actor.abacus_of_body body, answers, ready, holdsNone, cut]

/-- What `modAbacus` makes of an abacus actor: its own state is the function of the old one. -/
theorem State.modAbacus_of_body {s : State} {r a : Nat} {g : Region} {x : Actor} {b : Abacus} (f : Abacus → Abacus)
    (region : s.region r = some g) (actor : g.actor a = some x) (body : x.body = .abacus b) :
    s.modAbacus r a f = s.setRegion r (g.setActor a { x with body := .abacus (f b) }) := by
  simp only [State.modAbacus, State.modActor, State.modRegion_some _ _ _ _ region, Region.modActor, actor, body]

/-- After `modAbacus` the actor's abacus state is the new one. -/
theorem State.abacus_modAbacus {s : State} {r a : Nat} {g : Region} {x : Actor} {b : Abacus} (f : Abacus → Abacus)
    (region : s.region r = some g) (actor : g.actor a = some x) (body : x.body = .abacus b) :
    ((s.modAbacus r a f).actor r a).bind Actor.abacus = some (f b) := by
  simp [State.modAbacus_of_body f region actor body, State.actor, State.region_setRegion_same, Region.actor_setActor_same,
    Actor.abacus]

/-- The address of the image that fills the shadow plane. -/
def Abacus.loadVa (b : Abacus) : Dw := (b.shadow.map (·.va)).getD 0

/-- The shadow plane filled by a load that completed, its fault and its owed answer settled. -/
def Abacus.filled (p : Plane) (b : Abacus) : Abacus :=
  { b with shadow := some p, shState := .loaded, owedLoad := none, fault := none }

/-- A load under way that completes fills the shadow plane and answers, or swaps in a configuration token's (R111, R113). -/
theorem State.abLoaded_of_loaded {s u : State} {r a : Nat} {g : Region} {x : Actor} {b : Abacus} {p : Plane}
    (region : s.region r = some g) (actor : g.actor a = some x) (body : x.body = .abacus b) (loading : b.shState = .loading)
    (cut : x.cut = .run) (free : s.unitBusy r a = false)
    (load : s.loadImage r a g x b.loadVa.toNat = (u, .loaded p)) :
    s.abLoaded r a = some (
      if b.cfgLoad then u.configDone r a (some p)
      else match b.owedLoad with
        | some o => (u.modAbacus r a fun _ => b.filled p).answer r o
            ((b.filled p).reply 0 0 p.reck.len (BitVec.ofNat 64 p.reck.beads))
        | none => u.modAbacus r a fun _ => b.filled p) := by
  have after : u.region r = some g := by
    have same : u.regions = s.regions := by rw [← State.loadImage_regions s r a g x b.loadVa.toNat, load]
    rwa [State.region, same]
  have state := State.abacus_modAbacus (Abacus.filled p) after actor body
  have same : u.modAbacus r a (Abacus.filled p) = u.modAbacus r a fun _ => b.filled p := by
    rw [State.modAbacus_of_body _ after actor body, State.modAbacus_of_body _ after actor body]
  have turn : s.abLoaded r a = if b.cfgLoad then some (u.configDone r a (some p)) else
      match b.owedLoad, ((u.modAbacus r a (Abacus.filled p)).actor r a).bind Actor.abacus with
      | some o, some b1 => some ((u.modAbacus r a (Abacus.filled p)).answer r o
          (b1.reply 0 0 p.reck.len (BitVec.ofNat 64 p.reck.beads)))
      | _, _ => some (u.modAbacus r a (Abacus.filled p)) := by
    rw [Abacus.loadVa] at load
    simp only [State.abLoaded, region, actor, Actor.abacus_of_body body, loading, cut, free, load, ne_eq, not_true_eq_false,
      Bool.false_eq_true, and_false, or_self, if_false]
    rfl
  rw [turn, state, same]
  cases b.cfgLoad with
  | true => rfl
  | false =>
    cases b.owedLoad with
    | none => rfl
    | some o => rfl

/-- A load under way that is refused ends so (R111). -/
theorem State.abLoaded_of_refused {s u : State} {r a st : Nat} {d : Dw} {g : Region} {x : Actor} {b : Abacus}
    (region : s.region r = some g) (actor : g.actor a = some x) (body : x.body = .abacus b) (loading : b.shState = .loading)
    (cut : x.cut = .run) (free : s.unitBusy r a = false)
    (load : s.loadImage r a g x b.loadVa.toNat = (u, .refused st d)) :
    s.abLoaded r a = some (u.abRefuse r a g x b.loadVa st d) := by
  rw [Abacus.loadVa] at load
  simp only [State.abLoaded, region, actor, Actor.abacus_of_body body, loading, cut, free, load, ne_eq, not_true_eq_false,
    Bool.false_eq_true, and_false, or_self, if_false, Abacus.loadVa]

/-- A pending swap exchanges the planes whole at a burst boundary and answers (R112). -/
theorem State.abSwaps_of_pending {s : State} {r a : Nat} {g : Region} {x : Actor} {b : Abacus}
    (region : s.region r = some g) (actor : g.actor a = some x) (body : x.body = .abacus b) (pending : b.shState = .swapPending)
    (boundary : x.atBoundary = true) (cut : x.cut = .run) (free : s.unitBusy r a = false) :
    let b1 : Abacus := { b.swap with owedSwap := none }
    s.abSwaps r a = some (match b.owedSwap with
      | some o => (s.modAbacus r a fun _ => b1).answer r o (b1.reply 1 0 0 0)
      | none => s.modAbacus r a fun _ => b1) := by
  have here : s.actor r a = some x := by simp [State.actor, region, actor]
  cases owed : b.owedSwap with
  | none => simp [State.abSwaps, here, Actor.abacus_of_body body, pending, boundary, cut, free, owed]
  | some o => simp [State.abSwaps, here, Actor.abacus_of_body body, pending, boundary, cut, free, owed]

/-- An engine-configuration token at the head of i0 is seen there. -/
theorem Actor.configHead_of_token {x : Actor} {t : Token} (head : x.head 0 = some t) (kind : t.kind = 5) (subtype : t.subtype = 4) :
    x.configHead = some t.payload := by
  simp [Actor.configHead, head, kind, subtype]

/-- Inside a burst a configuration token is taken and waits (R113). -/
theorem State.abConfig_inside {s : State} {r a : Nat} {g : Region} {x : Actor} {b : Abacus} {c : List Dw}
    (region : s.region r = some g) (actor : g.actor a = some x) (body : x.body = .abacus b) (active : g.active x = true)
    (inside : x.atBoundary = false) (head : x.configHead = some c) :
    s.abConfig r a = some ((s.modActor r a fun x => x.popPort 0).modAbacus r a fun b => { b with config := b.config ++ [c] }) := by
  simp [State.abConfig, region, actor, Actor.abacus_of_body body, active, inside, head]

/-- At a boundary the oldest configuration token taken inside a burst comes first, else the one at the head of i0 (R113). -/
theorem Actor.configNext_at_boundary {x : Actor} {b : Abacus} {c : List Dw} (boundary : x.atBoundary = true)
    (stands : (∃ l, b.config = c :: l) ∨
      b.config = [] ∧ ∃ t, x.head 0 = some t ∧ t.kind = 5 ∧ t.subtype = 4 ∧ t.payload = c) : x.configNext b = some c := by
  obtain ⟨l, taken⟩ | ⟨none, t, head, kind, subtype, rfl⟩ := stands
  · simp [Actor.configNext, boundary, taken]
  · simp [Actor.configNext, boundary, none, Actor.configHead_of_token head kind subtype]

/-- At a boundary with a free shadow plane a configuration token is refused where it is bad, else its image's load begins (R113). -/
theorem State.abConfig_at_boundary {s : State} {r a : Nat} {g : Region} {x : Actor} {b : Abacus} {c : List Dw}
    (region : s.region r = some g) (actor : g.actor a = some x) (body : x.body = .abacus b) (active : g.active x = true)
    (boundary : x.atBoundary = true) (free : s.unitBusy r a = false) (unswapped : b.shState ≠ .swapPending)
    (unloaded : b.shState ≠ .loading) (next : x.configNext b = some c) :
    let va := c.getD 1 0
    ((∃ v ∈ c.drop 2, v ≠ 0) ∨ va.toNat % 8 ≠ 0 → s.abConfig r a = some (s.configRefused r a x g va 2)) ∧
    (¬ ((∃ v ∈ c.drop 2, v ≠ 0) ∨ va.toNat % 8 ≠ 0) → s.abConfig r a = some (s.modAbacus r a fun b =>
      { b with shadow := some { va := va }, shState := .loading, cfgLoad := true, fault := none })) := by
  intro va
  have test : ((c.drop 2).any (fun v => decide (v ≠ 0)) || decide (va.toNat % 8 ≠ 0)) = true ↔
      (∃ v ∈ c.drop 2, v ≠ 0) ∨ va.toNat % 8 ≠ 0 := by
    simp only [Bool.or_eq_true, List.any_eq_true, decide_eq_true_eq]
  have turn : s.abConfig r a =
      if (c.drop 2).any (fun v => decide (v ≠ 0)) || decide (va.toNat % 8 ≠ 0) then some (s.configRefused r a x g va 2)
      else some (s.modAbacus r a fun b =>
        { b with shadow := some { va := va }, shState := .loading, cfgLoad := true, fault := none }) := by
    simp only [State.abConfig, region, actor, Actor.abacus_of_body body, active, boundary, next, free, unswapped, unloaded,
      Bool.not_true, Bool.false_eq_true, if_false, decide_false, Bool.or_self]
    rfl
  exact ⟨fun bad => turn.trans (if_pos (test.mpr bad)), fun good => turn.trans (if_neg (mt test.mp good))⟩

/-- Settles O45: each clause is the one turn of its unit that the hypotheses leave. -/
theorem commandsAtUnits : Obligations.CommandsAtUnits := by
  refine ⟨fun s r a g x region actor => ⟨?_, ?_, ?_, ?_, ?_⟩, fun s r a g x b region actor body => ⟨?_, ?_, ?_, ?_, ?_, ?_⟩⟩
  · intro k c h num xa da ya l u m runs decodes body issuer drained free stream w turn
    exact exec_becomes (by rfl)
      ((State.laneStreamTurn_of_running region actor runs decodes body issuer drained free stream).trans turn)
  · intro i by_ w fo h num xa da ya l u m idle active next op decodes body issuer stream own
    have turn := State.laneStreamTurn_of_next region actor idle active next op decodes body issuer stream
    exact ⟨fun fits => exec_becomes (by rfl) (turn.trans (congrArg some (if_neg (ne_of_eq_of_ne fits Bool.false_ne_true)))),
      fun misfits => exec_becomes (by rfl) (turn.trans (congrArg some (if_pos misfits)))⟩
  · intro k c h xa da sc b p u runs decodes abacus plane issuer free xt dt
    have turn := State.abRunTurn_of_running region actor runs decodes abacus plane issuer free
    exact ⟨fun last => exec_becomes (by rfl) (turn.trans (if_pos last)),
      fun w more run => exec_becomes (by rfl) (turn.trans ((if_neg (Nat.not_le.mpr more)).trans run))⟩
  · intro i by_ w fo h xa da e b p u idle active next op decodes abacus issuer boundary sent plane source target xt fits s1 charged
    have starts := State.startRun_of_charged idle decodes abacus issuer boundary sent plane source target fits charged
    exact exec_becomes (by rfl)
      ((State.abRunTurn_of_next region actor idle active next op (by simp [decodes])).trans starts)
  · intro k sc es out
    exact ⟨runVector_of_unscaled, runVector_of_scaled⟩
  · intro t active clear free keep sent ready framed head
    have input := State.abInput_of_head region actor body active clear free keep sent ready framed head
    refine ⟨fun kind burst => ?_, fun kind plain => ?_, fun kind => ?_, fun kind => ?_, fun kind => ?_, fun kind => ?_⟩
    · exact exec_becomes (by rfl) (by simp [input, State.abToken, kind, burst])
    · exact exec_becomes (by rfl) (by simp [input, State.abToken, kind, plain])
    all_goals exact exec_becomes (by rfl) (by simp [input, State.abToken, kind])
  · intro t l answers ready holdsNone cut
    exact exec_becomes (by rfl) (State.abOutput_of_answer region actor body answers ready holdsNone cut)
  · intro loading cut free va
    refine ⟨?_, fun u st d load => ?_⟩
    · intro u p load b1
      have turn := State.abLoaded_of_loaded region actor body loading cut free load
      refine ⟨fun config => ?_, fun own silent => ?_, fun o own owed => ?_⟩
      · exact exec_becomes (by rfl) (turn.trans (congrArg some (if_pos config)))
      · refine exec_becomes (by rfl) (turn.trans ?_)
        simp [own, silent, b1, Abacus.filled]
      · refine exec_becomes (by rfl) (turn.trans ?_)
        simp [own, owed, b1, Abacus.filled]
    · exact exec_becomes (by rfl) (State.abLoaded_of_refused region actor body loading cut free load)
  · intro pending boundary cut free b1
    exact exec_becomes (by rfl) (State.abSwaps_of_pending region actor body pending boundary cut free)
  · intro t active inside head kind subtype
    exact exec_becomes (by rfl)
      (State.abConfig_inside region actor body active inside (Actor.configHead_of_token head kind subtype))
  · intro c active boundary free unswapped unloaded stands va bad
    obtain ⟨refused, loads⟩ := State.abConfig_at_boundary region actor body active boundary free unswapped unloaded
      (Actor.configNext_at_boundary boundary stands)
    exact ⟨fun wrong => exec_becomes (by rfl) (refused wrong), fun good => exec_becomes (by rfl) (loads good)⟩

end Sys2Proof.Machine

namespace Sys2Proof.Machine

open Sys2Proof.Safety

/-! ## Control and status registers (R49, R50, R344) -/

/-! ### What a mode may do with a register, by its number -/

/-- The numbers that both modes read and neither writes, those of system mode alone, and those that both modes read and write
(R49); 0x40 is read in both and written in system mode. -/
def csrReadOnly : List Nat := [0, 1, 2, 3, 4, 0x20, 0x21, 0x41]
def csrSystem : List Nat := [5, 0x10, 0x11, 0x12, 0x13, 0x14, 0x15]
def csrShared : List Nat := [0x30, 0x31]

theorem csrAccess_readOnly {n : Nat} (h : n ∈ csrReadOnly) : csrAccess n = some (.ro, .ro) := by
  simp only [csrReadOnly, List.mem_cons, List.not_mem_nil, or_false] at h
  rcases h with rfl | rfl | rfl | rfl | rfl | rfl | rfl | rfl <;> rfl

theorem csrAccess_system {n : Nat} (h : n ∈ csrSystem) : csrAccess n = some (.none, .rw) := by
  simp only [csrSystem, List.mem_cons, List.not_mem_nil, or_false] at h
  rcases h with rfl | rfl | rfl | rfl | rfl | rfl | rfl <;> rfl

theorem csrAccess_shared {n : Nat} (h : n ∈ csrShared) : csrAccess n = some (.rw, .rw) := by
  simp only [csrShared, List.mem_cons, List.not_mem_nil, or_false] at h
  rcases h with rfl | rfl <;> rfl

/-- A register that the mode may read. -/
theorem csrTrap_read {sys : Bool} {n : Nat}
    (h : n ∈ csrReadOnly ∨ n ∈ csrShared ∨ n = 0x40 ∨ (n ∈ csrSystem ∧ sys = true)) : csrTrap sys false n = none := by
  rcases h with h | h | rfl | ⟨h, rfl⟩
  · rw [csrTrap, csrAccess_readOnly h]
    cases sys <;> rfl
  · rw [csrTrap, csrAccess_shared h]
    cases sys <;> rfl
  · cases sys <;> rfl
  · rw [csrTrap, csrAccess_system h]
    rfl

/-- A register that the mode may write. -/
theorem csrTrap_write {sys : Bool} {n : Nat} (h : n ∈ csrShared ∨ ((n ∈ csrSystem ∨ n = 0x40) ∧ sys = true)) :
    csrTrap sys true n = none := by
  rcases h with h | ⟨h | rfl, rfl⟩
  · rw [csrTrap, csrAccess_shared h]
    cases sys <;> rfl
  · rw [csrTrap, csrAccess_system h]
    rfl
  · rfl

/-- A register that the mode may only read traps on a write: 0x01 in system mode, 0x02 in graph mode. -/
theorem csrTrap_write_readOnly {sys : Bool} {n : Nat} (h : n ∈ csrReadOnly ∨ (n = 0x40 ∧ sys = false)) :
    csrTrap sys true n = some (if sys then 1 else 2) := by
  rcases h with h | ⟨rfl, rfl⟩
  · rw [csrTrap, csrAccess_readOnly h]
    cases sys <;> rfl
  · rfl

/-! ### The three instructions -/

section
variable {s : State} {c : BitVec 12}

theorem exec_csrr_reads (h : csrTrap s.core.sys false c.toNat = none) (g : Reg) :
    exec (.csrr g c) s = .next (wrote s g (s.csrRead c.toNat)) := by
  show execCsrr g c s = _
  simp only [execCsrr, h, retire_eq_wrote]

theorem exec_csrw_writes (h : csrTrap s.core.sys true c.toNat = none) (a : Reg) :
    exec (.csrw a c) s = .next (passed (s.csrWrite c.toNat (s.reg a))) := by
  show execCsrw a c s = _
  simp only [execCsrw, h]
  rfl

theorem exec_csrx_exchanges (h : csrTrap s.core.sys true c.toNat = none) (g a : Reg) :
    exec (.csrx g a c) s = .next (wrote (s.csrWrite c.toNat (s.reg a)) g (s.csrRead c.toNat)) := by
  show execCsrx g a c s = _
  simp only [execCsrx, h, retire_eq_wrote]

/-- CSRW and CSRX where the register refuses a write. -/
theorem exec_csr_write_traps {t : BitVec 8} (h : csrTrap s.core.sys true c.toNat = some t) (g a : Reg) :
    exec (.csrw a c) s = .next (s.takeTrap t s.wordHere) ∧ exec (.csrx g a c) s = .next (s.takeTrap t s.wordHere) := by
  constructor
  · show execCsrw a c s = _
    simp only [execCsrw, h, trapNow]
  · show execCsrx g a c s = _
    simp only [execCsrx, h, trapNow]

end

/-- Settles O20: each instruction asks `csrTrap`, which answers by the class of the number and the mode. -/
theorem specialRegisterAccess : Obligations.SpecialRegisterAccess := by
  refine fun s g a c => ⟨fun readable => exec_csrr_reads (csrTrap_read readable) g, fun writable => ?_,
    fun noOpen noBoth noClosed noRace => ?_, fun closed graph => ?_, fun fixed => ?_⟩
  · have free := csrTrap_write writable
    exact ⟨exec_csrw_writes free a, exec_csrx_exchanges free g a⟩
  · have traps (write : Bool) : csrTrap s.core.sys write c.toNat = some 1 :=
      csrTrap_unassigned (by simp only [List.mem_cons, List.not_mem_nil, or_false] at *; omega) _ write
    exact ⟨exec_csr_traps (a := a) traps (.inl rfl), exec_csr_traps (g := g) traps (.inr (.inl rfl)),
      exec_csr_traps traps (.inr (.inr rfl))⟩
  · have traps (write : Bool) : csrTrap s.core.sys write c.toNat = some 2 := by
      rw [graph]
      exact csrTrap_privileged closed write
    exact ⟨exec_csr_traps (a := a) traps (.inl rfl), exec_csr_traps (g := g) traps (.inr (.inl rfl)),
      exec_csr_traps traps (.inr (.inr rfl))⟩
  · exact exec_csr_write_traps (csrTrap_write_readOnly fixed) g a

/-! ### What a register reads (R49) -/

/-- The bits of a width cut out and extended again are those under its mask. -/
theorem setWidth_setWidth_eq_mask {n : Nat} (v : Dw) : (v.setWidth n).setWidth 64 = v &&& BitVec.ofNat 64 (2 ^ n - 1) := by
  refine BitVec.eq_of_getLsbD_eq fun i hi => ?_
  simp only [BitVec.getLsbD_setWidth, BitVec.getLsbD_and, BitVec.getLsbD_ofNat, Nat.testBit_two_pow_sub_one, hi, decide_true,
    Bool.true_and, Bool.and_comm]

/-- TVEC's 30 bits. -/
theorem setWidth_tvec (v : Dw) : (v.setWidth 32 &&& 0xFFFFFFFC : Word).setWidth 64 = v &&& 0xFFFFFFFC := by
  rw [BitVec.setWidth_and, setWidth_setWidth_eq_mask, BitVec.and_assoc]
  rfl

section
variable (s : State)

theorem State.modRegion_core (r : Nat) (f : Region → Region) : (s.modRegion r f).core = s.core := by
  simp only [State.core, State.tile, State.modRegion_tiles, State.modRegion_focus]

theorem State.modRegion_runner (r : Nat) (f : Region → Region) : (s.modRegion r f).runner = s.runner := by
  simp only [State.runner, State.modRegion_core]

variable {s}

/-- The running actor's region changed, read at the running firing. -/
theorem State.runRegion_modRegion {g : Region} (hg : s.region s.runner.1 = some g) (f : Region → Region) :
    (s.modRegion s.runner.1 f).region (s.modRegion s.runner.1 f).runner.1 = some (f g) := by
  rw [State.modRegion_runner, State.modRegion_some s _ f g hg, State.region_setRegion_same]

/-- The running actor changed, read at the running firing. -/
theorem State.runActor_modActor {x : Actor} (hx : s.runActor = some x) (f : Actor → Actor) :
    (s.modActor s.runner.1 s.runner.2 f).runActor = some (f x) := by
  obtain ⟨g, hg, ha⟩ := Option.bind_eq_some_iff.1 hx
  have region : (s.modActor s.runner.1 s.runner.2 f).region s.runner.1 = some (g.modActor s.runner.2 f) := by
    rw [State.modActor, State.modRegion_some s _ _ g hg, State.region_setRegion_same]
  rw [State.runActor, State.modActor, State.modRegion_runner, State.actor, ← State.modActor, region, Option.bind_some,
    Region.modActor, ha, Region.actor_setActor_same]

theorem csrRead_of_region {g : Region} (hg : s.region s.runner.1 = some g) :
    s.csrRead 2 = packDw [(g.ox, 0), (g.oy, 6), (g.w - 1, 10), (g.h - 1, 16), (g.num % 65536, 20)] ∧
    s.csrRead 3 = packDw [(g.asid % 16384, 0)] ∧ s.csrRead 0x15 = g.ctxb ∧ s.csrRead 0x40 = g.racec.setWidth 64 ∧
    s.csrRead 0x41 = packDw [(g.credit % 65536, 0), (g.refusals.toNat, 16)] := by
  simp only [State.csrRead, hg, Option.getD_some, and_self]

theorem csrRead_of_actor {x : Actor} (hx : s.runActor = some x) :
    s.csrRead 0 = packDw [(x.slot % 16, 0), (s.runner.2 % 65536, 4)] ∧
    s.csrRead 4 = packDw [(s.core.cls.toNat, 0), (x.cls.toNat, 2)] ∧
    s.csrRead 0x30 = x.fctl.setWidth 64 ∧ s.csrRead 0x31 = x.fflags.setWidth 64 := by
  simp only [State.csrRead, hx, Option.getD_some, and_self]

end

/-! ### What a written register reads back -/

section
variable {s : State} (v : Dw)

theorem csrRead_csrWrite_core (canon : Canon s) :
    (s.csrWrite 5 v).csrRead 5 = (v.setWidth 4).setWidth 64 ∧ (s.csrWrite 0x10 v).csrRead 0x10 = (v.setWidth 6).setWidth 64 ∧
    (s.csrWrite 0x11 v).csrRead 0x11 = (v.setWidth 8).setWidth 64 ∧
    (s.csrWrite 0x12 v).csrRead 0x12 = (v.setWidth 32).setWidth 64 ∧ (s.csrWrite 0x13 v).csrRead 0x13 = v ∧
    (s.csrWrite 0x14 v).csrRead 0x14 = (v.setWidth 32 &&& 0xFFFFFFFC : Word).setWidth 64 := by
  have reads (c : Core) : (s.setCore c).core = c := State.core_setCore s c canon.tiles
  exact ⟨congrArg (·.bypass.setWidth 64) (reads _), congrArg (·.tstat.setWidth 64) (reads _),
    congrArg (·.tcause.setWidth 64) (reads _), congrArg (·.tepc.setWidth 64) (reads _), congrArg (·.tval) (reads _),
    congrArg (·.tvec.setWidth 64) (reads _)⟩

theorem csrRead_csrWrite_actor {x : Actor} (hx : s.runActor = some x) :
    (s.csrWrite 0x30 v).csrRead 0x30 = (v.setWidth 4).setWidth 64 ∧
    (s.csrWrite 0x31 v).csrRead 0x31 = (v.setWidth 5).setWidth 64 := by
  have reads (f : Actor → Actor) := State.runActor_modActor hx f
  exact ⟨congrArg (fun y => (y.getD {}).fctl.setWidth 64) (reads _), congrArg (fun y => (y.getD {}).fflags.setWidth 64) (reads _)⟩

theorem csrRead_csrWrite_region {g : Region} (hg : s.region s.runner.1 = some g) :
    (s.csrWrite 0x40 v).csrRead 0x40 = (v.setWidth 32).setWidth 64 ∧
    (s.csrWrite 0x15 v).csrRead 0x15 = v &&& 0xFFFFFFFFFFFFF000 := by
  have reads (f : Region → Region) := State.runRegion_modRegion hg f
  exact ⟨congrArg (fun y => (y.getD {}).racec.setWidth 64) (reads _), congrArg (fun y => (y.getD {}).ctxb) (reads _)⟩

end

/-- Settles O21: a register reads a field of the core, of the running actor, its region or its die, and a write changes that
field in the place it is read from. -/
theorem specialRegisterValues : Obligations.SpecialRegisterValues := by
  intro s x g v hx hg
  obtain ⟨slice, asid, ctxb, racec, credit⟩ := csrRead_of_region hg
  obtain ⟨slot, cls, fctl, fflags⟩ := csrRead_of_actor hx
  refine ⟨slot, rfl, slice, asid, cls, rfl, rfl, rfl, rfl, rfl, rfl, ctxb, rfl, rfl, fctl, fflags, racec, credit,
    fun canon _ => ?_⟩
  obtain ⟨bypass, tstat, tcause, tepc, tval, tvec⟩ := csrRead_csrWrite_core v canon
  obtain ⟨fctl, fflags⟩ := csrRead_csrWrite_actor v hx
  obtain ⟨racec, ctxb⟩ := csrRead_csrWrite_region v hg
  have mask {w : Nat} {u : Dw} (h : u = (v.setWidth w).setWidth 64) : u = v &&& BitVec.ofNat 64 (2 ^ w - 1) :=
    h.trans (setWidth_setWidth_eq_mask v)
  exact ⟨mask bypass, mask tstat, mask tcause, mask tepc, mask (by simpa using tval), mask fctl, mask fflags, mask racec,
    tvec.trans (setWidth_tvec v), ctxb⟩

end Sys2Proof.Machine

namespace Sys2Proof.Machine

open Sys2Proof.Safety

/-! ## A step by the turn that is named (R41, R42, R218, R272) -/

/-- The four bytes of a word as decoding takes them are the word that the fetch loads. -/
theorem wordOfBytes_eq_leNat (b0 b1 b2 b3 : Byte) : wordOfBytes b0 b1 b2 b3 = BitVec.ofNat 32 (leNat [b0, b1, b2, b3]) := by
  refine BitVec.eq_of_toNat_eq ?_
  have h0 := b0.isLt
  have h1 := b1.isLt
  have h2 := b2.isLt
  have h3 := b3.isLt
  simp only [wordOfBytes, BitVec.toNat_append, BitVec.toNat_ofNat, leNat]
  rw [← Nat.shiftLeft_add_eq_or_of_lt h0, ← Nat.shiftLeft_add_eq_or_of_lt h1, ← Nat.shiftLeft_add_eq_or_of_lt h2]
  simp only [Nat.shiftLeft_eq]
  omega

/-- The instruction of the bytes at the pc is that of the fetched word. -/
theorem decode_fetched {s : State} {i : Instr}
    (bytes : decodeBytes ((s.tile s.focus).bytes s.core.pc.toNat 4) = .ok (i, [])) : decode s.fetched = .ok i := by
  simp only [Tile.bytes, decodeBytes, wordOfBytes_eq_leNat] at bytes
  show decode (BitVec.ofNat 32 (leNat ((s.tile s.focus).bytes s.core.pc.toNat 4))) = _
  simp only [Tile.bytes]
  split at bytes
  · next h =>
    cases bytes
    exact h
  · cases bytes

section
variable {s : State} {f : Firing} (fires : s.firing = some f)

/-- The limit of the mode, as a firing that may issue has not reached it. -/
def Firing.mayIssue (f : Firing) (sys : Bool) : Prop := if sys then f.hcount < 65536 else f.count < 4096 ∧ f.over6 = false

/-- The firing with one more instruction counted in its mode. -/
def Firing.issued (f : Firing) (sys : Bool) : Firing :=
  if sys then { f with hcount := f.hcount + 1 } else { f with count := f.count + 1 }

theorem State.limitOf_none (free : f.mayIssue s.core.sys) (w : Word) : s.limitOf f w = none := by
  unfold Firing.mayIssue at free
  unfold State.limitOf
  split
  · next sys =>
    rw [if_pos sys] at free
    exact if_neg (Nat.not_le.2 free)
  · next graph =>
    obtain ⟨count, first⟩ := if_neg graph ▸ free
    rw [first, if_neg Bool.false_ne_true, if_neg (Nat.not_le.2 count)]

include fires

/-- Counting below the limit advances the count of the mode. -/
theorem State.counted_eq (free : f.mayIssue s.core.sys) :
    s.counted = s.setCore { s.core with firing := some (f.issued s.core.sys) } := by
  have modified (g : Firing → Firing) : s.modFiring g = s.setCore { s.core with firing := some (g f) } := by
    rw [State.modFiring, show s.core.firing = some f from fires]
  unfold Firing.mayIssue at free
  unfold State.counted Firing.issued
  split
  · exact modified _
  · next graph =>
    rw [modified, Nat.min_eq_left (if_neg graph ▸ free).1]

/-- The turn of a core whose bytes at the pc decode to an instruction within the limits. -/
theorem coreTurn_exec {i : Instr} (fetch : s.fetchOk = true) (free : f.mayIssue s.core.sys)
    (bytes : decodeBytes ((s.tile s.focus).bytes s.core.pc.toNat 4) = .ok (i, [])) :
    coreTurn s = exec i (s.setCore { s.core with firing := some (f.issued s.core.sys) }) := by
  rw [coreTurn_ok fires fetch (State.limitOf_none free _) (decode_fetched bytes), State.counted_eq fires free]

end

theorem coreTurn_idle {s : State} (idle : s.firing = none) : coreTurn s = .next s := by
  simp only [coreTurn, idle]

section
variable {s : State} {l : List Turn} (runs : s.frz = false) (on : s.stopped = false)
include runs on

theorem step_of_core {t : Nat} (named : s.agenda = .core t :: l) : step s = coreTurn { s with focus := t, agenda := l } := by
  simp [step, runs, on, named]

theorem step_of_unit {i : Instr} (named : s.agenda = .unit i :: l) (event : encode i = none) :
    step s = exec i { s with agenda := l } := by
  simp [step, runs, on, named, event]

theorem step_of_host {i : Instr} {fn : Nat} {t : State} (named : s.agenda = .host fn i :: l) (event : encode i = none)
    (next : exec i { s with agenda := l, fn := some fn } = .next t) : step s = .next { t with fn := none } := by
  have other : ¬ (encode i).isSome = true := by simp [event]
  rw [step, if_neg (by simp [runs]), if_neg (by simp [on]), named]
  dsimp only
  rw [if_neg other, next]

theorem step_of_dvfs {d mhz : Nat} (named : s.agenda = .dvfs d mhz :: l) :
    step s = .next (State.moveClock { s with agenda := l } d mhz) := by
  simp [step, runs, on, named]

theorem step_of_elapse {n : Nat} (named : s.agenda = .elapse n :: l) :
    step s = .next (State.elapse { s with agenda := l } n) := by
  simp [step, runs, on, named]

end

/-- The passing of time changes dies and clocks alone. -/
theorem State.elapse_frame (s : State) (n : Nat) : (s.elapse n).tiles = s.tiles ∧ (s.elapse n).regions = s.regions :=
  List.foldlRecOn (motive := fun u : State => u.tiles = s.tiles ∧ u.regions = s.regions) _ _ ⟨rfl, rfl⟩
    fun _ kept _ _ => kept

/-- Settles O53: a core's turn asks for the firing, the fetch, the limit and the decoding, each of which its hypothesis answers;
every other turn is an arm of `step`. -/
theorem stepRunsDecoded : Obligations.StepRunsDecoded := by
  intro s i runs on
  have turn {u : State} (h : (s.agenda = [] ∧ u = s) ∨ ∃ t l, s.agenda = .core t :: l ∧ u = { s with focus := t, agenda := l }) :
      step s = coreTurn u := by
    rcases h with ⟨idle, rfl⟩ | ⟨t, l, named, rfl⟩
    · exact step_of_coreTurn runs on idle
    · exact step_of_core runs on named
  refine ⟨fun u f h => ⟨fun idle => ?_, fun fires fetch free bytes => ?_⟩, fun l named event => ?_, fun fn l named event t next => ?_,
    fun d mhz l named => ?_, fun d mhz => rfl, fun n l named => ?_⟩
  · rw [turn h, coreTurn_idle idle]
  · exact (turn h).trans (coreTurn_exec fires fetch free bytes)
  · exact step_of_unit runs on named event
  · exact step_of_host runs on named event next
  · exact step_of_dvfs runs on named
  · obtain ⟨tiles, regions⟩ := State.elapse_frame { s with agenda := l } n
    exact ⟨_, step_of_elapse runs on named, State.elapse_mem _ n, tiles, regions⟩

end Sys2Proof.Machine

namespace Sys2Proof.Machine

open Sys2Proof.Safety

/-! ## The turn of a lane (R56, R58, R351) -/

section
variable {s : State} {tile lane r a : Nat} {x : Actor} {seg : LaneSeg} {gp : Group} {rest : List Group} {g : Region}

/-- A lane's turn on the group at the head of its queue: the tile after it, its tokens behind what waits, and the segment
sending as far as slots are free. -/
def State.laneAfter (s : State) (tile lane r a : Nat) (seg : LaneSeg) (gp : Group) (g : Region) : State :=
  let t := s.tile tile
  let turn := t.laneTurn seg (g.segFmt a) (burstType (g.segType a)) (g.burstOuts a) lane LaneCtx.run
  let toks := turn.2.flatMap (Yield.tokens (g.segOut a t seg gp.scale.toNat))
  ((s.setTile tile turn.1).modSeg r a fun l =>
    { l with pend := l.pend ++ toks, hdr := if lane = seg.last ∧ gp.burstLast then none else l.hdr }).drainPend r a

variable (owner : s.laneOwner tile lane = some (r, a, x, seg)) (waiting : ((s.tile tile).laneSt lane).q = gp :: rest)
  (hg : s.region r = some g)
include owner waiting hg

/-- A lane takes its turn where it holds the opcode, as a switch where LSEL's routing makes it one. -/
theorem State.laneStep_eq {op : Nat} {switch : Bool} (opcode : ((s.tile tile).laneWord lane).op = op)
    (kind : switch = (decide (op = 11) && decide (((s.tile tile).laneWord lane).out = 5))) :
    s.laneStep tile lane op switch LaneCtx.run = some (s.laneAfter tile lane r a seg gp g) := by
  have holds : (!(decide (((s.tile tile).laneWord lane).op = op) &&
      (switch == (decide (op = 11) && decide (((s.tile tile).laneWord lane).out = 5))))) = false := by simp [opcode, kind]
  simp only [State.laneStep, owner, waiting, hg, holds]
  rfl

theorem laneEvent_eq {op : Nat} (opcode : ((s.tile tile).laneWord lane).op = op)
    (plain : ¬ (op = 11 ∧ ((s.tile tile).laneWord lane).out = 5)) :
    laneEvent s tile lane op = becomes (s.laneAfter tile lane r a seg gp g) r := by
  have step := State.laneStep_eq owner waiting hg (switch := false) opcode (by simpa using plain)
  simp only [laneEvent, owner, step]
  rfl

theorem exec_lselSwitch_eq (opcode : ((s.tile tile).laneWord lane).op = 11) (switch : ((s.tile tile).laneWord lane).out = 5) :
    exec (.lselSwitch tile lane) s = becomes (s.laneAfter tile lane r a seg gp g) r := by
  have step := State.laneStep_eq owner waiting hg (switch := true) opcode (by simp [switch])
  show execLselSwitch tile lane s = _
  simp only [execLselSwitch, owner, step]
  rfl

end

/-- The lane operations of `Obligations.LaneOperations` with their opcodes. -/
def laneOpcodes (tile lane : Nat) : List (Instr × Nat) :=
  [(.ladd tile lane, 1), (.lsub tile lane, 2), (.lmul tile lane, 3), (.lfma tile lane, 4), (.lmin tile lane, 5),
    (.lmax tile lane, 6), (.lcvt tile lane, 7), (.lexp2 tile lane, 8), (.lrcp tile lane, 9), (.lrsq tile lane, 10),
    (.lsel tile lane, 11), (.lcmp tile lane, 12), (.lshf tile lane, 13), (.llog tile lane, 14), (.lpass tile lane, 15),
    (.ldly tile lane, 16), (.lrow tile lane, 17), (.lscale tile lane, 18), (.lacc tile lane, 19), (.lred tile lane, 20),
    (.lperm tile lane, 21)]

/-- Each of them is the lane event of its opcode. -/
theorem exec_laneOpcode (s : State) {tile lane : Nat} : ∀ p ∈ laneOpcodes tile lane, exec p.1 s = laneEvent s tile lane p.2 := by
  simp only [laneOpcodes, List.forall_mem_cons, List.not_mem_nil, false_implies, implies_true, and_true]
  and_intros <;> rfl

/-- Settles O32: every operation is the lane event of its opcode, and the event is the one turn `State.laneAfter`. -/
theorem laneOperations : Obligations.LaneOperations := by
  intro s tile lane r a x seg gp rest g owner waiting hg
  refine ⟨fun i op listed opcode plain => ?_, fun opcode switch => exec_lselSwitch_eq owner waiting hg opcode switch⟩
  exact (exec_laneOpcode s _ listed).trans (laneEvent_eq owner waiting hg opcode plain)

end Sys2Proof.Machine

namespace Sys2Proof.Machine

open Sys2Proof.Safety

/-! ## Tokens on their way (R14, R52, R64, R84, R425) -/

/-! ### At a router (R64, R84 to R86) -/

/-- The channel and the flits that leave a router: as the filter of the hop makes them, or the flit one hop on. -/
def Chan.leaving (c : Chan) (x : Flit) (here : Bool) : Chan × List Flit :=
  match c.filt, here with
  | some f, true => (((c.turned f x).1.filterFlit f x).1, (c.turned f x).2 ++ ((c.turned f x).1.filterFlit f x).2)
  | _, _ => (c, [x.past (x.pos + 1) x.tok])

theorem Chan.leaving_elsewhere (c : Chan) (x : Flit) : c.leaving x false = (c, [x.past (x.pos + 1) x.tok]) := by
  unfold Chan.leaving
  split
  · next h => cases h
  · rfl

theorem Chan.leaving_here {c : Chan} {f : Dw} (filter : c.filt = some f) (x : Flit) : c.leaving x true =
    (((c.turned f x).1.filterFlit f x).1, (c.turned f x).2 ++ ((c.turned f x).1.filterFlit f x).2) := by
  simp only [Chan.leaving, filter]

/-- The dies of a hop of the path and of the next one. -/
def Chan.diesAt (c : Chan) (pos : Nat) : Nat × Nat :=
  let a := dieOf ((c.path[pos]?).getD 0)
  (a, ((c.path[pos + 1]?).map dieOf).getD a)

/-- The state as a flit of a channel crosses from one hop to the next. -/
def State.across (s : State) (c : Chan) (pos : Nat) (way : Bool) : State :=
  if way then s.crossed (c.diesAt pos).1 (c.diesAt pos).2 else s

section
variable {s : State} {r ch : Nat} {g : Region} {c : Chan} {k : Nat} {x : Flit} {way : Bool} (hg : s.region r = some g)
  (hc : g.chan ch = some c) (flit : c.wire[k]? = some x) (known : x.tok.kind.toNat < 8)
  (first : ∀ y ∈ c.wire.take k, x.pos < y.pos)
  (crosses : s.crossing c (c.diesAt x.pos).1 (c.diesAt x.pos).2 = some way)
include hg hc flit known first crosses

/-- A flit that is first at its router and whose way is open leaves it. -/
theorem State.hop_eq {here : Bool} (place : here = (decide (x.pos = c.fhop) && c.filt.isSome))
    (onward : here = true ∨ x.pos + 1 < c.path.length) (incomplete : here = true → c.lacks ≠ some 0) :
    s.hop r ch k = some ((s.across c x.pos way).modRegion r fun g => g.setChan ch
      { (c.leaving x here).1 with
        wire := (c.leaving x here).1.wire.take k ++ (c.leaving x here).2 ++ (c.leaving x here).1.wire.drop (k + 1) }) := by
  have free : ((c.wire.take k).all fun y => decide (x.pos < y.pos)) = true := by simpa using first
  have goes : (!(decide (x.pos + 1 < c.path.length) || here) || !true || (here && decide (c.lacks = some 0)) ||
      (some way).isNone) = false := by
    rcases here with - | -
    · simpa using onward
    · simpa using incomplete
  have plain : ¬ 8 ≤ x.tok.kind.toNat := Nat.not_le.2 known
  simp only [Chan.diesAt] at crosses
  unfold State.hop
  rw [hg, Option.bind_some, hc]
  dsimp only
  rw [flit]
  dsimp only
  rw [← place, free, crosses, goes, if_neg Bool.false_ne_true, if_neg plain]
  cases way <;> rfl

/-- Without its channel's filter there a flit moves on by one. -/
theorem State.hop_plain (onward : x.pos + 1 < c.path.length) (elsewhere : c.filt = none ∨ x.pos ≠ c.fhop) :
    s.hop r ch k = some ((s.across c x.pos way).modRegion r fun g => g.setChan ch
      { c with wire := c.wire.take k ++ [x.past (x.pos + 1) x.tok] ++ c.wire.drop (k + 1) }) := by
  have place : false = (decide (x.pos = c.fhop) && c.filt.isSome) := by
    rcases elsewhere with h | h <;> simp [h]
  rw [State.hop_eq hg hc flit known first crosses place (.inr onward) (fun h => nomatch h), Chan.leaving_elsewhere]

/-- At the hop of its channel's filter a flit leaves as the filter makes it. -/
theorem State.hop_filtered {f : Dw} (here : x.pos = c.fhop) (filter : c.filt = some f) (incomplete : c.lacks ≠ some 0) :
    s.hop r ch k = some ((s.across c x.pos way).modRegion r fun g => g.setChan ch
      { ((c.turned f x).1.filterFlit f x).1 with
        wire := ((c.turned f x).1.filterFlit f x).1.wire.take k ++ ((c.turned f x).2 ++ ((c.turned f x).1.filterFlit f x).2) ++
          ((c.turned f x).1.filterFlit f x).1.wire.drop (k + 1) }) := by
  have place : true = (decide (x.pos = c.fhop) && c.filt.isSome) := by simp [here, filter]
  rw [State.hop_eq hg hc flit known first crosses place (.inl rfl) (fun _ => incomplete), Chan.leaving_here filter]

end

/-! ### A held burst (R85, R86) -/

/-- The tokens of a complete held burst as flits past the hop. -/
def Chan.burstFlits (c : Chan) (f : Dw) : List Flit :=
  (burstOut f c.held).1.map fun t => {
    pos := c.fhop + 1, tok := t, after := (c.held.flatMap (·.after)).eraseDups, old := (c.held.head?.map (·.old)).getD 0 }

/-- A complete held burst leaves its hop behind the flits ahead of it. -/
theorem State.emitBurst_eq {s : State} {r ch : Nat} {g : Region} {c : Chan} {f : Dw} {way : Bool} (hg : s.region r = some g)
    (hc : g.chan ch = some c) (filter : c.filt = some f) (complete : c.lacks = some 0) (whole : (burstOut f c.held).2 = none)
    (crosses : s.crossing c (c.diesAt c.fhop).1 (c.diesAt c.fhop).2 = some way) :
    let fresh := ({ c with held := [] }).stamped (c.burstFlits f)
    let ahead := c.wire.takeWhile fun x => decide (c.fhop < x.pos)
    s.emitBurst r ch = some ((s.across c c.fhop way).modRegion r fun g => g.setChan ch
      { fresh.1 with wire := ahead ++ fresh.2 ++ c.wire.drop ahead.length }) := by
  simp only [Chan.diesAt] at crosses
  unfold State.emitBurst
  rw [hg, Option.bind_some, hc]
  dsimp only
  rw [filter, complete, crosses]
  simp only [whole]
  rfl

/-! ### Arrival (R14, R153, R304) -/

/-- The code of an error token stands in its low byte. -/
theorem errPayload_code (asid chan tile slot info code : Nat) (detail : Dw) :
    dwAt ((errPayload asid chan tile slot info code detail).getD 0 0) 0 8 = code % 256 := by
  simp only [errPayload, List.getD_cons_zero, dwAt, bitsAt, packDw, packNat, List.foldl_cons, List.foldl_nil, BitVec.toNat_ofNat]
  omega

/-- A token out of sequence arrives as an error token with code 0x02, and the count goes on from its number. -/
theorem arriveAs_break {t : Token} {exp : BitVec 12} (asid ch tile slot p : Nat) (gap : t.seq ≠ exp) :
    ∃ l, arriveAs asid ch tile slot p exp t = ({ kind := 4, seq := t.seq, payload := l }, t.seq + 1) ∧
      dwAt (l.getD 0 0) 0 8 = 2 :=
  ⟨_, if_pos gap, errPayload_code ..⟩

theorem arriveAs_next {t : Token} {exp : BitVec 12} (asid ch tile slot p : Nat) (next : t.seq = exp) (plain : t.kind ≠ 5) :
    arriveAs asid ch tile slot p exp t = (t, exp + 1) := by
  rw [arriveAs, if_neg (not_not.2 next), if_neg fun h => plain h.1]

/-- Accesses that are performed hold no flit back. -/
theorem State.released_of_performed {s : State} {l : List Dep} (performed : ∀ d ∈ l, s.depDone d = true) (cutting : Bool) :
    l.any (s.holds cutting) = false := by
  rw [List.any_eq_false]
  intro d hd
  simp [State.holds, performed d hd]

section
variable {s : State} {r ch : Nat} {g : Region} {c : Chan} {x : Flit} {rest : List Flit} (hg : s.region r = some g)
  (hc : g.chan ch = some c) (wire : c.wire = x :: rest) (arrived : c.atEnd x = true) (known : x.tok.kind.toNat < 8)
  (performed : ∀ d ∈ x.after, s.depDone d = true)
include hg hc wire arrived known performed

/-- A token joins its actor's input, with the accesses not yet performed at package scope. -/
theorem State.receive_actor {a p : Nat} {y : Actor} (dst : c.dst = .actor a p) (hy : g.actor a = some y) :
    let took := arriveAs g.asid ch y.tile y.slot p (if x.old < c.older then 0 else (y.port p).exp) x.tok
    let left := x.after.filter fun u => !s.performedAt u.tile u.id 2
    s.receive r ch = some ((s.modRegion r fun g => g.setChan ch { c with wire := rest, older := x.old }).modActor r a fun z =>
      z.setPort p { y.port p with
        exp := took.2, q := (y.port p).q ++ [{ took.1 with deps := took.1.deps ++ left }] }) := by
  have still := State.released_of_performed performed g.cutBy.isSome
  have plain : ¬ 8 ≤ x.tok.kind.toNat := Nat.not_le.2 known
  simp only [State.receive, hg, hc, wire, dst, arrived, still, plain, hy, if_false, Bool.false_and, Bool.not_true, Bool.or_false,
    Bool.false_eq_true]

/-- A command engine takes a token while its slots are not all in use. -/
theorem State.receive_copy {d n : Nat} (dst : c.dst = .copy d n) (room : s.openCmds r ch < c.slots) :
    s.receive r ch = some ((s.modRegion r fun g => g.setChan ch { c with wire := rest, older := x.old }).accept r ch (.copy d n) c
      x.cls x.tok x.after) := by
  have still := State.released_of_performed performed g.cutBy.isSome
  have plain : ¬ 8 ≤ x.tok.kind.toNat := Nat.not_le.2 known
  simp only [State.receive, hg, hc, wire, dst, arrived, still, plain, if_false, Bool.true_and, Bool.not_true, Bool.or_false,
    Bool.false_eq_true, Nat.not_le.2 room, decide_false, Bool.and_false]

end

/-! ### Held errors (R52, R425) -/

section
variable {s s1 : State} {r a : Nat} {g : Region} {y : Actor} (hg : s.region r = some g) (hy : g.actor a = some y)
include hg hy

theorem State.heldStep_held {t : Token} {l : List Token} (held : y.held = t :: l)
    (sent : s.trySendError r a t.payload = some s1) :
    s.heldStep r a = some (s1.modActor r a fun y => { y with held := l }) := by
  simp only [State.heldStep, hg, hy, held, sent, Option.map_some, Option.orElse_some]

theorem State.heldStep_diverted {p : List Dw} {l : List (List Dw)} (held : y.held = []) (diverted : y.diverted = p :: l)
    (sent : s.feed r p = some s1) : s.heldStep r a = some (s1.modActor r a fun y => { y with diverted := l }) := by
  simp only [State.heldStep, hg, hy, held, diverted, sent, Option.map_some, Option.orElse_none]

end

/-- Settles O35: each event is one step function, which its lemma above evaluates under the event's conditions. -/
theorem tokensMove : Obligations.TokensMove := by
  intro s r ch g c hg hc
  refine ⟨fun k x flit known first => ⟨fun way crosses onward elsewhere => ?_, fun f way crosses here filter incomplete => ?_⟩,
    fun f way filter complete whole crosses => ?_, fun x rest wire arrived known performed =>
    ⟨fun a p y dst hy => ?_, fun d n dst _ room => ?_⟩, fun a y t l s1 hy held sent => ?_,
    fun a y p l s1 hy held diverted sent => ?_, fun asid tile slot p exp t => ⟨fun gap => ?_, fun next plain => ?_⟩⟩
  · exact exec_becomes rfl (State.hop_plain hg hc flit known first crosses onward elsewhere)
  · exact exec_becomes rfl (State.hop_filtered hg hc flit known first crosses here filter incomplete)
  · exact exec_becomes rfl (State.emitBurst_eq hg hc filter complete whole crosses)
  · exact exec_becomes rfl (State.receive_actor hg hc wire arrived known performed dst hy)
  · exact exec_becomes rfl (State.receive_copy hg hc wire arrived known performed dst room)
  · exact exec_becomes rfl (State.heldStep_held hg hy held sent)
  · exact exec_becomes rfl (State.heldStep_diverted hg hy held diverted sent)
  · exact arriveAs_break asid ch tile slot p gap
  · exact arriveAs_next asid ch tile slot p next plain

end Sys2Proof.Machine

namespace Sys2Proof.Machine

open Sys2Proof.Safety

/-! ## The machine after reset (R244, R248, R253) -/

/-- Above every listed key a map reads as unlisted. -/
theorem sget_of_keys_lt {α : Type} (d : α) {m : Sparse α} {k : Nat} (above : ∀ p ∈ m, p.1 < k) : sget d m k = d := by
  induction m with
  | nil => rfl
  | cons p m ih =>
    have head : p.1 < k := above p List.mem_cons_self
    rw [sget, if_neg (Nat.ne_of_gt head), if_neg (Nat.not_lt.2 (Nat.le_of_lt head))]
    exact ih fun q hq => above q (List.mem_cons_of_mem _ hq)

/-- An entry of the default table on its edge: ready, and the first circuit of the edge the narrow one. -/
def defaultEntry (e : Nat) : Prop :=
  let v := sget 0 defaultConn e
  entV v = true ∧ entRdy v = true ∧ (entBulk v = true ↔ e % 17 ≠ 0) ∧ edgeNum (entA v) (entB v) = some (e / 17)

/-- The table's 170 entries stand as R244 lists them. -/
theorem defaultConn_entries : ∀ e < 170, defaultEntry e := by
  unfold defaultEntry
  decide +kernel

/-- It lists no other entry. -/
theorem defaultConn_past {e : Nat} (h : 170 ≤ e) : sget 0 defaultConn e = 0 :=
  sget_of_keys_lt 0 fun p hp =>
    Nat.lt_of_lt_of_le ((by decide +kernel : ∀ p ∈ defaultConn, p.1 < 170) p hp) h

/-- After reset every slice reads alike but for its descriptor. -/
theorem slice_reset (n : Nat) : ∃ desc, State.reset.slice n = { desc := desc } := by
  rcases n with - | n
  · exact ⟨_, rfl⟩
  · exact ⟨_, rfl⟩

theorem canon_reset : Canon State.reset where
  mem := rfl
  tiles := rfl
  regions := rfl
  regs _ := ⟨rfl, rfl⟩
  spad _ := rfl

/-- A general register of a core just reset reads zero. -/
theorem reg_reset (r : Reg) : State.reset.reg r = 0 := by
  unfold State.reg Core.reg
  split
  · rfl
  · split <;> rfl

theorem head_reset (d h : Nat) : (State.reset.die d).head h = {} := rfl

theorem session_reset (d k : Nat) : (State.reset.die d).session k = {} := rfl

theorem conn_reset : State.reset.conn = defaultConn := rfl

/-- TRRES at reset: no handler range. -/
theorem trres_reset (t : Nat) : (State.reset.tile t).trres = 0 := by
  show ({} : Tile).trres = 0
  decide

theorem link_reset (k : Nat) : State.reset.link k = {} := rfl

/-- TINV1 at reset: no page waits and the invalidation is done. -/
theorem tinv1_reset (n : Nat) : (State.reset.slice n).tinv1 = 0x8000000000000000 := by
  obtain ⟨desc, slice⟩ := slice_reset n
  rw [slice]
  show packDw [(0, 0), (b2n false, 62), (b2n true, 63)] = _
  decide

/-- FQCFG at reset: no fault queue, and no record lost. -/
theorem fqcfg_reset (n : Nat) : (State.reset.slice n).fqcfgWord = 0 := by
  obtain ⟨desc, slice⟩ := slice_reset n
  rw [slice]
  show packDw [(0, 0), (0, 32)] = _
  decide

theorem queue_reset (n k : Nat) : (State.reset.slice n).queue k = {} := by
  obtain ⟨desc, slice⟩ := slice_reset n
  rw [slice]
  rfl

/-- Settles O55: every map of the state but those of slices and circuits is empty, so that a conjunct that is no matter of the
registers, the circuits or the canonical form is a field's value at reset. -/
theorem resetState : Obligations.ResetState := by
  intro t d n k
  obtain ⟨desc, slice⟩ := slice_reset n
  dsimp only
  rw [head_reset, session_reset, link_reset, queue_reset, tinv1_reset, fqcfg_reset, trres_reset, slice]
  exact ⟨rfl, rfl, rfl, rfl, rfl, rfl, rfl, rfl, rfl, rfl, rfl, rfl, rfl, rfl, rfl, rfl, rfl, rfl, rfl, rfl, rfl, rfl, rfl, rfl,
    rfl, rfl, rfl, rfl, reg_reset, rfl, rfl, rfl, rfl, rfl, rfl, rfl, rfl, rfl, rfl, by decide, by decide, conn_reset,
    defaultConn_entries, fun _ => defaultConn_past, rfl, rfl, rfl, rfl, rfl, rfl, rfl, rfl, rfl, rfl, rfl, fun _ => rfl, rfl,
    canon_reset⟩

end Sys2Proof.Machine

namespace Sys2Proof.Machine

/-! ## Operations that leave every tile alone

The lemmas of this layer say of an operation that writes memory, regions, dies or slices that it leaves the tiles and the focus
as they are: `State.<name>_cores`, an equation, in the model's own order. An operation that may fail is asked of the state it
answers. -/

/-- The tile in focus and all tiles: what the cores and scratchpads are read from. -/
def State.cores (s : State) : Nat × Sparse Tile := (s.focus, s.tiles)

@[simp] theorem State.setRegion_cores (s : State) (r : Nat) (g : Region) : (s.setRegion r g).cores = s.cores := rfl
@[simp] theorem State.dropRegion_cores (s : State) (r : Nat) : (s.dropRegion r).cores = s.cores := rfl
@[simp] theorem State.setSlice_cores (s : State) (n : Nat) (v : Slice) : (s.setSlice n v).cores = s.cores := rfl
@[simp] theorem State.setDie_cores (s : State) (d : Nat) (v : Die) : (s.setDie d v).cores = s.cores := rfl
@[simp] theorem State.setDir_cores (s : State) (line : Nat) (d : Dir) : (s.setDir line d).cores = s.cores := rfl
@[simp] theorem State.wrByte_cores (s : State) (pa : Nat) (b : Byte) : (s.wrByte pa b).cores = s.cores := rfl
@[simp] theorem State.free_cores (s : State) : s.free.2.cores = s.cores := rfl
@[simp] theorem State.modSlice_cores (s : State) (n : Nat) (f : Slice → Slice) : (s.modSlice n f).cores = s.cores := rfl
@[simp] theorem State.modDie_cores (s : State) (d : Nat) (f : Die → Die) : (s.modDie d f).cores = s.cores := rfl
@[simp] theorem State.modStopped_cores (s : State) (r : Nat) (f : Head → Head) (e : Session → Session) :
    (s.modStopped r f e).cores = s.cores := rfl
@[simp] theorem State.resumeDisplay_cores (s : State) (r : Nat) : (s.resumeDisplay r).cores = s.cores := rfl

@[simp] theorem State.modRegion_cores (s : State) (r : Nat) (f : Region → Region) : (s.modRegion r f).cores = s.cores := by
  simp only [State.cores, State.modRegion_focus, State.modRegion_tiles]

@[simp] theorem State.modActor_cores (s : State) (r a : Nat) (f : Actor → Actor) : (s.modActor r a f).cores = s.cores :=
  s.modRegion_cores r _

/-- An update that each element of a list makes leaves the tiles alone when each of them does. -/
theorem State.foldl_cores {β : Type} (f : State → β → State) (hf : ∀ s x, (f s x).cores = s.cores) (l : List β) (s : State) :
    (l.foldl f s).cores = s.cores :=
  List.foldlRecOn (motive := fun u : State => u.cores = s.cores) l f rfl fun u hu x _ => (hf u x).trans hu

/-! ### Memory -/

@[simp] theorem State.putBytes_cores (ps : List Nat) (l : List Byte) (s : State) : (s.putBytes ps l).cores = s.cores := by
  induction ps generalizing s l with
  | nil => cases l <;> rfl
  | cons p ps ih =>
    cases l with
    | nil => rfl
    | cons b l => exact ih l (s.wrByte p b)

@[simp] theorem State.wrBytes_cores (l : List Byte) (s : State) (pa : Nat) : (s.wrBytes pa l).cores = s.cores := by
  induction l generalizing s pa with
  | nil => rfl
  | cons b l ih => exact ih (s.wrByte pa b) (pa + 1)

@[simp] theorem State.homeWrite_cores (s : State) (ps : List Nat) (l : List Byte) (o : Option RelUnit) :
    (s.homeWrite ps l o).cores = s.cores :=
  State.putBytes_cores ps l s

@[simp] theorem State.sendInvs_cores (keep : Option Nat) (l : List Nat) (s : State) : (s.sendInvs keep l).cores = s.cores := by
  induction l generalizing s with
  | nil => rfl
  | cons n l ih => exact ih _

@[simp] theorem State.invalidate_cores (s : State) (keep : Option Nat) (l : List Nat) :
    ((s.invalidate keep l).getD s).cores = s.cores := by
  unfold State.invalidate
  split
  · exact State.sendInvs_cores keep l s
  · rfl

@[simp] theorem State.dropPosted_cores (s : State) (w : Posted) : (s.dropPosted w).cores = s.cores := by
  unfold State.dropPosted
  split <;> rfl

@[simp] theorem State.performPosted_cores (s : State) (w : Posted) : (s.performPosted w).cores = s.cores := by
  unfold State.performPosted
  split
  · exact s.homeWrite_cores _ _ none
  · exact s.homeWrite_cores _ _ none

theorem State.settlePosted_cores (l : List Posted) (s : State) : (s.settlePosted l).cores = s.cores := by
  induction l generalizing s with
  | nil => rfl
  | cons w l ih =>
    unfold State.settlePosted
    dsimp only
    split
    · exact ih _
    · split
      · exact (ih _).trans (s.dropPosted_cores w)
      · split
        · exact (ih _).trans (s.performPosted_cores w)
        · exact (ih _).trans (s.invalidate_cores none _)

theorem State.settleDues_cores (l : List (Nat × Bool)) (s : State) : (s.settleDues l).cores = s.cores := by
  induction l generalizing s with
  | nil => rfl
  | cons d l ih =>
    unfold State.settleDues
    dsimp only
    split
    · exact ih _
    · split
      · exact (ih _).trans (State.wrBytes_cores ..)
      · exact (ih _).trans (s.invalidate_cores none _)

@[simp] theorem State.post_cores (s : State) (ps : List Nat) (l : List Byte) : (s.post ps l).cores = s.cores :=
  (State.settleDues_cores _ _).trans (State.settlePosted_cores _ _)

@[simp] theorem State.hwWrite_cores (s : State) (ps : List Nat) (l : List Byte) : (s.hwWrite ps l).cores = s.cores :=
  s.post_cores ps l

@[simp] theorem State.mark_cores (w : Bool) (l : List Nat) (s : State) : (s.mark w l).cores = s.cores := by
  induction l generalizing s with
  | nil => rfl
  | cons a l ih =>
    unfold State.mark
    refine (ih _).trans ?_
    split
    · rfl
    · exact State.settleDues_cores _ s

@[simp] theorem State.share_cores (s : State) (tile : Nat) (pas : List Nat) : (s.share tile pas).cores = s.cores :=
  State.foldl_cores _ (fun _ _ => by rfl) _ s

@[simp] theorem State.fill_cores (s : State) (tile asid : Nat) (va : Dw) (pas : List Nat) :
    (s.fill tile asid va pas).cores = s.cores := by
  unfold State.fill
  split
  · split
    · rfl
    · exact s.share_cores tile pas
  · rfl

/-! ### Save areas, fault records and completions -/

theorem State.areaWrite_cores {s t : State} {g : Region} {off : Nat} {l : List Byte} (e : s.areaWrite g off l = .ok t) :
    t.cores = s.cores := by
  unfold State.areaWrite State.saveWrite at e
  split at e
  · cases e
    rfl
  · split at e
    · cases e
      simp
    · cases e

@[simp] theorem State.syncFault_cores (s : State) (r : Nat) : (s.syncFault r).cores = s.cores := by
  unfold State.syncFault
  split
  · rfl
  · dsimp only
    refine (State.setRegion_cores ..).trans ?_
    split
    · next e => exact State.areaWrite_cores e
    · rfl

@[simp] theorem State.reportMesh_cores (s : State) (r : Nat) : (s.reportMesh r).cores = s.cores := by
  unfold State.reportMesh
  split
  · rfl
  · split
    · next e => exact State.areaWrite_cores e
    · rfl

@[simp] theorem State.countMesh_cores (s : State) (r : Nat) (f : Region → Region) : (s.countMesh r f).cores = s.cores :=
  (State.reportMesh_cores _ r).trans (s.modRegion_cores r f)

@[simp] theorem State.writeRecord_cores (s : State) (r : Nat) (e : ErrRec) : (s.writeRecord r e).cores = s.cores := by
  unfold State.writeRecord
  split
  · rfl
  · next g _ =>
    dsimp only
    split
    · rfl
    · next s1 counted =>
      have h1 := State.areaWrite_cores counted
      split
      · rfl
      · next s2 kept =>
        have h2 : s2.cores = s1.cores := by
          split at kept
          · exact State.areaWrite_cores kept
          · cases kept
            rfl
        split
        · rfl
        · next s3 written => exact (State.areaWrite_cores written).trans (h2.trans h1)

@[simp] theorem State.netCall_cores (s : State) (r a entry : Nat) (d1 d2 : Dw) : (s.netCall r a entry d1 d2).cores = s.cores := by
  simp [State.netCall]

@[simp] theorem State.complete_cores (s : State) (slice q idx : Nat) (irq : Bool) (tag : BitVec 16) (status : Nat) (rec_ : Dw) :
    (s.complete slice q idx irq tag status rec_).cores = s.cores := by
  unfold State.complete
  dsimp only
  split
  · split <;> exact (State.hwWrite_cores _ _ _).trans (State.mark_cores _ _ s)
  · rfl

@[simp] theorem State.report_cores (s : State) (slice : Nat) (l : Launch) (status : Nat) (rec_ : Dw) :
    (s.report slice l status rec_).cores = s.cores := by
  unfold State.report
  split
  · exact State.complete_cores ..
  · rfl
  · split
    · split <;> rfl
    · split
      · rfl
      · split
        · rfl
        · exact State.netCall_cores ..

/-! ### Tokens and errors -/

@[simp] theorem State.respond_cores (s : State) (r a p : Nat) (kind : BitVec 4) (payload : List Dw) (deps : List Dep) :
    (s.respond r a p kind payload deps).cores = s.cores := by
  simp [State.respond]

theorem State.feed_cores {s t : State} {r : Nat} {payload : List Dw} (e : s.feed r payload = some t) : t.cores = s.cores := by
  unfold State.feed at e
  split at e
  · cases e
    rfl
  · split at e
    · cases e
      rfl
    · split at e
      · cases e
        rfl
      · dsimp only at e
        split at e
        · cases e
        · cases e
          rfl

theorem State.trySendError_cores {s t : State} {r a : Nat} {payload : List Dw} (e : s.trySendError r a payload = some t) :
    t.cores = s.cores := by
  unfold State.trySendError at e
  split at e
  · cases e
    rfl
  · split at e
    · exact State.feed_cores e
    · split at e
      · exact State.feed_cores e
      · split at e
        · exact State.feed_cores e
        · split at e
          · cases e
          · cases e
            rfl

/-- An error token sent, or else what is done in its place. -/
theorem State.trySendError_getD_cores {s u : State} {r a : Nat} {payload : List Dw} (h : u.cores = s.cores) :
    ((s.trySendError r a payload).getD u).cores = s.cores := by
  cases e : s.trySendError r a payload with
  | none => exact h
  | some t => exact State.trySendError_cores e

@[simp] theorem State.sendError_cores (s : State) (r a : Nat) (payload : List Dw) : (s.sendError r a payload).cores = s.cores := by
  unfold State.sendError
  dsimp only
  split
  · split
    · exact State.trySendError_getD_cores (s.modActor_cores ..)
    · exact s.modActor_cores ..
  · exact State.trySendError_getD_cores rfl

@[simp] theorem State.errorAt_cores (s : State) (r a chan info code : Nat) (detail : Dw) :
    (s.errorAt r a chan info code detail).cores = s.cores := by
  unfold State.errorAt
  split
  · rfl
  · split
    · rfl
    · exact s.sendError_cores ..

@[simp] theorem State.noCredit_cores (s : State) (k : ReqKind) (va : Dw) : (s.noCredit k va).cores = s.cores := s.errorAt_cores ..

@[simp] theorem State.noReservation_cores (s : State) (info ch : Nat) (d : Dw) : (s.noReservation info ch d).cores = s.cores :=
  s.errorAt_cores ..

@[simp] theorem State.sendOn_cores (s : State) (r a p : Nat) (kind : BitVec 4) (payload : List Dw) (deps : List Dep) :
    (s.sendOn r a p kind payload deps).cores = s.cores := by
  unfold State.sendOn
  split
  · rfl
  · split <;> rfl

/-! ### Accesses, barriers, work records and engines -/

@[simp] theorem State.fenceHere_cores (s : State) (sc : Scope) (o : Order) : (s.fenceHere sc o).cores = s.cores := by
  unfold State.fenceHere
  dsimp only
  split <;> simp

@[simp] theorem State.takeCredit_cores (s : State) (p : Port) : (s.takeCredit p).cores = s.cores := s.modActor_cores ..

@[simp] theorem State.barComplete_cores (s : State) (r slot : Nat) : (s.barComplete r slot).cores = s.cores := by
  unfold State.barComplete
  split
  · rfl
  · exact State.netCall_cores ..

@[simp] theorem State.barSet_cores (s : State) (r slot : Nat) (n : Dw) (target : Nat) (entry : BitVec 4) :
    (s.barSet r slot n target entry).cores = s.cores := by
  unfold State.barSet
  split
  · rfl
  · next g _ =>
    dsimp only
    generalize hs1 : (if (g.barrier slot).armed = true then _ else s) = s1
    have h1 : s1.cores = s.cores := by
      rw [← hs1]
      split
      · exact State.barComplete_cores ..
      · rfl
    split
    · exact h1
    · split
      · exact (State.barComplete_cores ..).trans h1
      · exact h1

@[simp] theorem State.barAdd_cores (s : State) (r slot : Nat) (n : Dw) : (s.barAdd r slot n).cores = s.cores := by
  unfold State.barAdd
  split
  · rfl
  · dsimp only
    split
    · rfl
    · split <;> rfl

theorem State.freeDws_cores (s : State) (n : Nat) : (s.freeDws n).2.cores = s.cores := by
  induction n generalizing s with
  | zero => rfl
  | succ n ih => exact ih _

@[simp] theorem State.storeSeen_cores (s : State) (g : Region) (need : Need) (va n : Nat) :
    (s.storeSeen g need va n).cores = s.cores :=
  State.mark_cores ..

@[simp] theorem State.touchHeader_cores (s : State) (g : Region) (n : WNode) : (s.touchHeader g n).cores = s.cores := by
  unfold State.touchHeader
  dsimp only
  split
  · exact (State.hwWrite_cores ..).trans ((State.freeDws_cores ..).trans (s.storeSeen_cores ..))
  · exact s.storeSeen_cores ..

@[simp] theorem State.storeRecord_cores (s : State) (g : Region) (n : WNode) (data : List Dw) :
    (s.storeRecord g n data).cores = s.cores := by
  unfold State.storeRecord
  dsimp only
  rw [State.touchHeader_cores]
  split
  · exact (State.hwWrite_cores ..).trans (s.storeSeen_cores ..)
  · exact s.storeSeen_cores ..

@[simp] theorem State.orphan_cores (s : State) (r : Nat) (g : Region) : (s.orphan r g).cores = s.cores := by
  unfold State.orphan
  dsimp only
  split <;> rfl

@[simp] theorem State.stopDisplay_cores (s : State) (r : Nat) (g : Region) : (s.stopDisplay r g).cores = s.cores :=
  (State.foldl_cores _ (fun _ _ => by rfl) _ _).trans (State.foldl_cores _ (fun _ _ => by rfl) _ s)

@[simp] theorem State.encSolstices_cores (s : State) (r : Nat) : (s.encSolstices r).cores = s.cores := s.modRegion_cores ..

@[simp] theorem State.modIssued_cores (s : State) (r a : Nat) (f : Batch → Batch) : (s.modIssued r a f).cores = s.cores :=
  s.modRegion_cores ..

end Sys2Proof.Machine

namespace Sys2Proof.Machine

open Sys2Proof.Safety

/-! ## Operations that leave registers and scratchpads alone

`Quiet s t` says that between two states no core's general registers and no scratchpad changed, and that no core entered system
mode. Operations that change tiles beside these are shown to keep it, in the model's own order; those that change no tile keep
it by their `_cores` lemma. -/

/-- Between two cores the general registers of both banks stay, and system mode is not entered. -/
structure Core.Quiet (u v : Core) : Prop where
  g : v.g = u.g
  sb : v.sb = u.sb
  graph : v.sys = true → u.sys = true

/-- The same of two tiles, with their scratchpads. -/
structure Tile.Quiet (u v : Tile) : Prop where
  core : u.core.Quiet v.core
  spad : v.spad = u.spad

/-- The same of two states with the same tile in focus; the later one keeps the canonical form of its tiles. -/
structure State.Quiet (s t : State) : Prop where
  canon : swf ({} : Tile) t.tiles = true
  focus : t.focus = s.focus
  tile : ∀ k, (s.tile k).Quiet (t.tile k)

@[refl] theorem Core.Quiet.refl (c : Core) : c.Quiet c := ⟨rfl, rfl, id⟩

theorem Core.Quiet.trans {a b c : Core} (h : a.Quiet b) (k : b.Quiet c) : a.Quiet c :=
  ⟨k.g.trans h.g, k.sb.trans h.sb, fun sys => h.graph (k.graph sys)⟩

@[refl] theorem Tile.Quiet.refl (t : Tile) : t.Quiet t := ⟨.refl _, rfl⟩

theorem Tile.Quiet.trans {a b c : Tile} (h : a.Quiet b) (k : b.Quiet c) : a.Quiet c :=
  ⟨h.core.trans k.core, k.spad.trans h.spad⟩

/-- A tile whose core and scratchpad stay as they are. -/
theorem Tile.Quiet.of_eq {u v : Tile} (core : v.core = u.core) (spad : v.spad = u.spad) : u.Quiet v :=
  ⟨core ▸ .refl _, spad⟩

/-- A key of a map with every value changed holds the changed value, or is unlisted before and after. -/
theorem sget_smap {α : Type} [DecidableEq α] (d : α) (f : Nat → α → α) {m : Sparse α} (h : swf d m = true) (k : Nat) :
    sget d (smap d f m) k = f k (sget d m k) ∨ (sget d (smap d f m) k = d ∧ sget d m k = d) := by
  induction m with
  | nil => exact .inr ⟨rfl, rfl⟩
  | cons p m ih =>
    obtain ⟨j, u⟩ := p
    simp only [swf, swfFrom, Bool.and_eq_true, decide_eq_true_eq] at h
    obtain ⟨-, tail⟩ := h
    have below : k ≤ j → sget d (smap d f m) k = d := sget_of_swfFrom d _ j k (swfFrom_smap d f m _ tail)
    have rest := ih (swfFrom_none d m _ tail)
    by_cases same : k = j
    · subst same
      left
      by_cases gone : f k u = d
      · simp [smap, sget, gone, below (Nat.le_refl k)]
      · simp [smap, sget, gone]
    · by_cases before : k < j
      · right
        by_cases gone : f j u = d <;> simp [smap, sget, same, before, gone, below (Nat.le_of_lt before)]
      · by_cases gone : f j u = d <;> simpa [smap, sget, same, before, gone] using rest

section
variable {s u t : State}

theorem State.Quiet.refl (h : swf ({} : Tile) s.tiles = true) : s.Quiet s := ⟨h, rfl, fun _ => .refl _⟩

theorem State.Quiet.trans (h : s.Quiet u) (k : u.Quiet t) : s.Quiet t :=
  ⟨k.canon, k.focus.trans h.focus, fun n => (h.tile n).trans (k.tile n)⟩

/-- An operation that leaves every tile alone. -/
theorem State.Quiet.of_cores (h : s.Quiet u) (e : t.cores = u.cores) : s.Quiet t := by
  obtain ⟨focus, tiles⟩ := Prod.mk.inj e
  have same (k : Nat) : t.tile k = u.tile k := congrArg (fun m => sget ({} : Tile) m k) tiles
  exact ⟨tiles ▸ h.canon, focus.trans h.focus, fun k => same k ▸ h.tile k⟩

theorem State.Quiet.setTile (h : s.Quiet u) {k : Nat} {v : Tile} (hv : (u.tile k).Quiet v) : s.Quiet (u.setTile k v) := by
  refine ⟨swf_sset _ _ _ _ h.canon, h.focus, fun n => (h.tile n).trans ?_⟩
  by_cases same : n = k
  · subst same
    rwa [State.tile_setTile_same _ _ _ h.canon]
  · rw [State.tile_setTile_other _ _ _ _ h.canon same]

theorem State.Quiet.modTile (h : s.Quiet u) {k : Nat} {f : Tile → Tile} (hf : (u.tile k).Quiet (f (u.tile k))) :
    s.Quiet (u.modTile k f) :=
  h.setTile hf

/-- A tile's port is neither its core nor its scratchpad. -/
theorem State.Quiet.modPort (h : s.Quiet u) {k : Nat} {f : Tile → List Access} :
    s.Quiet (u.modTile k fun t => { t with port := f t }) :=
  h.modTile ⟨.refl _, rfl⟩

theorem State.Quiet.setCore (h : s.Quiet u) {c : Core} (hc : u.core.Quiet c) : s.Quiet (u.setCore c) :=
  h.setTile ⟨hc, rfl⟩

/-- Every tile changed alike, beside what is kept. -/
theorem State.Quiet.smapTiles (h : s.Quiet u) {f : Nat → Tile → Tile} (hf : ∀ k (v : Tile), v.Quiet (f k v)) (focus : t.focus = u.focus)
    (tiles : t.tiles = smap {} f u.tiles) : s.Quiet t := by
  refine ⟨tiles ▸ swf_smap _ _ _ h.canon, focus.trans h.focus, fun k => (h.tile k).trans ?_⟩
  have read : t.tile k = sget {} (smap {} f u.tiles) k := congrArg (fun m => sget ({} : Tile) m k) tiles
  rw [read]
  obtain changed | ⟨unlisted, before⟩ := sget_smap {} f h.canon k
  · rw [changed]
    exact hf k _
  · rw [unlisted, State.tile, before]

theorem State.Quiet.foldl {β : Type} {f : State → β → State} (hf : ∀ v x, s.Quiet v → s.Quiet (f v x)) (l : List β)
    (h : s.Quiet u) : s.Quiet (l.foldl f u) :=
  List.foldlRecOn (motive := s.Quiet) l f h fun v hv x _ => hf v x hv

theorem State.Quiet.ite {c : Prop} [Decidable c] (h : s.Quiet u) (k : s.Quiet t) : s.Quiet (if c then u else t) := by
  split
  · exact h
  · exact k

/-! ### The core in focus -/

theorem State.Quiet.modFiring (h : s.Quiet u) {f : Firing → Firing} : s.Quiet (u.modFiring f) := by
  unfold State.modFiring
  split
  · exact h.setCore ⟨rfl, rfl, id⟩
  · exact h

theorem State.Quiet.advance (h : s.Quiet u) : s.Quiet u.advance := h.setCore ⟨rfl, rfl, id⟩

theorem State.Quiet.goto (h : s.Quiet u) {pc : Word} : s.Quiet (u.goto pc) := h.setCore ⟨rfl, rfl, id⟩

/-- MXSAVE and MXREST note in TSTAT what became of the matrix state. -/
theorem State.Quiet.withTstat (h : s.Quiet u) (v : BitVec 6) : s.Quiet (u.setCore { u.core with tstat := v }).advance :=
  State.Quiet.advance (h.setCore (c := { u.core with tstat := v }) ⟨rfl, rfl, id⟩)

/-! ### The end of a launch -/

theorem State.Quiet.answer (h : s.Quiet u) {r : Nat} {o : Owed} {payload : List Dw} : s.Quiet (u.answer r o payload) := by
  unfold State.answer
  split
  · exact h
  · split
    · exact h.modPort
    · exact h.of_cores (State.respond_cores ..)

theorem State.Quiet.cutOver (h : s.Quiet u) {g : Region} {ok : Bool} : s.Quiet (u.cutOver g ok) := by
  unfold State.cutOver
  split
  · exact h.answer
  · exact h.of_cores rfl
  · exact h.of_cores rfl
  · exact h

theorem State.Quiet.failCut (h : s.Quiet u) {r : Nat} : s.Quiet (u.failCut r) := by
  unfold State.failCut
  split
  · exact h
  · dsimp only
    split
    · exact h
    · refine State.Quiet.of_cores ?_ (State.modRegion_cores ..)
      refine State.Quiet.of_cores (State.Quiet.cutOver ?_) (State.resumeDisplay_cores ..)
      split
      · next e => exact h.of_cores (State.areaWrite_cores e)
      · exact h

theorem State.Quiet.dropWork (h : s.Quiet u) {r : Nat} : s.Quiet (u.dropWork r) := by
  refine h.smapTiles (fun k v => ?_) rfl rfl
  refine ⟨?_, rfl⟩
  dsimp only
  split
  · split
    · exact ⟨rfl, rfl, fun sys => nomatch sys⟩
    · exact .refl _
  · exact .refl _

theorem State.Quiet.dropGets (h : s.Quiet u) {r : Nat} : s.Quiet (u.dropGets r) := by
  unfold State.dropGets
  refine State.Quiet.foldl (fun v a hv => hv.of_cores (v.modActor_cores ..)) _ ?_
  refine h.smapTiles (f := fun _ t => { t with port := _ }) ?_ rfl rfl
  exact fun k v => .of_eq rfl rfl

theorem State.Quiet.endLaunch (h : s.Quiet u) {r : Nat} {stop : Bool} : s.Quiet (u.endLaunch r stop) := by
  unfold State.endLaunch
  split
  · exact h
  · split
    · exact h
    · refine State.Quiet.of_cores ?_ ((State.report_cores ..).trans (State.setRegion_cores ..))
      have synced : s.Quiet (u.syncFault r) := h.of_cores (State.syncFault_cores u r)
      split
      · exact (synced.failCut.dropWork).of_cores (State.modRegion_cores ..)
      · exact synced.dropGets

theorem State.Quiet.fatalIn (h : s.Quiet u) {r : Nat} {e : ErrRec} : s.Quiet (u.fatalIn r e) :=
  (h.of_cores (State.writeRecord_cores u r e)).endLaunch

theorem State.Quiet.fatalHere (h : s.Quiet u) {code : Nat} {d1 d2 : Dw} : s.Quiet (u.fatalHere code d1 d2) := h.fatalIn

/-! ### The end of a task -/

theorem State.Quiet.refreshSlots (l : List Nat) {k : Nat} (h : s.Quiet u) : s.Quiet (u.refreshSlots k l) := by
  induction l generalizing u with
  | nil => exact h
  | cons n l ih =>
    unfold State.refreshSlots
    split
    · exact ih h
    · split
      · exact ih h
      · dsimp only
        split
        · exact ih ((h.of_cores (u.modActor_cores ..)).modTile (.of_eq rfl rfl))
        · exact ih (h.of_cores (u.modActor_cores ..))
        · exact ih h

theorem State.Quiet.refresh (h : s.Quiet u) {r : Nat} : s.Quiet (u.refresh r) := by
  unfold State.refresh
  split
  · exact h
  · exact State.Quiet.foldl (fun v k hv => hv.refreshSlots _) _ (h.of_cores (State.setRegion_cores ..))

theorem State.Quiet.retireRunning (h : s.Quiet u) {consume : Bool} : s.Quiet (u.retireRunning consume) := by
  unfold State.retireRunning
  split
  · exact h
  · refine State.Quiet.refresh (State.Quiet.setCore ?_ ?_)
    · exact h.of_cores (u.modRegion_cores ..)
    · exact ⟨rfl, rfl, fun sys => nomatch sys⟩

/-! ### Tokens and accesses -/

theorem State.Quiet.dequeue (h : s.Quiet u) {p : Nat} : s.Quiet (u.dequeue p) :=
  (h.of_cores (u.modActor_cores ..)).modFiring.refresh

theorem State.Quiet.useReserved (h : s.Quiet u) {p : Nat} : s.Quiet (u.useReserved p) :=
  h.modFiring.of_cores (State.modRegion_cores ..)

theorem State.Quiet.sendHere (h : s.Quiet u) {p : Nat} {kind : BitVec 4} {payload : List Dw} :
    s.Quiet (u.sendHere p kind payload) := by
  unfold State.sendHere
  split
  · exact h.of_cores (u.noReservation_cores ..)
  · have used : s.Quiet (u.useReserved p) := h.useReserved
    split
    · exact used.of_cores (State.sendOn_cores ..)
    · exact used.modFiring.of_cores (State.sendOn_cores ..)
    · exact used.modFiring.of_cores (State.sendOn_cores ..)
    · exact used.of_cores (State.countMesh_cores ..)
    · exact used.of_cores (State.countMesh_cores ..)
    · exact used.of_cores (State.countMesh_cores ..)

theorem State.Quiet.fencedIf {c : Prop} [Decidable c] {sc : Scope} {o : Order} (h : s.Quiet u) :
    s.Quiet (if c then u.fenceHere sc o else u) :=
  State.Quiet.ite (h.of_cores (u.fenceHere_cores ..)) h

theorem State.Quiet.modActorIf {c : Prop} [Decidable c] {r a : Nat} {f : Actor → Actor} (h : s.Quiet u) :
    s.Quiet (if c then u.modActor r a f else u) :=
  State.Quiet.ite (h.of_cores (u.modActor_cores ..)) h

theorem State.Quiet.pushAccess (h : s.Quiet u) {acc : Access} : s.Quiet (u.pushAccess acc) := by
  unfold State.pushAccess
  dsimp only
  refine State.Quiet.fencedIf (State.Quiet.modActorIf (State.Quiet.modPort ?_))
  exact (State.Quiet.fencedIf h).of_cores rfl

/-! ### Engines, placement and cuts -/

theorem State.Quiet.abRequest (h : s.Quiet u) {op : Nat} {va target : Dw} {clear : Bool} {o : Owed} :
    s.Quiet (u.abRequest op va target clear o) := by
  unfold State.abRequest
  dsimp only
  split
  · exact h.answer
  · split
    · exact h.answer
    · split
      · exact h.answer
      · have changed (a : Nat) (f : Abacus → Abacus) : s.Quiet (u.modAbacus u.runner.1 a f) := h.of_cores (u.modActor_cores ..)
        split
        · exact (changed _ _).answer
        · exact changed _ _

theorem State.Quiet.unplace (h : s.Quiet u) {r : Nat} : s.Quiet (u.unplace r) := by
  unfold State.unplace
  split
  · exact h
  · refine State.Quiet.foldl (fun v k hv => hv.modTile (.of_eq rfl rfl)) _ ?_
    exact h.dropWork.of_cores ((State.dropRegion_cores ..).trans (State.orphan_cores ..))

theorem State.Quiet.placeOp (h : s.Quiet u) {va v : Dw} : s.Quiet (u.placeOp va v).1 := by
  unfold State.placeOp
  dsimp only
  split
  · exact h
  · split
    · exact h
    · split
      · exact h
      · exact h.of_cores (State.setRegion_cores ..)
      · exact h.of_cores (State.setRegion_cores ..)
      · split
        · exact h
        · exact h.unplace

theorem State.Quiet.withDeferred (h : s.Quiet u) {l : List Deferred} : s.Quiet { u with deferred := l } := h.of_cores rfl

theorem State.Quiet.withdraw (h : s.Quiet u) {r : Nat} : s.Quiet (u.withdraw r) := by
  refine State.Quiet.foldl (fun v d hv => ?_) _ h
  split
  · split
    · exact (State.Quiet.modPort (hv.of_cores v.free_cores)).withDeferred
    · exact hv
  · exact hv

theorem State.Quiet.saveFault (h : s.Quiet u) {r a : Nat} {e : Nat × Dw} : s.Quiet (u.saveFault r a e) := h.failCut.fatalIn

/-- A cut under way: the region's state is announced in its save area, or the cut faults there. -/
theorem State.Quiet.cutGoesOn (h : s.Quiet u) {r : Nat} {g : Region} {by_ : CutBy} :
    let v := ((((u.withdraw r).modRegion r Region.giveSolstices).modRegion r fun g =>
      { g with cutBy := some by_, cutWait := none }).stopDisplay r g).encSolstices r
    s.Quiet (match v.areaWrite g 4 [1] with
      | .ok w => w
      | .error e => v.saveFault r 0xFFFFF e) := by
  intro v
  have begun : s.Quiet v := (h.withdraw (r := r)).of_cores (by simp [v])
  split
  · next written => exact begun.of_cores (State.areaWrite_cores written)
  · exact begun.saveFault

theorem State.Quiet.beginCut (h : s.Quiet u) {r : Nat} {by_ : CutBy} : s.Quiet (u.beginCut r by_) := by
  unfold State.beginCut
  split
  · exact h
  · split
    · exact h.of_cores (State.setRegion_cores ..)
    · dsimp only
      refine State.Quiet.cutGoesOn ?_
      split
      · exact h.answer
      · exact h

theorem State.Quiet.markRegion (h : s.Quiet u) {v : Dw} {o : Owed} : s.Quiet (u.markRegion v o) := by
  unfold State.markRegion
  dsimp only
  split
  · exact h.answer
  · split
    · exact h.answer
    · split
      · exact h.answer
      · split
        · exact h.answer
        · split
          · exact (h.of_cores (u.modSlice_cores ..)).beginCut
          · exact h.beginCut

end

end Sys2Proof.Machine

namespace Sys2Proof.Machine

open Sys2Proof.Safety

/-! ## What a scalar instruction may write: its named registers, and STL the scratchpad (R41, R45, R46, R217, R273)

Every scalar instruction answers one of two ways: it has taken a trap at its own state, or its core keeps every register that
its entry does not name and does not enter system mode (`TrapsOrKeeps`). -/

/-- But for registers numbered in `D` the banks of a core stay, in graph mode the whole system bank; system mode is not
entered. -/
structure Core.Keeps (D : List Nat) (u v : Core) : Prop where
  g : ∀ r, r ∉ D → sget 0 v.g r = sget 0 u.g r
  sb : ∀ r, r ∉ D → sget 0 v.sb r = sget 0 u.sb r
  bank : u.sys = false → ∀ r, sget 0 v.sb r = sget 0 u.sb r
  graph : v.sys = true → u.sys = true

theorem Core.Quiet.keeps {u v : Core} (h : u.Quiet v) (D : List Nat) : u.Keeps D v :=
  ⟨fun _ _ => by rw [h.g], fun _ _ => by rw [h.sb], fun _ _ => by rw [h.sb], h.graph⟩

theorem Core.Keeps.withPc {D : List Nat} {u v : Core} (h : u.Keeps D v) (pc : Word) : u.Keeps D { v with pc := pc } :=
  ⟨h.g, h.sb, h.bank, h.graph⟩

theorem Core.Keeps.trans {D : List Nat} {u v w : Core} (h : u.Keeps D v) (k : v.Keeps D w) : u.Keeps D w where
  g r hr := (k.g r hr).trans (h.g r hr)
  sb r hr := (k.sb r hr).trans (h.sb r hr)
  bank graph r := (k.bank (Bool.eq_false_iff.2 fun sys => by simp [h.graph sys] at graph) r).trans (h.bank graph r)
  graph sys := h.graph (k.graph sys)

/-- The registers of a core are in canonical form. -/
def Core.Canonical (c : Core) : Prop := swf (0 : Dw) c.g = true ∧ swf (0 : Dw) c.sb = true

theorem Core.Canonical.setReg {c : Core} (h : c.Canonical) (r : Reg) (v : Dw) : (c.setReg r v).Canonical := by
  obtain ⟨hg, hb⟩ := h
  unfold Core.setReg
  split
  · exact ⟨hg, hb⟩
  · split
    · exact ⟨hg, swf_sset _ _ _ _ hb⟩
    · exact ⟨swf_sset _ _ _ _ hg, hb⟩

theorem Core.keeps_setReg {D : List Nat} {c : Core} (h : c.Canonical) {r : Reg} (named : r.toNat ∈ D) (v : Dw) :
    c.Keeps D (c.setReg r v) where
  g q hq := Core.sget_g_setReg v h.1 (.inl fun e => hq (e ▸ named))
  sb q hq := Core.sget_sb_setReg v h.2 (.inl fun e => hq (e ▸ named))
  bank graph _ := Core.sget_sb_setReg v h.2 (.inr graph)
  graph sys := by rwa [Core.setReg_sys] at sys

/-- Registers written in a row, none of them past g31. -/
theorem Core.keeps_setRegs {D : List Nat} (l : List Dw) {c : Core} (h : c.Canonical) {r : Nat} (fits : r + l.length ≤ 32)
    (named : ∀ j, j < l.length → r + j ∈ D) : c.Keeps D (c.setRegs r l) := by
  induction l generalizing c r with
  | nil => exact (Core.Quiet.refl c).keeps D
  | cons v l ih =>
    simp only [List.length_cons] at fits named
    have number : (BitVec.ofNat 5 r).toNat = r := by
      rw [BitVec.toNat_ofNat]
      exact Nat.mod_eq_of_lt (by omega)
    have first : (BitVec.ofNat 5 r).toNat ∈ D := by
      rw [number]
      exact named 0 (by omega)
    refine (Core.keeps_setReg h first v).trans (ih (h.setReg _ v) (by omega) fun j hj => ?_)
    have next := named (j + 1) (by omega)
    rwa [Nat.add_assoc, Nat.add_comm 1 j]

/-- What an instruction keeps of the state: its core but for the registers that it names, every other core, and the
scratchpads, but that STL stores to its own. -/
structure State.Keeps (i : Instr) (s t : State) : Prop where
  core : (s.tile s.focus).core.Keeps (dests i) (t.tile s.focus).core
  other : ∀ k, k ≠ s.focus → (s.tile k).core.Quiet (t.tile k).core
  spad : ∀ k, (t.tile k).spad = (s.tile k).spad ∨ (k = s.focus ∧ ∃ g b z o, i = .stl g b z o)

/-- An instruction's answer: a trap taken at its own state, or a state that keeps what the instruction does not name. -/
structure TrapsOrKeeps (i : Instr) (s : State) (o : Res) : Prop where
  answers : ∀ t, o = .next t → (∃ code v, t = s.takeTrap code v) ∨ s.Keeps i t

section
variable {i : Instr} {s u t : State}

theorem State.Quiet.keeps (h : s.Quiet t) : s.Keeps i t :=
  ⟨(h.tile _).core.keeps _, fun k _ => (h.tile k).core, fun k => .inl (h.tile k).spad⟩

/-- The core written at the end of an instruction that was quiet until then. -/
theorem State.Quiet.keeps_setCore (h : s.Quiet u) {c : Core} (hc : u.core.Keeps (dests i) c) : s.Keeps i (u.setCore c) := by
  have there {k : Nat} (hk : k ≠ s.focus) : (u.setCore c).tile k = u.tile k :=
    State.tile_setCore_other h.canon c (h.focus ▸ hk)
  have here : (u.setCore c).tile s.focus = { u.tile s.focus with core := c } := h.focus ▸ State.tile_setCore_focus h.canon c
  have before : u.core = (u.tile s.focus).core := congrArg (fun k => (u.tile k).core) h.focus
  refine ⟨?_, fun k hk => ?_, fun k => .inl ?_⟩
  · rw [here]
    exact ((h.tile _).core.keeps _).trans (before ▸ hc)
  · rw [there hk]
    exact (h.tile k).core
  · by_cases hk : k = s.focus
    · rw [hk, here]
      exact (h.tile _).spad
    · rw [there hk]
      exact (h.tile k).spad

theorem trapsOrKeeps_trapNow (code : BitVec 8) (v : Dw) : TrapsOrKeeps i s (trapNow s code v) :=
  ⟨fun _ e => .inl ⟨code, v, (Host.Outcome.next.inj e).symm⟩⟩

theorem trapsOrKeeps_illegal : TrapsOrKeeps i s (illegal s) := trapsOrKeeps_trapNow _ _

theorem trapsOrKeeps_privileged : TrapsOrKeeps i s (privileged s) := trapsOrKeeps_trapNow _ _

theorem trapsOrKeeps_of_keeps (h : s.Keeps i t) : TrapsOrKeeps i s (.next t) :=
  ⟨fun _ e => .inr (Host.Outcome.next.inj e ▸ h)⟩

theorem trapsOrKeeps_next (h : s.Quiet t) : TrapsOrKeeps i s (.next t) := trapsOrKeeps_of_keeps h.keeps

section
variable (canon : Canon s)
include canon

theorem State.quiet_self : s.Quiet s := .refl canon.tiles

theorem State.Quiet.canonical (h : s.Quiet u) : u.core.Canonical := by
  have same := (h.tile s.focus).core
  rw [State.core, h.focus]
  exact ⟨same.g ▸ (canon.regs _).1, same.sb ▸ (canon.regs _).2⟩

/-- A result retired into a register that the instruction names. -/
theorem trapsOrKeeps_retire (h : s.Quiet u) {d : Reg} (named : d.toNat ∈ dests i) (v : Dw) : TrapsOrKeeps i s (retire u d v) :=
  trapsOrKeeps_of_keeps (h.keeps_setCore ((Core.keeps_setReg (h.canonical canon) named v).withPc _))

/-- A register that the instruction names and the pc written. -/
theorem trapsOrKeeps_setReg {d : Reg} (named : d.toNat ∈ dests i) (v : Dw) (pc : Word) :
    TrapsOrKeeps i s (.next (s.setCore { s.core.setReg d v with pc := pc })) :=
  trapsOrKeeps_of_keeps ((State.quiet_self canon).keeps_setCore
    ((Core.keeps_setReg ((State.quiet_self canon).canonical canon) named v).withPc pc))

/-- Registers that the instruction names written in a row. -/
theorem trapsOrKeeps_setRegs (h : s.Quiet u) {g : Nat} {l : List Dw} (fits : g + l.length ≤ 32)
    (named : ∀ j, j < l.length → g + j ∈ dests i) : TrapsOrKeeps i s (.next (u.setCore (u.core.setRegs g l).step4)) :=
  trapsOrKeeps_of_keeps (h.keeps_setCore
    ((Core.keeps_setRegs l (h.canonical canon) fits named).withPc _))

/-- An instruction that only computes a value retires into its destination. -/
theorem trapsOrKeeps_value {d : Reg} (value : valueDest i = some d) : TrapsOrKeeps i s (exec i s) := by
  obtain ⟨v, e⟩ := exec_of_valueDest value s
  rw [e]
  exact trapsOrKeeps_retire canon (State.quiet_self canon) (by simp [dests, value]) v

/-- So does a float instruction, whose flags join FFLAGS. -/
theorem trapsOrKeeps_float {d : Reg} (float : floatDest i = some d) : TrapsOrKeeps i s (exec i s) := by
  obtain ⟨f, v, e⟩ := exec_of_floatDest float s
  have named : d.toNat ∈ dests i := by
    cases i with
    | fadd | fsub | fmul | fma | fcvt | fmin | fmax | fcmpEq | fcmpLt | fcmpLe | fcmpUo | frcp | frsq | fexp2 | flog2 =>
      obtain rfl := Option.some.inj float
      exact List.mem_singleton_self _
    | _ => cases float
  rw [e]
  exact trapsOrKeeps_retire canon ((State.quiet_self canon).of_cores (s.modActor_cores ..)) named v

end

end

/-- A tile's scratchpad changed by STL, and the pc moved on. -/
theorem State.keeps_store {s : State} (canon : Canon s) {g b : Reg} {z : BitVec 2} {o : BitVec 13} {f : Tile → Tile}
    (core : ∀ t, (f t).core = t.core) : s.Keeps (.stl g b z o) (s.modTile s.focus f).advance := by
  have stored : (s.modTile s.focus f).tile s.focus = f (s.tile s.focus) := State.tile_setTile_same _ _ _ canon.tiles
  have form : swf ({} : Tile) (s.modTile s.focus f).tiles = true := swf_sset _ _ _ _ canon.tiles
  have here : (s.modTile s.focus f).advance.tile s.focus =
      { f (s.tile s.focus) with core := (s.tile s.focus).core.step4 } := by
    refine (State.tile_setCore_focus form _).trans ?_
    rw [show (s.modTile s.focus f).core = _ from (congrArg Tile.core stored).trans (core _)]
    exact congrArg (fun t : Tile => { t with core := (s.tile s.focus).core.step4 }) stored
  have there {k : Nat} (hk : k ≠ s.focus) : (s.modTile s.focus f).advance.tile k = s.tile k :=
    (State.tile_setCore_other form _ hk).trans (State.tile_setTile_other _ _ _ _ canon.tiles hk)
  refine ⟨?_, fun k hk => ?_, fun k => ?_⟩
  · rw [here]
    exact ((Core.Quiet.refl _).keeps _).withPc _
  · rw [there hk]
  · by_cases hk : k = s.focus
    · exact .inr ⟨hk, g, b, z, o, rfl⟩
    · exact .inl (by rw [there hk])

theorem Tile.setBytes_core (t : Tile) (a : Nat) (l : List Byte) : (t.setBytes a l).core = t.core := by
  induction l generalizing t a with
  | nil => rfl
  | cons b l ih => exact ih _ _

/-- Accumulators read back stand beside the core and the scratchpad. -/
theorem Tile.quiet_loadAcc (t : Tile) (m : BitVec 4) (bytes : List Byte) : t.Quiet (t.loadAcc m bytes) := by
  refine List.foldlRecOn (motive := t.Quiet) _ _ (.refl t) fun u hu p _ => ?_
  refine List.foldlRecOn (motive := t.Quiet) _ _ hu fun v hv j _ => ?_
  exact hv.trans (.of_eq rfl rfl)

/-! ### Each instruction that does more than compute a value -/

section
variable {i : Instr} {s : State} (canon : Canon s)
include canon

theorem trapsOrKeeps_goto (pc : Word) : TrapsOrKeeps i s (.next (s.goto pc)) := trapsOrKeeps_next (State.quiet_self canon).goto

/-- A branch: taken or not, only the pc changes. -/
theorem trapsOrKeeps_br (c : BitVec 3) (a b : Reg) (o : BitVec 13) : TrapsOrKeeps i s (execBr c a b o s) :=
  trapsOrKeeps_next ((State.quiet_self canon).goto.ite (State.quiet_self canon).advance)

theorem trapsOrKeeps_loop (a : Reg) (o : BitVec 13) : TrapsOrKeeps (.loop a o) s (execLoop a o s) := by
  have named : a.toNat ∈ dests (.loop a o) := List.mem_singleton_self _
  unfold execLoop
  dsimp only
  split
  · rw [State.goto_setReg canon.tiles]
    exact trapsOrKeeps_setReg canon named _ _
  · rw [State.advance_setReg canon.tiles]
    exact trapsOrKeeps_setReg canon named _ _

theorem trapsOrKeeps_call (o : BitVec 26) : TrapsOrKeeps (.call o) s (execCall o s) := by
  unfold execCall
  rw [State.goto_setReg canon.tiles]
  exact trapsOrKeeps_setReg canon (List.mem_singleton_self _) _ _

theorem trapsOrKeeps_ret (a : Reg) : TrapsOrKeeps i s (execRet a s) := by
  unfold execRet
  dsimp only
  split
  · exact trapsOrKeeps_trapNow _ _
  · exact trapsOrKeeps_goto canon _

theorem trapsOrKeeps_callr (d a : Reg) : TrapsOrKeeps (.callr d a) s (execCallr d a s) := by
  unfold execCallr
  dsimp only
  split
  · exact trapsOrKeeps_trapNow _ _
  · rw [State.goto_setReg canon.tiles]
    exact trapsOrKeeps_setReg canon (List.mem_singleton_self _) _ _

theorem trapsOrKeeps_jtab (a b : Reg) : TrapsOrKeeps i s (execJtab a b s) := by
  unfold execJtab
  dsimp only
  split
  · exact trapsOrKeeps_trapNow _ _
  · split
    · exact trapsOrKeeps_trapNow _ _
    · split
      · exact trapsOrKeeps_goto canon _
      · split
        · exact trapsOrKeeps_trapNow _ _
        · exact trapsOrKeeps_goto canon _

/-- END and ENDR: the firing leaves its core. -/
theorem trapsOrKeeps_end (consume : Bool) :
    TrapsOrKeeps i s (if s.core.sys then illegal s else .next (s.retireRunning consume)) := by
  split
  · exact trapsOrKeeps_illegal
  · exact trapsOrKeeps_next (State.quiet_self canon).retireRunning

theorem trapsOrKeeps_ldl (g b : Reg) (z : BitVec 2) (x : Bool) (o : BitVec 13) :
    TrapsOrKeeps (.ldl g b z x o) s (execLdl g b z x o s) := by
  unfold execLdl
  dsimp only
  split
  · exact trapsOrKeeps_trapNow _ _
  · exact trapsOrKeeps_retire canon (State.quiet_self canon) (List.mem_singleton_self _) _

/-- STL: the one instruction that changes a scratchpad, that of its own tile. -/
theorem trapsOrKeeps_stl (g b : Reg) (z : BitVec 2) (o : BitVec 13) :
    TrapsOrKeeps (.stl g b z o) s (execStl g b z o s) := by
  unfold execStl
  dsimp only
  split
  · exact trapsOrKeeps_trapNow _ _
  · exact trapsOrKeeps_of_keeps (State.keeps_store canon fun t => t.setBytes_core _ _)

/-! ### Memory, tokens and engines -/

/-- A request of memory: taken, or refused for want of a credit. -/
theorem trapsOrKeeps_request (p : Port) (k : ReqKind) (va : Dw) (data : List Byte) (exp : Dw) (sc : Scope) (o : Order) :
    TrapsOrKeeps i s (request s p k va data exp sc o) := by
  have start := State.quiet_self canon
  unfold request
  split
  · exact trapsOrKeeps_illegal
  · split
    · exact trapsOrKeeps_next (start.of_cores (s.noCredit_cores ..)).advance
    · exact trapsOrKeeps_next (start.of_cores (s.takeCredit_cores p)).pushAccess.advance

/-- A request of an engine whose act is quiet. -/
theorem trapsOrKeeps_engineRequest (p : Port) (va : Dw) {act : State → Owed → State}
    (quiet : ∀ u o, s.Quiet u → s.Quiet (act u o)) : TrapsOrKeeps i s (engineRequest s p va act) := by
  have start := State.quiet_self canon
  unfold engineRequest
  split
  · exact trapsOrKeeps_illegal
  · split
    · exact trapsOrKeeps_next (start.of_cores (s.noCredit_cores ..)).advance
    · exact trapsOrKeeps_next (quiet _ _ (start.of_cores (s.takeCredit_cores p)).pushAccess).advance

theorem trapsOrKeeps_abRequest (p : Port) (va : Dw) (op : Nat) (v target : Dw) (clear : Bool) :
    TrapsOrKeeps i s (engineRequest s p va fun u o => u.abRequest op v target clear o) :=
  trapsOrKeeps_engineRequest canon p va fun _ _ h => h.abRequest

theorem trapsOrKeeps_askLoad (p : Port) (va : Dw) (restore : Bool) (v w : Dw) :
    TrapsOrKeeps i s (engineRequest s p va fun u o => u.askLoad restore v w o) :=
  trapsOrKeeps_engineRequest canon p va fun _ _ h => h.of_cores rfl

theorem trapsOrKeeps_place (a b : Reg) (p : Port) : TrapsOrKeeps i s (execPlace a b p s) :=
  trapsOrKeeps_engineRequest canon p _ fun _ _ h => h.placeOp.answer

theorem trapsOrKeeps_mark (a : Reg) (p : Port) : TrapsOrKeeps i s (execMark a p s) :=
  trapsOrKeeps_engineRequest canon p _ fun _ _ h => h.markRegion

theorem trapsOrKeeps_stg (g b : Reg) (f : BitVec 5) (sc o : BitVec 2) : TrapsOrKeeps i s (execStg g b f sc o s) := by
  have start := State.quiet_self canon
  unfold execStg
  dsimp only
  split
  · exact trapsOrKeeps_next start.advance
  · split
    · exact trapsOrKeeps_next (start.of_cores (s.noCredit_cores ..)).advance
    · exact trapsOrKeeps_next (start.of_cores (s.modActor_cores ..)).pushAccess.advance

theorem trapsOrKeeps_prf (b : Reg) (sc : BitVec 2) (o : Bool) : TrapsOrKeeps i s (execPrf b sc o s) := by
  unfold execPrf
  dsimp only
  refine trapsOrKeeps_next (State.Quiet.advance (State.Quiet.fencedIf ?_))
  have marked (l : List Nat) : s.Quiet (s.mark false l) := (State.quiet_self canon).of_cores (s.mark_cores ..)
  split
  · exact (marked _).ite ((marked _).of_cores (State.fill_cores ..))
  · exact marked _

theorem trapsOrKeeps_cinv (b : Reg) : TrapsOrKeeps i s (execCinv b s) := by
  refine trapsOrKeeps_next (State.Quiet.advance ?_)
  split
  · exact (State.quiet_self canon).of_cores (State.foldl_cores _ (fun _ _ => by rfl) _ s)
  · exact State.quiet_self canon

theorem trapsOrKeeps_ord (sc o : BitVec 2) : TrapsOrKeeps i s (execOrd sc o s) :=
  trapsOrKeeps_next ((State.quiet_self canon).of_cores (s.fenceHere_cores ..)).advance

/-- What RECV and PEEK read, within the registers that they name. -/
theorem trapsOrKeeps_recvValues {u : State} (h : s.Quiet u) {g : Reg} {p : Port} {n : BitVec 3} {c sb : Bool} {f : BitVec 3}
    (fits : recvOk g p n c sb f = true)
    (named : dests i = (List.range (n.toNat + if sb then 2 else 1)).map (g.toNat + ·)) (t : Option Token) :
    TrapsOrKeeps i s (.next (u.setCore (u.core.setRegs g.toNat (recvValues t (n.toNat + 1) f.toNat sb)).step4)) := by
  have count : (recvValues t (n.toNat + 1) f.toNat sb).length = n.toNat + if sb then 2 else 1 := by
    cases t <;> cases sb <;> simp [recvValues]
  simp only [recvOk, Bool.and_eq_true, decide_eq_true_eq] at fits
  refine trapsOrKeeps_setRegs canon h ?_ fun j hj => ?_
  · rw [count]
    cases sb <;> simp at fits ⊢ <;> omega
  · rw [named]
    exact List.mem_map_of_mem (List.mem_range.2 (count ▸ hj))

theorem trapsOrKeeps_recv {g : Reg} {p : Port} {n : BitVec 3} {c sb : Bool} {f : BitVec 3} (fits : recvOk g p n c sb f = true) :
    TrapsOrKeeps (.recv g p n c sb f) s (execRecv g p n c sb f s) :=
  trapsOrKeeps_recvValues canon ((State.quiet_self canon).dequeue.ite (State.quiet_self canon)) fits rfl _

theorem trapsOrKeeps_peek {g : Reg} {p : Port} {n : BitVec 3} {c sb : Bool} {f : BitVec 3} (fits : recvOk g p n c sb f = true) :
    TrapsOrKeeps (.peek g p n c sb f) s (execPeek g p n c sb f s) :=
  trapsOrKeeps_recvValues canon ((State.quiet_self canon).of_cores (s.modActor_cores ..)) fits rfl _

theorem trapsOrKeeps_send (p : Nat) (kind : BitVec 4) (payload : List Dw) :
    TrapsOrKeeps i s (.next (s.sendHere p kind payload).advance) :=
  trapsOrKeeps_next (State.quiet_self canon).sendHere.advance

theorem trapsOrKeeps_fwd (q p : Port) : TrapsOrKeeps i s (execFwd q p s) := by
  unfold execFwd
  split
  · exact trapsOrKeeps_next (State.quiet_self canon).advance
  · exact trapsOrKeeps_next (State.quiet_self canon).dequeue.sendHere.advance

theorem trapsOrKeeps_rsv (g : Reg) (p : Port) (n : BitVec 3) : TrapsOrKeeps (.rsv g p n) s (execRsv g p n s) := by
  have start := State.quiet_self canon
  have named : g.toNat ∈ dests (.rsv g p n) := List.mem_singleton_self _
  unfold execRsv
  dsimp only
  split
  · exact trapsOrKeeps_retire canon start named _
  · split
    · exact trapsOrKeeps_retire canon start named _
    · split
      · exact trapsOrKeeps_retire canon (start.of_cores (s.setRegion_cores ..)).modFiring named _
      · exact trapsOrKeeps_retire canon start named _

theorem trapsOrKeeps_wemit (g : Reg) (e n : BitVec 3) : TrapsOrKeeps i s (execWemit g e n s) := by
  have start := State.quiet_self canon
  unfold execWemit
  split
  · exact trapsOrKeeps_illegal
  · split
    · exact trapsOrKeeps_illegal
    · dsimp only
      split
      · exact trapsOrKeeps_next (start.of_cores (s.noReservation_cores ..)).advance
      · refine trapsOrKeeps_next (State.Quiet.advance (State.Quiet.of_cores (State.Quiet.modFiring ?_) (State.modRegion_cores ..)))
        split
        · exact start.of_cores (s.storeRecord_cores ..)
        · exact start

theorem trapsOrKeeps_wrsv (g : Reg) (e : BitVec 3) (n : BitVec 8) : TrapsOrKeeps (.wrsv g e n) s (execWrsv g e n s) := by
  have start := State.quiet_self canon
  have named : g.toNat ∈ dests (.wrsv g e n) := List.mem_singleton_self _
  unfold execWrsv
  split
  · exact trapsOrKeeps_illegal
  · dsimp only
    split
    · exact trapsOrKeeps_retire canon (start.modFiring.of_cores (State.modRegion_cores ..)) named _
    · exact trapsOrKeeps_retire canon start named _

/-- Matrix use refused in a handler: the handler goes on, or the launch ends. -/
theorem State.quiet_refuseMatrix : s.Quiet s.refuseMatrix := by
  unfold State.refuseMatrix
  exact (State.quiet_self canon).fatalHere.ite ((State.quiet_self canon).setCore ⟨rfl, rfl, id⟩)

theorem trapsOrKeeps_issue (o : BitVec 3) (e : BitVec 11) (m : BitVec 4) (p : BitVec 5) :
    TrapsOrKeeps i s (execIssue o e m p s) := by
  unfold execIssue
  dsimp only
  split
  · exact trapsOrKeeps_trapNow _ _
  · split
    · exact trapsOrKeeps_next (State.quiet_refuseMatrix canon)
    · exact trapsOrKeeps_send canon _ _ _

theorem trapsOrKeeps_barset (a b : Reg) (sl : BitVec 6) : TrapsOrKeeps i s (execBarset a b sl s) :=
  trapsOrKeeps_next ((State.quiet_self canon).of_cores (s.barSet_cores ..)).advance

theorem trapsOrKeeps_baradd (a : Reg) (sl : BitVec 6) : TrapsOrKeeps i s (execBaradd a sl s) :=
  trapsOrKeeps_next ((State.quiet_self canon).of_cores (s.barAdd_cores ..)).advance

/-! ### System instructions -/

theorem trapsOrKeeps_pwreq (d a : Reg) : TrapsOrKeeps (.pwreq d a) s (execPwreq d a s) := by
  have start := State.quiet_self canon
  have named : d.toNat ∈ dests (.pwreq d a) := List.mem_singleton_self _
  unfold execPwreq
  dsimp only
  split
  · exact trapsOrKeeps_retire canon start named _
  · split
    · exact trapsOrKeeps_retire canon (start.of_cores (s.setRegion_cores ..)).modFiring named _
    · exact trapsOrKeeps_retire canon (start.of_cores (s.setRegion_cores ..)) named _

theorem trapsOrKeeps_pwrel : TrapsOrKeeps i s (execPwrel s) :=
  trapsOrKeeps_next ((State.quiet_self canon).of_cores (s.modRegion_cores ..)).modFiring.advance

/-- An instruction that changes only the running actor. -/
theorem trapsOrKeeps_modActor (r a : Nat) (f : Actor → Actor) : TrapsOrKeeps i s (.next (s.modActor r a f).advance) :=
  trapsOrKeeps_next ((State.quiet_self canon).of_cores (s.modActor_cores ..)).advance

theorem State.quiet_csrWrite (n : Nat) (v : Dw) : s.Quiet (s.csrWrite n v) := by
  have start := State.quiet_self canon
  unfold State.csrWrite
  dsimp only
  split
  · exact start.setCore ⟨rfl, rfl, id⟩
  · exact start.setCore ⟨rfl, rfl, id⟩
  · exact start.setCore ⟨rfl, rfl, id⟩
  · exact start.setCore ⟨rfl, rfl, id⟩
  · exact start.setCore ⟨rfl, rfl, id⟩
  · exact start.setCore ⟨rfl, rfl, id⟩
  · exact start.of_cores (s.modRegion_cores ..)
  · exact start.of_cores (s.modActor_cores ..)
  · exact start.of_cores (s.modActor_cores ..)
  · exact start.of_cores (s.modRegion_cores ..)
  · exact start

theorem trapsOrKeeps_csrr (g : Reg) (c : BitVec 12) : TrapsOrKeeps (.csrr g c) s (execCsrr g c s) := by
  unfold execCsrr
  split
  · exact trapsOrKeeps_trapNow _ _
  · exact trapsOrKeeps_retire canon (State.quiet_self canon) (List.mem_singleton_self _) _

theorem trapsOrKeeps_csrw (a : Reg) (c : BitVec 12) : TrapsOrKeeps i s (execCsrw a c s) := by
  unfold execCsrw
  split
  · exact trapsOrKeeps_trapNow _ _
  · exact trapsOrKeeps_next (State.quiet_csrWrite canon _ _).advance

theorem trapsOrKeeps_csrx (g a : Reg) (c : BitVec 12) : TrapsOrKeeps (.csrx g a c) s (execCsrx g a c s) := by
  unfold execCsrx
  split
  · exact trapsOrKeeps_trapNow _ _
  · exact trapsOrKeeps_retire canon (State.quiet_csrWrite canon _ _) (List.mem_singleton_self _) _

theorem trapsOrKeeps_time {g : Reg} (fits : g.toNat ≤ 30) : TrapsOrKeeps (.time g) s (execTime g s) := by
  refine trapsOrKeeps_setRegs canon (State.quiet_self canon) (by simp; omega) fun j hj => ?_
  simp only [List.length_cons, List.length_nil] at hj
  obtain rfl | rfl : j = 0 ∨ j = 1 := by omega
  · exact List.mem_cons_self
  · exact List.mem_cons_of_mem _ List.mem_cons_self

/-- ERET: only a handler may return, and only to the mode that it came from. -/
theorem trapsOrKeeps_eret : TrapsOrKeeps i s (execEret s) := by
  unfold execEret
  dsimp only
  split
  · exact trapsOrKeeps_privileged
  · next system =>
    split
    · exact trapsOrKeeps_next (State.quiet_self canon).fatalHere
    · exact trapsOrKeeps_next ((State.quiet_self canon).setCore ⟨rfl, rfl, fun _ => by simpa using system⟩)

theorem trapsOrKeeps_halt : TrapsOrKeeps i s (execHalt s) := by
  unfold execHalt
  split
  · exact trapsOrKeeps_next (State.quiet_self canon).fatalHere
  · exact trapsOrKeeps_next ((State.quiet_self canon).retireRunning.of_cores (State.modRegion_cores ..))

theorem trapsOrKeeps_mxsave : TrapsOrKeeps i s (execMxsave s) := by
  have start := State.quiet_self canon
  unfold execMxsave
  dsimp only
  split
  · exact trapsOrKeeps_privileged
  · split
    · exact trapsOrKeeps_next start.advance
    · split
      · split
        · exact trapsOrKeeps_next (State.Quiet.withTstat start _)
        · split
          · exact trapsOrKeeps_next start.fatalHere
          · next written =>
            exact trapsOrKeeps_next (State.Quiet.withTstat
              ((start.of_cores (State.areaWrite_cores written)).of_cores (State.modIssued_cores ..)) _)
      · exact trapsOrKeeps_next (State.Quiet.withTstat start _)

theorem trapsOrKeeps_mxrest : TrapsOrKeeps i s (execMxrest s) := by
  have start := State.quiet_self canon
  unfold execMxrest
  dsimp only
  split
  · exact trapsOrKeeps_privileged
  · split
    · exact trapsOrKeeps_next (State.quiet_refuseMatrix canon)
    · split
      · split
        · exact trapsOrKeeps_next start.modFiring
        · split
          · exact trapsOrKeeps_next (State.Quiet.withTstat start _)
          · split
            · exact trapsOrKeeps_next start.fatalHere
            · split
              · exact trapsOrKeeps_next start.fatalHere
              · refine trapsOrKeeps_next (State.Quiet.withTstat (State.Quiet.of_cores ?_ (State.modIssued_cores ..)) _)
                exact start.modTile (Tile.quiet_loadAcc _ _ _)
      · exact trapsOrKeeps_next (State.Quiet.withTstat start _)

end

end Sys2Proof.Machine

namespace Sys2Proof.Machine

open Sys2Proof.Safety

/-! ### Every scalar instruction -/

/-- Every scalar instruction traps at its own state or keeps what it does not name. -/
theorem trapsOrKeeps_exec {i : Instr} {s : State} (canon : Canon s) (wf : i.wf = true) {w : Word} (scalar : encode i = some w) :
    TrapsOrKeeps i s (exec i s) := by
  cases i with
  | add | sub | and | or | xor | andn | shl | shr | sar | rotr | min | max | minu | maxu | slt | sltu | seq
  | clz | ctz | popc | mul | mulh | mulhu | div | divu | rem | remu
  | shli | shri | sari | rotri
  | sel | ins | exts | extu | addi | andi | ori | xori | slti | ldhi | addpc
  | fsgnCp | fsgnNeg | fsgnXor | chq | krd => exact trapsOrKeeps_value canon rfl
  | fadd | fsub | fmul | fma | fcvt | fmin | fmax | fcmpEq | fcmpLt | fcmpLe | fcmpUo | frcp | frsq | fexp2 | flog2 =>
    exact trapsOrKeeps_float canon rfl
  | nop => exact trapsOrKeeps_next (State.quiet_self canon).advance
  | br => exact trapsOrKeeps_br canon ..
  | loop => exact trapsOrKeeps_loop canon ..
  | jmp => exact trapsOrKeeps_goto canon ..
  | call => exact trapsOrKeeps_call canon ..
  | ret => exact trapsOrKeeps_ret canon ..
  | jtab => exact trapsOrKeeps_jtab canon ..
  | callr => exact trapsOrKeeps_callr canon ..
  | endTask | endrTask => exact trapsOrKeeps_end canon _
  | ldl => exact trapsOrKeeps_ldl canon ..
  | stl => exact trapsOrKeeps_stl canon ..
  | ldg | atom | cas | futGet | futPut | futClear | cwb => exact trapsOrKeeps_request canon ..
  | stg => exact trapsOrKeeps_stg canon ..
  | prf => exact trapsOrKeeps_prf canon ..
  | cinv => exact trapsOrKeeps_cinv canon ..
  | ord => exact trapsOrKeeps_ord canon ..
  | recv => exact trapsOrKeeps_recv canon wf
  | peek => exact trapsOrKeeps_peek canon wf
  | send | sendn | sende | senderr | hdr => exact trapsOrKeeps_send canon ..
  | fwd => exact trapsOrKeeps_fwd canon ..
  | rsv => exact trapsOrKeeps_rsv canon ..
  | wemit => exact trapsOrKeeps_wemit canon ..
  | wrsv => exact trapsOrKeeps_wrsv canon ..
  | issue => exact trapsOrKeeps_issue canon ..
  | barset => exact trapsOrKeeps_barset canon ..
  | baradd => exact trapsOrKeeps_baradd canon ..
  | abload | abswap | abdrop | abqry => exact trapsOrKeeps_abRequest canon ..
  | cfgload | cfgloadRestore => exact trapsOrKeeps_askLoad canon ..
  | place => exact trapsOrKeeps_place canon ..
  | mark => exact trapsOrKeeps_mark canon ..
  | pwreq => exact trapsOrKeeps_pwreq canon ..
  | pwrel => exact trapsOrKeeps_pwrel canon
  | prio | kwr => exact trapsOrKeeps_modActor canon ..
  | csrr => exact trapsOrKeeps_csrr canon ..
  | csrw => exact trapsOrKeeps_csrw canon ..
  | csrx => exact trapsOrKeeps_csrx canon ..
  | time =>
    simp only [Instr.wf, Bool.and_eq_true, decide_eq_true_eq] at wf
    exact trapsOrKeeps_time canon wf.2
  | trap | brk => exact trapsOrKeeps_trapNow _ _
  | eret => exact trapsOrKeeps_eret canon
  | halt => exact trapsOrKeeps_halt canon
  | mxsave => exact trapsOrKeeps_mxsave canon
  | mxrest => exact trapsOrKeeps_mxrest canon
  | _ => cases scalar

theorem trapsOrKeeps_of_decode {i : Instr} {w : Word} {s : State} (canon : Canon s) (word : decode w = .ok i) :
    TrapsOrKeeps i s (exec i s) :=
  let ⟨scalar, wf⟩ := faithful_decode w i word
  trapsOrKeeps_exec canon wf scalar

/-! ### A trap and the register file (R218, R220) -/

/-- A trap enters system mode or ends the launch, and leaves every register and scratchpad as it was. -/
theorem State.takeTrap_keeps {s : State} (canon : Canon s) (code : BitVec 8) (v : Dw) (k : Nat) :
    ((s.takeTrap code v).tile k).core.g = (s.tile k).core.g ∧ ((s.takeTrap code v).tile k).core.sb = (s.tile k).core.sb ∧
    ((s.takeTrap code v).tile k).spad = (s.tile k).spad := by
  have quiet {t : State} (h : s.Quiet t) :
      (t.tile k).core.g = (s.tile k).core.g ∧ (t.tile k).core.sb = (s.tile k).core.sb ∧ (t.tile k).spad = (s.tile k).spad :=
    ⟨(h.tile k).core.g, (h.tile k).core.sb, (h.tile k).spad⟩
  obtain ⟨-, -, e⟩ | ⟨-, -, r, -, e⟩ | ⟨-, -, e⟩ := s.takeTrap_cases code v <;> rw [e]
  · exact quiet (State.quiet_self canon).fatalHere
  · exact quiet (State.quiet_self canon).fatalIn
  · by_cases hk : k = s.focus
    · subst hk
      rw [State.tile_setCore_focus canon.tiles]
      exact ⟨rfl, rfl, rfl⟩
    · rw [State.tile_setCore_other canon.tiles _ hk]
      exact ⟨rfl, rfl, rfl⟩

/-- Settles O57: an instruction that traps leaves every register, and any other one keeps those that it does not name. -/
theorem onlyNamedRegisters : Obligations.OnlyNamedRegisters := by
  intro i w s t canon word e
  obtain ⟨code, v, rfl⟩ | ⟨core, other, spad⟩ := (trapsOrKeeps_of_decode canon word).answers t e
  · have keeps := State.takeTrap_keeps canon code v
    obtain ⟨g, sb, -⟩ := keeps s.focus
    exact ⟨fun _ _ => ⟨by rw [g], by rw [sb]⟩, fun _ _ => by rw [sb], fun k _ => ⟨(keeps k).1, (keeps k).2.1⟩,
      fun k => .inl (keeps k).2.2⟩
  · exact ⟨fun r hr => ⟨core.g r hr, core.sb r hr⟩, core.bank, fun k hk => ⟨(other k hk).g, (other k hk).sb⟩, spad⟩

/-- Settles O58: an instruction that does not trap does not enter system mode. -/
theorem systemModeByTrap : Obligations.SystemModeByTrap := by
  intro i w s t canon word graph e system
  obtain trap | keeps := (trapsOrKeeps_of_decode canon word).answers t e
  · exact trap
  · exact absurd (keeps.core.graph system) (by simpa [State.core] using graph)

end Sys2Proof.Machine
